-- ==== Sys2Proof/Word.lean ====
section
/-! DEFINITION. The word types of the Luaral P1 (spec/00_scope.md R3, R8; spec/01_organisation.md R21, R24). -/

namespace Sys2Proof

/-- A 64-bit word: a scalar register, a doubleword of memory, most control registers. -/
abbrev Word := BitVec 64

/-- The smallest addressable unit of memory (R3). -/
abbrev Byte := BitVec 8

/-- A virtual byte address, and the program counter (R30, R166). -/
abbrev VAddr := BitVec 52

/-- One vector register, 512 bytes (R213). -/
abbrev VReg := BitVec 4096

/-- One mask register, one bit for each of up to 1,024 elements (R213). -/
abbrev Mask := BitVec 1024

/-- One 64-byte instruction line, byte 0 in the low bits (R161). -/
abbrev Line := BitVec 512

end Sys2Proof
end

