-- ==== Sys2Proof/Syntax.lean ====
section
/-! DEFINITION. The steps of the Luaral P1: ONE inductive, one constructor for each row of spec/opcode_table.json.
The rows with an encoding are the Plaso instructions (spec/07_encoding.md to 12_system.md); the other rows are the
events of the module's other parties (spec/95_what_each_step_holds.md: each row is one whole and indivisible step), and
their operands say which agent, line, queue or strand the event concerns and what the outside world supplies. -/

namespace Sys2Proof

/-- The two-source scalar form with a 2-byte tail (R193): F holds IMM, TY, SAT. -/
structure TwoSrc2 where
  a : BitVec 4
  b : BitVec 4
  c : BitVec 4
  imm : Bool
  ty : BitVec 2
  sat : Bool
  k8 : BitVec 8
  deriving DecidableEq, Repr

/-- The two-source scalar form with a 4-byte tail (R193). -/
structure TwoSrc4 where
  a : BitVec 4
  b : BitVec 4
  ty : BitVec 2
  sat : Bool
  i24 : BitVec 24
  deriving DecidableEq, Repr

/-- The high word of an 8-byte vector tail (R172). -/
structure VecExt where
  vs3 : BitVec 5
  rnd : BitVec 3
  sat : Bool
  i20 : BitVec 20
  deriving DecidableEq, Repr

/-- The operand fields of a vector instruction (R172, R215); `ext` is present with the 8-byte tail. -/
structure VecOps where
  a : BitVec 4
  b : BitVec 4
  vd : BitVec 5
  vs1 : BitVec 5
  vs2 : BitVec 5
  m : BitVec 3
  t : BitVec 4
  src : BitVec 2
  x : BitVec 4
  ext : Option VecExt
  deriving DecidableEq, Repr

/-- The operand fields of a memory-class instruction (R173); `hi` is I32 of the 8-byte tail. -/
structure MemOps where
  a : BitVec 4
  dst : BitVec 5
  lease : BitVec 3
  ord : BitVec 3
  scope : BitVec 3
  t : BitVec 4
  off : BitVec 14
  hi : Option (BitVec 32)
  deriving DecidableEq, Repr

/-- The operand fields of an engine or system instruction (R259, R288); `hi` is I32 of the 8-byte tail. -/
structure EngOps where
  a : BitVec 4
  b : BitVec 4
  c : BitVec 4
  d : BitVec 4
  e : BitVec 4
  x : BitVec 16
  hi : Option (BitVec 32)
  deriving DecidableEq, Repr

/-- A quad's engines (R12). -/
inductive Engine where
  | ashlar
  | sett
  | hod
  deriving DecidableEq, Repr

/-- A party outside the compute cores that accesses a control window (R26, R326, R329): firmware, the hub hypervisor
(a hart in HS or M mode), a CXL host through its BARs, or a hart below HS mode. -/
inductive Party where
  | firmware
  | hypervisor
  | host (port : Nat)
  | hart (n : Nat)
  deriving DecidableEq, Repr

/-- A claim of a launch of another device of the pod on a pod barrier (R41). -/
structure PodClaim where
  device : Nat
  launch : Nat
  index : Nat
  e : BitVec 16
  tenant : Nat
  deriving DecidableEq, Repr

/-- What the barrier network brings (R39 to R43): a flip that reaches the waiter of a slot; and from another device of the pod a claim on
its way, its settlement at the pod root, an arrival, or the end of a joined launch. -/
inductive BarrierMsg where
  | wake (slot : Nat)
  | claim (c : PodClaim)
  | settle (index : Nat)
  | arrival (device index : Nat)
  | release (device launch : Nat)
  deriving DecidableEq, Repr

/-- A message that may be parked in an inbox or refused (R81, R377): a store of a core's queue, a piece of an `HSEND`,
or a migration packet bound for a core. -/
inductive MsgRef where
  | store (core id : Nat)
  | piece (agent seq piece : Nat)
  | packet (core : Nat)
  deriving DecidableEq, Repr

/-- What a host programs in a port's configuration space. -/
inductive HostConfig where
  /-- The base of the port's HDM decoder (R325). -/
  | hdmBase
  /-- Base and size of the window FWWIN0 or FWWIN1 of the port (R345). -/
  | windowBase (w : Nat)
  | windowSize (w : Nat)
  deriving DecidableEq, Repr

/-- A host's request to device memory, by host physical address (R134, R325). -/
inductive HostReq where
  | read (hpa : Nat)
  | own (hpa : Nat)
  | writeBack (hpa : Nat) (data : List Byte)
  | evict (hpa : Nat)
  /-- A read through BAR0, or of the mailbox through BAR2 (R326). -/
  | barRead (mailbox : Bool) (off n : Nat)
  /-- What the host programs in the port's configuration space, and its read of the filter's counter there (R325, R345). -/
  | configWrite (r : HostConfig) (v : Nat)
  | filterCount
  deriving DecidableEq, Repr

/-- Private state that an uncorrectable error may strike (R386). -/
inductive PrivateTarget where
  | scalar (slot : Nat) (r : BitVec 4)
  | vector (slot : Nat) (r : BitVec 5)
  | predicates (slot : Nat)
  | mask (slot : Nat) (m : BitVec 3)
  | loopCounter (slot : Nat) (n : Nat)
  | special (slot : Nat)
  | localStore (core piece : Nat)
  | accumulator (agent bank row col : Nat)
  | settCell (agent cell : Nat)
  deriving DecidableEq, Repr

/-- `continue at`: the session that gives it, of a tenant or of device debug when none, and the time (R370). -/
structure Release where
  session : Option Nat
  at_ : Nat
  deriving DecidableEq, Repr

/-- A request of `ovq` at a debug port (R347): the tenants whose debug the requester holds are those of the open
sessions. -/
inductive DebugReq where
  | readScalar (slot : Nat) (r : BitVec 4)
  | writeScalar (slot : Nat) (r : BitVec 4) (v : Word)
  | readPc (slot : Nat)
  | writePc (slot : Nat) (v : VAddr)
  | readMemory (asid : Nat) (va : Nat)
  | writeMemory (asid : Nat) (va : Nat) (v : Byte)
  /-- n bytes at an aligned physical address. -/
  | readPhysical (pa n : Nat)
  | writePhysical (pa n : Nat) (v : Word)
  | readCourse (offset : Nat)
  | writeCourse (offset : Nat) (v : Word)
  /-- Eight bytes of control block 2 (R137). -/
  | readSlice (offset : Nat)
  | writeSlice (offset : Nat) (v : Word)
  /-- Under the debug session of a tenant, or device debug when none. -/
  | setBreak (tenant : Option Nat) (core : Nat) (addr : VAddr)
  | deleteBreaks (tenant : Option Nat) (core : Nat)
  /-- A special register, by its K8 number. -/
  | readSpecial (slot : Nat) (k8 : BitVec 8)
  | writeSpecial (slot : Nat) (k8 : BitVec 8) (v : Word)
  /-- The predicate word. -/
  | readPredicates (slot : Nat)
  | writePredicates (slot : Nat) (v : BitVec 8)
  /-- 64 bits of a mask register, or of a vector register, from bit 64 × i. -/
  | readMask (slot : Nat) (m : BitVec 3) (i : Nat)
  | writeMask (slot : Nat) (m : BitVec 3) (i : Nat) (v : Word)
  | readVector (slot : Nat) (r : BitVec 5) (i : Nat)
  | writeVector (slot : Nat) (r : BitVec 5) (i : Nat) (v : Word)
  /-- An accumulator, the flags of a bank, the `SSTAT` word, the i-th Sett command of the footprint unit, and the key bits and the position of a
  cell of Sett. -/
  | readAcc (agent bank row col : Nat)
  | readBankFlags (agent bank : Nat)
  | readSettCmd (agent i : Nat)
  | readSettState (agent : Nat)
  | readSettCell (agent cell : Nat) (position : Bool)
  /-- 64 bits of a tile record, a barrier, and 64 bits of a directory entry. -/
  | readTile (tid i : Nat)
  | readBarrier (level inst index : Nat)
  | readDirectory (region i : Nat)
  deriving DecidableEq, Repr

/-- An AMO on QTAIL: `amoadd.d` or `amoswap.d`, and its ordering bits (R48, R151). -/
structure QtailAmo where
  add : Bool
  aq : Bool
  rl : Bool
  deriving DecidableEq, Repr

/-- A check of a structure: whether it finds an error that cannot be corrected, the agent that reads, and the tenant of the request that
met it, none for patrol (R383, R384, R399). -/
structure Check where
  uncorrectable : Bool
  agent : Nat
  finder : Option Nat
  deriving DecidableEq, Repr

/-- Images that dies present at boot in place of the vendor's, by die in TTRIP order. -/
abbrev Images := List (Nat × List Byte)

/-- Every step of the opcode table: the instructions in the table's order, then the events that the module's own units come to
(Machine/Schedule.lean), then the other parties' events; the docstrings are the table's own summaries with the rule. -/
inductive Instr where
  /-- Does nothing. (R170) -/
  | nop
  /-- gA := gA + gB as s64, with no tail. (R193) -/
  | addHeadOnly (a b : BitVec 4)
  /-- gA := gB + gC or gB + K8, with the type and saturation taken from F. (R193) -/
  | addTl2 (o : TwoSrc2)
  /-- gA := gB + sign_extend(I24). (R193) -/
  | addTl4 (o : TwoSrc4)
  /-- gA := gA - gB as s64. (R193) -/
  | subHeadOnly (a b : BitVec 4)
  /-- gA := gB - second source, with type and saturation. (R193) -/
  | subTl2 (o : TwoSrc2)
  /-- gA := gB - sign_extend(I24). (R193) -/
  | subTl4 (o : TwoSrc4)
  /-- gA := gA AND gB. (R193) -/
  | andHeadOnly (a b : BitVec 4)
  /-- gA := gB AND second source. (R193) -/
  | andTl2 (o : TwoSrc2)
  /-- gA := gB AND sign_extend(I24). (R193) -/
  | andTl4 (o : TwoSrc4)
  /-- gA := gA OR gB. (R193) -/
  | orHeadOnly (a b : BitVec 4)
  /-- gA := gB OR second source. (R193) -/
  | orTl2 (o : TwoSrc2)
  /-- gA := gB OR sign_extend(I24). (R193) -/
  | orTl4 (o : TwoSrc4)
  /-- gA := gA XOR gB. (R193) -/
  | xorHeadOnly (a b : BitVec 4)
  /-- gA := gB XOR second source. (R193) -/
  | xorTl2 (o : TwoSrc2)
  /-- gA := gB XOR sign_extend(I24). (R193) -/
  | xorTl4 (o : TwoSrc4)
  /-- gA := gA shifted left by gB. (R193) -/
  | shlHeadOnly (a b : BitVec 4)
  /-- Shift left, with type and saturation. (R193) -/
  | shlTl2 (o : TwoSrc2)
  /-- Shift left by an immediate. (R193) -/
  | shlTl4 (o : TwoSrc4)
  /-- Logical shift right of gA by gB. (R193) -/
  | shrHeadOnly (a b : BitVec 4)
  /-- Logical shift right, typed. (R193) -/
  | shrTl2 (o : TwoSrc2)
  /-- Logical shift right by an immediate. (R193) -/
  | shrTl4 (o : TwoSrc4)
  /-- Arithmetic shift right of gA by gB. (R193) -/
  | sarHeadOnly (a b : BitVec 4)
  /-- Arithmetic shift right, typed. (R193) -/
  | sarTl2 (o : TwoSrc2)
  /-- Arithmetic shift right by an immediate. (R193) -/
  | sarTl4 (o : TwoSrc4)
  /-- Rotate left by a register or K8. (R193) -/
  | rolTl2 (o : TwoSrc2)
  /-- Rotate left by an immediate. (R193) -/
  | rolTl4 (o : TwoSrc4)
  /-- gA := gB. (R197) -/
  | mov (a b : BitVec 4)
  /-- gA := gA × gB. (R193) -/
  | mulHeadOnly (a b : BitVec 4)
  /-- Typed multiply by a register or K8. (R193) -/
  | mulTl2 (o : TwoSrc2)
  /-- Multiply by an immediate. (R193) -/
  | mulTl4 (o : TwoSrc4)
  /-- High half of the typed product. (R194) -/
  | mulh (a b c : BitVec 4) (ty : BitVec 2)
  /-- Quotient rounded toward zero; division by zero gives a fixed value and DZ. (R194) -/
  | div (a b c : BitVec 4) (ty : BitVec 2)
  /-- Remainder with the sign of x; division by zero gives x and DZ. (R194) -/
  | rem (a b c : BitVec 4) (ty : BitVec 2)
  /-- Typed minimum of gB and gC. (R195) -/
  | minTl2 (a b c : BitVec 4) (ty : BitVec 2)
  /-- Typed minimum with an immediate. (R195) -/
  | minTl4 (a b : BitVec 4) (ty : BitVec 2) (i24 : BitVec 24)
  /-- Typed maximum of gB and gC. (R195) -/
  | maxTl2 (a b c : BitVec 4) (ty : BitVec 2)
  /-- Typed maximum with an immediate. (R195) -/
  | maxTl4 (a b : BitVec 4) (ty : BitVec 2) (i24 : BitVec 24)
  /-- gA := gB AND NOT gC. (R195) -/
  | andnTl2 (a b c : BitVec 4)
  /-- gA := gB AND NOT immediate. (R195) -/
  | andnTl4 (a b : BitVec 4) (i24 : BitVec 24)
  /-- Counts the leading zero bits. (R196) -/
  | clz (a b t : BitVec 4)
  /-- Counts the trailing zero bits. (R196) -/
  | ctz (a b t : BitVec 4)
  /-- Counts the set bits. (R196) -/
  | popc (a b t : BitVec 4)
  /-- Reverses the bits. (R196) -/
  | brev (a b t : BitVec 4)
  /-- Reverses the bytes. (R196) -/
  | bswap (a b t : BitVec 4)
  /-- Sign-extends from n bits. (R196) -/
  | sext (a b : BitVec 4) (n : BitVec 8)
  /-- Zero-extends from n bits. (R196) -/
  | zext (a b : BitVec 4) (n : BitVec 8)
  /-- Loads sign_extend(K8). (R197) -/
  | liTl2 (a : BitVec 4) (k8 : BitVec 8)
  /-- Loads sign_extend(I24). (R197) -/
  | liTl4 (a : BitVec 4) (i24 : BitVec 24)
  /-- Loads a 64-bit literal. (R197) -/
  | limm (a : BitVec 4) (lit : Word)
  /-- Address addition of gB to gA that keeps the tag. (R198) -/
  | addaHeadOnly (a b : BitVec 4)
  /-- Address addition of a register or K8 that keeps the tag. (R198) -/
  | addaTl2 (o : TwoSrc2)
  /-- Address addition of I24 that keeps the tag. (R198) -/
  | addaTl4 (o : TwoSrc4)
  /-- Sets the tag of gB from gC. (R199) -/
  | tagTl2 (a b c : BitVec 4)
  /-- Sets the tag of gB from FMT and BLOG in I24. (R199) -/
  | tagTl4 (a b : BitVec 4) (fmt : BitVec 6) (blog : BitVec 4)
  /-- Clears the tag bits. (R199) -/
  | untag (a b : BitVec 4)
  /-- Extracts FMT and BLOG. (R199) -/
  | tagof (a b : BitVec 4)
  /-- Address of the element whose index is in gC. (R200) -/
  | eidxTl2 (a b c : BitVec 4)
  /-- Address of the element whose index is an immediate. (R200) -/
  | eidxTl4 (a b : BitVec 4) (i24 : BitVec 24)
  /-- Writes predicate pd from a typed register compare. (R201) -/
  | cmp (p : BitVec 3) (b c t : BitVec 4) (cc : BitVec 3)
  /-- Writes pd from a typed compare with K8. (R201) -/
  | cmpiTl2 (p : BitVec 3) (b t : BitVec 4) (cc : BitVec 3) (k8 : BitVec 8)
  /-- Writes pd from a typed compare with I24. (R201) -/
  | cmpiTl4 (p : BitVec 3) (b t : BitVec 4) (cc : BitVec 3) (i24 : BitVec 24)
  /-- Predicate logic through a 4-bit LUT. (R202) -/
  | plog (pd pa pb : BitVec 3) (lut : BitVec 4)
  /-- Selects gB or gC by a predicate. (R202) -/
  | sel (a b c : BitVec 4) (p : BitVec 3) (neg : Bool)
  /-- Copies the predicate word to gA. (R202) -/
  | pmovToScalar (a : BitVec 4)
  /-- Sets p1-p7 from gB. (R202) -/
  | pmovFromScalar (b : BitVec 4)
  /-- Unconditional relative branch. (R203) -/
  | br (i24 : BitVec 24)
  /-- Branches if the predicate, possibly negated, holds. (R203) -/
  | bp (p : BitVec 3) (neg : Bool) (i24 : BitVec 24)
  /-- Branches if gA is zero. (R203) -/
  | bz (a : BitVec 4) (i24 : BitVec 24)
  /-- Branches if gA is nonzero. (R203) -/
  | bnz (a : BitVec 4) (i24 : BitVec 24)
  /-- Shifts the window and branches relative. (R190) -/
  | call (i24 : BitVec 24)
  /-- Restores the caller's window and returns. (R190) -/
  | ret
  /-- Shifts the window and branches to gB. (R203) -/
  | callr (b : BitVec 4)
  /-- Jumps to gB. (R203) -/
  | jmpr (b : BitVec 4)
  /-- Pushes a loop level with the count in gB. (R207) -/
  | loop (b : BitVec 4) (k8 : BitVec 8)
  /-- Pushes a loop level with an immediate count. (R207) -/
  | loopi (count : BitVec 16) (n : BitVec 8)
  /-- Leaves the innermost loop if the predicate holds. (R208) -/
  | lbrk (p : BitVec 3) (neg : Bool)
  /-- Writes every held frame to memory. (R205) -/
  | flushw
  /-- Flushes the window, then switches the window stack. (R205) -/
  | setws (b c : BitVec 4)
  /-- Reads a special register. (R210) -/
  | srd (a : BitVec 4) (k8 : BitVec 8)
  /-- Writes a special register. (R210) -/
  | swr (b : BitVec 4) (k8 : BitVec 8)
  /-- Makes the strand not ready for 8 × K8 cycles. (R210) -/
  | yield (k8 : BitVec 8)
  /-- Elementwise add. (R220) -/
  | vadd (o : VecOps)
  /-- Elementwise subtract. (R220) -/
  | vsub (o : VecOps)
  /-- Elementwise multiply. (R220) -/
  | vmul (o : VecOps)
  /-- Fused multiply-add. (R220) -/
  | vfma (o : VecOps)
  /-- Fused multiply-subtract. (R220) -/
  | vfms (o : VecOps)
  /-- Negated fused multiply-add. (R220) -/
  | vfnma (o : VecOps)
  /-- Elementwise minimum. (R221) -/
  | vmin (o : VecOps)
  /-- Elementwise maximum. (R221) -/
  | vmax (o : VecOps)
  /-- Number-preferring minimum. (R221) -/
  | vminn (o : VecOps)
  /-- Number-preferring maximum. (R221) -/
  | vmaxn (o : VecOps)
  /-- Bitwise AND. (R220) -/
  | vand (o : VecOps)
  /-- Bitwise OR. (R220) -/
  | vor (o : VecOps)
  /-- Bitwise XOR. (R220) -/
  | vxor (o : VecOps)
  /-- Elementwise shift left. (R220) -/
  | vshl (o : VecOps)
  /-- Elementwise logical shift right. (R220) -/
  | vshr (o : VecOps)
  /-- Elementwise arithmetic shift right. (R220) -/
  | vsar (o : VecOps)
  /-- Absolute value. (R222) -/
  | vabs (o : VecOps)
  /-- Negation. (R222) -/
  | vneg (o : VecOps)
  /-- Compares elements into a mask. (R222) -/
  | vcmp (o : VecOps)
  /-- Selects elements by mask. (R222) -/
  | vsel (o : VecOps)
  /-- Mask logic through a LUT. (R223) -/
  | mlog (o : VecOps)
  /-- Counts the set mask bits into gA. (R223) -/
  | vpopm (o : VecOps)
  /-- Writes the prefix count of mask bits. (R223) -/
  | viota (o : VecOps)
  /-- Converts elements between types, with an optional scale. (R224) -/
  | vcvt (o : VecOps)
  /-- Widening add. (R225) -/
  | vwadd (o : VecOps)
  /-- Widening multiply. (R225) -/
  | vwmul (o : VecOps)
  /-- Widening multiply-accumulate. (R225) -/
  | vwmacc (o : VecOps)
  /-- Four-term dot product into wider elements. (R225) -/
  | vdot4 (o : VecOps)
  /-- Reciprocal estimate. (R226) -/
  | vrcp (o : VecOps)
  /-- Reciprocal square-root estimate. (R226) -/
  | vrsq (o : VecOps)
  /-- Reciprocal refinement step. (R228) -/
  | vrcps (o : VecOps)
  /-- Reciprocal square-root refinement step. (R228) -/
  | vrsqs (o : VecOps)
  /-- Correctly rounded square root. (R227) -/
  | vsqrt (o : VecOps)
  /-- Correctly rounded division. (R227) -/
  | vdiv (o : VecOps)
  /-- Base-2 exponential. (R229) -/
  | vexp2 (o : VecOps)
  /-- Base-2 logarithm. (R229) -/
  | vlog2 (o : VecOps)
  /-- Hyperbolic tangent. (R229) -/
  | vtanh (o : VecOps)
  /-- Sum reduction over a fixed tree. (R230) -/
  | vredsum (o : VecOps)
  /-- Maximum reduction. (R230) -/
  | vredmax (o : VecOps)
  /-- Minimum reduction. (R230) -/
  | vredmin (o : VecOps)
  /-- Sequential prefix scan. (R231) -/
  | vscan (o : VecOps)
  /-- Permutes elements through a table. (R232) -/
  | vperm (o : VecOps)
  /-- Slides elements by an offset. (R232) -/
  | vslide (o : VecOps)
  /-- Compresses the active elements. (R233) -/
  | vcomp (o : VecOps)
  /-- Broadcasts a scalar or immediate. (R234) -/
  | vbcast (o : VecOps)
  /-- Moves one element to or from a scalar register. (R234) -/
  | vmovs (o : VecOps)
  /-- Sorted-set intersection with advance counts. (R235) -/
  | vsisx (o : VecOps)
  /-- Exact fixed-point summation into an s64 element. (R236) -/
  | vxsum (o : VecOps)
  /-- Scalar load. (R242) -/
  | ld (o : MemOps)
  /-- Scalar store. (R242) -/
  | st (o : MemOps)
  /-- Load from private local store. (R242) -/
  | ldl (o : MemOps)
  /-- Store to private local store. (R242) -/
  | stl (o : MemOps)
  /-- Contiguous vector load. (R243) -/
  | vld (o : MemOps)
  /-- Contiguous vector store. (R243) -/
  | vst (o : MemOps)
  /-- Strided vector load. (R243) -/
  | vlds (o : MemOps)
  /-- Strided vector store. (R243) -/
  | vsts (o : MemOps)
  /-- Tagged-array decoding load. (R244) -/
  | vldt (o : MemOps)
  /-- Bounded indexed gather. (R245) -/
  | vgath (o : MemOps)
  /-- Bounded indexed scatter. (R245) -/
  | vscat (o : MemOps)
  /-- Atomic add. (R247) -/
  | aadd (o : MemOps)
  /-- Atomic AND. (R247) -/
  | aand (o : MemOps)
  /-- Atomic OR. (R247) -/
  | aor (o : MemOps)
  /-- Atomic XOR. (R247) -/
  | axor (o : MemOps)
  /-- Atomic minimum. (R247) -/
  | amin (o : MemOps)
  /-- Atomic maximum. (R247) -/
  | amax (o : MemOps)
  /-- Atomic swap. (R247) -/
  | aswap (o : MemOps)
  /-- Atomic compare-and-swap. (R247) -/
  | acas (o : MemOps)
  /-- Atomic floating-point add. (R247) -/
  | afadd (o : MemOps)
  /-- Ordering fence of a kind and scope. (R248) -/
  | fence (o : MemOps)
  /-- Waits until a location differs from an expected value. (R249) -/
  | mwait (o : MemOps)
  /-- Prefetch hint. (R250) -/
  | pref (o : MemOps)
  /-- Flushes a data line, code lines, or both. (R251) -/
  | cflush (o : MemOps)
  /-- Writes a whole 128-byte line of zeros. (R252) -/
  | lzero (o : MemOps)
  /-- Arrives at a barrier and returns the phase. (R253) -/
  | bara (o : MemOps)
  /-- Waits for a barrier phase to change. (R253) -/
  | barw (o : MemOps)
  /-- Arrives at a barrier, then waits. (R253) -/
  | bar (o : MemOps)
  /-- Claims a barrier with its expected count. (R253) -/
  | barinit (o : MemOps)
  /-- Declares a tile. (R255) -/
  | tdecl (o : MemOps)
  /-- Frees a tile by demoting it. (R256) -/
  | tfree (o : MemOps)
  /-- Forwards a tile to another quad. (R256) -/
  | tfwd (o : MemOps)
  /-- Asks to move the strand to another quad. (R258) -/
  | migr (o : MemOps)
  /-- Requests an Ashlar shape grant. (R268) -/
  | shape (o : EngOps)
  /-- Zeroes the placed region of a bank. (R274) -/
  | mzero (o : EngOps)
  /-- Matrix multiply-accumulate. (R272) -/
  | mma (o : EngOps)
  /-- Issues a bond-joint matrix operation. (R273) -/
  | mjoint (o : EngOps)
  /-- Loads accumulator values from scratchpad. (R274) -/
  | mld (o : EngOps)
  /-- Stores a bank region and writes a status word. (R275) -/
  | mst (o : EngOps)
  /-- Branches on bits of a tile status word. (R276) -/
  | tstb (o : EngOps)
  /-- Loads cells into Sett. (R278) -/
  | sload (o : EngOps)
  /-- Runs sort phases on Sett. (R279) -/
  | ssort (o : EngOps)
  /-- Reads Sett cells out to scratchpad. (R280) -/
  | sstore (o : EngOps)
  /-- Waits for earlier Sett commands, then reads the Sett state. (R277) -/
  | sstat (o : EngOps)
  /-- Hod strided copy, with optional decode. (R282) -/
  | hcopy (o : EngOps)
  /-- Hod copy with a matrix follow-on. (R283) -/
  | hcopym (o : EngOps)
  /-- Pushes scratchpad data to another quad. (R284) -/
  | hsend (o : EngOps)
  /-- Indexed gather by the Hod. (R285) -/
  | hgath (o : EngOps)
  /-- Initialises a byte barrier. (R266) -/
  | bbinit (o : EngOps)
  /-- Waits for a byte barrier phase change. (R267) -/
  | bbwait (o : EngOps)
  /-- Tests a byte barrier phase. (R267) -/
  | bbtest (o : EngOps)
  /-- Posts a record to a launch queue. (R289) -/
  | launch (o : EngOps)
  /-- Posts a task record directly into the pending pool. (R290) -/
  | task (o : EngOps)
  /-- Enters a footprint marker. (R294) -/
  | fpdecl (o : EngOps)
  /-- Software trap. (R295) -/
  | trap (o : EngOps)
  /-- Returns from a handler. (R296) -/
  | eret (o : EngOps)
  /-- Ends the strand. (R297) -/
  | exit (o : EngOps)
  /-- Sets the register liveness record. (R299) -/
  | phintRegisters (o : EngOps)
  /-- Sets a scratchpad live or staged range. (R300) -/
  | phintRange (o : EngOps)
  /-- Invalidates translations of the strand's ASID. (R301) -/
  | tlbinv (o : EngOps)
  /-- Continues or abandons a stopped job. (R302) -/
  | fack (o : EngOps)
  /-- A 64-byte instruction line arrives in the fetch buffer and is checked for legality. (R165) -/
  | instructionLineFetch (slot : Nat)
  /-- A flip reaches the waiters after the level's delay and wakes them. (R43) -/
  | barrierWakeup (msg : BarrierMsg)
  /-- The target core accepts a context packet and the strand resumes there. (R62) -/
  | migrationPacketAccept (core : Nat)
  /-- The joint operation starts once all four members have been released. (R273) -/
  | jointStart (die bond : Nat)
  /-- The follow-on starts when its copy has fully landed. (R283) -/
  | followOnStart (agent seq : Nat)
  /-- An engine starts the oldest command that its footprint unit has released. (R263) -/
  | engineCommandStart (agent : Nat) (engine : Engine)
  /-- A Hod piece completes and lands, or faults. (R287) -/
  | hodPieceLand (agent seq piece : Nat)
  /-- The BBWAIT timeout expires. (R267) -/
  | bbwaitTimeout (slot : Nat)
  /-- A store, invalidation or restore fires an armed monitor, and the wait re-reads. (R249) -/
  | monitorFire (slot : Nat)
  /-- The MWAIT timeout expires. (R249) -/
  | mwaitTimeout (slot : Nat)
  /-- A wait on a peer window reads again every 1,024 cycles. (R249) -/
  | mwaitPoll (slot : Nat) (ext : List Byte)
  /-- The hub reads a posted record, checks it, and accepts or rejects it. (R46) -/
  | hubRecordAccept (source : Nat)
  /-- A die with free capacity takes the first eligible launch that it can hold. (R51) -/
  | placeLaunch (die : Nat)
  /-- A die reserves capacity for the gang head. (R53) -/
  | gangReserve (die : Nat)
  /-- The last completion condition holds and the completion record is written. (R57) -/
  | launchComplete (lid : Nat)
  /-- Once its engine jobs have stopped, Lintel saves a quad that changes hands. (R80) -/
  | quadSave (agent : Nat)
  /-- A save that passed the boundary finishes and the scrub follows. (R82) -/
  | saveLateComplete (isQuad : Bool) (n : Nat)
  /-- Lintel restores the incoming tenant's state in order. (R318) -/
  | lintelRestore (isQuad : Bool) (n : Nat)
  /-- A message to an outgoing core or quad is parked, or is refused when the inbox is full. (R81) -/
  | parkMessage (msg : MsgRef)
  /-- A refused message is offered again after the destination's restore. (R377) -/
  | messageReoffer (msg : MsgRef)
  /-- A tracked read reaches the head of its line's queue. (R119) -/
  | gets (line : Nat)
  /-- A leased read reaches the head and updates the horizon. (R119) -/
  | getl (line : Nat)
  /-- A read for ownership reaches the head and invalidates the other holders. (R119) -/
  | geto (line : Nat)
  /-- The write-back of an O line. (R119) -/
  | puto (agent line : Nat)
  /-- A clean-eviction notice, applied or discarded. (R119) -/
  | puts (agent line : Nat)
  /-- An agent receives an invalidation and answers it once. (R120) -/
  | invalidation (agent line : Nat)
  /-- An agent receives a recall and returns data. (R119) -/
  | recall (agent line : Nat)
  /-- The home counts an answer and grants when the count is complete. (R120) -/
  | answer (agent line : Nat)
  /-- The home time reaches H(x) and a waiting GetO or write proceeds. (R125) -/
  | horizonExpiry (line : Nat)
  /-- A leased copy expires and becomes invalid. (R124) -/
  | leaseExpiry (agent line : Nat)
  /-- The data of a load returns to its core, is fixed as the load's value and is written to the destination register. (R141) -/
  | loadPerformed (core id : Nat) (pieces : List Nat) (ext : List Byte)
  /-- A store leaves the core store queue and is performed at its serialisation point, such as the L1 once O is granted or a remote scratchpad bank. (R147) -/
  | storePerformed (core id : Nat) (pieces : List Nat)
  /-- An Ashlar, Sett, MST or marker command finishes, lands its counted bytes and releases the commands that wait on it in the footprint unit. (R265) -/
  | engineCommandCompletion (agent seq : Nat)
  /-- The 8 × K8 cycles of a YIELD pass and the strand becomes ready again. (R210) -/
  | yieldExpiry (slot : Nat)
  /-- A head comparator halts the strand before the head. (R348) -/
  | breakpointMatch (slot : Nat)
  /-- The hub wakes a sleeping quad in 3,200 cycles. (R350) -/
  | quadWake (agent : Nat)
  /-- Moves one frame between the register file and local store in an idle or owed cycle. (R191) -/
  | windowSpillFill (slot : Nat) (fill : Bool)
  /-- A walker, once free, walks the three-level table on a TLB miss. (R320) -/
  | pageWalk (agent asid va : Nat)
  /-- A bay idle for IDLE × 160 cycles is donated with an immediate edge. (R86) -/
  | bayDonation (die bay : Nat)
  /-- sr.time passes NOTAFTER and the session ends. (R346) -/
  | debugSessionExpiry (tenant : Nat)
  /-- A back-invalidation times out and BIFAIL is set. (R396) -/
  | bitoTimeout (port line : Nat)
  /-- After 2^20 cycles without an answer, the agent is isolated. (R389) -/
  | agentUnresponsive (agent line : Nat)
  /-- After 100 ms without L0, or on a surprise down, the port is lost. (R414) -/
  | cxlRetrainTimeout (port : Nat)
  /-- At each 160,000-cycle crossing, heartbeats are sent and MISSED is counted, fencing at 3. (R334) -/
  | heartbeatCrossing
  /-- Every 1 µs the die counters are compared; a lease timing alarm may stand. (R394) -/
  | timeCompare (skews : List Int)
  /-- Every 10 µs the hub exchanges beats; a die that misses four is lost. (R407) -/
  | dieStatusBeat (answered : List Nat)
  /-- Every 10 µs in P1, power is sampled and duty adjusted by 1/16. (R352) -/
  | powerSample (watts : Nat)
  /-- After 1 ms below 100 °C the duty rises step by step. (R417) -/
  | throttleLift (die : Nat)
  /-- 3,200 cycles after the MINDIE-th reservation the gang starts. (R53) -/
  | gangTimerExpiry
  /-- At edge minus DRAINLEAD the outgoing tenant enters the hold. (R78) -/
  | drainLeadHold
  /-- At the edge, cores that change hands are stopped and Lintel saving begins. (R79) -/
  | courseEdge
  /-- Jobs still running at edge + OVERLIM are stopped. (R84) -/
  | overlimExpiry
  /-- The next course begins, a pending copy takes effect, and scrub and restore start. (R69) -/
  | courseBoundary
  /-- After 1 ms with an empty pool, the compute dies power-gate. (R350) -/
  | packageIdleEntry
  /-- A QTAIL write or commit wakes the compute dies. (R350) -/
  | packageIdleExit
  /-- Keystone finishes a command, writes the reply and clears BUSY. (R340) -/
  | mailboxComplete
  /-- After 10 ms below the cap the pending trip ends. (R417) -/
  | powerTripClear
  /-- A TAIL write is applied, or is ignored with OVERRUN. (R50) -/
  | qtailWrite (queue : Nat) (tail : BitVec 32)
  /-- amoswap.d or amoadd.d on QTAIL as one atomic step. (R48) -/
  | qtailAmo (hart queue : Nat) (op : QtailAmo) (v : Word)
  /-- Consumption crosses a multiple of BUDGET, raising PRIO and counting an event. (R58) -/
  | budgetExhaustion (lid energy : Nat)
  /-- CTCTL.COMMIT checks the shadow copy, then accepts it or rejects it. (R72) -/
  | commit (ncourse : BitVec 7)
  /-- A CTTIME write is checked at once and is accepted or ignored. (R72) -/
  | cttimeWrite (v : Word)
  /-- A TNSAVE write, ignored when it writes BASE 0 for an active tenant. (R72) -/
  | tnsaveWrite (tenant : Nat) (v : Word)
  /-- A host CXL request to device memory. (R134) -/
  | hostRequest (port : Nat) (r : HostReq)
  /-- The host's BIRsp is counted as an answer. (R134) -/
  | birsp (port line : Nat) (data : List Byte)
  /-- The hub answers a host snoop on host memory. (R135) -/
  | hostSnoop (line : Nat) (inv : Bool)
  /-- DPCTL.SNAP takes a snapshot of a directory region. (R137) -/
  | dpSnap (home slice : Nat)
  /-- DPTCTL.EN latches a region and starts tracing. (R359) -/
  | dptEnable (home slice : Nat)
  /-- DPTCTL.CLR empties the trace ring. (R359) -/
  | dptClear (home slice : Nat)
  /-- An M-mode write of the hart tenant CSR. (R330) -/
  | vlntenantWrite (hart : Nat) (mMode : Bool) (v : BitVec 6)
  /-- A beat from the far end resets MISSED. (R334) -/
  | heartbeatReceive (link : Nat)
  /-- A fence broadcast arrives and its device is fenced here. (R335) -/
  | fenceArrival (device : Nat)
  /-- Clearing a FENCED bit ends the fence for this device. (R413) -/
  | fenceClear (device : Nat)
  /-- Keystone measures images and releases dies. (R337) -/
  | powerOn (images : Images)
  /-- Mailbox command 0x01 answers one SPDM request. (R339) -/
  | spdm
  /-- An SPDM request through a DOE mailbox. (R339) -/
  | doeSpdmRequest (port : Nat) (request : List Byte)
  /-- Generates a key into a slot. (R344) -/
  | keygen
  /-- Clears a key slot. (R344) -/
  | keyclr
  /-- Sets a tenant's key index. (R344) -/
  | tkeyset
  /-- Registers a tenant debug public key. (R341) -/
  | dbgkey
  /-- Returns a fresh debug nonce. (R346) -/
  | dbgnonce
  /-- Checks a debug token and opens a session. (R346) -/
  | dbgauth
  /-- Ends a tenant debug session. (R341) -/
  | dbgend
  /-- Advances the lifecycle state. (R353) -/
  | lifecycle
  /-- Sets confidentiality for the next reset. (R353) -/
  | conf
  /-- The debug port halts a strand. (R347) -/
  | debugHalt (slot : Nat)
  /-- A halted strand executes exactly one instruction. (R348) -/
  | debugStep (slot : Nat)
  /-- The release comparator resumes halted strands at time t. (R370) -/
  | continueAt (t : Release)
  /-- The 1 ms average exceeds 2,900 W and the package enters P1. (R345) -/
  | powerTrip
  /-- A die at 105 °C throttles to 4/16. (R345) -/
  | thermalThrottleTrip (die : Nat)
  /-- A 115 °C trip turns the module off. (R417) -/
  | thermalShutdown (die : Nat)
  /-- Ends every placed launch whose COMP matches. (R375) -/
  | lkctlGo (tenant : Nat)
  /-- Clears the selected tenant counters. (R372) -/
  | ecclr (memoryPage : Bool) (tenant : Nat) (clr : BitVec 15)
  /-- Clears the structure and slice counters. (R400) -/
  | structCounterClear
  /-- A write to a register that has no row of its own. (R5) -/
  | registerWrite (who : Party) (pa size : Nat) (v : Word)
  /-- An error in private state zeroes it and flags the owner. (R386) -/
  | privateStateError (target : PrivateTarget)
  /-- Patrol reads check and correct the structures. (R402) A read by a request that meets the error has the same effects. -/
  | patrolScrub (struct : BitVec 4) (pa : Nat) (check : Check)
  /-- A CRC error replays a flit. (R405) -/
  | flitReplay (m : Nat)
  /-- A UCIe module retrains and goes out of service after three failures. (R405) -/
  | moduleRetrain (m : Nat)
  /-- A port's link leaves L0 and its requests wait. (R414) -/
  | cxlLinkDown (port : Nat) (surprise : Bool)
  /-- The link returns to L0. (R414) -/
  | cxlLinkUp (port : Nat)
  /-- Firmware writes Keystone's watchdog. (R415) -/
  | watchdogKick
  /-- After 100 ms without a write, the management core is reset and rechecked. (R415) -/
  | watchdogExpiry (images : Images)
  /-- Module power is removed and the module turns Off, ending sessions and losing keys. (R350) -/
  | powerRemoved
  /-- A peer link stops being trained (UP clears) and stops carrying beats. (R336) -/
  | peerLinkLoss (link : Nat)
  /-- A peer link completes training, sets UP and records PEER. (R333) -/
  | peerLinkTrained (link peer : Nat)
  /-- A retraining UCIe module finishes its retrain, up to 100 µs later, and takes its traffic again or counts a failed attempt. (R405) -/
  | ucieRetrainComplete (m : Nat) (good : Bool)
  /-- An uncorrectable error strikes a compute die's dispatcher or barrier network, and the die is lost. (R407) -/
  | dispatcherUncorrectableError (die : Nat)
  /-- The die time counters are resynchronised, which ends a standing lease timing alarm. (R394) -/
  | counterResynchronisation
  /-- An ovq request arrives at a debug port to read or write strand registers, memory or courses, or is refused and counted in DBGDENY. (R347) -/
  | debugPortRequest (r : DebugReq)
  /-- The host answers a CXL.cache D2H request of the hub with data or ownership for a host-memory line. (R135) -/
  | cxlCacheResponse (line : Nat) (owned : Bool) (data : List Byte)
  deriving DecidableEq, Repr

end Sys2Proof
end

