-- ==== Sys2Proof/WellFormed.lean ====
section
/-! DEFINITION. When an instruction is one at all: the order 2 conditions of R177 that its operand fields decide
(spec/07_encoding.md). An instruction that fails its check is an illegal instruction; the order 3 conditions (illegal
operand) are judged by the meanings, against the strand. The events of the opcode table carry no encoding and are always
well formed. -/

namespace Sys2Proof

/-- Whether a type code of R8 names a floating-point type: f32, f16, bf16, e4m3, e5m2 and e2m1 are 8 to 13. -/
def isFloatCode (t : BitVec 4) : Bool := 8 ≤ t.toNat && t.toNat ≤ 13

/-- R193: K8 must be 0 with a register source, C must be 0 with an immediate; `ty` and `sat` say whether the
instruction's row allows a type other than s64 and saturation. -/
def TwoSrc2.fits (o : TwoSrc2) (ty sat : Bool) : Bool :=
  (if o.imm then o.c == 0 else o.k8 == 0) && (ty || o.ty == 0) && (sat || !o.sat)

/-- R193, 4-byte tail. -/
def TwoSrc4.fits (o : TwoSrc4) (ty sat : Bool) : Bool :=
  (ty || o.ty == 0) && (sat || !o.sat)

/-- The fields that a vector instruction uses (R215, R220): a field not used must be zero. -/
structure VecUse where
  /-- It rounds for a floating-point T, and so takes RND there; with `sat` false it takes SAT there too. `VSCAN` takes RND with its max and min
  too, which round nothing (DEDUCED, log entry 25). -/
  rounds : Bool := false
  /-- It rounds for every T, and so takes RND on INT types too, where R216 calls RND unused: `VXSUM`, whose conversion R236 rounds (DEDUCED, log
  entry 25), and `VCVT`. -/
  roundsAll : Bool := false
  /-- It takes SAT for every T. -/
  sat : Bool := false
  /-- It reads a third register. -/
  vs3 : Bool := false
  /-- The greatest value of X. -/
  xMax : Nat := 0
  /-- It writes or reads gA. -/
  a : Bool := false
  /-- It uses gB whatever SRC is. -/
  b : Bool := false
  /-- It accepts SRC 1, and so uses gB there; it accepts SRC 2, and so uses I20 there. -/
  src1 : Bool := false
  src2 : Bool := false
  /-- VS2 is unused even with SRC 0. -/
  noVs2 : Bool := false
  /-- VD is unused. -/
  noVd : Bool := false
  /-- M must be 0. -/
  noM : Bool := false
  /-- T must be 0. -/
  noT : Bool := false
  /-- VD, VS1, VS2 name masks, so that their two upper bits are zero. -/
  maskD : Bool := false
  mask1 : Bool := false
  mask2 : Bool := false
  /-- I20 is an operand whatever SRC is, and only the 8-byte tail is permitted. -/
  i20 : Bool := false
  deriving DecidableEq, Repr

/-- No unused field of a vector instruction is set, and SRC is not 3 (R172, R215, R216). An SRC that the instruction does not accept
is judged by its meaning (illegal operand); gB and I20 are then unused. An SRC 2 that it accepts needs the tail that holds I20: without it
the encoding is an illegal instruction (DEDUCED, log entry 25). -/
def VecOps.fits (o : VecOps) (u : VecUse) : Bool :=
  (o.src != 3)
  && (o.src == 0 || o.vs2 == 0)
  && ((u.src1 && o.src == 1) || u.b || o.b == 0)
  && (u.a || o.a == 0)
  && (!u.noVs2 || o.vs2 == 0)
  && (!u.noVd || o.vd == 0)
  && (!u.noM || o.m == 0)
  && (!u.noT || o.t == 0)
  && (!u.maskD || o.vd.toNat < 8)
  && (!u.mask1 || o.vs1.toNat < 8)
  && (!u.mask2 || o.vs2.toNat < 8)
  && decide (o.x.toNat ≤ u.xMax)
  && (match o.ext with
      | none => !(u.src2 && o.src == 2) && !u.i20
      | some e =>
        (u.roundsAll || (u.rounds && isFloatCode o.t) || e.rnd == 0)
        && (u.sat || (u.rounds && isFloatCode o.t) || !e.sat)
        && (u.vs3 || e.vs3 == 0)
        && (u.i20 || (u.src2 && o.src == 2) || e.i20 == 0))

/-- How a memory-class instruction uses DST (R173, R237). -/
inductive DstUse where
  /-- A scalar register: DST[4] must be 0. -/
  | scalar
  /-- A vector register. -/
  | vector
  /-- Not used: zero. -/
  | zero
  /-- A field of its own, at most `n`. -/
  | atMost (n : Nat)
  deriving DecidableEq, Repr

/-- How a memory-class instruction uses the 8-byte tail (R237). -/
inductive HiUse where
  /-- The 8-byte tail is not permitted. -/
  | never
  /-- I32 is a byte offset, and OFF14 must then be 0. -/
  | byteOffset
  /-- I32 holds operands: only the bits of the mask may be set; `needed` when the 4-byte tail is not permitted. -/
  | operand (allowed : BitVec 32) (needed : Bool)
  deriving DecidableEq, Repr

/-- The order 2 conditions of a memory-class instruction. -/
def MemOps.fits (o : MemOps) (d : DstUse) (h : HiUse) : Bool :=
  (match d with
    | .scalar => o.dst.toNat < 16
    | .vector => true
    | .zero => o.dst == 0
    | .atMost n => decide (o.dst.toNat ≤ n))
  && (match h, o.hi with
      | .never, none => true
      | .never, some _ => false
      | .byteOffset, none => true
      | .byteOffset, some _ => o.off == 0
      | .operand _ needed, none => !needed
      | .operand allowed _, some i => i &&& ~~~allowed == 0)

/-- The fields that an engine or system instruction uses (R260, R288): every other one must be zero. -/
structure EngUse where
  a : Bool := false
  b : Bool := false
  c : Bool := false
  d : Bool := false
  e : Bool := false
  x : BitVec 16 := 0
  /-- The 4-byte tail is permitted. -/
  tl4 : Bool := true
  /-- The bits of I32 that may be set, where the 8-byte tail is permitted. -/
  hi : Option (BitVec 32) := none
  deriving DecidableEq, Repr

/-- The order 2 conditions of an engine or system instruction. -/
def EngOps.fits (o : EngOps) (u : EngUse) : Bool :=
  (u.a || o.a == 0) && (u.b || o.b == 0) && (u.c || o.c == 0) && (u.d || o.d == 0) && (u.e || o.e == 0)
  && (o.x &&& ~~~u.x == 0)
  && (match u.hi, o.hi with
      | _, none => u.tl4
      | none, some _ => false
      | some allowed, some i => i &&& ~~~allowed == 0)

/-- Every field that the instruction's entry fixes at zero is zero (R177, order 2). -/
def Instr.wf : Instr → Bool
  | .nop => true
  | .addHeadOnly _ _ => true
  | .addTl2 o => o.fits true true
  | .addTl4 o => o.fits true true
  | .subHeadOnly _ _ => true
  | .subTl2 o => o.fits true true
  | .subTl4 o => o.fits true true
  | .andHeadOnly _ _ => true
  | .andTl2 o => o.fits false false
  | .andTl4 o => o.fits false false
  | .orHeadOnly _ _ => true
  | .orTl2 o => o.fits false false
  | .orTl4 o => o.fits false false
  | .xorHeadOnly _ _ => true
  | .xorTl2 o => o.fits false false
  | .xorTl4 o => o.fits false false
  | .shlHeadOnly _ _ => true
  | .shlTl2 o => o.fits true true
  | .shlTl4 o => o.fits true true
  | .shrHeadOnly _ _ => true
  | .shrTl2 o => o.fits true false
  | .shrTl4 o => o.fits true false
  | .sarHeadOnly _ _ => true
  | .sarTl2 o => o.fits true false
  | .sarTl4 o => o.fits true false
  | .rolTl2 o => o.fits true false
  | .rolTl4 o => o.fits true false
  | .mov _ _ => true
  | .mulHeadOnly _ _ => true
  | .mulTl2 o => o.fits true true
  | .mulTl4 o => o.fits true true
  | .mulh _ _ _ _ => true
  | .div _ _ _ _ => true
  | .rem _ _ _ _ => true
  | .minTl2 _ _ _ _ => true
  | .minTl4 _ _ _ _ => true
  | .maxTl2 _ _ _ _ => true
  | .maxTl4 _ _ _ _ => true
  | .andnTl2 _ _ _ => true
  | .andnTl4 _ _ _ => true
  | .clz _ _ _ => true
  | .ctz _ _ _ => true
  | .popc _ _ _ => true
  | .brev _ _ _ => true
  | .bswap _ _ _ => true
  | .sext _ _ _ => true
  | .zext _ _ _ => true
  | .liTl2 _ _ => true
  | .liTl4 _ _ => true
  | .limm _ _ => true
  | .addaHeadOnly _ _ => true
  | .addaTl2 o => o.fits false false
  | .addaTl4 o => o.fits false false
  | .tagTl2 _ _ _ => true
  | .tagTl4 _ _ _ _ => true
  | .untag _ _ => true
  | .tagof _ _ => true
  | .eidxTl2 _ _ _ => true
  | .eidxTl4 _ _ _ => true
  | .cmp _ _ _ _ _ => true
  | .cmpiTl2 _ _ _ _ _ => true
  | .cmpiTl4 _ _ _ _ _ => true
  | .plog _ _ _ _ => true
  | .sel _ _ _ _ _ => true
  | .pmovToScalar _ => true
  | .pmovFromScalar _ => true
  | .br _ => true
  | .bp _ _ _ => true
  | .bz _ _ => true
  | .bnz _ _ => true
  | .call _ => true
  | .ret => true
  | .callr _ => true
  | .jmpr _ => true
  | .loop _ _ => true
  | .loopi _ _ => true
  | .lbrk _ _ => true
  | .flushw => true
  | .setws _ _ => true
  | .srd _ _ => true
  | .swr _ _ => true
  | .yield _ => true
  | .windowSpillFill _ _ => true
  | .vadd o => o.fits { src1 := true, src2 := true, rounds := true, sat := true }
  | .vsub o => o.fits { src1 := true, src2 := true, rounds := true, sat := true }
  | .vmul o => o.fits { src1 := true, src2 := true, rounds := true, sat := true }
  | .vfma o => o.fits { src1 := true, rounds := true, sat := true, vs3 := true }
  | .vfms o => o.fits { src1 := true, rounds := true, sat := true, vs3 := true }
  | .vfnma o => o.fits { src1 := true, rounds := true, sat := true, vs3 := true }
  | .vmin o => o.fits { src1 := true, src2 := true }
  | .vmax o => o.fits { src1 := true, src2 := true }
  | .vminn o => o.fits { src1 := true, src2 := true }
  | .vmaxn o => o.fits { src1 := true, src2 := true }
  | .vand o => o.fits { src1 := true, src2 := true }
  | .vor o => o.fits { src1 := true, src2 := true }
  | .vxor o => o.fits { src1 := true, src2 := true }
  | .vshl o => o.fits { src1 := true, src2 := true, sat := true }
  | .vshr o => o.fits { src1 := true, src2 := true }
  | .vsar o => o.fits { src1 := true, src2 := true }
  | .vabs o => o.fits { sat := true, noVs2 := true }
  | .vneg o => o.fits { sat := true, noVs2 := true }
  | .vcmp o => o.fits { src1 := true, src2 := true, maskD := true, xMax := 9 }
  | .vsel o => o.fits { src1 := true, src2 := true }
  | .mlog o => o.fits { xMax := 15, noM := true, noT := true, maskD := true, mask1 := true, mask2 := true }
  | .vpopm o => o.fits { a := true, noVs2 := true, noVd := true, mask1 := true }
  | .viota o => o.fits { noVs2 := true, mask1 := true }
  | .vcvt o => o.fits { src1 := true, roundsAll := o.src == 1 || isFloatCode o.t || isFloatCode o.x, sat := true, xMax := 15, noVs2 := true }
  | .vwadd o => o.fits { src1 := true, src2 := true, rounds := true, sat := true }
  | .vwmul o => o.fits { src1 := true, src2 := true, rounds := true, sat := true }
  | .vwmacc o => o.fits { src1 := true, src2 := true, rounds := true, sat := true }
  | .vdot4 o => o.fits { src1 := true, src2 := true, rounds := true, sat := true }
  | .vrcp o => o.fits { noVs2 := true }
  | .vrsq o => o.fits { noVs2 := true }
  | .vrcps o => o.fits { src1 := true, rounds := true }
  | .vrsqs o => o.fits { src1 := true, rounds := true }
  | .vsqrt o => o.fits { rounds := true, noVs2 := true }
  | .vdiv o => o.fits { src1 := true, rounds := true }
  | .vexp2 o => o.fits { rounds := true, noVs2 := true }
  | .vlog2 o => o.fits { rounds := true, noVs2 := true }
  | .vtanh o => o.fits { rounds := true, noVs2 := true }
  | .vredsum o => o.fits { src1 := true, src2 := true, rounds := true, sat := true }
  | .vredmax o => o.fits { src1 := true, src2 := true, xMax := 1 }
  | .vredmin o => o.fits { src1 := true, src2 := true, xMax := 1 }
  | .vscan o => o.fits { src1 := true, src2 := true, rounds := true, sat := true, xMax := 15 } && o.x &&& 3 != 3
  | .vperm o => o.fits { vs3 := true }
  | .vslide o => o.fits { src1 := true, src2 := true, noVs2 := true }
  | .vcomp o => o.fits { a := true, noVs2 := true }
  | .vbcast o => o.fits { src1 := true, src2 := true, noVs2 := true } && o.vs1 == 0
  | .vmovs o => o.fits { src1 := true, src2 := true, a := true, noM := true, xMax := 1, noVs2 := true } && (if o.x == 0 then o.vd == 0 else o.vs1 == 0)
  | .vsisx o => o.fits { a := true, b := true, maskD := true }
  | .vxsum o => o.fits { roundsAll := true, rounds := true, i20 := true, noVs2 := true }
  | .ld o => o.fits .scalar .byteOffset
  | .st o => o.fits .scalar .byteOffset
  | .ldl o => o.fits .scalar .byteOffset
  | .stl o => o.fits .scalar .byteOffset
  | .vld o => o.fits .vector (.operand 0x7 false)
  | .vst o => o.fits .vector (.operand 0x7 false)
  | .vlds o => o.fits .vector (.operand 0xF7 true)
  | .vsts o => o.fits .vector (.operand 0xF7 true)
  | .vldt o => o.fits .vector (.operand 0x7 false)
  | .vgath o => o.fits .vector (.operand 0x7FFF true)
  | .vscat o => o.fits .vector (.operand 0x7FFF true)
  | .aadd o => o.fits .scalar (.operand 0xF false)
  | .aand o => o.fits .scalar (.operand 0xF false)
  | .aor o => o.fits .scalar (.operand 0xF false)
  | .axor o => o.fits .scalar (.operand 0xF false)
  | .amin o => o.fits .scalar (.operand 0xF false)
  | .amax o => o.fits .scalar (.operand 0xF false)
  | .aswap o => o.fits .scalar (.operand 0xF false)
  | .acas o => o.fits .scalar (.operand 0xFF true)
  | .afadd o => o.fits .scalar (.operand 0xF false)
  | .fence o => o.fits .zero .never && o.a == 0 && o.off == 0
  | .mwait o => o.fits .scalar (.operand 0xFFFFFFFF false)
  | .pref o => o.fits (.atMost 1) .byteOffset
  | .cflush o => o.fits (.atMost 2) .byteOffset
  | .lzero o => o.fits .zero .byteOffset
  | .bara o => o.fits .scalar .never && o.a == 0
  | .barw o => o.fits .zero .never
  | .bar o => o.fits .zero .never && o.a == 0
  | .barinit o => o.fits .zero .never
  | .barrierWakeup _ => true
  | .tdecl o => o.fits .scalar (.operand 0x1FFFFF true)
  | .tfree o => o.fits .scalar .byteOffset
  | .tfwd o => o.fits .scalar .byteOffset
  | .migr o => o.fits .scalar .byteOffset
  | .migrationPacketAccept _ => true
  | .shape o => o.fits { a := true, b := true, c := true }
  | .mzero o => o.fits { d := true, e := true, x := 0x3 }
  | .mma o => o.fits { a := true, b := true, c := true, d := true, e := true, x := 0x3F, hi := some 0xFFFFF, tl4 := false }
  | .mjoint o => o.fits { a := true, b := true, c := true, d := true, e := true, x := 0x3F, hi := some 0xFFFFF, tl4 := false }
  | .jointStart _ _ => true
  | .mld o => o.fits { a := true, c := true, d := true, e := true, x := 0x3 }
  | .mst o => o.fits { a := true, b := true, c := true, d := true, e := true, x := 0x7FF }
  | .tstb o => o.fits { a := true, x := 0x1FF, hi := some 0xFFFFFF, tl4 := false }
  | .sload o => o.fits { a := true, b := true, d := true }
  | .ssort o => o.fits { d := true, x := 0x3FF }
  | .sstore o => o.fits { a := true, b := true, c := true, d := true, x := 0x1 }
  | .sstat o => o.fits { d := true }
  | .hcopy o => o.fits { a := true, d := true }
  | .hcopym o => o.fits { a := true, d := true }
  | .followOnStart _ _ => true
  | .hsend o => o.fits { a := true, d := true }
  | .hgath o => o.fits { a := true, d := true }
  | .engineCommandStart _ _ => true
  | .hodPieceLand _ _ _ => true
  | .bbinit o => o.fits { a := true, b := true, x := 0x7 }
  | .bbwait o => o.fits { a := true, b := true, d := true, hi := some 0xFFFFFFFF }
  | .bbtest o => o.fits { a := true, b := true, d := true, x := 0x7 }
  | .bbwaitTimeout _ => true
  | .monitorFire _ => true
  | .mwaitTimeout _ => true
  | .mwaitPoll _ _ => true
  | .launch o => o.fits { a := true, b := true, d := true }
  | .task o => o.fits { a := true, d := true }
  | .fpdecl o => o.fits { a := true, b := true, d := true }
  | .trap o => o.fits { x := 0xFFFF }
  | .eret o => o.fits {}
  | .exit o => o.fits { x := 0xFF }
  | .phintRegisters o => o.fits { x := 0xFFFF, hi := some 0xFFFFFFFF, tl4 := false }
  | .phintRange o => o.fits { a := true, b := true, c := true, x := 0xF }
  | .tlbinv o => o.fits { a := true, x := 0x1 }
  | .fack o => o.fits { a := true, d := true, x := 0x1 }
  | .pageWalk _ _ _ => true
  | .qtailWrite _ _ => true
  | .qtailAmo _ _ _ _ => true
  | .hubRecordAccept _ => true
  | .placeLaunch _ => true
  | .gangReserve _ => true
  | .gangTimerExpiry => true
  | .launchComplete _ => true
  | .budgetExhaustion _ _ => true
  | .commit _ => true
  | .cttimeWrite _ => true
  | .tnsaveWrite _ _ => true
  | .drainLeadHold => true
  | .courseEdge => true
  | .quadSave _ => true
  | .overlimExpiry => true
  | .courseBoundary => true
  | .saveLateComplete _ _ => true
  | .lintelRestore _ _ => true
  | .bayDonation _ _ => true
  | .parkMessage _ => true
  | .messageReoffer _ => true
  | .gets _ => true
  | .getl _ => true
  | .geto _ => true
  | .puto _ _ => true
  | .puts _ _ => true
  | .invalidation _ _ => true
  | .recall _ _ => true
  | .answer _ _ => true
  | .horizonExpiry _ => true
  | .leaseExpiry _ _ => true
  | .hostRequest _ _ => true
  | .birsp _ _ _ => true
  | .hostSnoop _ _ => true
  | .dpSnap _ _ => true
  | .dptEnable _ _ => true
  | .dptClear _ _ => true
  | .vlntenantWrite _ _ _ => true
  | .heartbeatCrossing => true
  | .heartbeatReceive _ => true
  | .fenceArrival _ => true
  | .fenceClear _ => true
  | .powerOn _ => true
  | .spdm => true
  | .doeSpdmRequest _ _ => true
  | .keygen => true
  | .keyclr => true
  | .tkeyset => true
  | .dbgkey => true
  | .dbgnonce => true
  | .dbgauth => true
  | .dbgend => true
  | .lifecycle => true
  | .conf => true
  | .mailboxComplete => true
  | .debugSessionExpiry _ => true
  | .debugHalt _ => true
  | .debugStep _ => true
  | .breakpointMatch _ => true
  | .continueAt _ => true
  | .powerSample _ => true
  | .powerTrip => true
  | .thermalThrottleTrip _ => true
  | .thermalShutdown _ => true
  | .throttleLift _ => true
  | .powerTripClear => true
  | .quadWake _ => true
  | .packageIdleEntry => true
  | .packageIdleExit => true
  | .lkctlGo _ => true
  | .ecclr _ _ _ => true
  | .structCounterClear => true
  | .registerWrite _ _ _ _ => true
  | .privateStateError _ => true
  | .agentUnresponsive _ _ => true
  | .bitoTimeout _ _ => true
  | .timeCompare _ => true
  | .patrolScrub _ _ _ => true
  | .flitReplay _ => true
  | .moduleRetrain _ => true
  | .dieStatusBeat _ => true
  | .cxlLinkDown _ _ => true
  | .cxlRetrainTimeout _ => true
  | .cxlLinkUp _ => true
  | .watchdogKick => true
  | .watchdogExpiry _ => true
  | .loadPerformed _ _ _ _ => true
  | .storePerformed _ _ _ => true
  | .instructionLineFetch _ => true
  | .engineCommandCompletion _ _ => true
  | .yieldExpiry _ => true
  | .powerRemoved => true
  | .peerLinkLoss _ => true
  | .peerLinkTrained _ _ => true
  | .ucieRetrainComplete _ _ => true
  | .dispatcherUncorrectableError _ => true
  | .counterResynchronisation => true
  | .debugPortRequest _ => true
  | .cxlCacheResponse _ _ _ => true

end Sys2Proof
end

