-- ==== Sys2Proof/Decode.lean ====
section
/-! DEFINITION. From bits to instructions and back (spec/07_encoding.md R161 to R177 and the field tables of files 08 to
12): the instruction line, the decoder of one head with its tail, total on any bits and rejecting by name, and an encoder
written from the same tables. -/

namespace Sys2Proof

/-- Bits [lo + w − 1 : lo] of a number. -/
def bits (w lo x : Nat) : BitVec w := BitVec.ofNat w (x / 2 ^ lo)

/-- One instruction as it stands in a line: its 16-bit head and its tail read as a little-endian number (R162). -/
structure Code where
  head : BitVec 16
  tail : BitVec 64
  deriving DecidableEq, Repr

/-- Why a line is not legal (R163). -/
inductive LineError where
  /-- H is 0 (point 1). -/
  | noHead
  /-- KIND or a bit of [8:0] of the line word is not zero (points 2 and 3). -/
  | lineWord
  /-- Heads and tails do not fit in 64 bytes (point 4). -/
  | tooLong
  /-- A byte of the gap is not zero (point 5). -/
  | gap
  deriving DecidableEq, Repr

/-- Why a head with its tail is not an instruction (R177, order 2). -/
inductive DecodeError where
  /-- Major 0x3F, or major 0x00 with another field set (R170). -/
  | reservedMajor
  /-- A tail length that the major or the instruction does not permit (R176). -/
  | tailLength
  /-- A reserved function code. -/
  | functionCode
  /-- A bit set in a field that is zero or unused. -/
  | unusedField
  deriving DecidableEq, Repr

/-- The tail length in bytes of a TL code (R162). -/
def tailBytes (tl : Nat) : Nat :=
  match tl with
  | 0 => 0
  | 1 => 2
  | 2 => 4
  | _ => 8

/-- The TL field of a head (R169). -/
def headTl (h : Nat) : Nat := h / 256 % 4

/-- The head count H of a line (R161). -/
def lineHeadCount (l : Line) : Nat := l.toNat / 2048 % 32

/-- Head k of a line, at bytes 2 + 2k and 3 + 2k (R162). -/
def lineHead (l : Line) (k : Nat) : Nat := l.toNat / 2 ^ (16 + 16 * k) % 65536

/-- The bytes that the tails of heads 0 to k − 1 take (R162). -/
def tailsBefore (l : Line) : Nat → Nat
  | 0 => 0
  | k + 1 => tailsBefore l k + tailBytes (headTl (lineHead l k))

/-- The tail of head k: it ends where the tails of the heads before it begin (R162, R164). -/
def lineTail (l : Line) (k : Nat) : Nat :=
  let n := tailBytes (headTl (lineHead l k))
  l.toNat / 2 ^ (8 * (64 - tailsBefore l k - n)) % 2 ^ (8 * n)

/-- The legality of a line (R163); a legal line answers its head count. -/
def checkLine (l : Line) : Except LineError Nat :=
  let h := lineHeadCount l
  let n := tailsBefore l h
  if h = 0 then .error .noHead
  else if l.toNat % 2048 ≠ 0 then .error .lineWord
  else if 64 < 2 + 2 * h + n then .error .tooLong
  else if l.toNat / 2 ^ (8 * (2 + 2 * h)) % 2 ^ (8 * (64 - n - (2 + 2 * h))) ≠ 0 then .error .gap
  else .ok h

/-- The code of head k of a line. -/
def lineCode (l : Line) (k : Nat) : Code :=
  { head := BitVec.ofNat 16 (lineHead l k), tail := BitVec.ofNat 64 (lineTail l k) }

/-- A line that holds one instruction: H = 1, its head at bytes 2 and 3, its tail at the end, the gap zero. -/
def oneLine (c : Code) : Line :=
  BitVec.ofNat 512 (2048 + c.head.toNat * 2 ^ 16
    + c.tail.toNat * 2 ^ (8 * (64 - tailBytes (headTl c.head.toNat))))

/-- The 2-byte scalar tail (R171). -/
structure Scalar2 where
  c : BitVec 4
  f : BitVec 4
  k8 : BitVec 8
  deriving DecidableEq, Repr

/-- The 4-byte scalar tail (R171). -/
structure Scalar4 where
  c : BitVec 4
  f : BitVec 4
  i24 : BitVec 24
  deriving DecidableEq, Repr

def Scalar2.ofTail (t : Nat) : Scalar2 := { c := bits 4 12 t, f := bits 4 8 t, k8 := bits 8 0 t }
def Scalar2.toTail (s : Scalar2) : Nat := s.c.toNat * 2 ^ 12 + s.f.toNat * 2 ^ 8 + s.k8.toNat

def Scalar4.ofTail (t : Nat) : Scalar4 := { c := bits 4 28 t, f := bits 4 24 t, i24 := bits 24 0 t }
def Scalar4.toTail (s : Scalar4) : Nat := s.c.toNat * 2 ^ 28 + s.f.toNat * 2 ^ 24 + s.i24.toNat

/-- The F field of the two-source majors (R193): IMM, TY, SAT. -/
def fOf (imm : Bool) (ty : BitVec 2) (sat : Bool) : BitVec 4 :=
  BitVec.ofNat 4 (imm.toNat * 8 + ty.toNat * 2 + sat.toNat)

/-- Bit [3], bits [2:1] and bit [0] of F. -/
def fImm (f : BitVec 4) : Bool := f.toNat / 8 == 1
def fTy (f : BitVec 4) : BitVec 2 := bits 2 1 f.toNat
def fSat (f : BitVec 4) : Bool := f.toNat % 2 == 1

def TwoSrc2.ofFields (a b : BitVec 4) (s : Scalar2) : TwoSrc2 :=
  { a := a, b := b, c := s.c, imm := fImm s.f, ty := fTy s.f, sat := fSat s.f, k8 := s.k8 }

/-- The low word of a vector tail without FN (R172, R215), and its high word. -/
def VecOps.ofTail (a b : BitVec 4) (wide : Bool) (t : Nat) : VecOps :=
  { a := a, b := b, vd := bits 5 27 t, vs1 := bits 5 22 t, vs2 := bits 5 17 t, m := bits 3 14 t, t := bits 4 10 t
    src := bits 2 4 t, x := bits 4 6 t
    ext := if wide then some { vs3 := bits 5 59 t, rnd := bits 3 56 t, sat := t / 2 ^ 55 % 2 == 1, i20 := bits 20 32 t }
           else none }

def VecOps.toTail (o : VecOps) (fn : Nat) : Nat :=
  o.vd.toNat * 2 ^ 27 + o.vs1.toNat * 2 ^ 22 + o.vs2.toNat * 2 ^ 17 + o.m.toNat * 2 ^ 14 + o.t.toNat * 2 ^ 10
    + o.x.toNat * 2 ^ 6 + o.src.toNat * 2 ^ 4 + fn
    + (match o.ext with
       | none => 0
       | some e => e.vs3.toNat * 2 ^ 59 + e.rnd.toNat * 2 ^ 56 + e.sat.toNat * 2 ^ 55 + e.i20.toNat * 2 ^ 32)

/-- A memory tail (R173). -/
def MemOps.ofTail (a : BitVec 4) (wide : Bool) (t : Nat) : MemOps :=
  { a := a, dst := bits 5 27 t, lease := bits 3 24 t, ord := bits 3 21 t, scope := bits 3 18 t, t := bits 4 14 t
    off := bits 14 0 t, hi := if wide then some (bits 32 32 t) else none }

def MemOps.toTail (o : MemOps) : Nat :=
  o.dst.toNat * 2 ^ 27 + o.lease.toNat * 2 ^ 24 + o.ord.toNat * 2 ^ 21 + o.scope.toNat * 2 ^ 18 + o.t.toNat * 2 ^ 14
    + o.off.toNat + (match o.hi with | none => 0 | some i => i.toNat * 2 ^ 32)

/-- An engine or system tail without FN4 (R259, R288). -/
def EngOps.ofTail (a b : BitVec 4) (wide : Bool) (t : Nat) : EngOps :=
  { a := a, b := b, c := bits 4 4 t, d := bits 4 8 t, e := bits 4 12 t, x := bits 16 16 t
    hi := if wide then some (bits 32 32 t) else none }

def EngOps.toTail (o : EngOps) (fn4 : Nat) : Nat :=
  o.x.toNat * 2 ^ 16 + o.e.toNat * 2 ^ 12 + o.d.toNat * 2 ^ 8 + o.c.toNat * 2 ^ 4 + fn4
    + (match o.hi with | none => 0 | some i => i.toNat * 2 ^ 32)

/-- The instruction, where its fixed fields are zero. -/
def need (c : Bool) (i : Instr) : Except DecodeError Instr := if c then .ok i else .error .unusedField

/-- The vector instruction of a major and FN (R220). -/
def vecInstr (maj fn : Nat) : Option (VecOps → Instr) :=
  match maj, fn with
  | 0x1E, 0 => some .vadd
  | 0x1E, 1 => some .vsub
  | 0x1E, 2 => some .vmul
  | 0x1F, 0 => some .vfma
  | 0x1F, 1 => some .vfms
  | 0x1F, 2 => some .vfnma
  | 0x20, 0 => some .vmin
  | 0x20, 1 => some .vmax
  | 0x20, 2 => some .vminn
  | 0x20, 3 => some .vmaxn
  | 0x21, 0 => some .vand
  | 0x21, 1 => some .vor
  | 0x21, 2 => some .vxor
  | 0x21, 3 => some .vshl
  | 0x21, 4 => some .vshr
  | 0x21, 5 => some .vsar
  | 0x22, 0 => some .vabs
  | 0x22, 1 => some .vneg
  | 0x22, 2 => some .vcmp
  | 0x22, 3 => some .vsel
  | 0x23, 0 => some .mlog
  | 0x23, 1 => some .vpopm
  | 0x23, 2 => some .viota
  | 0x24, 0 => some .vcvt
  | 0x25, 0 => some .vwadd
  | 0x25, 1 => some .vwmul
  | 0x25, 2 => some .vwmacc
  | 0x25, 3 => some .vdot4
  | 0x26, 0 => some .vrcp
  | 0x26, 1 => some .vrsq
  | 0x26, 2 => some .vrcps
  | 0x26, 3 => some .vrsqs
  | 0x26, 4 => some .vsqrt
  | 0x26, 5 => some .vdiv
  | 0x27, 0 => some .vexp2
  | 0x27, 1 => some .vlog2
  | 0x27, 2 => some .vtanh
  | 0x28, 0 => some .vredsum
  | 0x28, 1 => some .vredmax
  | 0x28, 2 => some .vredmin
  | 0x28, 3 => some .vscan
  | 0x29, 0 => some .vperm
  | 0x29, 1 => some .vslide
  | 0x29, 2 => some .vcomp
  | 0x2A, 0 => some .vbcast
  | 0x2A, 1 => some .vmovs
  | 0x2B, 0 => some .vsisx
  | 0x2B, 1 => some .vxsum
  | _, _ => none

/-- The memory-class instruction of a major and head field B (R237, R247). -/
def memInstr (maj b : Nat) : Option (MemOps → Instr) :=
  match maj, b with
  | 0x2C, 0 => some .ld
  | 0x2C, 1 => some .st
  | 0x2D, 0 => some .ldl
  | 0x2D, 1 => some .stl
  | 0x2E, 0 => some .vld
  | 0x2E, 1 => some .vst
  | 0x2E, 2 => some .vlds
  | 0x2E, 3 => some .vsts
  | 0x2E, 4 => some .vldt
  | 0x2F, 0 => some .vgath
  | 0x2F, 1 => some .vscat
  | 0x30, 0 => some .aadd
  | 0x30, 1 => some .aand
  | 0x30, 2 => some .aor
  | 0x30, 3 => some .axor
  | 0x30, 4 => some .amin
  | 0x30, 5 => some .amax
  | 0x30, 6 => some .aswap
  | 0x30, 7 => some .acas
  | 0x30, 8 => some .afadd
  | 0x31, 0 => some .fence
  | 0x31, 1 => some .mwait
  | 0x31, 2 => some .pref
  | 0x31, 3 => some .cflush
  | 0x31, 4 => some .lzero
  | 0x32, 0 => some .bara
  | 0x32, 1 => some .barw
  | 0x32, 2 => some .bar
  | 0x32, 3 => some .barinit
  | 0x33, 0 => some .tdecl
  | 0x33, 1 => some .tfree
  | 0x33, 2 => some .tfwd
  | 0x33, 3 => some .migr
  | _, _ => none

/-- The engine or system instruction of a major and FN4 (R260, R288). -/
def engInstr (maj fn4 : Nat) : Option (EngOps → Instr) :=
  match maj, fn4 with
  | 0x34, 0 => some .shape
  | 0x34, 1 => some .mzero
  | 0x35, 0 => some .mma
  | 0x35, 1 => some .mjoint
  | 0x36, 0 => some .mld
  | 0x36, 1 => some .mst
  | 0x36, 2 => some .tstb
  | 0x37, 0 => some .sload
  | 0x37, 1 => some .ssort
  | 0x37, 2 => some .sstore
  | 0x37, 3 => some .sstat
  | 0x38, 0 => some .hcopy
  | 0x38, 1 => some .hcopym
  | 0x39, 0 => some .hsend
  | 0x39, 1 => some .hgath
  | 0x3A, 0 => some .bbinit
  | 0x3A, 1 => some .bbwait
  | 0x3A, 2 => some .bbtest
  | 0x3B, 0 => some .launch
  | 0x3B, 1 => some .task
  | 0x3B, 2 => some .fpdecl
  | 0x3C, 0 => some .trap
  | 0x3C, 1 => some .eret
  | 0x3C, 2 => some .exit
  | 0x3D, 0 => some .phintRegisters
  | 0x3D, 1 => some .phintRange
  | 0x3E, 0 => some .tlbinv
  | 0x3E, 1 => some .fack
  | _, _ => none

/-- The head-only scalar forms (R171, R176). -/
def decodeScalar0 (maj : Nat) (a b : BitVec 4) : Except DecodeError Instr :=
  match maj with
  | 0x00 => if a == 0 && b == 0 then .ok .nop else .error .reservedMajor
  | 0x01 => .ok (.addHeadOnly a b)
  | 0x02 => .ok (.subHeadOnly a b)
  | 0x03 => .ok (.andHeadOnly a b)
  | 0x04 => .ok (.orHeadOnly a b)
  | 0x05 => .ok (.xorHeadOnly a b)
  | 0x06 => .ok (.shlHeadOnly a b)
  | 0x07 => .ok (.shrHeadOnly a b)
  | 0x08 => .ok (.sarHeadOnly a b)
  | 0x0B => .ok (.mulHeadOnly a b)
  | 0x11 => .ok (.addaHeadOnly a b)
  | 0x0A => .ok (.mov a b)
  | 0x19 => need (a == 0 && b == 0) .ret
  | _ => .error .tailLength

/-- The scalar forms with a 2-byte tail (R193 to R210). -/
def decodeScalar2 (maj : Nat) (a b : BitVec 4) (s : Scalar2) : Except DecodeError Instr :=
  let o := TwoSrc2.ofFields a b s
  let c0 := s.c == 0
  let k0 := s.k8 == 0
  match maj with
  | 0x01 => .ok (.addTl2 o)
  | 0x02 => .ok (.subTl2 o)
  | 0x03 => .ok (.andTl2 o)
  | 0x04 => .ok (.orTl2 o)
  | 0x05 => .ok (.xorTl2 o)
  | 0x06 => .ok (.shlTl2 o)
  | 0x07 => .ok (.shrTl2 o)
  | 0x08 => .ok (.sarTl2 o)
  | 0x09 => .ok (.rolTl2 o)
  | 0x0B => .ok (.mulTl2 o)
  | 0x11 => .ok (.addaTl2 o)
  | 0x0C =>
    match s.f.toNat / 4 with
    | 0 => need k0 (.mulh a b s.c (bits 2 0 s.f.toNat))
    | 1 => need k0 (.div a b s.c (bits 2 0 s.f.toNat))
    | 2 => need k0 (.rem a b s.c (bits 2 0 s.f.toNat))
    | _ => .error .functionCode
  | 0x0D =>
    match s.f.toNat / 4 with
    | 0 => need k0 (.minTl2 a b s.c (bits 2 0 s.f.toNat))
    | 1 => need k0 (.maxTl2 a b s.c (bits 2 0 s.f.toNat))
    | 2 => need (k0 && s.f == 8) (.andnTl2 a b s.c)
    | _ => .error .functionCode
  | 0x0E =>
    match s.f.toNat with
    | 0 => need k0 (.clz a b s.c)
    | 1 => need k0 (.ctz a b s.c)
    | 2 => need k0 (.popc a b s.c)
    | 3 => need k0 (.brev a b s.c)
    | 4 => need k0 (.bswap a b s.c)
    | 5 => need c0 (.sext a b s.k8)
    | 6 => need c0 (.zext a b s.k8)
    | _ => .error .functionCode
  | 0x0F => need (b == 0 && c0 && s.f == 0) (.liTl2 a s.k8)
  | 0x12 =>
    match s.f.toNat with
    | 0 => need k0 (.tagTl2 a b s.c)
    | 1 => need (c0 && k0) (.untag a b)
    | 2 => need (c0 && k0) (.tagof a b)
    | 3 => need k0 (.eidxTl2 a b s.c)
    | _ => .error .functionCode
  | 0x13 =>
    if s.f.toNat < 8 then
      need (a.toNat < 8 && s.k8.toNat < 16) (.cmp (bits 3 0 a.toNat) b s.c (bits 4 0 s.k8.toNat) (bits 3 0 s.f.toNat))
    else .error .functionCode
  | 0x14 =>
    if s.f.toNat < 8 then need (decide (a.toNat < 8)) (.cmpiTl2 (bits 3 0 a.toNat) b s.c (bits 3 0 s.f.toNat) s.k8)
    else .error .functionCode
  | 0x15 =>
    match s.f.toNat with
    | 0 => need (a.toNat < 8 && b.toNat < 8 && s.c.toNat < 8 && s.k8.toNat < 16)
        (.plog (bits 3 0 a.toNat) (bits 3 0 b.toNat) (bits 3 0 s.c.toNat) (bits 4 0 s.k8.toNat))
    | 1 => need (decide (s.k8.toNat < 16)) (.sel a b s.c (bits 3 0 s.k8.toNat) (s.k8.toNat / 8 == 1))
    | 2 => need (b == 0 && c0 && k0) (.pmovToScalar a)
    | 3 => need (a == 0 && c0 && k0) (.pmovFromScalar b)
    | _ => .error .functionCode
  | 0x1A =>
    match s.f.toNat with
    | 0 => need (a == 0 && c0 && k0) (.callr b)
    | 1 => need (a == 0 && c0 && k0) (.jmpr b)
    | _ => .error .functionCode
  | 0x1B =>
    match s.f.toNat with
    | 0 => need (a == 0 && c0) (.loop b s.k8)
    | 1 => .error .tailLength
    | 2 => need (b == 0 && c0 && k0) (.lbrk (bits 3 0 a.toNat) (a.toNat / 8 == 1))
    | _ => .error .functionCode
  | 0x1C =>
    match s.f.toNat with
    | 0 => need (a == 0 && b == 0 && c0 && k0) .flushw
    | 1 => need (a == 0 && k0) (.setws b s.c)
    | _ => .error .functionCode
  | 0x1D =>
    match s.f.toNat with
    | 0 => need (b == 0 && c0) (.srd a s.k8)
    | 1 => need (a == 0 && c0) (.swr b s.k8)
    | 2 => need (a == 0 && b == 0 && c0) (.yield s.k8)
    | _ => .error .functionCode
  | _ => .error .tailLength

/-- The two-source form with a 4-byte tail: IMM must be 1 and C must be 0 (R193). -/
def twoSrc4 (a b : BitVec 4) (s : Scalar4) (mk : TwoSrc4 → Instr) : Except DecodeError Instr :=
  need (fImm s.f && s.c == 0) (mk { a := a, b := b, ty := fTy s.f, sat := fSat s.f, i24 := s.i24 })

/-- The scalar forms with a 4-byte tail (R193 to R207). -/
def decodeScalar4 (maj : Nat) (a b : BitVec 4) (s : Scalar4) : Except DecodeError Instr :=
  let c0 := s.c == 0
  match maj with
  | 0x01 => twoSrc4 a b s .addTl4
  | 0x02 => twoSrc4 a b s .subTl4
  | 0x03 => twoSrc4 a b s .andTl4
  | 0x04 => twoSrc4 a b s .orTl4
  | 0x05 => twoSrc4 a b s .xorTl4
  | 0x06 => twoSrc4 a b s .shlTl4
  | 0x07 => twoSrc4 a b s .shrTl4
  | 0x08 => twoSrc4 a b s .sarTl4
  | 0x09 => twoSrc4 a b s .rolTl4
  | 0x0B => twoSrc4 a b s .mulTl4
  | 0x11 => twoSrc4 a b s .addaTl4
  | 0x0D =>
    match s.f.toNat / 4 with
    | 0 => need c0 (.minTl4 a b (bits 2 0 s.f.toNat) s.i24)
    | 1 => need c0 (.maxTl4 a b (bits 2 0 s.f.toNat) s.i24)
    | 2 => need (c0 && s.f == 8) (.andnTl4 a b s.i24)
    | _ => .error .functionCode
  | 0x0F => need (b == 0 && c0 && s.f == 0) (.liTl4 a s.i24)
  | 0x12 =>
    match s.f.toNat with
    | 0 => need (c0 && s.i24.toNat < 1024) (.tagTl4 a b (bits 6 4 s.i24.toNat) (bits 4 0 s.i24.toNat))
    | 1 => .error .tailLength
    | 2 => .error .tailLength
    | 3 => need c0 (.eidxTl4 a b s.i24)
    | _ => .error .functionCode
  | 0x14 =>
    if s.f.toNat < 8 then need (decide (a.toNat < 8)) (.cmpiTl4 (bits 3 0 a.toNat) b s.c (bits 3 0 s.f.toNat) s.i24)
    else .error .functionCode
  | 0x16 => need (a == 0 && b == 0 && c0 && s.f == 0) (.br s.i24)
  | 0x17 =>
    match s.f.toNat with
    | 0 => need (b == 0 && c0) (.bp (bits 3 0 a.toNat) (a.toNat / 8 == 1) s.i24)
    | 1 => need (b == 0 && c0) (.bz a s.i24)
    | 2 => need (b == 0 && c0) (.bnz a s.i24)
    | _ => .error .functionCode
  | 0x18 => need (a == 0 && b == 0 && c0 && s.f == 0) (.call s.i24)
  | 0x1B =>
    match s.f.toNat with
    | 0 => .error .tailLength
    | 1 => need (a == 0 && b == 0 && c0) (.loopi (bits 16 8 s.i24.toNat) (bits 8 0 s.i24.toNat))
    | 2 => .error .tailLength
    | _ => .error .functionCode
  | _ => .error .tailLength

/-- Majors 0x00 to 0x1D by tail length (R171). -/
def decodeScalar (maj tl : Nat) (a b : BitVec 4) (tail : Nat) : Except DecodeError Instr :=
  match tl with
  | 0 => decodeScalar0 maj a b
  | 1 => decodeScalar2 maj a b (Scalar2.ofTail tail)
  | 2 => decodeScalar4 maj a b (Scalar4.ofTail tail)
  | _ => match maj with
    | 0x00 => .error .reservedMajor
    | 0x10 => need (b == 0) (.limm a (BitVec.ofNat 64 tail))
    | _ => .error .tailLength

/-- The instruction of a head and tail, before its unused fields are checked. -/
def decodeForm (c : Code) : Except DecodeError Instr :=
  let h := c.head.toNat
  let maj := h / 1024
  let tl := headTl h
  let a := bits 4 4 h
  let b := bits 4 0 h
  let t := c.tail.toNat
  if maj < 0x1E then
    if maj = 0 ∧ tl ≠ 0 then .error .reservedMajor else decodeScalar maj tl a b t
  else if maj < 0x2C then
    if tl < 2 then .error .tailLength
    else if tl = 3 ∧ t / 2 ^ 52 % 8 ≠ 0 then .error .unusedField
    else match vecInstr maj (t % 16) with
      | some mk => .ok (mk (VecOps.ofTail a b (tl == 3) t))
      | none => .error .functionCode
  else if maj < 0x34 then
    if tl < 2 then .error .tailLength
    else match memInstr maj (h % 16) with
      | some mk => .ok (mk (MemOps.ofTail a (tl == 3) t))
      | none => .error .functionCode
  else
    if maj = 0x3F then .error .reservedMajor
    else if tl < 2 then .error .tailLength
    else match engInstr maj (t % 16) with
      | some mk => .ok (mk (EngOps.ofTail a b (tl == 3) t))
      | none => .error .functionCode

/-- THE DECODER: the instruction that a head with its tail stands for, or the name of what is wrong (R169 to R177). -/
def decode (c : Code) : Except DecodeError Instr :=
  match decodeForm c with
  | .ok i => if i.wf then .ok i else .error .unusedField
  | .error e => .error e

/-! The encoder, from the same tables. -/

/-- A code from its major, TL code, A, B and tail (R169). -/
def codeOf (maj tl a b tail : Nat) : Code :=
  { head := BitVec.ofNat 16 (maj * 1024 + tl * 256 + a * 16 + b), tail := BitVec.ofNat 64 tail }

def encHead (maj : Nat) (a b : BitVec 4) : Code := codeOf maj 0 a.toNat b.toNat 0

def encS2 (maj : Nat) (a b c f : BitVec 4) (k8 : BitVec 8) : Code :=
  codeOf maj 1 a.toNat b.toNat (Scalar2.toTail { c := c, f := f, k8 := k8 })

def encS4 (maj : Nat) (a b c f : BitVec 4) (i24 : BitVec 24) : Code :=
  codeOf maj 2 a.toNat b.toNat (Scalar4.toTail { c := c, f := f, i24 := i24 })

def encTwo2 (maj : Nat) (o : TwoSrc2) : Code := encS2 maj o.a o.b o.c (fOf o.imm o.ty o.sat) o.k8

def encTwo4 (maj : Nat) (o : TwoSrc4) : Code := encS4 maj o.a o.b 0 (fOf true o.ty o.sat) o.i24

def encVec (maj fn : Nat) (o : VecOps) : Code :=
  codeOf maj (if o.ext.isSome then 3 else 2) o.a.toNat o.b.toNat (o.toTail fn)

def encMem (maj b : Nat) (o : MemOps) : Code :=
  codeOf maj (if o.hi.isSome then 3 else 2) o.a.toNat b o.toTail

def encEng (maj fn4 : Nat) (o : EngOps) : Code :=
  codeOf maj (if o.hi.isSome then 3 else 2) o.a.toNat o.b.toNat (o.toTail fn4)

/-- A predicate with its negation, as a head field (R203, R208). -/
def predField (p : BitVec 3) (neg : Bool) : BitVec 4 := BitVec.ofNat 4 (neg.toNat * 8 + p.toNat)

/-- The operation in F[3:2] and the type in F[1:0] (R194, R195). -/
def opTy (op : Nat) (ty : BitVec 2) : BitVec 4 := BitVec.ofNat 4 (op * 4 + ty.toNat)

/-- THE ENCODER: the head and tail of an instruction; an event of the opcode table has none. -/
def encode : Instr → Option Code
  | .nop => some (encHead 0x00 0 0)
  | .addHeadOnly a b => some (encHead 0x01 a b)
  | .addTl2 o => some (encTwo2 0x01 o)
  | .addTl4 o => some (encTwo4 0x01 o)
  | .subHeadOnly a b => some (encHead 0x02 a b)
  | .subTl2 o => some (encTwo2 0x02 o)
  | .subTl4 o => some (encTwo4 0x02 o)
  | .andHeadOnly a b => some (encHead 0x03 a b)
  | .andTl2 o => some (encTwo2 0x03 o)
  | .andTl4 o => some (encTwo4 0x03 o)
  | .orHeadOnly a b => some (encHead 0x04 a b)
  | .orTl2 o => some (encTwo2 0x04 o)
  | .orTl4 o => some (encTwo4 0x04 o)
  | .xorHeadOnly a b => some (encHead 0x05 a b)
  | .xorTl2 o => some (encTwo2 0x05 o)
  | .xorTl4 o => some (encTwo4 0x05 o)
  | .shlHeadOnly a b => some (encHead 0x06 a b)
  | .shlTl2 o => some (encTwo2 0x06 o)
  | .shlTl4 o => some (encTwo4 0x06 o)
  | .shrHeadOnly a b => some (encHead 0x07 a b)
  | .shrTl2 o => some (encTwo2 0x07 o)
  | .shrTl4 o => some (encTwo4 0x07 o)
  | .sarHeadOnly a b => some (encHead 0x08 a b)
  | .sarTl2 o => some (encTwo2 0x08 o)
  | .sarTl4 o => some (encTwo4 0x08 o)
  | .rolTl2 o => some (encTwo2 0x09 o)
  | .rolTl4 o => some (encTwo4 0x09 o)
  | .mov a b => some (encHead 0x0A a b)
  | .mulHeadOnly a b => some (encHead 0x0B a b)
  | .mulTl2 o => some (encTwo2 0x0B o)
  | .mulTl4 o => some (encTwo4 0x0B o)
  | .mulh a b c ty => some (encS2 0x0C a b c (opTy 0 ty) 0)
  | .div a b c ty => some (encS2 0x0C a b c (opTy 1 ty) 0)
  | .rem a b c ty => some (encS2 0x0C a b c (opTy 2 ty) 0)
  | .minTl2 a b c ty => some (encS2 0x0D a b c (opTy 0 ty) 0)
  | .minTl4 a b ty i => some (encS4 0x0D a b 0 (opTy 0 ty) i)
  | .maxTl2 a b c ty => some (encS2 0x0D a b c (opTy 1 ty) 0)
  | .maxTl4 a b ty i => some (encS4 0x0D a b 0 (opTy 1 ty) i)
  | .andnTl2 a b c => some (encS2 0x0D a b c 8 0)
  | .andnTl4 a b i => some (encS4 0x0D a b 0 8 i)
  | .clz a b t => some (encS2 0x0E a b t 0 0)
  | .ctz a b t => some (encS2 0x0E a b t 1 0)
  | .popc a b t => some (encS2 0x0E a b t 2 0)
  | .brev a b t => some (encS2 0x0E a b t 3 0)
  | .bswap a b t => some (encS2 0x0E a b t 4 0)
  | .sext a b n => some (encS2 0x0E a b 0 5 n)
  | .zext a b n => some (encS2 0x0E a b 0 6 n)
  | .liTl2 a k => some (encS2 0x0F a 0 0 0 k)
  | .liTl4 a i => some (encS4 0x0F a 0 0 0 i)
  | .limm a lit => some (codeOf 0x10 3 a.toNat 0 lit.toNat)
  | .addaHeadOnly a b => some (encHead 0x11 a b)
  | .addaTl2 o => some (encTwo2 0x11 o)
  | .addaTl4 o => some (encTwo4 0x11 o)
  | .tagTl2 a b c => some (encS2 0x12 a b c 0 0)
  | .tagTl4 a b f l => some (encS4 0x12 a b 0 0 (BitVec.ofNat 24 (f.toNat * 16 + l.toNat)))
  | .untag a b => some (encS2 0x12 a b 0 1 0)
  | .tagof a b => some (encS2 0x12 a b 0 2 0)
  | .eidxTl2 a b c => some (encS2 0x12 a b c 3 0)
  | .eidxTl4 a b i => some (encS4 0x12 a b 0 3 i)
  | .cmp p b c t cc => some (encS2 0x13 (p.setWidth 4) b c (cc.setWidth 4) (t.setWidth 8))
  | .cmpiTl2 p b t cc k => some (encS2 0x14 (p.setWidth 4) b t (cc.setWidth 4) k)
  | .cmpiTl4 p b t cc i => some (encS4 0x14 (p.setWidth 4) b t (cc.setWidth 4) i)
  | .plog d a b l => some (encS2 0x15 (d.setWidth 4) (a.setWidth 4) (b.setWidth 4) 0 (l.setWidth 8))
  | .sel a b c p n => some (encS2 0x15 a b c 1 ((predField p n).setWidth 8))
  | .pmovToScalar a => some (encS2 0x15 a 0 0 2 0)
  | .pmovFromScalar b => some (encS2 0x15 0 b 0 3 0)
  | .br i => some (encS4 0x16 0 0 0 0 i)
  | .bp p n i => some (encS4 0x17 (predField p n) 0 0 0 i)
  | .bz a i => some (encS4 0x17 a 0 0 1 i)
  | .bnz a i => some (encS4 0x17 a 0 0 2 i)
  | .call i => some (encS4 0x18 0 0 0 0 i)
  | .ret => some (encHead 0x19 0 0)
  | .callr b => some (encS2 0x1A 0 b 0 0 0)
  | .jmpr b => some (encS2 0x1A 0 b 0 1 0)
  | .loop b k => some (encS2 0x1B 0 b 0 0 k)
  | .loopi c n => some (encS4 0x1B 0 0 0 1 (BitVec.ofNat 24 (c.toNat * 256 + n.toNat)))
  | .lbrk p n => some (encS2 0x1B (predField p n) 0 0 2 0)
  | .flushw => some (encS2 0x1C 0 0 0 0 0)
  | .setws b c => some (encS2 0x1C 0 b c 1 0)
  | .srd a k => some (encS2 0x1D a 0 0 0 k)
  | .swr b k => some (encS2 0x1D 0 b 0 1 k)
  | .yield k => some (encS2 0x1D 0 0 0 2 k)
  | .windowSpillFill _ _ => none
  | .vadd o => some (encVec 0x1E 0 o)
  | .vsub o => some (encVec 0x1E 1 o)
  | .vmul o => some (encVec 0x1E 2 o)
  | .vfma o => some (encVec 0x1F 0 o)
  | .vfms o => some (encVec 0x1F 1 o)
  | .vfnma o => some (encVec 0x1F 2 o)
  | .vmin o => some (encVec 0x20 0 o)
  | .vmax o => some (encVec 0x20 1 o)
  | .vminn o => some (encVec 0x20 2 o)
  | .vmaxn o => some (encVec 0x20 3 o)
  | .vand o => some (encVec 0x21 0 o)
  | .vor o => some (encVec 0x21 1 o)
  | .vxor o => some (encVec 0x21 2 o)
  | .vshl o => some (encVec 0x21 3 o)
  | .vshr o => some (encVec 0x21 4 o)
  | .vsar o => some (encVec 0x21 5 o)
  | .vabs o => some (encVec 0x22 0 o)
  | .vneg o => some (encVec 0x22 1 o)
  | .vcmp o => some (encVec 0x22 2 o)
  | .vsel o => some (encVec 0x22 3 o)
  | .mlog o => some (encVec 0x23 0 o)
  | .vpopm o => some (encVec 0x23 1 o)
  | .viota o => some (encVec 0x23 2 o)
  | .vcvt o => some (encVec 0x24 0 o)
  | .vwadd o => some (encVec 0x25 0 o)
  | .vwmul o => some (encVec 0x25 1 o)
  | .vwmacc o => some (encVec 0x25 2 o)
  | .vdot4 o => some (encVec 0x25 3 o)
  | .vrcp o => some (encVec 0x26 0 o)
  | .vrsq o => some (encVec 0x26 1 o)
  | .vrcps o => some (encVec 0x26 2 o)
  | .vrsqs o => some (encVec 0x26 3 o)
  | .vsqrt o => some (encVec 0x26 4 o)
  | .vdiv o => some (encVec 0x26 5 o)
  | .vexp2 o => some (encVec 0x27 0 o)
  | .vlog2 o => some (encVec 0x27 1 o)
  | .vtanh o => some (encVec 0x27 2 o)
  | .vredsum o => some (encVec 0x28 0 o)
  | .vredmax o => some (encVec 0x28 1 o)
  | .vredmin o => some (encVec 0x28 2 o)
  | .vscan o => some (encVec 0x28 3 o)
  | .vperm o => some (encVec 0x29 0 o)
  | .vslide o => some (encVec 0x29 1 o)
  | .vcomp o => some (encVec 0x29 2 o)
  | .vbcast o => some (encVec 0x2A 0 o)
  | .vmovs o => some (encVec 0x2A 1 o)
  | .vsisx o => some (encVec 0x2B 0 o)
  | .vxsum o => some (encVec 0x2B 1 o)
  | .ld o => some (encMem 0x2C 0 o)
  | .st o => some (encMem 0x2C 1 o)
  | .ldl o => some (encMem 0x2D 0 o)
  | .stl o => some (encMem 0x2D 1 o)
  | .vld o => some (encMem 0x2E 0 o)
  | .vst o => some (encMem 0x2E 1 o)
  | .vlds o => some (encMem 0x2E 2 o)
  | .vsts o => some (encMem 0x2E 3 o)
  | .vldt o => some (encMem 0x2E 4 o)
  | .vgath o => some (encMem 0x2F 0 o)
  | .vscat o => some (encMem 0x2F 1 o)
  | .aadd o => some (encMem 0x30 0 o)
  | .aand o => some (encMem 0x30 1 o)
  | .aor o => some (encMem 0x30 2 o)
  | .axor o => some (encMem 0x30 3 o)
  | .amin o => some (encMem 0x30 4 o)
  | .amax o => some (encMem 0x30 5 o)
  | .aswap o => some (encMem 0x30 6 o)
  | .acas o => some (encMem 0x30 7 o)
  | .afadd o => some (encMem 0x30 8 o)
  | .fence o => some (encMem 0x31 0 o)
  | .mwait o => some (encMem 0x31 1 o)
  | .pref o => some (encMem 0x31 2 o)
  | .cflush o => some (encMem 0x31 3 o)
  | .lzero o => some (encMem 0x31 4 o)
  | .bara o => some (encMem 0x32 0 o)
  | .barw o => some (encMem 0x32 1 o)
  | .bar o => some (encMem 0x32 2 o)
  | .barinit o => some (encMem 0x32 3 o)
  | .barrierWakeup _ => none
  | .tdecl o => some (encMem 0x33 0 o)
  | .tfree o => some (encMem 0x33 1 o)
  | .tfwd o => some (encMem 0x33 2 o)
  | .migr o => some (encMem 0x33 3 o)
  | .migrationPacketAccept _ => none
  | .shape o => some (encEng 0x34 0 o)
  | .mzero o => some (encEng 0x34 1 o)
  | .mma o => some (encEng 0x35 0 o)
  | .mjoint o => some (encEng 0x35 1 o)
  | .jointStart _ _ => none
  | .mld o => some (encEng 0x36 0 o)
  | .mst o => some (encEng 0x36 1 o)
  | .tstb o => some (encEng 0x36 2 o)
  | .sload o => some (encEng 0x37 0 o)
  | .ssort o => some (encEng 0x37 1 o)
  | .sstore o => some (encEng 0x37 2 o)
  | .sstat o => some (encEng 0x37 3 o)
  | .hcopy o => some (encEng 0x38 0 o)
  | .hcopym o => some (encEng 0x38 1 o)
  | .followOnStart _ _ => none
  | .hsend o => some (encEng 0x39 0 o)
  | .hgath o => some (encEng 0x39 1 o)
  | .engineCommandStart _ _ => none
  | .hodPieceLand _ _ _ => none
  | .bbinit o => some (encEng 0x3A 0 o)
  | .bbwait o => some (encEng 0x3A 1 o)
  | .bbtest o => some (encEng 0x3A 2 o)
  | .bbwaitTimeout _ => none
  | .monitorFire _ => none
  | .mwaitTimeout _ => none
  | .mwaitPoll _ _ => none
  | .launch o => some (encEng 0x3B 0 o)
  | .task o => some (encEng 0x3B 1 o)
  | .fpdecl o => some (encEng 0x3B 2 o)
  | .trap o => some (encEng 0x3C 0 o)
  | .eret o => some (encEng 0x3C 1 o)
  | .exit o => some (encEng 0x3C 2 o)
  | .phintRegisters o => some (encEng 0x3D 0 o)
  | .phintRange o => some (encEng 0x3D 1 o)
  | .tlbinv o => some (encEng 0x3E 0 o)
  | .fack o => some (encEng 0x3E 1 o)
  | .pageWalk _ _ _ => none
  | .qtailWrite _ _ => none
  | .qtailAmo _ _ _ _ => none
  | .hubRecordAccept _ => none
  | .placeLaunch _ => none
  | .gangReserve _ => none
  | .gangTimerExpiry => none
  | .launchComplete _ => none
  | .budgetExhaustion _ _ => none
  | .commit _ => none
  | .cttimeWrite _ => none
  | .tnsaveWrite _ _ => none
  | .drainLeadHold => none
  | .courseEdge => none
  | .quadSave _ => none
  | .overlimExpiry => none
  | .courseBoundary => none
  | .saveLateComplete _ _ => none
  | .lintelRestore _ _ => none
  | .bayDonation _ _ => none
  | .parkMessage _ => none
  | .messageReoffer _ => none
  | .gets _ => none
  | .getl _ => none
  | .geto _ => none
  | .puto _ _ => none
  | .puts _ _ => none
  | .invalidation _ _ => none
  | .recall _ _ => none
  | .answer _ _ => none
  | .horizonExpiry _ => none
  | .leaseExpiry _ _ => none
  | .hostRequest _ _ => none
  | .birsp _ _ _ => none
  | .hostSnoop _ _ => none
  | .dpSnap _ _ => none
  | .dptEnable _ _ => none
  | .dptClear _ _ => none
  | .vlntenantWrite _ _ _ => none
  | .heartbeatCrossing => none
  | .heartbeatReceive _ => none
  | .fenceArrival _ => none
  | .fenceClear _ => none
  | .powerOn _ => none
  | .spdm => none
  | .doeSpdmRequest _ _ => none
  | .keygen => none
  | .keyclr => none
  | .tkeyset => none
  | .dbgkey => none
  | .dbgnonce => none
  | .dbgauth => none
  | .dbgend => none
  | .lifecycle => none
  | .conf => none
  | .mailboxComplete => none
  | .debugSessionExpiry _ => none
  | .debugHalt _ => none
  | .debugStep _ => none
  | .breakpointMatch _ => none
  | .continueAt _ => none
  | .powerSample _ => none
  | .powerTrip => none
  | .thermalThrottleTrip _ => none
  | .thermalShutdown _ => none
  | .throttleLift _ => none
  | .powerTripClear => none
  | .quadWake _ => none
  | .packageIdleEntry => none
  | .packageIdleExit => none
  | .lkctlGo _ => none
  | .ecclr _ _ _ => none
  | .structCounterClear => none
  | .registerWrite _ _ _ _ => none
  | .privateStateError _ => none
  | .agentUnresponsive _ _ => none
  | .bitoTimeout _ _ => none
  | .timeCompare _ => none
  | .patrolScrub _ _ _ => none
  | .flitReplay _ => none
  | .moduleRetrain _ => none
  | .dieStatusBeat _ => none
  | .cxlLinkDown _ _ => none
  | .cxlRetrainTimeout _ => none
  | .cxlLinkUp _ => none
  | .watchdogKick => none
  | .watchdogExpiry _ => none
  | .loadPerformed _ _ _ _ => none
  | .storePerformed _ _ _ => none
  | .instructionLineFetch _ => none
  | .engineCommandCompletion _ _ => none
  | .yieldExpiry _ => none
  | .powerRemoved => none
  | .peerLinkLoss _ => none
  | .peerLinkTrained _ _ => none
  | .ucieRetrainComplete _ _ => none
  | .dispatcherUncorrectableError _ => none
  | .counterResynchronisation => none
  | .debugPortRequest _ => none
  | .cxlCacheResponse _ _ _ => none

/-- The instruction that the decoder reads from a word numbered as spec/opcode_table.json numbers it: the head is the top
16 bits of the `nbits` bits, and the bits below it are the tail (R169; the table's own matches are written so). -/
def decodeTableWord (nbits w : Nat) : Option Instr :=
  let n := nbits - 16
  match decode { head := BitVec.ofNat 16 (w / 2 ^ n), tail := BitVec.ofNat 64 (w % 2 ^ n) } with
  | .ok i => some i
  | .error _ => none

/-- The code of a word numbered as in the opcode table. -/
def codeOfTableWord (nbits w : Nat) : Code :=
  { head := BitVec.ofNat 16 (w / 2 ^ (nbits - 16)), tail := BitVec.ofNat 64 (w % 2 ^ (nbits - 16)) }

end Sys2Proof
end

