-- ==== Sys2Proof/Machine/Numbers.lean ====
section
/-! DEFINITION. Numbers as they are before rounding: type codes (spec/00_scope.md R8, R9), integers of a type (R192),
exact floating-point values and their decoding (spec/04_numbers.md R90 to R95), exact sums and products, and packed
elements (R213). -/

namespace Sys2Proof.Machine

/-- Width in bits of a type code (R8). -/
def typeBits (t : Nat) : Nat :=
  match t with
  | 0 | 1 | 11 | 12 => 8
  | 2 | 3 | 9 | 10 => 16
  | 4 | 5 | 8 => 32
  | 6 | 7 => 64
  | _ => 4

/-- sN: two's complement (R8, R93): s8, s16, s32, s64 and s4. -/
def typeSigned (t : Nat) : Bool := t == 0 || t == 2 || t == 4 || t == 6 || t == 14

/-- A floating-point type code (R8). -/
def typeFloat (t : Nat) : Bool := 8 ≤ t && t ≤ 13

/-- x read as a w-bit two's complement number. -/
def signedOf (w x : Nat) : Int :=
  let y := x % 2 ^ w
  if y < 2 ^ (w - 1) then (y : Int) else (y : Int) - 2 ^ w

/-- int_of of R192. -/
def intOf (x t : Nat) : Int :=
  if typeSigned t then signedOf (typeBits t) x else ((x % 2 ^ typeBits t : Nat) : Int)

/-- v mod 2^w as a natural number. -/
def wrapInt (w : Nat) (v : Int) : Nat := (v % (2 ^ w : Int)).toNat

/-- The least and greatest values of an integer type (R93). -/
def intMin (t : Nat) : Int := if typeSigned t then -(2 ^ (typeBits t - 1)) else 0
def intMax (t : Nat) : Int := if typeSigned t then 2 ^ (typeBits t - 1) - 1 else 2 ^ typeBits t - 1

/-- ext64 of R192: w bits extended to 64 by the type. -/
def ext64 (b t : Nat) : Word := BitVec.ofInt 64 (intOf b t)

/-- The fields of a floating-point format (R90). -/
structure Fmt where
  width : Nat
  expBits : Nat
  p : Nat
  bias : Nat
  hasInf : Bool
  /-- Exponent and mantissa fields of the largest finite value. -/
  maxExp : Nat
  maxMan : Nat
  deriving DecidableEq, Repr

/-- The format of a floating-point type code; any other code reads as f32 and is never used. -/
def fmtOf (t : Nat) : Fmt :=
  match t with
  | 9 => { width := 16, expBits := 5, p := 10, bias := 15, hasInf := true, maxExp := 30, maxMan := 1023 }
  | 10 => { width := 16, expBits := 8, p := 7, bias := 127, hasInf := true, maxExp := 254, maxMan := 127 }
  | 11 => { width := 8, expBits := 4, p := 3, bias := 7, hasInf := false, maxExp := 15, maxMan := 6 }
  | 12 => { width := 8, expBits := 5, p := 2, bias := 15, hasInf := true, maxExp := 30, maxMan := 3 }
  | 13 => { width := 4, expBits := 2, p := 1, bias := 1, hasInf := false, maxExp := 3, maxMan := 1 }
  | _ => { width := 32, expBits := 8, p := 23, bias := 127, hasInf := true, maxExp := 254, maxMan := 2 ^ 23 - 1 }

/-- An exact value: a NaN with its sign and its mantissa field of `width` bits, an infinity, or (−1)^neg × mag × 2^exp. -/
inductive Num where
  | nan (neg : Bool) (payload width : Nat)
  | inf (neg : Bool)
  | fin (neg : Bool) (mag : Nat) (exp : Int)
  deriving DecidableEq, Repr

def Num.isNan : Num → Bool
  | .nan _ _ _ => true
  | _ => false

/-- A signalling NaN: the mantissa MSB is 0 (R92). -/
def Num.isSignalling : Num → Bool
  | .nan _ p w => p / 2 ^ (w - 1) % 2 == 0
  | _ => false

def Num.isInf : Num → Bool
  | .inf _ => true
  | _ => false

def Num.isZero : Num → Bool
  | .fin _ m _ => m == 0
  | _ => false

def Num.sign : Num → Bool
  | .nan s _ _ => s
  | .inf s => s
  | .fin s _ _ => s

def Num.neg : Num → Num
  | .nan s p w => .nan (!s) p w
  | .inf s => .inf (!s)
  | .fin s m e => .fin (!s) m e

def Num.ofInt (n : Int) : Num := .fin (decide (n < 0)) n.natAbs 0

/-- v × 2^k. -/
def Num.scale (v : Num) (k : Int) : Num :=
  match v with
  | .fin s m e => .fin s m (e + k)
  | v => v

/-- A quiet NaN with no payload, the value behind the default NaN of R92. -/
def Num.defaultNan : Num := .nan false (2 ^ 22) 23

/-- decode_float of R91, with the NaN patterns of R90. -/
def decodeFloat (b t : Nat) : Num :=
  let f := fmtOf t
  let neg := b / 2 ^ (f.width - 1) % 2 == 1
  let e := b / 2 ^ f.p % 2 ^ f.expBits
  let m := b % 2 ^ f.p
  let ones := 2 ^ f.expBits - 1
  if f.hasInf && e == ones && m != 0 then .nan neg m f.p
  else if t == 11 && e == ones && m == 7 then .nan neg m f.p
  else if f.hasInf && e == ones then .inf neg
  else if e == 0 then .fin neg m (1 - f.bias - f.p)
  else .fin neg (2 ^ f.p + m) ((e : Int) - f.bias - f.p)

/-- The value of w bits of a type, integer or floating point (R91, R93). -/
def decodeNum (b t : Nat) : Num :=
  if typeFloat t then decodeFloat b t else Num.ofInt (intOf b t)

/-- mag × 2^exp as an integer over the exponent e ≤ exp, with its sign. -/
def finAt (neg : Bool) (mag : Nat) (exp e : Int) : Int :=
  let m : Int := (mag : Int) * 2 ^ (exp - e).toNat
  if neg then -m else m

/-- The exact sum; none for ∞ − ∞. NaN operands are the caller's. The zero's sign is set by the caller (R219). -/
def Num.add (a b : Num) : Option Num :=
  match a, b with
  | .inf s, .inf s' => if s == s' then some (.inf s) else none
  | .inf s, _ => some (.inf s)
  | _, .inf s => some (.inf s)
  | .fin s m e, .fin s' m' e' =>
    if m == 0 then some (.fin s' m' e')
    else if m' == 0 then some (.fin s m e)
    else
      let k := min e e'
      let v := finAt s m e k + finAt s' m' e' k
      some (.fin (decide (v < 0)) v.natAbs k)
  | .nan s p w, _ => some (.nan s p w)
  | _, .nan s p w => some (.nan s p w)

/-- 0 × ∞ in either order. -/
def zeroTimesInf (a b : Num) : Bool := (a.isZero && b.isInf) || (a.isInf && b.isZero)

/-- The exact product; 0 × ∞ and NaN operands are the caller's. -/
def Num.mul (a b : Num) : Num :=
  match a, b with
  | .fin s m e, .fin s' m' e' => .fin (s != s') (m * m') (e + e')
  | a, b => .inf (a.sign != b.sign)

/-- The order of two numbers, zeros equal, as −1, 0 or 1; NaN operands are the caller's. -/
def Num.cmp (a b : Num) : Int :=
  match a, b with
  | .inf s, .inf s' => if s == s' then 0 else if s then -1 else 1
  | .inf s, _ => if s then -1 else 1
  | _, .inf s => if s then 1 else -1
  | .fin s m e, .fin s' m' e' =>
    let k := min e e'
    let d := finAt s m e k - finAt s' m' e' k
    if d < 0 then -1 else if d = 0 then 0 else 1
  | _, _ => 0

/-! Group formats (R32, R33, R94). -/

/-- Codes of the group formats q4g, q8g, e2m1b and e4m3b (R9). -/
def isGroupFmt (fmt : Nat) : Bool := 0x21 ≤ fmt && fmt ≤ 0x24

/-- Bits of an element of a group format (R32). -/
def groupElemBits (fmt : Nat) : Nat := if fmt == 0x21 || fmt == 0x23 then 4 else 8

/-- Bytes from one block to the next: the header and the elements, to a multiple of 4 (R32, R33). -/
def groupStride (fmt blog : Nat) : Nat := (4 + 2 ^ blog * groupElemBits fmt / 8 + 3) / 4 * 4

/-- The value of an element of a group block from its 4-byte header and its bits, and whether invalid is raised (R94). -/
def groupDecode (header q fmt : Nat) : Num × Bool :=
  if fmt == 0x21 || fmt == 0x22 then
    let z := header / 65536 % 256
    let d := (q : Int) - z
    match decodeFloat (header % 65536) 9 with
    | .nan _ _ _ => (Num.defaultNan, true)
    | .inf s => if d = 0 then (Num.defaultNan, true) else (.inf (s != decide (d < 0)), false)
    | .fin s m e => (.fin (s != decide (d < 0)) (m * d.natAbs) e, false)
  else
    let e := header % 256
    if e == 255 then (Num.defaultNan, true)
    else
      match decodeFloat q (if fmt == 0x23 then 13 else 11) with
      | .nan s p w => (.nan s p w, false)
      | v => (v.scale ((e : Int) - 127), false)

/-! Packed elements (R213). -/

/-- Element i of width w of a bit string. -/
def elemOf (x w i : Nat) : Nat := x / 2 ^ (w * i) % 2 ^ w

/-- The n elements of width w of a bit string. -/
def elemsOf (x w n : Nat) : List Nat := (List.range n).map (elemOf x w)

/-- The elements of a list packed into a bit string, element 0 in the low bits. -/
def packElems (w : Nat) : List Nat → Nat
  | [] => 0
  | e :: r => e % 2 ^ w + 2 ^ w * packElems w r

/-- The bit string with element i replaced. -/
def setElem (x w i v : Nat) : Nat :=
  x % 2 ^ (w * i) + (v % 2 ^ w) * 2 ^ (w * i) + x / 2 ^ (w * (i + 1)) * 2 ^ (w * (i + 1))

/-- ⌊√n⌋ by a digit recurrence over pairs of bits, from 4^k down. -/
def isqrtGo : Nat → Nat → Nat → Nat
  | 0, _, r => r
  | k + 1, n, r =>
    let c := 2 * r + 1
    -- the next binary digit of the root of n / 4^k
    if c * c ≤ n / 4 ^ k then isqrtGo k n c else isqrtGo k n (2 * r)

/-- ⌊√n⌋. -/
def isqrt (n : Nat) : Nat := isqrtGo (n.log2 / 2 + 1) n 0

end Sys2Proof.Machine
end

