-- ==== Sys2Proof/Machine/Flags.lean ====
section
/-! DEFINITION. Every rounding and every flag (spec/04_numbers.md R96 to R101; spec/09_vector.md R219 to R230): each function
answers the result's bits and the flags it raises, in the order of `sr.fflags`. -/

namespace Sys2Proof.Machine

/-- The six sticky flags of `sr.fflags` (R101): NV, DZ, OF, UF, NX, SA from bit 0. -/
abbrev FFlags := BitVec 6

def flagNV : FFlags := 1
def flagDZ : FFlags := 2
def flagOF : FFlags := 4
def flagUF : FFlags := 8
def flagNX : FFlags := 16
def flagSA : FFlags := 32

/-- A flag raised under a condition. -/
def flagIf (c : Bool) (f : FFlags) : FFlags := if c then f else 0

/-- fit_int of R192: the value in range, or wrapped, or clamped with SA. -/
def fitInt (v : Int) (t : Nat) (sat : Bool) : Nat × FFlags :=
  if sat && (decide (v < intMin t) || decide (intMax t < v)) then
    (wrapInt (typeBits t) (if v < intMin t then intMin t else intMax t), flagSA)
  else (wrapInt (typeBits t) v, 0)

/-- The stochastic generator's step (R100): the new state; the draw is its bits [63:40]. -/
def genStep (g : Word) : Word :=
  let g := g ^^^ (g <<< 13)
  let g := g ^^^ (g >>> 7)
  g ^^^ (g <<< 17)

/-- The 24-bit draw of a generator that has stepped (R100). -/
def genDraw (g : Word) : Nat := g.toNat / 2 ^ 40

/-- The magnitude in units of 2^q to which mag × 2^exp is rounded by a mode of R10, whether it is inexact, and whether the
neighbour of greater magnitude was chosen (R96); u is the draw under rsr. -/
def roundMag (neg : Bool) (mag : Nat) (exp q : Int) (mode u : Nat) : Nat × Bool × Bool :=
  if q ≤ exp then (mag * 2 ^ (exp - q).toNat, false, false)
  else
    let sh := (q - exp).toNat
    let t := mag / 2 ^ sh
    let r := mag % 2 ^ sh
    if r = 0 then (t, false, false)
    else
      let up : Bool :=
        match mode with
        | 0 => decide (2 ^ sh < 2 * r) || (decide (2 ^ sh = 2 * r) && t % 2 == 1)
        | 1 => false
        | 2 => neg
        | 3 => !neg
        | 4 => decide (2 ^ sh ≤ 2 * r)
        | _ =>
          -- (x − lo) / q(x), where lo is the neighbour toward −∞
          let above := if neg then 2 ^ sh - r else r
          let hi := decide (u < above * 2 ^ 24 / 2 ^ sh)
          hi != neg
      (t + up.toNat, true, up)

/-- The sign bit of a format. -/
def signBit (f : Fmt) (neg : Bool) : Nat := neg.toNat * 2 ^ (f.width - 1)

/-- The pattern of the largest finite magnitude. -/
def maxPattern (f : Fmt) : Nat := f.maxExp * 2 ^ f.p + f.maxMan

/-- The pattern of +∞, or of the NaN that stands for it in e4m3 (R98). -/
def infPattern (f : Fmt) : Nat := if f.hasInf then (2 ^ f.expBits - 1) * 2 ^ f.p else 2 ^ (f.width - 1) - 1

/-- The default NaN of a format (R92): e2m1 has none and gives +0. -/
def defaultNan (t : Nat) : Nat :=
  match t with
  | 8 => 0x7FC00000
  | 9 => 0x7E00
  | 10 => 0x7FC0
  | 11 => 0x7F
  | 12 => 0x7E
  | _ => 0

/-- The default NaN as an arithmetic result, with NV for e2m1 (R92). -/
def nanResult (t : Nat) (f : FFlags) : Nat × FFlags :=
  (defaultNan t, if t == 13 then f ||| flagNV else f)

/-- The overflow column of R98: `up` says that rsr chose the neighbour of greater magnitude. For e2m1, "where a value beyond 6 is
chosen" is read as the direction away from zero, as the row of e4m3 with SAT 1 has it: rdn of a negative and rup of a positive x
(DEDUCED, log entry 26). -/
def overflowTo (f : Fmt) (neg : Bool) (mode : Nat) (sat : Bool) (up : Bool) : Nat × FFlags :=
  let big : Bool :=
    match mode with
    | 0 => true
    | 1 => false
    | 2 => neg
    | 3 => !neg
    | 4 => true
    | _ => up
  let fl := flagOF ||| flagNX
  if sat || f.width == 4 then (signBit f neg + maxPattern f, fl ||| flagIf big flagSA)
  else if big then (signBit f neg + infPattern f, fl)
  else (signBit f neg + maxPattern f, fl)

/-- The ±∞ input column of R98. -/
def infTo (f : Fmt) (neg : Bool) (sat : Bool) : Nat × FFlags :=
  if f.hasInf then (signBit f neg + infPattern f, 0)
  else if sat || f.width == 4 then (signBit f neg + maxPattern f, flagSA)
  else (signBit f neg + infPattern f, flagNV)

/-- A NaN converted between formats (R92): sign and payload kept, quiet bit set; e2m1 gives +0 with NV. -/
def nanTo (t : Nat) (neg : Bool) (payload width : Nat) (signalling : Bool) : Nat × FFlags :=
  let f := fmtOf t
  if t == 13 then (0, flagNV)
  else if t == 11 then (signBit f neg + 0x7F, flagIf signalling flagNV)
  else
    let m := if f.p ≤ width then payload / 2 ^ (width - f.p) else payload * 2 ^ (f.p - width)
    let m := if m / 2 ^ (f.p - 1) % 2 == 1 then m else m + 2 ^ (f.p - 1)
    (signBit f neg + (2 ^ f.expBits - 1) * 2 ^ f.p + m, flagIf signalling flagNV)

/-- ⌊log2 m⌋ of a positive number. -/
def log2Floor (m : Nat) : Nat := m.log2

/-- Whether a × 2^i is greater than b × 2^j. -/
def magGt (a : Nat) (i : Int) (b : Nat) (j : Int) : Bool :=
  let k := min i j
  decide (b * 2 ^ (j - k).toNat < a * 2 ^ (i - k).toNat)

/-- round_to of R97 for a floating-point target. -/
def roundFloat (v : Num) (t mode : Nat) (sat : Bool) (u : Nat) : Nat × FFlags :=
  let f := fmtOf t
  match v with
  | .nan s p w => nanTo t s p w v.isSignalling
  | .inf s => infTo f s sat
  | .fin s m e =>
    if m = 0 then (signBit f s, 0)
    else
      let least : Int := 1 - f.bias - f.p
      let q : Int := max ((log2Floor m : Int) + e - f.p) least
      let r := roundMag s m e q mode u
      let y := r.1
      let inexact := r.2.1
      if magGt y q (2 ^ f.p + f.maxMan) ((f.maxExp : Int) - f.bias - f.p) then overflowTo f s mode sat r.2.2
      else
        let fl := flagIf inexact flagNX ||| flagIf (inexact && decide (q = least) && decide (y < 2 ^ f.p)) flagUF
        -- rounding up to the next power of two moves the exponent
        let y' := if 2 ^ (f.p + 1) ≤ y then y / 2 else y
        let q' := if 2 ^ (f.p + 1) ≤ y then q + 1 else q
        if y' < 2 ^ f.p then (signBit f s + y', fl)
        else (signBit f s + (q' - least + 1).toNat * 2 ^ f.p + (y' - 2 ^ f.p), fl)

/-- Floating point to integer (R99). -/
def roundInt (v : Num) (t mode : Nat) (sat : Bool) (u : Nat) : Nat × FFlags :=
  let w := typeBits t
  match v with
  | .nan _ _ _ => (0, flagNV)
  | .inf s => (wrapInt w (if s then intMin t else intMax t), if sat then flagSA else flagNV)
  | .fin s m e =>
    let r := roundMag s m e 0 mode u
    let n : Int := if s then -(r.1 : Int) else r.1
    if n < intMin t then (wrapInt w (intMin t), if sat then flagSA else flagNV)
    else if intMax t < n then (wrapInt w (intMax t), if sat then flagSA else flagNV)
    else (wrapInt w n, flagIf r.2.1 flagNX)

/-- Rounding to any type code: R97 for a floating-point target, R99 for an integer one. -/
def roundTo (v : Num) (t mode : Nat) (sat : Bool) (u : Nat) : Nat × FFlags :=
  if typeFloat t then roundFloat v t mode sat u else roundInt v t mode sat u

/-- to_fix64 of R111, with the flags of R236. -/
def toFix64 (v : Num) (e : Int) (mode u : Nat) : Int × FFlags :=
  match v with
  | .nan _ _ _ => (0, flagNV)
  | .inf s => (if s then -(2 ^ 63) else 2 ^ 63 - 1, flagSA)
  | .fin s m x =>
    let r := roundMag s m (x - e) 0 mode u
    let n : Int := if s then -(r.1 : Int) else r.1
    let fl := flagIf r.2.1 flagNX
    if n < -(2 ^ 63) then (-(2 ^ 63), fl ||| flagSA)
    else if 2 ^ 63 - 1 < n then (2 ^ 63 - 1, fl ||| flagSA)
    else (n, fl)

/-! f_arith of R219. -/

/-- The functions that f_arith is applied to (R220, R227, R228). -/
inductive FOp where
  | add
  | sub
  | mul
  /-- x × y + c, x × y − c, −(x × y) + c. -/
  | fma
  | fms
  | fnma
  /-- 2 − x × y, and (3 − x × y) / 2. -/
  | rcps
  | rsqs
  | div
  deriving DecidableEq, Repr

/-- Whether the function has a product of x and y. -/
def FOp.hasProduct : FOp → Bool
  | .add | .sub | .div => false
  | .mul | .fma | .fms | .fnma | .rcps | .rsqs => true

/-- The addends of the function as written (R219). -/
def FOp.terms (op : FOp) (x y c : Num) : List Num :=
  match op with
  | .add => [x, y]
  | .sub => [x, y.neg]
  | .mul => [x.mul y]
  | .fma => [x.mul y, c]
  | .fms => [x.mul y, c.neg]
  | .fnma => [(x.mul y).neg, c]
  | .rcps => [Num.ofInt 2, (x.mul y).neg]
  | .rsqs => [Num.ofInt 3, (x.mul y).neg]
  | .div => []

/-- The exact sum of terms; none where opposite infinities meet. -/
def sumTerms : List Num → Option Num
  | [] => some (.fin false 0 0)
  | [x] => some x
  | x :: r => (sumTerms r).bind fun s => x.add s

/-- The sign of an exact zero result (R219): that of the terms when every one is a zero of one sign. -/
def zeroSign (terms : List Num) (mode : Nat) : Bool :=
  if terms.all (fun v => v.isZero && v.sign) then true
  else if terms.all (fun v => v.isZero && !v.sign) then false
  else mode == 2

/-- Terms summed and rounded once (R219): opposite infinities give the default NaN with NV. -/
def roundTerms (terms : List Num) (half : Bool) (t mode : Nat) (sat : Bool) (u : Nat) : Nat × FFlags :=
  match sumTerms terms with
  | none => nanResult t flagNV
  | some (.fin s m e) =>
    if m = 0 then roundTo (.fin (zeroSign terms mode) 0 0) t mode sat u
    else roundTo (.fin s m (if half then e - 1 else e)) t mode sat u
  | some v => roundTo v t mode sat u

/-- A quotient of finite nonzero values with a sticky bit: more than 200 significant bits, so that every choice of R96 is the exact one. -/
def quotient (neg : Bool) (a : Nat) (ea : Int) (b : Nat) (eb : Int) : Num :=
  let k := 200 + b.log2 - a.log2
  let q := a * 2 ^ k / b
  let r := a * 2 ^ k % b
  .fin neg (2 * q + (if r = 0 then 0 else 1)) (ea - eb - k - 1)

/-- f_arith of R219 for two or three operands. -/
def fArith (op : FOp) (x y c : Num) (t mode : Nat) (sat : Bool) (u : Nat) : Nat × FFlags :=
  let third := op == .fma || op == .fms || op == .fnma
  let bad := op.hasProduct && zeroTimesInf x y
  if x.isNan || y.isNan || (third && c.isNan) then
    nanResult t (flagIf (x.isSignalling || y.isSignalling || (third && c.isSignalling) || bad) flagNV)
  else if bad then
    match op with
    | .rcps => roundTo (Num.ofInt 2) t mode sat u
    | .rsqs => roundTo (.fin false 3 (-1)) t mode sat u
    | _ => nanResult t flagNV
  else
    match op with
    | .div =>
      let s := x.sign != y.sign
      match x, y with
      | .inf _, .inf _ => nanResult t flagNV
      | .inf _, _ => roundTo (.inf s) t mode sat u
      | _, .inf _ => roundTo (.fin s 0 0) t mode sat u
      | .fin _ m e, .fin _ m' e' =>
        if m' = 0 then
          if m = 0 then nanResult t flagNV
          else ((roundTo (.inf s) t mode sat u).1, (roundTo (.inf s) t mode sat u).2 ||| flagDZ)
        else if m = 0 then roundTo (.fin s 0 0) t mode sat u
        else roundTo (quotient s m e m' e') t mode sat u
      | _, _ => nanResult t 0
    | op => roundTerms (op.terms x y c) (op == .rsqs) t mode sat u

/-- Any number of addends, NaN rules of R219 included (VDOT4, R225): `bad` says a term is 0 × ∞. -/
def fSum (operands : List Num) (bad : Bool) (terms : List Num) (t mode : Nat) (sat : Bool) (u : Nat) : Nat × FFlags :=
  if operands.any Num.isNan then nanResult t (flagIf (bad || operands.any Num.isSignalling) flagNV)
  else if bad then nanResult t flagNV
  else roundTerms terms false t mode sat u

/-- The correctly rounded square root (R227). -/
def fSqrt (x : Num) (t mode : Nat) (sat : Bool) (u : Nat) : Nat × FFlags :=
  match x with
  | .nan _ _ _ => nanResult t (flagIf x.isSignalling flagNV)
  | .inf s => if s then nanResult t flagNV else roundTo (.inf false) t mode sat u
  | .fin s m e =>
    if m = 0 then roundTo (.fin s 0 0) t mode sat u
    else if s then nanResult t flagNV
    else
      -- an even exponent, and about 200 bits of root with a sticky bit
      let m1 := if e % 2 = 0 then m else 2 * m
      let e1 := if e % 2 = 0 then e else e - 1
      let n := m1 * 4 ^ 200
      let r := isqrt n
      roundTo (.fin false (2 * r + (if r * r = n then 0 else 1)) (e1 / 2 - 201)) t mode sat u

/-- rcp_est of R226 with the special cases of R227. -/
def fRcpEst (x : Num) (t : Nat) : Nat × FFlags :=
  match x with
  | .nan _ _ _ => nanResult t (flagIf x.isSignalling flagNV)
  | .inf s => roundTo (.fin s 0 0) t 0 false 0
  | .fin s m e =>
    if m = 0 then ((roundTo (.inf s) t 0 false 0).1, (roundTo (.inf s) t 0 false 0).2 ||| flagDZ)
    else
      -- c in units of 2^−15, and 1 / c to the nearest-even multiple of 2^−17
      let l := m.log2
      let c := 2 * (m * 2 ^ 14 / 2 ^ l) + 1
      let q := 2 ^ 32 / c
      let r := 2 ^ 32 % c
      let y := if c < 2 * r || (c == 2 * r && q % 2 == 1) then q + 1 else q
      roundTo (.fin s y (-17 - ((l : Int) + e))) t 0 false 0

/-- rsq_est of R226 with the special cases of R227. -/
def fRsqEst (x : Num) (t : Nat) : Nat × FFlags :=
  match x with
  | .nan _ _ _ => nanResult t (flagIf x.isSignalling flagNV)
  | .inf s => if s then nanResult t flagNV else roundTo (.fin false 0 0) t 0 false 0
  | .fin s m e =>
    if m = 0 then ((roundTo (.inf s) t 0 false 0).1, (roundTo (.inf s) t 0 false 0).2 ||| flagDZ)
    else if s then nanResult t flagNV
    else
      let l := m.log2
      let ex : Int := (l : Int) + e
      let odd := ex % 2 ≠ 0
      let c := 2 * ((if odd then 2 * m else m) * 2 ^ 14 / 2 ^ l) + 1
      let ev := if odd then ex - 1 else ex
      -- 2^17 / √(c × 2^−15) = √(2^49 / c), to the nearest
      let n := isqrt (2 ^ 49 / c)
      let y := if c * (2 * n + 1) ^ 2 < 2 ^ 51 then n + 1 else n
      roundTo (.fin false y (-17 - ev / 2)) t 0 false 0

/-! Minimum, maximum and compares (R221, R222). -/

/-- VMIN, VMAX, VMINN and VMAXN of one pair of elements. -/
def minMax (a b t : Nat) (max num : Bool) : Nat × FFlags :=
  if typeFloat t then
    let x := decodeFloat a t
    let y := decodeFloat b t
    if x.isSignalling || y.isSignalling then (defaultNan t, flagNV)
    else if x.isNan && y.isNan then (defaultNan t, 0)
    else if x.isNan then (if num then b else defaultNan t, 0)
    else if y.isNan then (if num then a else defaultNan t, 0)
    else
      -- −0 lies below +0
      let c := if x.cmp y = 0 then (if x.sign == y.sign then 0 else if x.sign then -1 else 1) else x.cmp y
      (if max then (if c < 0 then b else a) else (if 0 < c then b else a), 0)
  else
    let x := intOf a t
    let y := intOf b t
    (if max then (if x < y then b else a) else (if y < x then b else a), 0)

/-- The conditions of R201 and R222 on one pair of elements: 0 eq, 1 ne, 2 lt, 3 ge, 4 le, 5 gt, 6 tst, 7 ntst, 8 uno,
9 ord. -/
def condHolds (a b t cc : Nat) : Bool × FFlags :=
  if cc == 6 || cc == 7 then
    ((a % 2 ^ typeBits t &&& b % 2 ^ typeBits t != 0) == (cc == 6), 0)
  else
    let x := decodeNum a t
    let y := decodeNum b t
    if x.isNan || y.isNan then (cc == 1 || cc == 8, flagIf (x.isSignalling || y.isSignalling) flagNV)
    else
      let c := x.cmp y
      (match cc with
        | 0 => decide (c = 0)
        | 1 => decide (c ≠ 0)
        | 2 => decide (c < 0)
        | 3 => decide (0 ≤ c)
        | 4 => decide (c ≤ 0)
        | 5 => decide (0 < c)
        | 9 => true
        | _ => false, 0)

/-- The element conversion of R224; `scale` is the f32 scale of SRC 1. -/
def convertElem (b t dt mode : Nat) (sat : Bool) (scale : Option Nat) (u : Nat) : Nat × FFlags :=
  match scale with
  | none =>
    if !typeFloat t && !typeFloat dt then fitInt (intOf b t) dt sat
    else roundTo (decodeNum b t) dt mode sat u
  | some k =>
    let x := decodeNum b t
    let s := decodeFloat k 8
    if x.isNan || s.isNan || zeroTimesInf x s then
      let fl := flagIf (x.isSignalling || s.isSignalling || zeroTimesInf x s) flagNV
      ((roundTo Num.defaultNan dt mode sat u).1, (roundTo Num.defaultNan dt mode sat u).2 ||| fl)
    else roundTo (x.mul s) dt mode sat u

/-- sort_code of R109. -/
def sortCode (key t : Nat) (desc canz : Bool) : Nat :=
  let w := typeBits t
  let key := key % 2 ^ w
  let flip (k : Nat) : Nat := if k < 2 ^ (w - 1) then k + 2 ^ (w - 1) else k - 2 ^ (w - 1)
  let c :=
    if typeFloat t then
      let k := if canz && key == 2 ^ (w - 1) then 0 else key
      if k < 2 ^ (w - 1) then flip k else 2 ^ w - 1 - k
    else if typeSigned t then flip key
    else key
  if desc then 2 ^ w - 1 - c else c

/-! Accumulation on Ashlar (R104 to R106). Its conditions are the seven bits of the tile status word (R275). -/

/-- Tile status bits [6:0]: NV, OF, UF, NX, SA, NAN, LOST. -/
abbrev TileFlags := BitVec 7

/-- The flags of a rounding as tile status bits; the divide-by-zero flag has none (R275). -/
def tileFlags (f : FFlags) : TileFlags :=
  (if f.getLsbD 0 then 1 else 0) ||| (if f.getLsbD 2 then 2 else 0) ||| (if f.getLsbD 3 then 4 else 0)
    ||| (if f.getLsbD 4 then 8 else 0) ||| (if f.getLsbD 5 then 16 else 0)

/-- Whether +∞ and −∞ are both among the terms. -/
def oppositeInf (l : List Num) : Bool := l.any (fun v => v.isInf && v.sign) && l.any (fun v => v.isInf && !v.sign)

/-- One chunk or group of R104 and R106: c := round_to(c + exact sum of the products, f32, rne, 0). Three readings (DEDUCED, log
entry 26): an infinity of c meets t only when t is no NaN; an exact zero of c + t takes its sign by R219 over c and the products;
an infinite group scale acts on each element as R94 gives it, so that factors of both signs meet as opposite infinities. -/
def chunkAcc (c : Nat) (pairs : List (Num × Num)) : Nat × TileFlags :=
  let cv := decodeFloat c 8
  let numbers := pairs.filter fun p => !(p.1.isNan || p.2.isNan || zeroTimesInf p.1 p.2)
  let products := numbers.map fun p => p.1.mul p.2
  let nan := cv.isNan || pairs.any fun p => p.1.isNan || p.2.isNan
  let invalid := cv.isSignalling || (pairs.any fun p => p.1.isSignalling || p.2.isSignalling || zeroTimesInf p.1 p.2)
    || oppositeInf products || (!nan && oppositeInf (cv :: products))
  if nan || invalid then (defaultNan 8, if invalid then 1 else 0)
  else
    match sumTerms (cv :: products) with
    | none => (defaultNan 8, 1)
    | some (.fin s m e) =>
      let r := roundFloat (.fin (if m = 0 then zeroSign (cv :: products) 0 else s) m e) 8 0 false 0
      (r.1, tileFlags r.2)
    | some v =>
      let r := roundFloat v 8 0 false 0
      (r.1, tileFlags r.2)

/-- One integer chunk of R105: the exact sum added and clamped to the s32 range. -/
def intChunkAcc (c : Nat) (sum : Int) : Nat × TileFlags :=
  let r := fitInt (intOf c 4 + sum) 4 true
  (r.1, tileFlags r.2)

end Sys2Proof.Machine
end

