-- ==== Sys2Proof/Config.lean ====
section
/-! DEFINITION. What the manual leaves open: free values with no body, so that no proof can see what they are.
Each is named in the assumption log. -/

namespace Sys2Proof

/-- A random 64-bit value; its argument is the counter of free values that the step reads and advances.
Used for debug nonces (R346) and for bits that the manual calls unpredictable. -/
opaque Config.freeWord : Nat → Word

/-- The value of a mask register whose read-back after a migration faults (R62 states no result); its argument is the counter of
free values. -/
opaque Config.freeMask : Nat → BitVec 1024

/-- The byte that a read of physical address `pa` returns when its line was written under key generation `written`
and is read under `read` (R343: unpredictable bits). -/
opaque Config.otherKeyByte (pa written read : Nat) : Byte

/-- The byte a read of another pod device's memory returns at the physical address, when the environment names none
(R27, R153: that memory is the peer's); the second argument is the counter of free values. -/
opaque Config.peerByte (pa counter : Nat) : Byte

/-- The directory set of a region within its slice (R115: 16,384 sets; the function is not given). -/
opaque Config.directorySet (region : Nat) : Nat

/-- The set of a line in an L2 (R19), in an L1 (R21) and in the LLC of its slice (R22); the functions are not given. -/
opaque Config.l2Set (line : Nat) : Nat
opaque Config.l1Set (line : Nat) : Nat
opaque Config.llcSet (line : Nat) : Nat

/-- The horizon-table set of a line within its slice (R126: any function of the line address). -/
opaque Config.horizonSet (line : Nat) : Nat

/-- SHAKE256 with a 64-byte output, of a byte string (R337, R338). -/
opaque Config.shake256 (message : List Byte) : BitVec 512

/-- SLH-DSA-SHAKE-256s signature check: key, message, signature (R337, R346). -/
opaque Config.signatureValid (key message signature : List Byte) : Bool

/-- The vendor root public key in the fuses (R337, R346). -/
opaque Config.vendorRoot : List Byte

/-- The device identity public key that Keystone derives when the lifecycle becomes locked (R353). -/
opaque Config.identityKey : List Byte

/-- The vendor's signature of an image, and the digest that the signed manifest holds for it (R337), by image as below. -/
opaque Config.imageSignature (block : Nat) : List Byte
opaque Config.manifestDigest (block : Nat) : BitVec 512

/-- The image of a die: 0 Keystone, 1 hub, 2 home dies, 3 compute dies (R338). -/
opaque Config.image (block : Nat) : List Byte

/-- The messages that the SPDM responder tells apart (R339). -/
inductive SpdmRequest where
  | getVersion
  | getCapabilities
  | negotiateAlgorithms
  | getDigests
  /-- A portion of a slot's chain. -/
  | getCertificate (slot offset length : Nat)
  | challenge (slot : Nat)
  /-- The blocks asked for, and whether a signature is. -/
  | getMeasurements (blocks : List Nat) (signed : Bool)
  | keyExchange
  /-- A message of a secured session, or of mutual authentication. -/
  | secured
  | mutualAuth
  | other
  deriving DecidableEq, Repr, Inhabited

/-- Signature and hash algorithms that the responder names (R339). -/
inductive SpdmAlgorithm where
  /-- As an extended asymmetric algorithm. -/
  | slhDsaShake256s
  | sha3_512
  deriving DecidableEq, Repr

/-- What the responder answers (R339). -/
inductive SpdmReply where
  | version (major minor : Nat)
  /-- Certificates, CHALLENGE, measurements, key exchange, secured sessions and mutual authentication. -/
  | capabilities (cert chal meas keyEx secured mutualAuth : Bool)
  | algorithms (signature hash : SpdmAlgorithm)
  /-- The digests of the chains, by slot. -/
  | digests (slots : List (Nat × BitVec 512))
  /-- A portion of a chain, and the bytes that follow it. -/
  | certificate (portion : List Byte) (rest : Nat)
  | challengeAuth (chain : BitVec 512) (signature : List Byte)
  | measurements (blocks : List (Nat × BitVec 512)) (signature : Option (List Byte))
  /-- The message is absent, or refused. -/
  | refused
  deriving DecidableEq, Repr

/-- The message that the bytes of an SPDM 1.2 request are, and the bytes of a reply at one use of the responder (R339: the layouts of SPDM). -/
opaque Config.spdmParse (request : List Byte) : SpdmRequest
opaque Config.spdmFormat (use : Nat) (request : List Byte) (reply : SpdmReply) : List Byte

/-- The certificate of a public key, the keys of the chain of slot 0 above the device identity key, and SHA3-512 (R339). -/
opaque Config.certificate (key : List Byte) : List Byte
opaque Config.issuerKeys : List (List Byte)
opaque Config.sha3_512 (message : List Byte) : BitVec 512

/-- The signature of a reply under the device identity key, over what was exchanged by one use of the responder (R339). -/
opaque Config.identitySignature (use : Nat) (request : List Byte) (content : List (BitVec 512)) : List Byte

/-- Whether a landing in flight from a compute die when the die is lost has landed (R408: not architectural). -/
opaque Config.inFlightLanded (agent seq : Nat) : Bool

end Sys2Proof
end

