-- ==== Sys2Proof/Machine/Store.lean ====
section
/-! DEFINITION. Sparse storage as plain data: a list of (key, value) pairs in ONE canonical form, keys strictly rising and no
entry equal to what an unlisted key reads as, so that equal contents are equal lists. Memory is the same form over bytes. -/

namespace Sys2Proof.Machine

/-- A sparse map; what an unlisted key reads as is given at each use. -/
abbrev SMap (α : Type) := List (Nat × α)

/-- The value at a key. -/
def SMap.get {α : Type} (d : α) : SMap α → Nat → α
  | [], _ => d
  | (k, v) :: r, x => if k = x then v else SMap.get d r x

/-- The listed value at a key. -/
def SMap.find {α : Type} : SMap α → Nat → Option α
  | [], _ => none
  | (k, v) :: r, x => if k = x then some v else SMap.find r x

/-- The map without a key. -/
def SMap.erase {α : Type} (m : SMap α) (k : Nat) : SMap α := m.filter fun e => e.1 != k

/-- A pair put before the first greater key. -/
def SMap.insertSorted {α : Type} (k : Nat) (v : α) : SMap α → SMap α
  | [] => [(k, v)]
  | e :: r => if k < e.1 then (k, v) :: e :: r else e :: SMap.insertSorted k v r

/-- The map with a key listed at a value, whatever the value. -/
def SMap.put {α : Type} (m : SMap α) (k : Nat) (v : α) : SMap α := SMap.insertSorted k v (m.erase k)

/-- The map with a key at a value: the value an unlisted key reads as removes the entry. -/
def SMap.set {α : Type} [DecidableEq α] (d : α) (m : SMap α) (k : Nat) (v : α) : SMap α :=
  if v = d then m.erase k else m.put k v

/-- The canonical form. -/
def SMap.wf {α : Type} [DecidableEq α] (d : α) (m : SMap α) : Bool :=
  (m.map Prod.fst).Pairwise (· < ·) && m.all fun e => e.2 != d

/-- Memory: the bytes of the 52-bit physical address map (R24), as address and byte pairs. -/
abbrev Memory := List Host.Cell

/-- What a byte that nothing has written reads as (DESIGN CHOICE, log entry 1). -/
def Memory.unwritten : Byte := 0

/-- The byte at an address. -/
def Memory.read (m : Memory) (a : Nat) : Byte := SMap.get Memory.unwritten m a

/-- Memory with a byte written. -/
def Memory.write (m : Memory) (a : Nat) (b : Byte) : Memory := SMap.set Memory.unwritten m a b

/-- The canonical form of memory. -/
def Memory.wf (m : Memory) : Bool := SMap.wf Memory.unwritten m

/-- n bytes from an address up, as a little-endian number (R3). -/
def Memory.readLe (m : Memory) (a : Nat) : Nat → Nat
  | 0 => 0
  | n + 1 => (m.read a).toNat + 256 * Memory.readLe m (a + 1) n

/-- The n low bytes of a number written from an address up, little-endian. -/
def Memory.writeLe (m : Memory) (a : Nat) : Nat → Nat → Memory
  | 0, _ => m
  | n + 1, v => Memory.writeLe (m.write a (BitVec.ofNat 8 v)) (a + 1) n (v / 256)

/-- A list of bytes written from an address up. -/
def Memory.writeBytes (m : Memory) (a : Nat) : List Byte → Memory
  | [] => m
  | b :: r => Memory.writeBytes (m.write a b) (a + 1) r

/-- n bytes from an address up. -/
def Memory.readBytes (m : Memory) (a n : Nat) : List Byte := (List.range n).map fun i => m.read (a + i)

/-- A byte list as a little-endian number. -/
def leOfBytes : List Byte → Nat
  | [] => 0
  | b :: r => b.toNat + 256 * leOfBytes r

/-- The n low bytes of a number. -/
def bytesOfLe : Nat → Nat → List Byte
  | 0, _ => []
  | n + 1, v => BitVec.ofNat 8 v :: bytesOfLe n (v / 256)

/-- The natural number of w bits at bit lo of x. -/
def fieldN (x lo w : Nat) : Nat := x / 2 ^ lo % 2 ^ w

/-- x with the w bits at lo replaced by v. -/
def setField (x lo w v : Nat) : Nat := x - fieldN x lo w * 2 ^ lo + v % 2 ^ w * 2 ^ lo

end Sys2Proof.Machine
end

