-- ==== Sys2Proof/Machine/State.lean ====
section
/-! DEFINITION. The state of the Luaral P1 as plain data: everything that INVENTORY.md lists under State, and the state
right after package reset. Numbers: agent a = 48 × die + quad (R23); core c = 4a + k; strand slot = 16c + slot. Sparse maps
hold what differs from the reset contents. -/

namespace Sys2Proof.Machine

/-! ### Strands -/

/-- Why a strand issues nothing (R60, R316). -/
inductive Wait where
  /-- Ready. -/
  | ready
  /-- `YIELD`: until the time, and until each listed strand has issued once (R210). -/
  | yielding (until_ : Nat) (others : List Nat)
  /-- A barrier (key in the barrier map), until its phase differs (R253). -/
  | barrier (key : Nat) (phase : Bool)
  /-- That barrier has flipped, and the flip travels to the waiter (R43). -/
  | flipped (key : Nat) (phase : Bool)
  /-- The phase of a byte barrier at a scratchpad offset; the deadline, and the destination register (R267). -/
  | byteBarrier (offset : Nat) (phase : Bool) (deadline : Option Nat) (dst : BitVec 4)
  /-- `MWAIT` at a physical address: the expected value, its type, the ordering and scope of the final read, the
  deadline, the destination; a peer location is polled at `poll` (R249). -/
  | monitor (pa : Nat) (expected : Nat) (t : Nat) (ord scope : BitVec 3) (deadline : Option Nat) (dst : BitVec 4)
      (poll : Option Nat)
  /-- Its context packet travels to a core (R62). -/
  | migrating (core : Nat)
  deriving DecidableEq, Repr

/-- Halted by the debug port (R348). -/
inductive Halt where
  | running
  | halted
  /-- Released for exactly one instruction. -/
  | stepping
  /-- Released at the head before which it was halted: that head executes without a match. -/
  | released
  deriving DecidableEq, Repr

/-- A window frame: g4 to g11 of the caller, g4 in the low 64 bits (R190). -/
abbrev Frame := BitVec 512

/-- A zero-overhead loop level: its start head and end head (R206). -/
structure LoopLevel where
  start : VAddr
  finish : VAddr
  deriving DecidableEq, Repr

/-- The context of a strand (R34, R36), as R316 saves it. -/
structure Strand where
  /-- The number the hub gave to its launch (R62). -/
  lid : Nat
  pc : VAddr
  /-- g0 to g15 of the current window. -/
  g : Vector Word 16
  /-- p0 to p7. -/
  pw : BitVec 8
  /-- m0 to m7. -/
  masks : Vector Mask 8
  /-- Its vector registers in the core's pool: the first, and their number (R35). -/
  vbase : Nat
  vcount : Nat
  /-- Its local store in 4 KiB units: the first, and their number 1 + LOCAL (R35). -/
  lsbase : Nat
  lslen : Nat
  /-- Frames in the register file, at most 3, and in local store, at most 64, oldest first (R191). -/
  rf : List Frame
  ls : List Frame
  /-- Loop levels, outermost first; LDEPTH is their number (R206). -/
  loops : List LoopLevel
  lc : Vector Word 3
  fflags : FFlags
  /-- `sr.lost`: LD in bit 0, ST in bit 1 (R211). -/
  lost : BitVec 2
  wsp : Word
  wdepth : Word
  /-- `sr.shape`, low half (R268). -/
  shape : BitVec 32
  tvec : Word
  epc : Word
  cause : Word
  tval : Word
  priv : Bool
  inh : Bool
  /-- The stochastic generator G (R100). -/
  gen : Word
  /-- Ordinals of R37. -/
  ordDie : Nat
  ordQuad : Nat
  ordCore : Nat
  ordStrand : Nat
  bond : Word
  wait : Wait
  /-- The register record of `PHINT`: scalar and vector masks, none when not in force (R299). -/
  rrec : Option (BitVec 16 × BitVec 32)
  /-- The number of the unit's next command when a waiting `SSTAT` first had its turn (R277); of a `CALL` that finds 67 frames held, that
  a turn has moved a frame (R59); of a load or store, that its context packet was refused (R377). -/
  since : Option Nat
  /-- The head in sequence after the instruction of a waiting strand (R166, R208). -/
  next : Option VAddr
  /-- The fetch buffer: the line's virtual address and its 64 bytes (R165). -/
  fetch : Option (VAddr × Line)
  halt : Halt
  deriving DecidableEq, Repr

/-! ### Accesses in flight -/

/-- The operations of the atomics (R247). -/
inductive AtomicOp where
  | add | and | or | xor | min | max | swap | cas | fadd
  deriving DecidableEq, Repr

/-- What one access does. -/
inductive AccessKind where
  | load
  | store
  /-- An atomic with its value operand and compare value. -/
  | atomic (op : AtomicOp) (v e : Nat)
  /-- A `CFLUSH` that waits for its write-back (R251). -/
  | flush
  /-- A `FENCE` with release ordering: later stores of its strand follow what stands before it (R141). -/
  | fence
  deriving DecidableEq, Repr

/-- One single-copy-atomic piece of an access (R139): `bytes` bytes at a physical address; for a store the bytes to write, for a
load the bytes read once `done`; `nib` is the nibble of a masked 4-bit store. -/
structure Piece where
  elem : Nat
  pa : Nat
  bytes : Nat
  val : Nat
  nib : Option Bool
  done : Bool
  /-- The message was refused by a full inbox and waits for the next restore there (R377). -/
  refused : Bool
  /-- It has been refused before, and counted (R372). -/
  again : Bool := false
  deriving DecidableEq, Repr

/-- Where the loaded elements go. -/
inductive Dest where
  | none
  | scalar (r : BitVec 4) (t : Nat)
  | vector (vd : BitVec 5) (t : Nat)
  /-- `VLDT`: elements of format FMT and group length 2^BLOG from element e0, decoded to T (R244); the draws are none. -/
  | tagged (vd : BitVec 5) (t fmt blog : Nat) (e0 : Int)
  deriving DecidableEq, Repr

/-- An access of a strand that has issued and is not yet performed whole (R141, R147). -/
structure Access where
  id : Nat
  slot : Nat
  kind : AccessKind
  t : Nat
  pieces : List Piece
  dest : Dest
  ord : BitVec 3
  scope : BitVec 3
  lease : BitVec 3
  /-- Tenant and key index of the request (R89, R342). -/
  tenant : Nat
  key : Nat
  /-- The launch of its strand (R57). -/
  lid : Nat
  /-- The address space whose translation it used (R301). -/
  asid : Nat
  /-- The strand has S rights at issue (R240 judges the access again when it is performed). -/
  sright : Bool
  /-- `sr.lost` bits collected from its pieces (R241). -/
  lost : BitVec 2
  deriving DecidableEq, Repr

/-- A migration context packet in a core's inbox (R62, R64): the strand, the slot it left, and the register of `MIGR` that
receives 1. -/
structure Packet where
  source : Nat
  strand : Strand
  dst : Option (BitVec 4)
  deriving DecidableEq, Repr

/-- Where a core or quad stands at an edge (R79 to R83). -/
inductive EdgePhase where
  | running
  /-- Its edge has passed: its strands are stopped, its state is not yet saved. -/
  | stopped (tenant : Nat)
  /-- Saved, and scrubbed at the boundary; the incoming tenant's restore has not completed. -/
  | saved (tenant : Nat)
  | awaiting
  /-- Its edge has passed while it still waited for its restore: it holds nothing, and nothing is restored there before the boundary. -/
  | passed
  deriving DecidableEq, Repr

/-- A translation held by a TLB (R323): the level that the leaf lies at, the page number at that level, and the entry. -/
structure TlbEntry where
  asid : Nat
  level : Nat
  page : Nat
  entry : Word
  deriving DecidableEq, Repr

/-- A core's own state besides its strands, pool, local store and instruction cache (R21). -/
structure CoreState where
  queue : List Access
  /-- The slot that issued last (R59). -/
  last : Nat
  /-- The clock of the sc stamps (R150). -/
  lamport : Word
  phase : EdgePhase
  /-- Its save has passed its boundary, and has been counted (R82). -/
  late : Bool
  inbox : List Packet
  /-- The loop buffer, by PA[51:6], the line entered last first (R21). -/
  loopBuf : List (Nat × Line)
  /-- Head comparators: the tenant whose strands they match, or none for any strand, and the address (R347). -/
  breaks : List (Option Nat × VAddr)
  deriving DecidableEq, Repr

/-! ### Engines -/

/-- The register values and fields of one Ashlar command (R269 to R275). -/
structure MatOp where
  a : Word
  b : Word
  pitch : Word
  place : Word
  x : BitVec 16
  i : BitVec 32
  /-- The grant in force when it issued (R268). -/
  shape : BitVec 32
  /-- Joint operation (R273). -/
  joint : Bool
  deriving DecidableEq, Repr

/-- What a command of the quad footprint unit does. -/
inductive CmdOp where
  | mzero (o : MatOp)
  | mma (o : MatOp)
  | mld (o : MatOp)
  | mst (o : MatOp)
  | sload (src count : Nat)
  | ssort (t : Nat) (desc canz : Bool) (nph : Nat)
  | sstore (dst count pos : Nat) (hasPos raw : Bool)
  /-- The copy descriptor, as a 512-bit number (R281, R285). -/
  | hcopy (desc : Nat)
  | hsend (desc : Nat)
  | hgath (desc : Nat)
  | marker
  deriving DecidableEq, Repr

/-- Where a command stands (R263, R302). -/
inductive CmdState where
  | queued
  | running
  /-- Stopped: it carries JOB, f and the map of R287. -/
  | stopped (job : Nat) (f : Nat) (map : Word)
  deriving DecidableEq, Repr

/-- A region judged under R156: rows of `len` bytes at a stride, from a physical address; or the enclosing interval. -/
structure Region where
  base : Nat
  len : Nat
  rows : Nat
  stride : Nat
  write : Bool
  deriving DecidableEq, Repr

/-- A command in a quad footprint unit (R261, R262). -/
structure Cmd where
  seq : Nat
  engine : Option Engine
  op : CmdOp
  /-- The issuing launch, tenant, address space, global ordinal and rights. -/
  lid : Nat
  tenant : Nat
  asid : Nat
  ordinal : Nat
  sright : Bool
  /-- The byte barrier's offset, none for no barrier (R260). -/
  bb : Option Nat
  regions : List Region
  /-- Accumulator banks read and written, and the Sett array, as bits: bank b at bit b, Sett at bit 4 (R262). -/
  unitsRead : BitVec 5
  unitsWritten : BitVec 5
  state : CmdState
  /-- The generator of an engine down-conversion (R100). -/
  gen : Word
  /-- A follow-on waits for this copy (R283). -/
  after : Option Nat
  /-- Hod: the next piece to issue, the pieces in flight, those that landed out of order, the lowest that faulted. -/
  next : Nat
  flight : List Nat
  landed : List Nat
  /-- The lowest piece that faulted, with its code, access kind and address (R287). -/
  failed : Option (Nat × Nat × Nat × Nat)
  /-- `MJOINT`: the number of this operation among its member's (R55). -/
  jointNo : Nat
  /-- `SSORT`: the phase at which its run ends (R279). -/
  phases : Nat
  /-- Issued in a drain-lead hold: it starts after the tenant's next restore of the quad (R78). -/
  held : Bool
  /-- `sr.time` at which it started. -/
  started : Nat
  /-- The accesses of the issuing core that its own accesses follow (R144, R155), by id. -/
  behind : List Nat
  /-- `sr.time` when its lowest failing piece was found (R310). -/
  foundAt : Nat
  /-- `HGATH`: the indices read so far, by row (R285). -/
  indices : SMap Nat
  /-- `HSEND`: pieces refused by a full inbox (R377), and those that have been refused at some time, and counted (R372). -/
  refused : List Nat
  again : List Nat := []
  deriving DecidableEq, Repr

/-- One cell of the Sett array (R108, R277). -/
structure SettCell where
  pad : Bool
  bits : Word
  pos : Nat
  deriving DecidableEq, Repr

/-- The fields that `SSTAT` returns, without BUSY (R277), and the lost latch (R386). -/
structure SettState where
  phase : Nat
  step : Nat
  loaded : Bool
  t : Nat
  desc : Bool
  canz : Bool
  latched : Bool
  count : Nat
  lostLatch : Bool
  deriving DecidableEq, Repr

/-- A slot of the quad's scratchpad record (R300); a staged range carries its copy descriptor and its issuer. -/
structure PhintSlot where
  offset : Nat
  len : Nat
  ro : Bool
  desc : Nat
  asid : Nat
  lid : Nat
  /-- The global ordinal of its issuer (R310). -/
  ord : Nat
  sright : Bool
  deriving DecidableEq, Repr

/-- A parked quad-inbox entry (R81, R314): the 128-byte block of the scratchpad, the bytes by their scratchpad offsets, those of
which only one half is written (`true` for the upper), and for an `HSEND` piece its barrier, the bytes that count there and COND. -/
structure InboxEntry where
  offset : Nat
  data : List (Nat × Byte)
  halves : List (Nat × Bool)
  bb : Option Nat
  count : Nat
  cond : TileFlags
  deriving DecidableEq, Repr

/-- A quad's own state besides its scratchpad, accumulators, Sett cells and L2 copies (R19). -/
structure QuadState where
  bankFlags : Vector TileFlags 4
  sett : SettState
  cmds : List Cmd
  nextSeq : Nat
  /-- `MJOINT` commands issued by the quad as a bond member, by launch (R55). -/
  jointCount : SMap Nat
  inbox : List InboxEntry
  phint : SMap PhintSlot
  phase : EdgePhase
  /-- Its save has passed its boundary, and has been counted (R82). -/
  late : Bool
  asleep : Bool
  /-- The hub is waking it; the time at which it is ready (R350). -/
  wakeAt : Option Nat
  deriving DecidableEq, Repr

/-- A barrier (R39, R40): claimed when E ≠ 0; the claiming launches, or at pod level the joined ones (R41). -/
structure Barrier where
  e : BitVec 16
  counter : BitVec 16
  phase : Bool
  claims : List Nat
  tenant : Nat
  /-- The joined launches of other devices of the pod, as (device, launch) (R41). -/
  remote : List (Nat × Nat)
  deriving DecidableEq, Repr

/-! ### Home dies -/

/-- How the quad L2 holds a line (R113, R124). -/
inductive CopyState where
  | shared
  | owned
  | leased (expiry : Nat)
  deriving DecidableEq, Repr

/-- A line of a quad's L2: presence bits, the core whose L1 holds it modified, tenant and key (R89, R113, R343). -/
structure L2Copy where
  st : CopyState
  presence : BitVec 4
  modified : Option Nat
  tenant : Nat
  key : Nat
  /-- The way of its set that it lies in (R19). -/
  way : Nat
  /-- Harts of the cluster that hold a reservation on the line (R329). -/
  reserved : BitVec 4
  /-- The data of a leased copy of a peer's line, whose bytes are not in this device's memory (R127). -/
  data : Option (BitVec 1024)
  deriving DecidableEq, Repr

/-- A line of a home die's LLC: the tenant and the key that filled it, whether it waits to be written to HBM, and its way (R22, R114,
R343). -/
structure LlcLine where
  tenant : Nat
  key : Nat
  modified : Bool
  way : Nat
  deriving DecidableEq, Repr

/-- A line state at the home (R117). -/
inductive LineState where
  | I | S | O | L
  deriving DecidableEq, Repr

/-- A directory entry (R116): the four line states, tile-bound bits and TID, pointers (agent, lines) or the coarse fields. -/
structure DirEntry where
  lines : Vector LineState 4
  tb : BitVec 4
  tid : BitVec 16
  coarse : Bool
  ptrs : List (Nat × BitVec 4)
  cv : BitVec 64
  spm : BitVec 7
  ownv : Bool
  owner : Nat
  ownl : BitVec 4
  deriving DecidableEq, Repr

/-- A write that the home performs for a party that holds no copies: the bytes, and the tenant and key of its request. -/
structure HomeStore where
  pa : Nat
  bytes : Nat
  val : Nat
  tenant : Nat
  key : Nat
  whole : Bool
  deriving DecidableEq, Repr

/-- The five kinds of request (R119), with what each carries, and the accesses that the home performs itself. -/
inductive ReqKind where
  | getS
  | getL (c : BitVec 3)
  /-- `whole` when a store of the whole line made it. -/
  | getO (whole : Bool)
  | putO
  | putS
  /-- A read performed at the home, which records no holder; the lease class of a peer's read, or 0. -/
  | homeRead (c : Nat)
  /-- A write performed at the home (R119). -/
  | homeWrite (w : HomeStore)
  /-- A host's write-back, with its data (R134). -/
  | hostPut (data : List Byte)
  /-- The home calls in every copy of the line, to free its region's way (R115). -/
  | clear
  /-- The home recalls the line's owner to S (R118). -/
  | recall
  /-- Directory repair has the line (R391). -/
  | repair
  /-- The place of an operation on several lines, which has this number (R131). -/
  | part
  deriving DecidableEq, Repr

/-- Where the request at the head of a line's queue stands (R120, R122). -/
inductive ReqPhase where
  | waiting
  /-- At the head, waiting for a directory way (R115) or for a whole-tile operation (R131). -/
  | held
  /-- Answers outstanding. -/
  | probing (left : Nat)
  /-- Its answers are counted; it waits for the horizon (R125). -/
  | horizon
  deriving DecidableEq, Repr

/-- A request in a line's list (R122). -/
structure Request where
  agent : Nat
  kind : ReqKind
  core : Nat
  tenant : Nat
  key : Nat
  issued : Nat
  phase : ReqPhase
  /-- Its place in the order of arrival (R122). -/
  no : Nat
  deriving DecidableEq, Repr

/-- An invalidation or recall sent and not yet received (R120), with the time it was sent. -/
structure Probe where
  agent : Nat
  line : Nat
  invalidate : Bool
  sent : Nat
  deriving DecidableEq, Repr

/-- The three answers of R120. -/
inductive AnswerKind where
  | invalidated | notPresent | writeBack
  deriving DecidableEq, Repr

/-- An answer on its way to the home. -/
structure Answer where
  agent : Nat
  line : Nat
  kind : AnswerKind
  /-- It answers an invalidation. -/
  invalidate : Bool
  deriving DecidableEq, Repr

/-- A tile record (R130). -/
structure TileRec where
  holder : Nat
  own : Bool
  present : Bool
  moving : Bool
  tenant : Nat
  base : Nat
  rows : Nat
  rowb : Nat
  stride : Nat
  nlines : Nat
  deriving DecidableEq, Repr

/-- A strand's operation on the lines of a tile, in its turn in their lists (R131, R133): its number, its strand's launch and head, its
lines, and whether their other holders have been probed. -/
structure TileOp where
  no : Nat
  lid : Nat
  pc : VAddr
  lines : List Nat
  probed : Bool
  deriving DecidableEq, Repr

/-- An answer of the home to an agent that leaves no copy: of a lost line (R119), or of a lease that had run out on its way (R124). -/
structure Served where
  agent : Nat
  line : Nat
  write : Bool
  tenant : Nat
  key : Nat
  deriving DecidableEq, Repr

/-- A debug port and its trace block (R137, R359). -/
structure DebugPort where
  region : BitVec 52
  done : Bool
  bad : Bool
  ent : BitVec 128
  hzn : Vector Word 4
  tile : Vector Word 4
  en : Bool
  count : BitVec 8
  /-- Events recorded since the last clear, for the ring's position. -/
  events : Nat
  ring : SMap Word
  /-- The latched region, as PA[51:9]. -/
  latched : Nat
  deriving DecidableEq, Repr

/-- The home dies' directories, queues, horizons, stamps, tiles and ports. -/
structure Homes where
  dir : SMap DirEntry
  reqs : SMap (List Request)
  /-- Requests held at the ingress while the buffer of their slice is full, in order of arrival, with their lines (R123). -/
  ingress : List (Nat × Request)
  /-- Requests that have arrived so far. -/
  arrivals : Nat
  /-- The LLC's lines, by PA[51:7] (R114). -/
  llc : SMap LlcLine
  probes : List Probe
  answers : List Answer
  /-- Horizon of a line, and floor of a slice's set (R125, R126). -/
  horizons : SMap Nat
  floors : SMap Nat
  /-- The last stamp of a line (by PA[51:7]), of a scratchpad bank (by 2^46 + 32 × agent + bank), and the stamp floor of a
  horizon set (by 2^47 + 1024 × slice + set) (R150, R393). -/
  stamps : SMap Word
  tiles : SMap TileRec
  ports : SMap DebugPort
  /-- Lost lines and pieces, by PA[51:7] (R384, R385). -/
  lost : List Nat
  /-- Key index and generation under which a line was written (R343). -/
  lineKeys : SMap (Nat × Nat)
  isolated : List Nat
  /-- Whole-tile operations that strands have begun, by slot (R131). -/
  tileOps : SMap TileOp
  served : List Served
  deriving DecidableEq, Repr

/-! ### Hub -/

/-- The registers of one launch queue (R47). -/
structure Queue where
  tenant : BitVec 6
  asid : BitVec 16
  logn : BitVec 4
  priv : Bool
  enable : Bool
  base : BitVec 52
  head : BitVec 32
  tail : BitVec 32
  rejects : BitVec 16
  overrun : Bool
  compfault : Bool
  ringfault : Bool
  tvec : BitVec 52
  /-- Positions of the records that strands without S rights posted and the hub has not read (R49). -/
  uposted : List Nat
  deriving DecidableEq, Repr

/-- The registers of one fault queue (R309). -/
structure FaultQueue where
  asid : BitVec 16
  logn : BitVec 4
  enable : Bool
  base : BitVec 52
  head : Word
  dropped : BitVec 32
  count : Word
  deriving DecidableEq, Repr

/-- Where a launch or task stands. -/
inductive LaunchState where
  | pending
  | placed
  /-- It has ended, and its completion record waits at these lines for its turn (R291). -/
  | written (lines : List Nat)
  deriving DecidableEq, Repr

/-- A launch or task that the hub has accepted (R44 to R58, R290, R298). -/
structure Launch where
  lid : Nat
  /-- The 64-byte record as a 512-bit number. -/
  record : Nat
  asid : Nat
  tenant : Nat
  prio : Nat
  /-- Strands run at S level. -/
  priv : Bool
  tvec : Word
  /-- Queue number, or that of the root of its posters (R51). -/
  queue : Nat
  /-- The posting launch of a task. -/
  poster : Option Nat
  state : LaunchState
  /-- Footprint regions by virtual address (R56). -/
  regions : List Region
  /-- Dies that have reserved capacity, and when the MINDIE-th did (R53). -/
  reserved : List Nat
  reservedAt : Option Nat
  /-- Placement: for each die placed, the agents of its quad ordinals. -/
  dies : List (Nat × List Nat)
  xcode : BitVec 8
  faults : Bool
  abandoned : Bool
  lostSeen : Bool
  /-- `sr.time` at which the loss of a die ended its strands (R408). -/
  dieLost : Option Nat
  /-- `sr.time` at which a strand of it ended last, by die (R298). -/
  ended : SMap Nat
  events : Nat
  energy : Nat
  tstart : Nat
  deriving DecidableEq, Repr

/-- A record that has been posted but not yet accepted: a task (R290), with its poster's rights. -/
structure TaskPost where
  record : Nat
  lid : Nat
  asid : Nat
  tenant : Nat
  queue : Nat
  sright : Bool
  tvec : Word
  prio : Nat
  deriving DecidableEq, Repr

/-- A line of host memory held by agents (R135). -/
structure SnoopEntry where
  agents : List Nat
  owned : Bool
  /-- The host's value of an owned line, which stands when the device's modified copy cannot be corrected (R397). -/
  older : BitVec 1024
  deriving DecidableEq, Repr

/-- What a party outside the compute dies asks of memory (R13, R27, R136, R151, R329). -/
inductive PartyKind where
  | load
  | fetch
  | store (v : Nat)
  /-- An atomic on a type, with its operand and compare value (R247). -/
  | amo (op : AtomicOp) (t v e : Nat)
  /-- A load-reserved, and a store-conditional. -/
  | reserve
  | conditional (v : Nat)
  /-- A hart's fence: the pairs it orders, as read-read, read-write, write-read and write-write. -/
  | fence (rr rw wr ww : Bool)
  /-- A hart's read of the `time` CSR, and of `vlntenant` (R330). -/
  | time
  | tenant
  deriving DecidableEq, Repr

/-- Privilege modes of a hart (R328). -/
inductive HartMode where
  | m | hs | u | vs | vu
  deriving DecidableEq, Repr

/-- An operation of a party that is not yet performed: at most 128 bytes within a line. A hart's tenant and key are those of
`vlntenant`; another party's are its request's (R330, R342). -/
structure PartyOp where
  id : Nat
  kind : PartyKind
  pa : Nat
  bytes : Nat
  aq : Bool
  rl : Bool
  mode : HartMode
  tenant : Nat
  key : Nat
  /-- The lease class of a peer's load (R127). -/
  lease : Nat
  /-- The tenant of a hart's operation that stands before a later write of `vlntenant` (R330). -/
  bound : Option Nat := none
  deriving DecidableEq, Repr

/-- What a party was last told. -/
inductive PartyReply where
  | value (v : Nat)
  /-- An access fault: 1 fetch, 2 load, 3 store or AMO (R329). -/
  | fault (acc : Nat)
  /-- An unsupported-request completion (R326). -/
  | unsupported
  /-- An illegal-instruction exception of a hart (R330). -/
  | illegal
  deriving DecidableEq, Repr

/-- The hub. -/
structure Hub where
  queues : SMap Queue
  faultQueues : SMap FaultQueue
  launches : List Launch
  tasks : List TaskPost
  /-- The gang head (R53). -/
  gang : Option Nat
  atbase : BitVec 52
  snoop : SMap SnoopEntry
  hdmBase : SMap Nat
  /-- The windows FWWIN0 and FWWIN1 of host port p, by 2p and 2p + 1: base and size; and the firmware accesses dropped at each port
  (R345). -/
  fwwin : SMap (Nat × Nat)
  fwdropped : SMap Nat
  vlntenant : SMap (BitVec 6)
  /-- The operations of the parties outside the compute dies that are not yet performed, in program order, by party: harts 0 to 15,
  device d of the pod 16 + d, the hub Hod 80, Hod k of home die h 81 + 2h + k, the hub management core 93 and Keystone 94. They come from outside (DESIGN CHOICE,
  log entry 35). -/
  ops : SMap (List PartyOp)
  /-- What each party was last told, a host port p as 96 + p. -/
  told : SMap PartyReply
  /-- The clock of each cluster (R150). -/
  clocks : SMap Word
  /-- Time since which the pending pool has been empty (R350). -/
  emptySince : Nat
  deriving DecidableEq, Repr

/-- The pod registers (R333) and link state. -/
structure Pod where
  self : BitVec 6
  enable : Bool
  fenced : BitVec 64
  peer : SMap (BitVec 6)
  up : BitVec 8
  silent : BitVec 8
  missed : SMap (BitVec 8)
  /-- Links whose beat has arrived since the last crossing (R334). -/
  beat : BitVec 8
  failmap : SMap (BitVec 7)
  /-- Claims that other devices make on pod barriers and that the pod roots have not settled yet (R41). -/
  claims : List PodClaim
  deriving DecidableEq, Repr

/-! ### Coursing -/

/-- A donated bay (R86): die, bay, owner, donee. -/
structure Donation where
  die : Nat
  bay : Nat
  owner : Nat
  donee : Nat
  deriving DecidableEq, Repr

/-- What the record of a saved strand does not hold (R316): its launch, its whole wait, its halt, its frames in local store, and
`sr.time` at the save. -/
structure SavedStrand where
  lid : Nat
  wait : Wait
  halt : Halt
  frames : Nat
  at_ : Nat
  /-- The head of a waiting instruction, and the head in sequence after it. -/
  next : Option (VAddr × VAddr)
  deriving DecidableEq, Repr

/-- What Lintel has saved of a core, besides the bytes of its area (R315, R316, R378): strands by slot, parked packets, refused
stores, and core barriers. -/
structure SavedCore where
  strands : SMap SavedStrand
  packets : List Packet
  refused : List Access
  barriers : SMap Barrier
  deriving DecidableEq, Repr

/-- What Lintel has saved of a quad, besides the bytes of its area (R314). -/
structure SavedQuad where
  cmds : List Cmd
  inbox : List InboxEntry
  phint : SMap PhintSlot
  cells : SMap SettCell
  barriers : SMap Barrier
  /-- Commands whose launch has ended since; LOST is set at their barriers and banks when the quad is restored (R375). -/
  ended : List Cmd
  deriving DecidableEq, Repr

/-- The coursing table and its progress (R66 to R86). -/
structure Coursing where
  enable : Bool
  pending : Bool
  active : Bool
  ncourse : BitVec 7
  /-- Courses of the pending frame, and of the active one. -/
  pendingN : BitVec 7
  activeN : BitVec 7
  /-- DRAINLEAD and OVERLIM: most recently accepted, and in force. -/
  drainlead : BitVec 16
  overlim : BitVec 16
  drainleadNow : BitVec 16
  overlimNow : BitVec 16
  course : BitVec 6
  reason : BitVec 4
  badcourse : BitVec 6
  rejected : Bool
  frames : BitVec 32
  overruns : BitVec 16
  savelate : BitVec 16
  donated : BitVec 16
  shadowign : BitVec 16
  tnsave : SMap (BitVec 52)
  /-- The two table copies, by offset from `0x10_0000`. -/
  table : SMap Byte
  fstart : Word
  /-- `sr.time` at the beginning of the course in force. -/
  began : Nat
  /-- The first commit's write, while the default course ends (R70). -/
  firstCommit : Option Nat
  /-- The pending copy takes effect only at the end of the next frame (R72). -/
  skipFrame : Bool
  /-- The hold, edge and overrun stop of the course in force have happened. -/
  held : Bool
  edged : Bool
  overlimDone : Bool
  donations : List Donation
  /-- Since when each bay has been idle (R85), by 8 × die + bay. -/
  idleSince : SMap Nat
  /-- What is saved of a core, by 768 × tenant + core, and of a quad, by 192 × tenant + agent. -/
  savedCores : SMap SavedCore
  savedQuads : SMap SavedQuad
  deriving DecidableEq, Repr

/-! ### Keystone -/

/-- A key slot (R342, R344): its generation counts the keys it has held; a cleared slot holds none. -/
structure KeySlot where
  gen : Nat
  filled : Bool
  cleared : Bool
  deriving DecidableEq, Repr

inductive Lifecycle where
  | isOpen | locked | decommissioned
  deriving DecidableEq, Repr

/-- A debug session (R346): its tenant, none for device debug, and NOTAFTER. -/
structure Session where
  tenant : Option Nat
  notAfter : Nat
  deriving DecidableEq, Repr

structure Keystone where
  code : BitVec 8
  len : BitVec 16
  busy : Bool
  done : Bool
  coll : Bool
  result : BitVec 8
  rlen : BitVec 16
  buf : SMap Byte
  /-- Who wrote MBCMD: a party, or an S strand of a tenant. -/
  requester : Option (Party ⊕ Nat)
  /-- The command's reply has been computed and waits for MAILBOX_COMPLETE. -/
  ready : Bool
  keys : SMap KeySlot
  tkey : SMap (BitVec 11)
  dbgKeys : SMap (List Byte)
  nonce : Option (List Byte)
  lifecycle : Lifecycle
  /-- Decommissioning takes effect at the next package reset (R353). -/
  decommission : Bool
  conf : Bool
  confNext : Bool
  meas : SMap (BitVec 512)
  sessions : List Session
  /-- The release comparator of the debug ports: the session that wrote it, and the time (R370). -/
  releases : List (Option Nat × Nat)
  /-- DOE replies by port, and the DOE requests that arrived while Keystone ran another, oldest first (R339). -/
  doeReply : SMap (List Byte)
  doeWaiting : List (Nat × List Byte)
  shutcause : BitVec 8
  deriving DecidableEq, Repr

/-! ### Errors, links, power -/

/-- A counter register (R372). -/
structure Counter where
  count : BitVec 32
  last : BitVec 32
  deriving DecidableEq, Repr

/-- State of a die (R403). -/
inductive DieState where
  | running | degraded | lost | held
  deriving DecidableEq, Repr

structure Sys where
  /-- Every counter, by the physical address of its register. -/
  counters : SMap Counter
  lkcomp : SMap Word
  lkbusy : BitVec 64
  lknone : BitVec 64
  /-- BITO and BIFAIL of each port (R396). -/
  bito : Vector (BitVec 16) 2
  bifail : BitVec 2
  /-- The error log (R401). -/
  log : SMap (BitVec 256)
  eltail : Word
  elhead : Word
  cdie : Vector DieState 4
  hdie : Vector DieState 6
  portDown : BitVec 2
  modDown : BitVec 144
  /-- Retrains failed in a row, and modules that retrain (R405). -/
  modFails : SMap Nat
  retraining : List Nat
  /-- Status beats missed in a row: compute dies 0–3, home dies 4–9 (R407). -/
  missedBeats : SMap Nat
  /-- CXL ports out of L0: one more than the time at which they left it, and 0 once the port is lost (R414). -/
  linkDown : SMap Nat
  /-- The watchdog's last write, and the core held in reset (R415). -/
  wdogAt : Nat
  mcuHeld : Bool
  /-- Heartbeat crossings done (R334). -/
  crossings : Nat
  /-- A lease timing alarm stands (R394); the skew of each die's counter. -/
  alarm : Bool
  skews : SMap Int
  /-- Time at which the last alarm comparison, status beat and power sample were due. -/
  compares : Nat
  beats : Nat
  deriving DecidableEq, Repr

/-- Power and heat (R350 to R352, R417). -/
structure Power where
  off : Bool
  capw : BitVec 12
  capen : Bool
  qsleep : Bool
  pidle : Bool
  idle : Bool
  /-- Package idle ends at this time (R350). -/
  readyAt : Option Nat
  ptrip : Bool
  tripPending : Bool
  /-- TTRIP of each die (R417). -/
  ttrip : BitVec 12
  /-- Issue duty in sixteenths (R352), and that of each throttled die. -/
  duty : Nat
  dieDuty : SMap Nat
  deriving DecidableEq, Repr

/-! ### The machine -/

/-- The whole machine. -/
structure State where
  time : Nat
  strands : SMap Strand
  cores : SMap CoreState
  quads : SMap QuadState
  /-- Vector pools, by 64 × core + register. -/
  pool : SMap VReg
  /-- Local stores, by 2^18 × core + offset. -/
  localMem : SMap Byte
  /-- Instruction caches, by 2^46 × core + PA[51:6]. -/
  icache : SMap Line
  utlb : SMap (List TlbEntry)
  qtlb : SMap (List TlbEntry)
  /-- Accumulators, by 2^16 × agent + 2^14 × bank + 2^7 × row + column. -/
  acc : SMap (BitVec 32)
  /-- Sett cells, by 2^14 × agent + 2^7 × row + column. -/
  sett : SMap SettCell
  /-- Quad L2 copies, by 2^45 × agent + PA[51:7]. -/
  copies : SMap L2Copy
  /-- Recency stacks, from the protected end (R21, R73): of an L2 set, by 2048 × agent + set; of an L1 set, by 2^20 + 32 × core + set;
  of an LLC set, by 2^21 + 1024 × slice + set; of an instruction cache, by 2^23 + core. -/
  recency : SMap (List Nat)
  /-- Barriers, by 2^24 × level + 2^6 × instance + index. -/
  barriers : SMap Barrier
  mem : Memory
  homes : Homes
  hub : Hub
  pod : Pod
  coursing : Coursing
  keystone : Keystone
  sys : Sys
  power : Power
  /-- The model's own: events that the environment has decided on (DESIGN CHOICE, log entry 3). -/
  agenda : List Instr
  /-- The model's own: the slot whose strand executes. -/
  cur : Nat
  /-- The model's own: the next step offers the environment's or a unit's event before an instruction (DESIGN CHOICE, log entry 3). -/
  eventTurn : Bool
  /-- The model's own: the counter of free values. -/
  free : Nat
  /-- The model's own: the counter of launch numbers and access ids. -/
  ids : Nat
  /-- The value returned to the outside party of the last event, by party (DESIGN CHOICE, log entry 3). -/
  replies : SMap Word
  deriving DecidableEq, Repr

/-- Why the machine stops. -/
inductive Fault where
  /-- Raised by `step`: the module is Off and the environment has not decided on a power-on (R350). Safe. -/
  | poweredOff
  /-- Raised by the meaning of an instruction when no strand occupies the slot in focus; `step` never runs one then. Safe. -/
  | noStrand
  deriving DecidableEq, Repr

/-- Why an instruction has no meaning. -/
inductive Refusal where
  /-- Raised by `exec` for an instruction that the model does not give a meaning yet. Safe. -/
  | notModelled (mnemonic : String)
  deriving DecidableEq, Repr

/-- The answer of a meaning. -/
abbrev Out := Host.Outcome State Fault Refusal

/-! ### Reset -/

def CoreState.reset : CoreState :=
  { queue := [], last := 15, lamport := 0, phase := .running, late := false, inbox := [], loopBuf := [], breaks := [] }

/-- Every `SSTAT` field reads 0 (R277). -/
def SettState.reset : SettState :=
  { phase := 0, step := 0, loaded := false, t := 0, desc := false, canz := false, latched := false, count := 0
    lostLatch := false }

/-- Every cell is a pad (R277). -/
def SettCell.reset : SettCell := { pad := true, bits := 0, pos := 0 }

def QuadState.reset : QuadState :=
  { bankFlags := Vector.replicate 4 0, sett := SettState.reset, cmds := [], nextSeq := 0, jointCount := [], inbox := []
    phint := [], phase := .running, late := false, asleep := false, wakeAt := none }

/-- Unclaimed. -/
def Barrier.reset : Barrier := { e := 0, counter := 0, phase := false, claims := [], tenant := 0, remote := [] }

def DebugPort.reset : DebugPort :=
  { region := 0, done := false, bad := false, ent := 0, hzn := Vector.replicate 4 0, tile := Vector.replicate 4 0
    en := false, count := 0, events := 0, ring := [], latched := 0 }

/-- A region with no entry. -/
def DirEntry.reset : DirEntry :=
  { lines := Vector.replicate 4 .I, tb := 0, tid := 0, coarse := false, ptrs := [], cv := 0, spm := 0, ownv := false
    owner := 0, ownl := 0 }

def Homes.reset : Homes :=
  { dir := [], reqs := [], ingress := [], arrivals := 0, llc := [], probes := [], answers := [], horizons := [], floors := [], stamps := [], tiles := []
    ports := [], lost := [], lineKeys := [], isolated := [], tileOps := [], served := [] }

def Queue.reset : Queue :=
  { tenant := 0, asid := 0, logn := 0, priv := false, enable := false, base := 0, head := 0, tail := 0, rejects := 0
    overrun := false, compfault := false, ringfault := false, tvec := 0, uposted := [] }

def FaultQueue.reset : FaultQueue :=
  { asid := 0, logn := 0, enable := false, base := 0, head := 0, dropped := 0, count := 0 }

def Hub.reset : Hub :=
  { queues := [], faultQueues := [], launches := [], tasks := [], gang := none, atbase := 0, snoop := [], hdmBase := [], fwwin := [], fwdropped := []
    vlntenant := [], ops := [], told := [], clocks := [], emptySince := 0 }

def Pod.reset : Pod :=
  { self := 0, enable := false, fenced := 0, peer := [], up := 0, silent := 0, missed := [], beat := 0, failmap := [], claims := [] }

/-- The default course is in force (R70); DRAINLEAD 20 µs and OVERLIM 50 µs (R67). -/
def Coursing.reset : Coursing :=
  { enable := false, pending := false, active := false, ncourse := 0, pendingN := 0, activeN := 0, drainlead := 20, overlim := 50
    drainleadNow := 20, overlimNow := 50, course := 0, reason := 0, badcourse := 0, rejected := false, frames := 0
    overruns := 0, savelate := 0, donated := 0, shadowign := 0, tnsave := [], table := [], fstart := 0, began := 0
    firstCommit := none, skipFrame := false, held := false, edged := false, overlimDone := false, donations := []
    idleSince := [], savedCores := [], savedQuads := [] }

/-- Lifecycle open and confidentiality off (DESIGN CHOICE, log entry 2). -/
def Keystone.reset : Keystone :=
  { code := 0, len := 0, busy := false, done := false, coll := false, result := 0, rlen := 0, buf := [], requester := none
    ready := false, keys := [], tkey := [], dbgKeys := [], nonce := none, lifecycle := .isOpen, decommission := false
    conf := false, confNext := false
    meas := [(1, Config.shake256 (Config.image 0)), (2, Config.shake256 (Config.image 1)), (3, Config.shake256 (Config.image 2)),
      (4, Config.shake256 (Config.image 3)), (5, Config.shake256 [0, 0, 0])]
    sessions := [], releases := [], doeReply := [], doeWaiting := [], shutcause := 0 }

def Counter.reset : Counter := { count := 0, last := 0 }

def Sys.reset : Sys :=
  { counters := [], lkcomp := [], lkbusy := 0, lknone := 0, bito := Vector.replicate 2 4000, bifail := 0, log := []
    eltail := 0, elhead := 0, cdie := Vector.replicate 4 .running, hdie := Vector.replicate 6 .running, portDown := 0
    modDown := 0, modFails := [], retraining := [], missedBeats := [], linkDown := [], wdogAt := 0, mcuHeld := false
    crossings := 0, alarm := false, skews := [], compares := 0, beats := 0 }

/-- P0 at full duty; CAPW 2,600 (R351). -/
def Power.reset : Power :=
  { off := false, capw := 2600, capen := false, qsleep := false, pidle := false, idle := false, readyAt := none
    ptrip := false, tripPending := false, ttrip := 0, duty := 16, dieDuty := [] }

/-- The machine right after package reset, every die released (R15, R337): no strand exists, memory lists nothing, every
register holds the reset value of the spec, or the value that DESIGN CHOICE, log entry 2 names. -/
def State.reset : State :=
  { time := 0, strands := [], cores := [], quads := [], pool := [], localMem := [], icache := [], utlb := [], qtlb := []
    acc := [], sett := [], copies := [], recency := [], barriers := [], mem := [], homes := Homes.reset, hub := Hub.reset
    pod := Pod.reset, coursing := Coursing.reset, keystone := Keystone.reset, sys := Sys.reset, power := Power.reset
    agenda := [], cur := 0, eventTurn := false, free := 0, ids := 1, replies := [] }

end Sys2Proof.Machine
end

