-- ==== Sys2Proof/Machine/Regs.lean ====
section
/-! DEFINITION. Named reads and writes of the state: one place for each register's special behaviour (spec/08_scalar_control.md
R189, R202, R206, R210, R211; spec/09_vector.md R213; spec/02_execution.md R34; spec/12_system.md R299). -/

namespace Sys2Proof.Machine

/-- The core of a strand slot, the quad agent of a core, and the compute die of an agent (R23). -/
def coreOf (slot : Nat) : Nat := slot / 16
def agentOf (core : Nat) : Nat := core / 4
def dieOf (agent : Nat) : Nat := agent / 48

/-- The strand in a slot. -/
def State.strandAt (s : State) (slot : Nat) : Option Strand := SMap.find s.strands slot

/-- The state with a strand put in a slot. -/
def State.setStrand (s : State) (slot : Nat) (st : Strand) : State := { s with strands := s.strands.put slot st }

/-- The state with a slot freed. -/
def State.dropStrand (s : State) (slot : Nat) : State := { s with strands := s.strands.erase slot }

def State.coreAt (s : State) (c : Nat) : CoreState := SMap.get CoreState.reset s.cores c
def State.setCore (s : State) (c : Nat) (v : CoreState) : State := { s with cores := s.cores.set CoreState.reset c v }

def State.quadAt (s : State) (a : Nat) : QuadState := SMap.get QuadState.reset s.quads a
def State.setQuad (s : State) (a : Nat) (v : QuadState) : State := { s with quads := s.quads.set QuadState.reset a v }

def State.setMem (s : State) (m : Memory) : State := { s with mem := m }
def State.setHomes (s : State) (h : Homes) : State := { s with homes := h }
def State.setHub (s : State) (h : Hub) : State := { s with hub := h }
def State.setCoursing (s : State) (c : Coursing) : State := { s with coursing := c }
def State.setKeystone (s : State) (k : Keystone) : State := { s with keystone := k }
def State.setSys (s : State) (y : Sys) : State := { s with sys := y }
def State.setPower (s : State) (p : Power) : State := { s with power := p }
def State.setPod (s : State) (p : Pod) : State := { s with pod := p }

/-- A fresh number for a launch or an access (DESIGN CHOICE, log entry 16). -/
def State.nextId (s : State) : Nat × State := (s.ids, { s with ids := s.ids + 1 })

/-! ### Scalar registers, predicates, masks -/

/-- gr: g0 reads zero (R189). -/
def Strand.getG (st : Strand) (r : BitVec 4) : Word := if r = 0 then 0 else st.g.get ⟨r.toNat, r.isLt⟩

/-- gr := v: a write to g0 is discarded (R189), and a write of a register that the `PHINT` record marks dead ends the record
(R299). -/
def Strand.setG (st : Strand) (r : BitVec 4) (v : Word) : Strand :=
  if r = 0 then st
  else
    { st with
      g := st.g.set r.toNat v r.isLt
      rrec := match st.rrec with
        | some (gm, vm) => if gm.getLsbD r.toNat then some (gm, vm) else none
        | none => none }

/-- A write of vector register r ends a `PHINT` record that marks it dead (R299). -/
def Strand.touchV (st : Strand) (r : Nat) : Strand :=
  { st with
    rrec := match st.rrec with
      | some (gm, vm) => if vm.getLsbD r then some (gm, vm) else none
      | none => none }

/-- pi; p0 reads 1 (R202). -/
def Strand.getP (st : Strand) (p : BitVec 3) : Bool := st.pw.getLsbD p.toNat || p == 0

/-- pi := v; a write to p0 is discarded (R201). -/
def Strand.setP (st : Strand) (p : BitVec 3) (v : Bool) : Strand :=
  if p = 0 then st
  else
    { st with
      pw := if v then st.pw ||| (1#8 <<< p.toNat) else st.pw &&& ~~~(1#8 <<< p.toNat) }

/-- mi; m0 reads all ones (R34, R213). -/
def Strand.getM (st : Strand) (m : BitVec 3) : Mask :=
  if m = 0 then BitVec.allOnes 1024 else st.masks.get ⟨m.toNat, m.isLt⟩

/-- mi := v; a write to m0 is discarded (R222). -/
def Strand.setM (st : Strand) (m : BitVec 3) (v : Mask) : Strand :=
  if m = 0 then st else { st with masks := st.masks.set m.toNat v m.isLt }

/-- Bits 0 to n − 1 of a mask written, the others kept (R213). -/
def Strand.setMaskLow (st : Strand) (m : BitVec 3) (n v : Nat) : Strand :=
  let old := (st.getM m).toNat
  st.setM m (BitVec.ofNat 1024 (v % 2 ^ n + old / 2 ^ n * 2 ^ n))

/-- Flags ORed into `sr.fflags` (R101). -/
def Strand.raise (st : Strand) (f : FFlags) : Strand := { st with fflags := st.fflags ||| f }

/-- `sr.lost` bits set (R211). -/
def Strand.setLost (st : Strand) (l : BitVec 2) : Strand := { st with lost := st.lost ||| l }

/-- S rights (R288). -/
def Strand.sRights (st : Strand) : Bool := st.priv || st.inh

/-- `sr.status` (R211). -/
def Strand.status (st : Strand) : Word :=
  BitVec.ofNat 64 (st.priv.toNat + 2 * st.inh.toNat + 4 * st.loops.length)

/-- Under rsr one draw, which steps the generator; no draw in another mode (R100). -/
def Strand.draw (st : Strand) (mode : Nat) : Nat × Strand :=
  if mode = 5 then (genDraw (genStep st.gen), { st with gen := genStep st.gen }) else (0, st)

/-- The strand's global ordinal (R37) from its launch's CPQ, QPD and SPC. -/
def Strand.ordinal (st : Strand) (qpd cpq spc : Nat) : Nat :=
  ((st.ordDie * qpd + st.ordQuad) * cpq + st.ordCore) * spc + st.ordStrand

/-! ### Vector registers -/

/-- vr of the strand in a slot (R35, R213). -/
def State.getV (s : State) (slot : Nat) (st : Strand) (r : Nat) : VReg :=
  SMap.get 0 s.pool (64 * coreOf slot + st.vbase + r)

/-- vr := v. -/
def State.setV (s : State) (slot : Nat) (st : Strand) (r : Nat) (v : VReg) : State :=
  { s with pool := s.pool.set 0 (64 * coreOf slot + st.vbase + r) v }

/-! ### Local store -/

/-- A byte of a core's local store (R21). -/
def State.getLocal (s : State) (core off : Nat) : Byte := SMap.get 0 s.localMem (2 ^ 18 * core + off)
def State.setLocal (s : State) (core off : Nat) (b : Byte) : State :=
  { s with localMem := s.localMem.set 0 (2 ^ 18 * core + off) b }

/-- n bytes of local store, little-endian. -/
def State.readLocal (s : State) (core off : Nat) : Nat → Nat
  | 0 => 0
  | n + 1 => (s.getLocal core off).toNat + 256 * State.readLocal s core (off + 1) n

def State.writeLocal (s : State) (core off : Nat) : Nat → Nat → State
  | 0, _ => s
  | n + 1, v => State.writeLocal (s.setLocal core off (BitVec.ofNat 8 v)) core (off + 1) n (v / 256)

/-! ### Counters (R372) -/

/-- The counter at a register address. -/
def State.counterAt (s : State) (pa : Nat) : Counter := SMap.get Counter.reset s.sys.counters pa

/-- n events on a counter: COUNT saturates, LAST takes `sr.time`. -/
def State.countN (s : State) (pa n : Nat) : State :=
  if n = 0 then s
  else
    let c := s.counterAt pa
    let v : Counter := { count := BitVec.ofNat 32 (min (c.count.toNat + n) (2 ^ 32 - 1)), last := BitVec.ofNat 32 s.time }
    s.setSys { s.sys with counters := s.sys.counters.set Counter.reset pa v }

def State.count1 (s : State) (pa : Nat) : State := s.countN pa 1

/-- Register addresses of the execution error page (R371), memory error page (R399), structure and slice counters
(R400) and system page (R403). -/
def execCounter (tenant off : Nat) : Nat := 0xA300000000000 + tenant * 4096 + off
def memCounter (tenant off : Nat) : Nat := 0xA300000040000 + tenant * 4096 + off
def structCounter (code ue : Nat) : Nat := 0xA300000080000 + 16 * code + 8 * ue
def sysCounter (off : Nat) : Nat := 0xA300000092000 + off

/-! ### The error log (R401) -/

/-- A record written to the error log, or dropped and counted in ELDROP (DEDUCED, log entry 21). -/
def State.logEvent (s : State) (pa struct kind agent tenant : Nat) : State :=
  let i := s.sys.eltail.toNat
  let rec_ : BitVec 256 := BitVec.ofNat 256 (pa % 2 ^ 52 + struct % 16 * 2 ^ 64 + kind % 16 * 2 ^ 68 + agent % 256 * 2 ^ 72
    + tenant % 64 * 2 ^ 80 + s.time % 2 ^ 64 * 2 ^ 128 + (i + 1) % 2 ^ 64 * 2 ^ 192)
  let dropped := 1024 ≤ (s.sys.eltail - s.sys.elhead).toNat
  let y := s.sys
  if dropped then s.count1 0xA300000090010
  else s.setSys { y with eltail := y.eltail + 1, log := y.log.set 0 (i % 1024) rec_ }

/-- An event word of R404. -/
def State.logSystem (s : State) (kind sub unit : Nat) : State := s.logEvent (sub + 16 * unit) 0 kind 0 0

/-! ### Launches -/

/-- The launch with a number. -/
def State.launchOf (s : State) (lid : Nat) : Option Launch := s.hub.launches.find? fun l => l.lid == lid

/-- The launch with a number changed. -/
def State.updLaunch (s : State) (lid : Nat) (f : Launch → Launch) : State :=
  s.setHub { s.hub with launches := s.hub.launches.map fun l => if l.lid == lid then f l else l }

/-- Fields of a record and of its SHAPE word (R44, R45). -/
def recEntry (r : Nat) : Nat := fieldN r 0 64
def recArg (r : Nat) : Nat := fieldN r 64 64
def recBudget (r : Nat) : Nat := fieldN r 192 32
def recFoot (r : Nat) : Nat := fieldN r 256 64
def recComp (r : Nat) : Nat := fieldN r 320 64
def recStack (r : Nat) : Nat := fieldN r 384 64
def recUser (r : Nat) : Nat := fieldN r 448 64
def recTenant (r : Nat) : Nat := fieldN r 128 6
def recPrio (r : Nat) : Nat := fieldN r 134 3
def recKind (r : Nat) : Nat := fieldN r 137 2
def recBond (r : Nat) : Bool := fieldN r 139 1 == 1
def recSup (r : Nat) : Bool := fieldN r 143 1 == 1
def recSpc (r : Nat) : Nat := fieldN r 144 5
def recCpq (r : Nat) : Nat := fieldN r 149 3
def recQpd (r : Nat) : Nat := fieldN r 152 6
def recMinDie (r : Nat) : Nat := fieldN r 160 3
def recMaxDie (r : Nat) : Nat := fieldN r 163 3
def recVreg (r : Nat) : Nat := fieldN r 166 2
def recLocal (r : Nat) : Nat := fieldN r 168 7
def recFcount (r : Nat) : Nat := fieldN r 176 4
def recStklog (r : Nat) : Nat := fieldN r 180 5

/-- Vector registers of a VREG code (R45). -/
def vregCount (code : Nat) : Nat := if code = 0 then 0 else 4 * 2 ^ code

/-- The address space, tenant and priority of a strand's launch; zero for a strand of no launch. -/
def State.asidOf (s : State) (st : Strand) : Nat := ((s.launchOf st.lid).map (·.asid)).getD 0
def State.tenantOf (s : State) (st : Strand) : Nat := ((s.launchOf st.lid).map (·.tenant)).getD 0

/-- The global ordinal of a strand (R37). -/
def State.ordinalOf (s : State) (st : Strand) : Nat :=
  match s.launchOf st.lid with
  | some l => st.ordinal (recQpd l.record) (recCpq l.record) (recSpc l.record)
  | none => 0

/-- Microseconds in cycles of the 1.6 GHz time base (R15). -/
def usCycles (us : Nat) : Nat := 1600 * us

end Sys2Proof.Machine
end

