-- ==== Sys2Proof/Machine/Tenancy.lean ====
section
/-! DEFINITION. Who holds what in a course: the coursing table read as R68 lays it out, the curve of R71, bays, whole quads
(spec/03_coursing.md), and the tenancy tests of R25, R52 and R261. -/

namespace Sys2Proof.Machine

/-- n bytes of the coursing table from an offset above `0x10_0000`, little-endian (R66). -/
def tableLe (t : SMap Byte) (off : Nat) : Nat → Nat
  | 0 => 0
  | n + 1 => (SMap.get 0 t off).toNat + 256 * tableLe t (off + 1) n

/-- The course that a table look-up names: the default course (R70), or course c of a copy. -/
inductive CourseRef where
  | default
  | entry (copy : Bool) (c : Nat)
  deriving DecidableEq, Repr

/-- Offset of a course entry from `0x10_0000` (R66). -/
def courseOff (copy : Bool) (c : Nat) : Nat := copy.toNat * 2 ^ 17 + c * 2 ^ 11

/-- The course now in force (R67, R70). -/
def State.courseNow (s : State) : CourseRef :=
  if s.coursing.enable then .entry s.coursing.active s.coursing.course.toNat else .default

/-- DUR and SAVELEAD of a course entry, in µs (R68). -/
def courseDur (t : SMap Byte) (copy : Bool) (c : Nat) : Nat := tableLe t (courseOff copy c) 2
def courseSavelead (t : SMap Byte) (copy : Bool) (c : Nat) : Nat := tableLe t (courseOff copy c + 2) 2

/-- A bay record (R68). -/
structure Bay where
  tenant : Nat
  valid : Bool
  base : Nat
  len : Nat
  deriving DecidableEq, Repr

/-- Bay b of die d of a course entry. -/
def courseBay (t : SMap Byte) (copy : Bool) (c d b : Nat) : Bay :=
  let r := tableLe t (courseOff copy c + 0x40 + d * 64 + b * 8) 8
  { tenant := fieldN r 0 6, valid := fieldN r 7 1 == 1, base := fieldN r 8 8, len := fieldN r 16 8 }

/-- The 16-byte share record of a tenant (R68). -/
def courseShare (t : SMap Byte) (copy : Bool) (c tenant : Nat) : Nat :=
  tableLe t (courseOff copy c + 0x200 + tenant * 16) 16

def sharePresent (r : Nat) : Bool := fieldN r 81 1 == 1
def shareDonate (r : Nat) : Bool := fieldN r 82 1 == 1
def shareDonee (r : Nat) : Nat := fieldN r 88 6
def shareIdle (r : Nat) : Nat := fieldN r 96 16

/-- quad_pos of R71, quads in row-major order. -/
def quadPosTable : List Nat :=
  [0, 3, 4, 5, 42, 43, 44, 47,
   1, 2, 7, 6, 41, 40, 45, 46,
   14, 13, 8, 9, 38, 39, 34, 33,
   15, 12, 11, 10, 37, 36, 35, 32,
   16, 19, 20, 23, 24, 27, 28, 31,
   17, 18, 21, 22, 25, 26, 29, 30]

/-- curve_pos of R71: core k of quad q. -/
def curvePos (q k : Nat) : Nat := 4 * quadPosTable.getD q 0 + (k ^^^ (k / 2))

/-- Quad kind (R16): wide quads lie in rows 2 and 3. -/
def quadWide (q : Nat) : Bool := q / 8 == 2 || q / 8 == 3

/-- The quads of a bond in bond-sequence order (R17): top-left, top-right, bottom-right, bottom-left. -/
def bondQuads (bond : Nat) : List Nat :=
  let row := if bond < 4 then 0 else if bond < 8 then 4 else 2
  let col := 2 * (bond % 4)
  let q := 8 * row + col
  [q, q + 1, q + 9, q + 8]

/-- The bond of a quad (R17). -/
def bondOf (q : Nat) : Nat :=
  let row := q / 8
  let c := q % 8 / 2
  if row < 2 then c else if row < 4 then 8 + c else 4 + c

/-- A compute die that can hold work: neither lost nor held in reset (R408, R416). -/
def State.dieUp (s : State) (d : Nat) : Bool :=
  match s.sys.cdie.toList.getD d .held with
  | .running | .degraded => true
  | .lost | .held => false

/-- The tenant whose bay covers a core in a course (R71); donations apart. -/
def coverIn (t : SMap Byte) (r : CourseRef) (core : Nat) : Option Nat :=
  match r with
  | .default => some 0
  | .entry copy c =>
    let d := core / 192
    let pos := curvePos (core / 4 % 48) (core % 4)
    ((List.range 8).map (courseBay t copy c d)).findSome? fun b =>
      if b.valid && b.base ≤ pos && pos < b.base + b.len then some b.tenant else none

/-- Whether a bay of the course covers a core. -/
def bayCovers (t : SMap Byte) (copy : Bool) (c bay core : Nat) : Bool :=
  let b := courseBay t copy c (core / 192) bay
  let pos := curvePos (core / 4 % 48) (core % 4)
  b.valid && b.base ≤ pos && pos < b.base + b.len

/-- The tenant that holds a core now (R71, R86): the donee of a donated bay; none on a die that is not up. -/
def State.holder (s : State) (core : Nat) : Option Nat :=
  if !s.dieUp (core / 192) then none
  else
    match s.coursing.donations.find? fun d =>
        d.die == core / 192 && bayCovers s.coursing.table s.coursing.active s.coursing.course.toNat d.bay core with
    | some d => some d.donee
    | none => coverIn s.coursing.table s.courseNow core

/-- The tenant that holds the whole of a quad in the current course (R25, R71). -/
def State.quadHolder (s : State) (a : Nat) : Option Nat :=
  match s.holder (4 * a), s.holder (4 * a + 1), s.holder (4 * a + 2), s.holder (4 * a + 3) with
  | some t, some t1, some t2, some t3 => if t == t1 && t == t2 && t == t3 then some t else none
  | _, _, _, _ => none

/-- The tenant holds the whole quad (R25). -/
def State.holdsQuad (s : State) (tenant a : Nat) : Bool := s.quadHolder a == some tenant

/-- The owner of a quad's shared resources in a course, donations apart (R76). -/
def quadOwnerIn (t : SMap Byte) (r : CourseRef) (a : Nat) : Option Nat :=
  match coverIn t r (4 * a), coverIn t r (4 * a + 1), coverIn t r (4 * a + 2), coverIn t r (4 * a + 3) with
  | some x, some y, some z, some w => if x == y && x == z && x == w then some x else none
  | _, _, _, _ => none

end Sys2Proof.Machine
end

