-- ==== Sys2Proof/Machine/Translate.lean ====
section
/-! DEFINITION. From virtual addresses to bytes: the three-level translation and its faults (spec/13_traps_context.md R319 to
R323), the physical-address checks with the self and launch windows (spec/01_organisation.md R24 to R28, R356, R358), keys
(R342 to R344) and lost lines and pieces (R384 to R388). -/

namespace Sys2Proof.Machine

/-- Who makes an access: a strand, or an engine command issued by one. -/
structure Ctx where
  agent : Nat
  core : Nat
  tenant : Nat
  asid : Nat
  lid : Nat
  sright : Bool
  engine : Bool
  deriving DecidableEq, Repr

/-- The access context of the strand in a slot. -/
def State.ctxOf (s : State) (slot : Nat) (st : Strand) : Ctx :=
  { agent := agentOf (coreOf slot), core := coreOf slot, tenant := s.tenantOf st, asid := s.asidOf st, lid := st.lid
    sright := st.sRights, engine := false }

/-- The context in which an engine command of quad `agent` makes its accesses. -/
def cmdCtx (agent : Nat) (c : Cmd) : Ctx :=
  { agent := agent, core := 4 * agent, tenant := c.tenant, asid := c.asid, lid := c.lid, sright := c.sright, engine := true }

/-! ### Traps as data -/

/-- What a trap carries besides `sr.epc` (R304, R305). -/
structure Trap where
  code : Nat
  acc : Nat
  badpte : Bool
  spill : Bool
  tval : Nat
  deriving DecidableEq, Repr

/-- A trap with a code, an access kind and a value. -/
def trapOf (code acc tval : Nat) : Trap := { code := code, acc := acc, badpte := false, spill := false, tval := tval }

/-- Access kinds of `sr.cause` (R304). -/
def accFetch : Nat := 1
def accRead : Nat := 2
def accWrite : Nat := 3

/-! ### Keys (R342 to R344) -/

/-- The key index that a request carries: 0 with confidentiality off. -/
def State.keyIndex (s : State) (k : Nat) : Nat := if s.keystone.conf then k else 0

def KeySlot.reset : KeySlot := { gen := 0, filled := false, cleared := false }

/-- A request with this index reads zeros and has its writes discarded (R344): the slot holds no key. -/
def State.keyCleared (s : State) (k : Nat) : Bool :=
  s.keystone.conf && !(SMap.get KeySlot.reset s.keystone.keys k).filled

/-- The key now in a slot, as one number. -/
def State.keyNow (s : State) (k : Nat) : Nat × Nat := (k, (SMap.get KeySlot.reset s.keystone.keys k).gen)

/-- The bits of the ASID table entry (R319). -/
def State.asidEntry (s : State) (asid : Nat) : Nat := s.mem.readLe (s.hub.atbase.toNat + 16 * asid) 16

def asidValid (e : Nat) : Bool := fieldN e 0 1 == 1
def asidRoot (e : Nat) : Nat := fieldN e 16 36
def asidTenant (e : Nat) : Nat := fieldN e 64 6
def asidKey (e : Nat) : Nat := fieldN e 70 11

/-- The key index of an address space, and of a tenant's walks and saves. -/
def State.keyOfAsid (s : State) (asid : Nat) : Nat := s.keyIndex (asidKey (s.asidEntry asid))
def State.keyOfTenant (s : State) (tenant : Nat) : Nat :=
  s.keyIndex (SMap.get (0 : BitVec 11) s.keystone.tkey tenant).toNat

/-! ### Bytes -/

/-- Window of a physical address (R24). -/
def window (pa : Nat) : Nat := pa / 2 ^ 48

def isDevice (pa : Nat) : Bool := decide (window pa < 6)
def isScratch (pa : Nat) : Bool := window pa == 8
def isControl (pa : Nat) : Bool := window pa == 0xA || window pa == 0xF
def isHostMem (pa : Nat) : Bool := window pa == 0xC || window pa == 0xD
def isPeer (pa : Nat) : Bool := window pa == 0xE

/-- The state of a home die. -/
def State.homeState (s : State) (h : Nat) : DieState := s.sys.hdie.toList.getD h .held

/-- A home die whose range reads as lost (R410). -/
def State.homeLost (s : State) (pa : Nat) : Bool := isDevice pa && s.homeState (window pa) == .lost

/-- The 128-byte line or piece of an address is lost (R384, R385, R410). -/
def State.isLost (s : State) (pa : Nat) : Bool := s.homeLost pa || s.homes.lost.contains (pa / 128)

/-- The key under which a line of device memory was last written: slot 0 with its first key, unless listed (DESIGN CHOICE, log entry 17). -/
def State.lineKey (s : State) (line : Nat) : Nat × Nat := SMap.get (0, 0) s.homes.lineKeys line

/-- A byte written under one key and read under another is unpredictable (R343). -/
def State.plainByte (s : State) (written key : Nat × Nat) (pa : Nat) : Byte :=
  if written = key then s.mem.read pa else Config.otherKeyByte pa (written.1 + 2048 * written.2) (key.1 + 2048 * key.2)

/-- A line about to be written under a key: the bytes that the store leaves are the line as this key decrypts it (R343). -/
def State.rekeyLine (s : State) (line : Nat) (key : Nat × Nat) (whole : Bool) : State :=
  let old := s.lineKey line
  if old = key then s
  else
    let mem := if whole then s.mem else
      (List.range 128).foldl (fun m i => m.write (128 * line + i) (s.plainByte old key (128 * line + i))) s.mem
    { s with mem := mem, homes := { s.homes with lineKeys := s.homes.lineKeys.set (0, 0) line key } }

/-- A byte as a request with a key index reads it, and whether it is lost or its key cleared (R343, R344, R387)
(DESIGN CHOICE, log entry 10). -/
def State.readByte (s : State) (pa key : Nat) : Byte × Bool :=
  if isDevice pa then
    if s.isLost pa || s.keyCleared key then (0, true)
    else (s.plainByte (s.lineKey (pa / 128)) (s.keyNow key) pa, false)
  else if isScratch pa then (if s.isLost pa then (0, true) else (s.mem.read pa, false))
  else if isPeer pa then (Config.peerByte pa s.free, false)
  else (s.mem.read pa, false)

/-- n bytes, little-endian, and whether any of them was lost. -/
def State.readPa (s : State) (pa key : Nat) : Nat → Nat × Bool
  | 0 => (0, false)
  | n + 1 =>
    let b := s.readByte pa key
    let r := State.readPa s (pa + 1) key n
    (b.1.toNat + 256 * r.1, b.2 || r.2)

/-- The scratchpad record of a quad after a write of bytes at an offset (R300): it is voided by a byte outside every live
range, and by a byte in a staged range. -/
def State.phintWrite (s : State) (a off n : Nat) : State :=
  let q := s.quadAt a
  if q.phint.isEmpty then s
  else
    let live (o : Nat) : Bool := q.phint.any fun e => !e.2.ro && e.2.offset ≤ o && o < e.2.offset + e.2.len
    let staged (o : Nat) : Bool := q.phint.any fun e => e.2.ro && e.2.offset ≤ o && o < e.2.offset + e.2.len
    if (List.range n).all fun i => live (off + i) && !staged (off + i) then s
    else s.setQuad a { q with phint := [] }

/-- A store of `n` bytes performed at its serialisation point, for a tenant's request with a key index; `whole` says that the
access writes every byte of the line. Answers the state and whether the store was discarded (R241, R344, R385, R387)
(DESIGN CHOICE, log entry 10). -/
def State.storePa (s : State) (tenant key pa n v : Nat) (whole : Bool) : State × Bool :=
  let s := if isScratch pa then s.phintWrite (pa / 2 ^ 24 % 256) (pa % 2 ^ 24) n else s
  if s.homeLost pa then (s.count1 (memCounter tenant 0x10), true)
  else if isDevice pa && s.keyCleared key then (s.count1 (memCounter tenant 0x28), true)
  else if s.isLost pa && !whole then (s.count1 (memCounter tenant 0x10), true)
  else
    let s :=
      if s.isLost pa then
        -- the whole line is written: its lost state is cleared and KIND 10 is logged (R119, R401)
        let s := s.setHomes { s.homes with lost := s.homes.lost.filter (· != pa / 128) }
        let s := { s with mem := s.mem.writeLe (pa / 128 * 128) 128 0 }
        s.logEvent (pa / 128 * 128) (if isScratch pa then 8 else 0) 10 0 0
      else s
    let s := if isDevice pa then s.rekeyLine (pa / 128) (s.keyNow key) whole else s
    if isPeer pa then (s, false) else ({ s with mem := s.mem.writeLe pa n v }, false)

/-! ### Physical-address checks -/

/-- The scratchpad address after the self window (R356) and launch window (R358) replacements; none is a fault. -/
def State.scratchTarget (s : State) (c : Ctx) (pa : Nat) : Option Nat :=
  let off := pa % 2 ^ 48
  let sel := off / 2 ^ 24 % 256
  let byte := off % 2 ^ 24
  if sel == 0xFF then some (pa - 0xFF * 2 ^ 24 + c.agent * 2 ^ 24)
  else if sel == 0xFE then
    let g := off / 2 ^ 32 % 128
    if off / 2 ^ 39 ≠ 0 then none
    else
      match s.launchOf c.lid with
      | none => none
      | some l =>
        let qpd := recQpd l.record
        match l.dies[g / qpd]? with
        | some d => match d.2[g % qpd]? with
          | some a => some (8 * 2 ^ 48 + a * 2 ^ 24 + byte)
          | none => none
        | none => none
  else some pa

/-- Register rights of a strand in the control windows (R66, R47, R137, R309, R371, R399, R403): S rights, and a block that
admits an S-level strand of its tenant (DEDUCED, log entry 29). -/
def State.controlAdmits (s : State) (c : Ctx) (pa : Nat) (write : Bool) : Bool :=
  let off := pa % 2 ^ 44
  if !c.sright then false
  else
    match pa / 2 ^ 44 % 16 with
    | 0 => !write
    | 1 =>
      if off < 0x800000 then
        -- the queue pages: only the mirror of a queue of the strand's tenant
        let n := off / 2 ^ 17
        let q := SMap.get Queue.reset s.hub.queues n
        off / 2 ^ 16 % 2 == 1 && q.tenant.toNat == c.tenant
      else if 0x900000 ≤ off && off < 0x940000 then (off - 0x900000) / 4096 == c.tenant
      else !write
    | 3 =>
      -- of a tenant's pages only ECCLR, and in the execution page LKCOMP and LKCTL, may be written (R371, R399)
      let o := off % 4096 / 8 * 8
      if off < 0x40000 then off / 4096 == c.tenant && (!write || o == 0xF00 || o == 0x800 || o == 0x808)
      else if off < 0x80000 then (off - 0x40000) / 4096 == c.tenant && (!write || o == 0xF00)
      else false
    | _ => false

/-- The offset in the scratchpad window names a byte of a quad (R25). -/
def scratchOk (off : Nat) : Bool := off / 2 ^ 32 == 0 && decide (off / 2 ^ 24 % 256 < 192) && decide (off % 2 ^ 24 < 2 ^ 22)

/-- The offset in a peer device's part of the peer window names a byte there (R27). -/
def peerOk (off : Nat) : Bool :=
  match off / 2 ^ 40 % 4 with
  | 0 => decide (off / 2 ^ 37 % 8 < 6)
  | 1 => scratchOk (off % 2 ^ 40)
  | _ => false

/-- The device of a peer address is fenced (R411) (DESIGN CHOICE, log entry 22). -/
def State.isFenced (s : State) (pa : Nat) : Bool := isPeer pa && s.pod.fenced.getLsbD (pa / 2 ^ 42 % 64)

/-- An address that some party's access may have (R24 to R28): a byte that exists, in a window that answers. -/
def State.decodes (s : State) (pa : Nat) : Bool :=
  let off := pa % 2 ^ 48
  match window pa with
  | 8 => scratchOk off
  | 0xA => decide (off / 2 ^ 44 < 4)
  | 0xC => !s.sys.portDown.getLsbD 0
  | 0xD => !s.sys.portDown.getLsbD 1
  | 0xE => off / 2 ^ 42 != s.pod.self.toNat && !s.isFenced pa && peerOk off
  | 0xF => decide (off < 2 ^ 16)
  | w => decide (w < 6) && decide (off < 2 ^ 37) && s.homeState w != .held

/-- Peer traffic is carried (R333): with ENABLE 0 a message to a peer waits (DEDUCED, log entry 10); a fenced device's is answered here
(R335). -/
def State.carried (s : State) (pa : Nat) : Bool := !isPeer pa || s.pod.enable || s.isFenced pa

/-- The address at which an access is performed, after R24 to R28, R356 and R358; none is a physical-address fault. -/
def State.physical (s : State) (c : Ctx) (pa : Nat) (write : Bool) : Option Nat :=
  let ok (p : Nat) : Option Nat := if s.decodes p then some p else none
  match window pa with
  | 8 =>
    match s.scratchTarget c pa with
    | some p => if s.holdsQuad c.tenant (p / 2 ^ 24 % 256) then ok p else none
    | none => none
  | 0xA => if !c.engine && s.controlAdmits c pa write then ok pa else none
  | 0xF => if !c.engine && c.sright then ok pa else none
  | _ => ok pa

/-! ### The walk (R320, R321) -/

/-- What a walk finds wrong: V = 0, or a malformed entry. -/
inductive WalkFault where
  | invalid
  | malformed
  deriving DecidableEq, Repr

/-- 8 bytes read by a walker, with whether they were lost (R387: then the entry is malformed). -/
def State.load8 (s : State) (key pa : Nat) : Nat × Bool := s.readPa pa key 8

def pteV (e : Nat) : Bool := fieldN e 0 1 == 1
def pteLeaf (e : Nat) : Bool := fieldN e 1 1 == 1
def pteR (e : Nat) : Bool := fieldN e 2 1 == 1
def pteW (e : Nat) : Bool := fieldN e 3 1 == 1
def pteX (e : Nat) : Bool := fieldN e 4 1 == 1
def pteU (e : Nat) : Bool := fieldN e 5 1 == 1
def pteWalk (e : Nat) : Bool := fieldN e 6 1 == 1
def pteOut (e : Nat) : Nat := fieldN e 16 36

/-- A reserved bit is set (R321). -/
def pteReserved (e : Nat) : Bool := fieldN e 7 9 != 0 || fieldN e 52 12 != 0

/-- A table pointer uses V, LEAF 0 and OUT, and names device memory; home die 6 and above is not device memory. -/
def pteTable (e : Nat) : Bool :=
  !pteLeaf e && fieldN e 2 14 == 0 && fieldN e 52 12 == 0 && isDevice (pteOut e * 2 ^ 16)
    && decide (pteOut e * 2 ^ 16 % 2 ^ 48 < 2 ^ 37)

/-- The leaf of a virtual address: its level, 1 for a 512 MiB block and 2 for a 64 KiB page, and its entry. -/
def State.walk (s : State) (asid va : Nat) : Except WalkFault (Nat × Nat) :=
  let ae := s.asidEntry asid
  let key := s.keyOfTenant (asidTenant ae)
  if !asidValid ae then .error .invalid
  else
    let e0 := s.load8 key (asidRoot ae * 2 ^ 16 + fieldN va 42 10 * 8)
    if e0.2 then .error .malformed
    else if !pteV e0.1 then .error .invalid
    else if !pteTable e0.1 then .error .malformed
    else
      let e1 := s.load8 key (pteOut e0.1 * 2 ^ 16 + fieldN va 29 13 * 8)
      if e1.2 then .error .malformed
      else if !pteV e1.1 then .error .invalid
      else if pteLeaf e1.1 then
        if pteReserved e1.1 || fieldN e1.1 16 13 != 0 then .error .malformed else .ok (1, e1.1)
      else if !pteTable e1.1 then .error .malformed
      else
        let e2 := s.load8 key (pteOut e1.1 * 2 ^ 16 + fieldN va 16 13 * 8)
        if e2.2 then .error .malformed
        else if !pteV e2.1 then .error .invalid
        else if !pteLeaf e2.1 || pteReserved e2.1 then .error .malformed
        else .ok (2, e2.1)

/-! ### The holders of a line (R116, R117) -/

def DirEntry.line (e : DirEntry) (i : Nat) : LineState := e.lines.toList.getD i .I
def DirEntry.setLine (e : DirEntry) (i : Nat) (x : LineState) : DirEntry :=
  if h : i < 4 then { e with lines := e.lines.set i x h } else e

/-- The CV bit of a quad agent, and the SPM bit of another agent (R116). -/
def cvBit (a : Nat) : BitVec 64 := 1#64 <<< (a / 3)
def spmBit (a : Nat) : BitVec 7 :=
  if a < 196 then 1#7 <<< (a - 192) else if a = 196 then 0x10 else if a = 200 then 0x20 else 0x40

/-- An agent recorded in coarse mode. -/
def DirEntry.cover (e : DirEntry) (a : Nat) : DirEntry :=
  if a < 192 then { e with cv := e.cv ||| cvBit a } else { e with spm := e.spm ||| spmBit a }

/-- Whether the entry covers an agent in coarse mode. -/
def DirEntry.covers (e : DirEntry) (a : Nat) : Bool :=
  if a < 192 then e.cv &&& cvBit a != 0 else e.spm &&& spmBit a != 0

/-- The agents of the coherence directory that may hold a line (R23). -/
def dirAgents : List Nat := List.range 197 ++ [200, 201]

/-- The holders of line i (R117). -/
def DirEntry.holders (e : DirEntry) (i : Nat) : List Nat :=
  if e.coarse then
    match e.line i with
    | .O => if e.ownv then [e.owner] else []
    | .S => dirAgents.filter e.covers
    | _ => []
  else (e.ptrs.filter fun p => p.2.getLsbD i).map Prod.fst

/-- The owner of line i in state O. -/
def DirEntry.ownerOf (e : DirEntry) (i : Nat) : Option Nat :=
  if e.line i == .O then (e.holders i).head? else none

/-! ### What a walk meets (R134, R320, R387) -/

/-- The entries that a walk reads, the address space's first (R319, R320). -/
def State.walkPath (s : State) (asid va : Nat) : List Nat :=
  let ae := s.asidEntry asid
  let key := s.keyOfTenant (asidTenant ae)
  let first := s.hub.atbase.toNat + 16 * asid
  if !asidValid ae then [first]
  else
    let p0 := asidRoot ae * 2 ^ 16 + fieldN va 42 10 * 8
    let e0 := s.load8 key p0
    if e0.2 || !pteV e0.1 || !pteTable e0.1 then [first, p0]
    else
      let p1 := pteOut e0.1 * 2 ^ 16 + fieldN va 29 13 * 8
      let e1 := s.load8 key p1
      if e1.2 || !pteV e1.1 || pteLeaf e1.1 || !pteTable e1.1 then [first, p0, p1] else [first, p0, p1, pteOut e1.1 * 2 ^ 16 + fieldN va 16 13 * 8]

/-- The last entry that a walk reads is lost, or its key is cleared (R387). -/
def State.walkLost (s : State) (asid va : Nat) : Option Nat :=
  match (s.walkPath asid va).drop 1 |>.getLast? with
  | some p => if (s.load8 (s.keyOfTenant (asidTenant (s.asidEntry asid))) p).2 then some p else none
  | none => none

/-- A host holds the line in O, and may have modified it (R134). -/
def State.hostOwns (s : State) (line : Nat) : Bool :=
  match (SMap.get DirEntry.reset s.homes.dir (line / 4)).ownerOf (line % 4) with | some a => a == 200 || a == 201 | none => false

/-- An entry that a walk would read lies in a line that a host holds in O (R134, R320). -/
def State.walkHeld (s : State) (asid va : Nat) : Option Nat :=
  if s.homes.dir.isEmpty then none else (s.walkPath asid va).find? fun p => isDevice p && s.hostOwns (p / 128)

/-- No cause of R305: a walk that waits for the recall of a table entry's line from a host. The trap's value is the entry's address. -/
def heldWalk : Nat := 256

/-- Bits of the page offset of a leaf level. -/
def pageBits (level : Nat) : Nat := if level = 1 then 29 else 16

/-- The physical address under a leaf (R320). -/
def leafPa (level e va : Nat) : Nat := pteOut e * 2 ^ 16 / 2 ^ pageBits level * 2 ^ pageBits level + va % 2 ^ pageBits level

/-- Whether a TLB entry translates an address of an address space. -/
def TlbEntry.covers (e : TlbEntry) (asid va : Nat) : Bool := e.asid == asid && e.page == va / 2 ^ pageBits e.level

/-- The entry that the core's micro-TLB or the quad's TLB holds. -/
def State.tlbFind (s : State) (core asid va : Nat) : Option TlbEntry :=
  match (SMap.get [] s.utlb core).find? fun e => e.covers asid va with
  | some e => some e
  | none => (SMap.get [] s.qtlb (agentOf core)).find? fun e => e.covers asid va

/-- A translation entered into the micro-TLB, of 16 entries (R21), and the quad TLB. Which entry leaves a full micro-TLB is the model's
choice: the one entered first (DESIGN CHOICE, log entry 8). -/
def State.tlbFill (s : State) (core : Nat) (e : TlbEntry) : State :=
  let u := SMap.get [] s.utlb core
  let q := SMap.get [] s.qtlb (agentOf core)
  { s with
    utlb := if u.contains e then s.utlb else s.utlb.set [] core ((e :: u).take 16)
    qtlb := if q.contains e then s.qtlb else s.qtlb.set [] (agentOf core) (e :: q) }

/-- Rights an access needs (R321). -/
inductive Right where
  | read
  | write
  | readWrite
  | fetch
  /-- No right: `FPDECL` only translates (R294). -/
  | any
  deriving DecidableEq, Repr

/-- The access kind that a trap reports (R304). -/
def Right.acc : Right → Nat
  | .read => accRead
  | .write => accWrite
  | .readWrite => accWrite
  | .fetch => accFetch
  | .any => 0

/-- A leaf grants a right to a party with or without S rights (R321). -/
def leafGrants (e : Nat) (r : Right) (sright : Bool) : Bool :=
  match r with
  | .any => true
  | .read => pteR e && (sright || pteU e)
  | .write => pteW e && (sright || pteU e)
  | .readWrite => pteR e && pteW e && (sright || pteU e)
  | .fetch => pteX e && (sright || pteU e)

/-- The translation of one address by a walk (R320 to R322): the leaf, or a page or permission fault. -/
def State.translateNow (s : State) (c : Ctx) (va : Nat) (r : Right) : Except Trap TlbEntry :=
  match s.walk c.asid va with
  | .ok (l, e) =>
    if leafGrants e r c.sright then .ok { asid := c.asid, level := l, page := va / 2 ^ pageBits l, entry := BitVec.ofNat 64 e }
    else .error (trapOf 0x07 r.acc va)
  | .error .invalid => .error (trapOf 0x06 r.acc va)
  | .error .malformed => .error { trapOf 0x06 r.acc va with badpte := true }

/-- The translation of one address: an entry of a TLB that grants the right, or else a walk, since a leaf whose rights were widened needs no
`TLBINV` (R323). A walk waits for the recall of a line that a host holds in O (R134, R320). -/
def State.translate (s : State) (c : Ctx) (va : Nat) (r : Right) : Except Trap TlbEntry :=
  let walked : Except Trap TlbEntry :=
    match s.walkHeld c.asid va with
    | some p => .error (trapOf heldWalk r.acc p)
    | none => s.translateNow c va r
  match s.tlbFind c.core c.asid va with
  | some e => if leafGrants e.entry.toNat r c.sright then .ok e else walked
  | none => walked

/-- The physical address of a byte, checked (R24 to R28). -/
def State.physOf (s : State) (c : Ctx) (va : Nat) (r : Right) : Except Trap (Nat × TlbEntry) :=
  match s.translate c va r with
  | .error t => .error t
  | .ok e =>
    match s.physical c (leafPa e.level e.entry.toNat va) (r == .write || r == .readWrite) with
    | some p => .ok (p, e)
    | none => .error (trapOf 0x08 r.acc va)

/-- Distance from an address to the end of its 64 KiB page. -/
def pageLeft (va : Nat) : Nat := 2 ^ 16 - va % 2 ^ 16

/-- The first fault, in ascending address order, of n bytes from an address (R240, R306): translation faults of every byte come
before the physical-address checks. Bytes wrap modulo 2^52. Runs page by page. -/
def State.firstFault (s : State) (c : Ctx) (r : Right) (check : Nat → Option Nat → Bool) : Nat → Nat → Nat → Option Trap
  | 0, _, _ => none
  | fuel + 1, va, n =>
    if n = 0 then none
    else
      match s.translate c va r with
      | .error t => some t
      | .ok e =>
        let p := s.physical c (leafPa e.level e.entry.toNat va) (r == .write || r == .readWrite)
        if check va p then some (trapOf 0x08 r.acc va)
        else
          let k := min n (pageLeft va)
          State.firstFault s c r check fuel ((va + k) % 2 ^ 52) (n - k)

end Sys2Proof.Machine
end

