-- ==== Sys2Proof/Machine/Directory.lean ====
section
/-! DEFINITION. The directory of the home slices, the quad L2 copies and the tiles as operations on the state
(spec/05_storage_coherence.md R113 to R121, R130 to R133). Copies and directory entries carry no data: each byte has one
value (DESIGN CHOICE, log entry 7), and they say who may read or write it. A line is PA[51:7], a region PA[51:9]. -/

namespace Sys2Proof.Machine

/-- Home die and slice of a device-memory address (R22). -/
def homeDie (pa : Nat) : Nat := pa / 2 ^ 48
def homeSlice (pa : Nat) : Nat := (pa / 2 ^ 9 % 32) ^^^ (pa / 2 ^ 18 % 32)

/-- The slice's number among all slices: 32 × die + slice. -/
def sliceOf (pa : Nat) : Nat := 32 * homeDie pa + homeSlice pa

def lineOf (pa : Nat) : Nat := pa / 128
def regionOf (line : Nat) : Nat := line / 4

/-! ### Shares and recency (R73, R75, R86) -/

/-- The share record under which a core of the compute dies or a tenant fills: that of the owner of the core's bay, donated or not, and
for a tenant without one that of tenant 0; none for unshared traffic and in the default course. -/
def State.shareOf (s : State) (core tenant : Nat) : Option Nat :=
  match s.courseNow with
  | .default => none
  | .entry copy c =>
    let t := if core < 768 then (coverIn s.coursing.table s.courseNow core).getD tenant else tenant
    let r := courseShare s.coursing.table copy c t
    let z := courseShare s.coursing.table copy c 0
    if sharePresent r then some r else if sharePresent z then some z else none

/-- The ways of a mask that more than one present tenant may fill; `lo` and `n` place the mask in the share record. -/
def State.sharedWays (s : State) (lo n : Nat) : Nat :=
  match s.courseNow with
  | .default => 0
  | .entry copy c =>
    let ms := ((List.range 64).map (courseShare s.coursing.table copy c)).filter sharePresent |>.map fun r => fieldN r lo n
    (ms.foldl (fun (a : Nat × Nat) m => (a.1 ||| m, a.2 ||| (a.1 &&& m))) (0, 0)).2

/-- Whether a fill of a way enters, or a hit moves, as a guaranteed tenant's does: for a tenant with a share, in a way that no other tenant
may fill, recency is ordinary (R73); unshared traffic is never so placed (R75), and in the default course every fill is. -/
def State.protects (s : State) (share : Option Nat) (lo n way : Nat) : Bool :=
  match share with
  | some r => !(s.sharedWays lo n).testBit way || fieldN r 80 1 == 1
  | none => s.courseNow == .default

def State.stack (s : State) (k : Nat) : List Nat := SMap.get [] s.recency k
def State.setStack (s : State) (k : Nat) (l : List Nat) : State := { s with recency := s.recency.set [] k l }

/-- A line enters a stack at the protected end or at the eviction end. -/
def enterStack (protect : Bool) (x : Nat) (l : List Nat) : List Nat :=
  let l := l.filter (· != x)
  if protect then x :: l else l ++ [x]

/-- A line that is hit moves to the protected end or to the middle, behind half of the others (DESIGN CHOICE, log entry 7). -/
def hitStack (protect : Bool) (x : Nat) (l : List Nat) : List Nat :=
  let l := l.filter (· != x)
  if protect then x :: l else l.take (l.length / 2) ++ x :: l.drop (l.length / 2)

/-- The way that a fill takes: the lowest free one that it may take (DESIGN CHOICE, log entry 7), or that of the victim, the line nearest the
eviction end (R73). `held` lists the lines of the set with their ways. -/
def fillWay (mask ways : Nat) (held : List (Nat × Nat)) (stack : List Nat) : Nat × Option Nat :=
  let may := (List.range ways).filter fun w => mask.testBit w
  let may := if may.isEmpty then List.range ways else may
  match may.find? fun w => held.all fun e => e.2 != w with
  | some w => (w, none)
  | none =>
    let known := stack.filter fun x => held.any fun e => e.1 == x && may.contains e.2
    let rest := (held.filter fun e => may.contains e.2 && !stack.contains e.1).map Prod.fst
    match (known ++ rest).getLast? with
    | some x => (((held.find? fun e => e.1 == x).map Prod.snd).getD 0, some x)
    | none => (may.headD 0, none)

/-! ### Quad L2 copies -/

def copyKey (a line : Nat) : Nat := 2 ^ 45 * a + line

/-- The copy that a quad's L2 holds; a leased copy is invalid from its expiry on (R124). -/
def State.copyAt (s : State) (a line : Nat) : Option L2Copy :=
  match SMap.find s.copies (copyKey a line) with
  | none => none
  | some c =>
    match c.st with
    | .leased e => if s.time < e then some c else none
    | _ => some c

def State.setCopy (s : State) (a line : Nat) (c : L2Copy) : State := { s with copies := s.copies.put (copyKey a line) c }
def State.dropCopy (s : State) (a line : Nat) : State := { s with copies := s.copies.erase (copyKey a line) }

/-- Every copy of a line in every quad is invalidated. -/
def State.dropAllCopies (s : State) (line : Nat) : State :=
  { s with copies := s.copies.filter fun e => e.1 % 2 ^ 45 != line }

/-- Every copy of a line but those of one agent is invalidated. -/
def State.dropOtherCopies (s : State) (a line : Nat) : State :=
  { s with copies := s.copies.filter fun e => e.1 % 2 ^ 45 != line || e.1 / 2 ^ 45 == a }

/-! ### Entries -/

def State.dirAt (s : State) (region : Nat) : DirEntry := SMap.get DirEntry.reset s.homes.dir region

/-- No line is cached, tile-bound or lost: the entry is freed (R115, R118). -/
def DirEntry.idle (e : DirEntry) : Bool := e.lines.toList.all (· == .I) && e.tb == 0

/-- A line of the region is busy (R122). -/
def State.regionBusy (s : State) (region : Nat) : Bool :=
  (List.range 4).any fun i => !(SMap.get [] s.homes.reqs (4 * region + i)).isEmpty

/-- An entry changed; it is freed once it is idle and no line of it is busy (R115). -/
def State.setDir (s : State) (region : Nat) (e : DirEntry) : State :=
  if e = s.dirAt region then s
  else s.setHomes { s.homes with dir := if e.idle && !s.regionBusy region then s.homes.dir.erase region else s.homes.dir.put region e }

/-- The entry of a region is freed where nothing keeps it any more (R115). -/
def State.freeDir (s : State) (region : Nat) : State :=
  match SMap.find s.homes.dir region with
  | some e => if e.idle && !s.regionBusy region then s.setHomes { s.homes with dir := s.homes.dir.erase region } else s
  | none => s

/-- The entries of the set that a region falls in. -/
def State.dirSet (s : State) (region : Nat) : List (Nat × DirEntry) :=
  s.homes.dir.filter fun e =>
    sliceOf (512 * e.1) == sliceOf (512 * region) && Config.directorySet e.1 % 16384 == Config.directorySet region % 16384

/-- The region has an entry, or its set has a free way for one (R115). -/
def State.dirFree (s : State) (region : Nat) : Bool :=
  (SMap.find s.homes.dir region).isSome || decide (s.homes.dir.length < 8) || decide ((s.dirSet region).length < 8)

/-- The region has an entry from now on. -/
def State.holdDir (s : State) (region : Nat) : State :=
  if (SMap.find s.homes.dir region).isSome then s
  else s.setHomes { s.homes with dir := s.homes.dir.put region DirEntry.reset }

/-- A fifth agent turns the entry coarse (R118). -/
def DirEntry.coarsens (e : DirEntry) (a : Nat) : Bool :=
  !e.coarse && decide (4 ≤ e.ptrs.length) && !e.ptrs.any fun p => p.1 == a

/-- Pointer bit i removed from every agent but one; pointers without a line are dropped (R364). -/
def DirEntry.unpointOthers (e : DirEntry) (a i : Nat) : DirEntry :=
  { e with
    ptrs := (e.ptrs.map fun p => if p.1 == a then p else (p.1, p.2 &&& ~~~(1#4 <<< i))).filter fun p => p.2 != 0 }

/-- The lines whose owners must become sharers before agent `a` is recorded as the owner, or as a holder, of the lines of `mine` (R118): an
entry that is or turns coarse names one owner. Where an entry turns coarse for a reader while its pointers name several owners, the owner of
the first such line stays OWNER and the others are recalled (DESIGN CHOICE, log entry 7: the spec names no choice among them). -/
def DirEntry.recallsFor (e : DirEntry) (a : Nat) (own : Bool) (mine : Nat → Bool) : List Nat :=
  let others := (List.range 4).filter fun j => !mine j
  if own then
    if e.coarse || e.coarsens a then others.filter fun j => match e.ownerOf j with | some y => y != a | none => false else []
  else if e.coarsens a then
    let keep := others.findSome? e.ownerOf
    others.filter fun j => match e.ownerOf j with | some y => some y != keep | none => false
  else []

/-- The same for line i at a grant; a new owner takes the line's other pointers away first (R364). -/
def DirEntry.recalls (e : DirEntry) (a i : Nat) (own : Bool) : List Nat :=
  (if own then e.unpointOthers a i else e).recallsFor a own (· == i)

/-- The entry turned coarse (R118). -/
def DirEntry.turnCoarse (e : DirEntry) : DirEntry :=
  let own := (List.range 4).filter fun i => e.line i == .O
  let o := own.findSome? e.ownerOf
  let e1 := e.ptrs.foldl (fun x p => x.cover p.1) { e with coarse := true, ptrs := [] }
  match o with
  | none => e1
  | some a => { e1 with ownv := true, owner := a, ownl := own.foldl (fun m i => m ||| (1#4 <<< i)) 0 }

/-- Pointer bit i removed from one agent, and pointers without a line dropped. -/
def DirEntry.unpoint (e : DirEntry) (a i : Nat) : DirEntry :=
  { e with
    ptrs := (e.ptrs.map fun p => if p.1 == a then (p.1, p.2 &&& ~~~(1#4 <<< i)) else p).filter fun p => p.2 != 0 }

/-- Pointer bit i removed from every agent. -/
def DirEntry.unpointAll (e : DirEntry) (i : Nat) : DirEntry :=
  { e with ptrs := (e.ptrs.map fun p => (p.1, p.2 &&& ~~~(1#4 <<< i))).filter fun p => p.2 != 0 }

/-- Agent a recorded as a holder of line i, in pointer mode while four pointers suffice (R118). -/
def DirEntry.point (e : DirEntry) (a i : Nat) : DirEntry :=
  if e.coarse then e.cover a
  else if e.ptrs.any fun p => p.1 == a then
    { e with ptrs := e.ptrs.map fun p => if p.1 == a then (p.1, p.2 ||| (1#4 <<< i)) else p }
  else if e.ptrs.length < 4 then { e with ptrs := e.ptrs ++ [(a, 1#4 <<< i)] }
  else e.turnCoarse.cover a

/-- No holder of line i is left, and its state. -/
def DirEntry.clearLine (e : DirEntry) (i : Nat) (x : LineState) : DirEntry :=
  let e := (e.unpointAll i).setLine i x
  let l := e.ownl &&& ~~~(1#4 <<< i)
  { e with ownl := l, ownv := e.ownv && l != 0, owner := if e.ownv && l != 0 then e.owner else 0 }

/-- Line i becomes S, with a holder added. -/
def DirEntry.share (e : DirEntry) (a i : Nat) : DirEntry :=
  let l := e.ownl &&& ~~~(1#4 <<< i)
  let e := (e.point a i).setLine i .S
  { e with ownl := l, ownv := e.ownv && l != 0, owner := if e.ownv && l != 0 then e.owner else 0 }

/-- Line i becomes O at one agent: in coarse mode it is OWNER, and CV and SPM stand as they are (R118, R362); in pointer mode its pointer
keeps its place (R364). -/
def DirEntry.own (e : DirEntry) (a i : Nat) : DirEntry :=
  let e := e.unpointOthers a i
  let e := if e.coarsens a then e.turnCoarse else e
  if e.coarse then
    { e.setLine i .O with ownv := true, owner := a, ownl := (if e.ownv && e.owner == a then e.ownl else 0) ||| (1#4 <<< i) }
  else (e.point a i).setLine i .O

/-- CV and SPM are cleared once no line of the region remains in S (R362). -/
def DirEntry.sweep (e : DirEntry) : DirEntry :=
  if e.coarse && e.lines.toList.all (· != .S) then { e with cv := 0, spm := 0 } else e

/-- Line i no longer held by one agent (R119: `PutS` is ignored in coarse mode). -/
def DirEntry.unshare (e : DirEntry) (a i : Nat) : DirEntry :=
  if e.coarse then e
  else
    let e := e.unpoint a i
    if (e.holders i).isEmpty then e.setLine i .I else e

/-- One line's entry changed. -/
def State.updLine (s : State) (line : Nat) (f : DirEntry → Nat → DirEntry) : State :=
  s.setDir (regionOf line) (f (s.dirAt (regionOf line)) (line % 4))

/-! ### Lost lines (R384, R385) -/

/-- A line becomes lost: no copy of it is good. Its entry holds L where it has or can have a way; else the lost code in HBM does (R115,
R384). -/
def State.markLost (s : State) (line : Nat) : State :=
  let s := s.dropAllCopies line
  let s := s.setHomes { s.homes with
    lost := if s.homes.lost.contains line then s.homes.lost else line :: s.homes.lost, llc := s.homes.llc.erase line }
  if isDevice (128 * line) && s.dirFree (regionOf line) then s.updLine line fun e i => e.clearLine i .L else s

/-- A store performed at its serialisation point; a lost line of device memory that is written whole is I again (R119, R241). -/
def State.storeAt (s : State) (tenant key pa n v : Nat) (whole : Bool) : State × Bool :=
  let r := s.storePa tenant key pa n v whole
  if s.isLost pa && isDevice pa && !r.1.isLost pa then (r.1.updLine (lineOf pa) fun e i => e.clearLine i .I, r.2) else r

/-! ### Tiles (R130 to R133) -/

/-- The tile that binds a line. -/
def State.tileOf (s : State) (line : Nat) : Option (Nat × TileRec) :=
  let e := s.dirAt (regionOf line)
  if e.tb.getLsbD (line % 4) then (SMap.find s.homes.tiles e.tid.toNat).map fun t => (e.tid.toNat, t) else none

/-- One bound line demoted to the state that R132 gives it. -/
def demoteLine (t : TileRec) (e : DirEntry) (i : Nat) : DirEntry :=
  if !e.tb.getLsbD i || e.line i == .L then e
  else if t.present && t.own then e.own t.holder i
  else if t.present then (e.clearLine i .I).share t.holder i
  else e.clearLine i .I

/-! ### Accesses performed at the home -/

def SnoopEntry.reset : SnoopEntry := { agents := [], owned := false, older := 0 }

def State.snoopAt (s : State) (line : Nat) : SnoopEntry := SMap.get SnoopEntry.reset s.hub.snoop line
def State.setSnoop (s : State) (line : Nat) (e : SnoopEntry) : State :=
  s.setHub { s.hub with snoop := s.hub.snoop.set SnoopEntry.reset line e }

/-- The horizon of a line (R125, R126): its own, or its set's floor. -/
def State.horizonOf (s : State) (line : Nat) : Nat :=
  match SMap.find s.homes.horizons line with
  | some h => h
  | none => if s.homes.floors.isEmpty then 0 else
      SMap.get 0 s.homes.floors (1024 * sliceOf (128 * line) + Config.horizonSet line % 1024)

/-- The stamp location of an sc access (R150): the line, or the scratchpad bank. -/
def stampKey (pa : Nat) : Nat :=
  if isScratch pa then 2 ^ 46 + 32 * (pa / 2 ^ 24 % 256) + pa / 128 % 32 else lineOf pa

/-- The set of a line among all slices' horizon sets (R126). -/
def horizonSetOf (line : Nat) : Nat := 1024 * sliceOf (128 * line) + Config.horizonSet line % 1024

/-- last_stamp of R150: a line's own stamp, and no less than its set's floor. -/
def State.lastStamp (s : State) (pa : Nat) : Word :=
  let own := SMap.get 0 s.homes.stamps (stampKey pa)
  if !isDevice pa then own
  else
    match s.homes.stamps.any fun e => decide (2 ^ 47 ≤ e.1) with
    | false => own
    | true =>
      let f := SMap.get 0 s.homes.stamps (2 ^ 47 + horizonSetOf (lineOf pa))
      if own.toNat < f.toNat then f else own

/-- The stamp that an access at a location takes from a clock (R150). -/
def State.nextStamp (s : State) (clock : Word) (pa : Nat) : Word :=
  let l := s.lastStamp pa
  (if clock.toNat < l.toNat then l else clock) + 1

/-- sc_stamp of R150. -/
def State.scStamp (s : State) (core pa : Nat) : State :=
  let c := s.coreAt core
  let ts := s.nextStamp c.lamport pa
  (s.setCore core { c with lamport := ts }).setHomes { s.homes with stamps := s.homes.stamps.set 0 (stampKey pa) ts }

/-- The stamp of an sc access to local store: the core clock alone (R150). -/
def State.localStamp (s : State) (core : Nat) : State :=
  let c := s.coreAt core
  s.setCore core { c with lamport := c.lamport + 1 }

end Sys2Proof.Machine
end

