-- ==== Sys2Proof/Machine/Home.lean ====
section
/-! DEFINITION. The home slices at work: requests at the head of a line's queue, probes and answers, grants, horizons, tiles and
unresponsive agents (spec/05_storage_coherence.md R115 to R136; spec/22_faults_memory.md R384 to R394; spec/18_prog_directory.md
R361 to R365). -/

namespace Sys2Proof.Machine

/-! ### Request lists -/

def State.reqsAt (s : State) (line : Nat) : List Request := SMap.get [] s.homes.reqs line
def State.setReqs (s : State) (line : Nat) (l : List Request) : State :=
  s.setHomes { s.homes with reqs := s.homes.reqs.set [] line l }

/-- The request at the head of a line's list changed. -/
def State.setHead (s : State) (line : Nat) (r : Request) : State := s.setReqs line (r :: (s.reqsAt line).drop 1)

/-- Counters of a slice (R400). -/
def sliceCounter (slice off : Nat) : Nat := 0xA300000081000 + slice / 32 * 512 + slice % 32 * 16 + off

/-- A request message, and not work of the home's own on the line (R119). -/
def ReqKind.message : ReqKind → Bool
  | .clear => false
  | .recall => false
  | .repair => false
  | .part => false
  | _ => true

/-- Requests in a slice's buffer. -/
def State.sliceLoad (s : State) (slice : Nat) : Nat :=
  (s.homes.reqs.map fun e =>
    if isDevice (128 * e.1) && sliceOf (128 * e.1) == slice then (e.2.filter (·.kind.message)).length else 0).sum

/-- A request for a line must be held at the ingress: the buffer of its slice is full, or others are held before it (R123). -/
def State.sliceFull (s : State) (line : Nat) : Bool :=
  let slice := sliceOf (128 * line)
  isDevice (128 * line) && (decide (512 ≤ s.sliceLoad slice) || s.homes.ingress.any fun x => sliceOf (128 * x.1) == slice)

/-- Requests held at the ingress enter the buffer in their order, as far as it has room (R123). -/
def State.fillBuffers (s : State) : State :=
  s.homes.ingress.foldl (fun s x => if s.sliceFull x.1 then s.setHomes { s.homes with ingress := s.homes.ingress ++ [x] }
    else s.setReqs x.1 (s.reqsAt x.1 ++ [x.2])) (s.setHomes { s.homes with ingress := [] })

/-- Requests leave the list of a line. -/
def State.dropReqs (s : State) (line : Nat) (p : Request → Bool) : State :=
  let s := s.setReqs line ((s.reqsAt line).filter fun r => !p r)
  if s.homes.ingress.isEmpty then s
  else (s.setHomes { s.homes with ingress := s.homes.ingress.filter fun x => !(x.1 == line && p x.2) }).fillBuffers

/-- The lines that a tile's rows intersect, in ascending order. -/
def tileLines (base rows rowb stride : Nat) : List Nat :=
  ((List.range rows).flatMap fun r =>
    let a := base + r * stride
    (List.range (lineOf (a + rowb - 1) + 1 - lineOf a)).map fun i => lineOf a + i).dedup

def TileRec.lines (t : TileRec) : List Nat := tileLines t.base t.rows t.rowb t.stride

/-- MOVING falls in the records whose lines no whole-tile operation has a place on any more (R131). -/
def State.settleMoving (s : State) : State :=
  s.setHomes { s.homes with tiles := s.homes.tiles.map fun e =>
    (e.1, if e.2.moving && !(e.2.lines.any fun l => (s.reqsAt l).any (·.kind == .part)) then { e.2 with moving := false } else e.2) }

/-- The places of an operation on several lines are given up, all together (R131). -/
def State.dropParts (s : State) (no : Nat) : State :=
  let mine (r : Request) : Bool := r.kind == .part && r.no == no
  match (s.homes.reqs.filter fun e => e.2.any mine).map Prod.fst with
  | [] => s
  | ls => (ls.foldl (fun s l => (s.setReqs l ((s.reqsAt l).filter fun r => !mine r)).freeDir (regionOf l)) s).settleMoving

/-- The request at the head is complete (R122), and with it the whole-tile operation that it made. -/
def State.popReq (s : State) (line : Nat) : State :=
  match s.reqsAt line with
  | [] => s
  | r :: rest =>
    let s := (s.setReqs line rest).freeDir (regionOf line)
    let s := if r.kind == .repair then s else s.dropParts r.no
    if s.homes.ingress.isEmpty then s else s.fillBuffers

/-- A request on its way for a line satisfies a test. -/
def State.anyReq (s : State) (line : Nat) (p : Request → Bool) : Bool :=
  (s.reqsAt line).any p || s.homes.ingress.any fun x => x.1 == line && p x.2

/-- The line is busy, or will be: a request is on its way for it. -/
def State.lineBusy (s : State) (line : Nat) : Bool := s.anyReq line fun _ => true

/-- A message that arrives at the home is appended to its line's list (R122), or held at the ingress while the slice's buffer is full
(R123). The requests of an isolated agent are discarded (R389). -/
def State.appendReq (s : State) (line : Nat) (r : Request) : State :=
  if s.homes.isolated.contains r.agent then s
  else
    let r := { r with no := s.homes.arrivals }
    let s := s.setHomes { s.homes with arrivals := s.homes.arrivals + 1 }
    if s.sliceFull line then
      s.setHomes { s.homes with ingress := s.homes.ingress ++ [(line, r)] }
    else s.setReqs line (s.reqsAt line ++ [r])

/-- Work of the home's own joins a line's list (R115, R118), once. -/
def State.homeWork (s : State) (line : Nat) (kind : ReqKind) : State :=
  if (s.reqsAt line).any fun r => r.kind == kind then s
  else
    let r : Request := { agent := 255, kind := kind, core := 784, tenant := 0, key := 0, issued := s.time, phase := .waiting, no := s.homes.arrivals }
    (s.setHomes { s.homes with arrivals := s.homes.arrivals + 1 }).setReqs line (s.reqsAt line ++ [r])

/-- A request in progress at the head. -/
def Request.begun (r : Request) : Bool := match r.phase with | .probing _ => true | .horizon => true | _ => false

/-- Work on several lines takes its place in the list of one: behind what is in progress and what arrived before it (R131, R391). -/
def State.takePlace (s : State) (line no : Nat) (kind : ReqKind) : State :=
  let l := s.reqsAt line
  if l.any fun r => r.kind == kind && r.no == no then s
  else
    let r : Request := { agent := 255, kind := kind, core := 784, tenant := 0, key := 0, issued := s.time, phase := .waiting, no := no }
    let early (x : Request) : Bool := x.begun || decide (x.no < no)
    s.setReqs line (l.takeWhile early ++ r :: l.dropWhile early)

/-- A new request message. -/
def newReq (s : State) (a core tenant key : Nat) (kind : ReqKind) : Request :=
  { agent := a, kind := kind, core := core, tenant := tenant, key := key, issued := s.time, phase := .waiting, no := 0 }

/-- A quad's L2 gives up a line: `PutO` for an O line, `PutS` for an S line, nothing for a leased copy (R119, R124). -/
def State.evictCopy (s : State) (a line : Nat) : State :=
  match s.copyAt a line with
  | none => s.dropCopy a line
  | some c =>
    let s := s.dropCopy a line
    match c.st with
    | .leased _ => s
    | .shared => s.appendReq line (newReq s a (4 * a) c.tenant c.key .putS)
    | .owned => s.appendReq line (newReq s a (4 * a) c.tenant c.key .putO)

/-- A copy that must go before a request of a tenant with a key is sent: one that another tenant or key filled is given up (R89, R343),
and a leased one is dropped by a store (R124). -/
def State.clearWay (s : State) (a tenant key line : Nat) (kind : ReqKind) : State :=
  match s.copyAt a line with
  | some c =>
    if c.tenant ≠ tenant ∨ c.key ≠ key then s.evictCopy a line
    else
      match kind, c.st with
      | .getO _, .leased _ => s.dropCopy a line
      | _, _ => s
  | none => s

/-- A request of a quad for a line, once per kind. -/
def State.requestLine (s : State) (a core tenant key line : Nat) (kind : ReqKind) : State :=
  if s.anyReq line fun r => r.agent == a && r.kind == kind then s
  else
    let s := s.clearWay a tenant key line kind
    s.appendReq line (newReq s a core tenant key kind)

/-- A tracked or leased copy that serves a request of a tenant with a key (R89, R124, R343). -/
def L2Copy.serves (c : L2Copy) (tenant key : Nat) (write : Bool) : Bool :=
  c.tenant == tenant && c.key == key && (!write || c.st == .owned)

/-- The home has answered the agent's request for the line, and no copy went with the answer. -/
def State.answered (s : State) (agent line tenant key : Nat) (write : Bool) : Bool :=
  s.homes.served.contains { agent := agent, line := line, write := write, tenant := tenant, key := key }

/-- Such an answer. -/
def State.answerBare (s : State) (r : Request) (line : Nat) (write : Bool) : State :=
  let x : Served := { agent := r.agent, line := line, write := write, tenant := r.tenant, key := r.key }
  if s.homes.served.contains x || 197 ≤ r.agent then s else s.setHomes { s.homes with served := x :: s.homes.served }

/-- The access that such an answer was for has used it. -/
def State.useAnswer (s : State) (agent line : Nat) (write : Bool) : State :=
  if s.homes.served.isEmpty then s
  else s.setHomes { s.homes with served := s.homes.served.filter fun x => !(x.agent == agent && x.line == line && x.write == write) }

/-- The line of an address needs no copy, or the quad holds one that serves (R113), or the home has answered: a lost line, of which no copy is
made (R119), and a load whose lease ran out on its way (R124). A lost home die or a lost port answers nothing (R410, R414). -/
def State.lineReady (s : State) (agent pa tenant key : Nat) (write : Bool) : Bool :=
  if isDevice pa then
    s.homeLost pa || (if s.isLost pa then s.answered agent (lineOf pa) tenant key write
      else (match s.copyAt agent (lineOf pa) with | some c => c.serves tenant key write | none => false)
        || (!write && s.answered agent (lineOf pa) tenant key false))
  else if isHostMem pa then
    s.sys.portDown.getLsbD (window pa - 0xC)
      || (match s.copyAt agent (lineOf pa) with | some c => c.serves tenant key write | none => false)
  else s.carried pa

/-- A line that a request of a core of the quad needs is asked for, unless the quad holds it. -/
def State.askLine (s : State) (core agent tenant key pa : Nat) (kind : ReqKind) : State :=
  let write := match kind with | .getO _ => true | _ => false
  if (isDevice pa || isHostMem pa) && !s.lineReady agent pa tenant key write then
    s.requestLine agent core tenant key (lineOf pa) kind
  else s

/-! ### Caches and their victims (R19, R21, R22, R73) -/

def l2Key (a line : Nat) : Nat := 2048 * a + Config.l2Set line % 2048
def l1Key (core line : Nat) : Nat := 2 ^ 20 + 32 * core + Config.l1Set line % 32
def llcKey (line : Nat) : Nat := 2 ^ 21 + 1024 * sliceOf (128 * line) + Config.llcSet line % 1024

/-- A core's L1 takes a line, of 8 ways; the line that leaves is the one touched longest ago (DESIGN CHOICE, log entry 7), and its presence
bit is cleared (R113). -/
def State.fillL1 (s : State) (core a line : Nat) : State :=
  let k := l1Key core line
  let l := line :: (s.stack k).filter (· != line)
  let s := s.setStack k (l.take 8)
  (l.drop 8).foldl (fun s x =>
    match s.copyAt a x with
    | some c => s.setCopy a x { c with
        presence := c.presence &&& ~~~(1#4 <<< (core % 4)), modified := if c.modified = some (core % 4) then none else c.modified }
    | none => s) s

/-- A home die's LLC takes a line for a tenant, of 32 ways (R22, R114): the victim is written to HBM and
leaves. A line that another tenant or key filled is written back, and is filled anew in the filler's ways (R73, R89, R343). -/
def State.fillLlc (s : State) (core tenant key line : Nat) (modified : Bool) : State :=
  if !isDevice (128 * line) then s
  else
    let share := s.shareOf core tenant
    let k := llcKey line
    let mine := match SMap.find s.homes.llc line with
      | some c => if c.tenant = tenant ∧ c.key = key then some c else none
      | none => none
    match mine with
    | some c =>
      let s := s.setHomes { s.homes with llc := s.homes.llc.put line { c with modified := modified || c.modified } }
      s.setStack k (hitStack (s.protects share 16 32 c.way) line (s.stack k))
    | none =>
      let held := (s.homes.llc.filter fun e => llcKey e.1 == k && e.1 != line).map fun e => (e.1, e.2.way)
      let w := fillWay (match share with | some r => fieldN r 16 32 | none => 2 ^ 32 - 1) 32 held (s.stack k)
      let llc := match w.2 with | some x => s.homes.llc.erase x | none => s.homes.llc
      let live := (s.stack k).filter fun x => held.any (·.1 == x) && w.2 != some x
      let s := s.setHomes { s.homes with llc := llc.put line { tenant := tenant, key := key, modified := modified, way := w.1 } }
      s.setStack k (enterStack (s.protects share 16 32 w.1) line live)

/-- The core's L1 takes the line: its presence bit is set (R113). -/
def State.touchCopy (s : State) (core a pa : Nat) (write : Bool) : State :=
  if isDevice pa || isHostMem pa then
    match s.copyAt a (lineOf pa) with
    | some c =>
      let me : BitVec 4 := 1#4 <<< (core % 4)
      let k := l2Key a (lineOf pa)
      let s := s.setCopy a (lineOf pa)
        (if write then { c with presence := me, modified := some (core % 4), reserved := 0 }
          else { c with presence := c.presence ||| me, modified := if c.modified = some (core % 4) then c.modified else none })
      let s := s.setStack k (hitStack (s.protects (s.shareOf core c.tenant) 0 16 c.way) (lineOf pa) (s.stack k))
      s.fillL1 core a (lineOf pa)
    | none => s
  else s

/-- An access by the quad's Hod, which takes the line from the L2 and not through an L1: on a write no L1 keeps it. -/
def State.touchL2 (s : State) (a line tenant : Nat) (write : Bool) : State :=
  match s.copyAt a line with
  | some c =>
    let s := if write then s.setCopy a line { c with presence := 0, modified := none } else s
    s.setStack (l2Key a line) (hitStack (s.protects (s.shareOf (4 * a) tenant) 0 16 c.way) line (s.stack (l2Key a line)))
  | none => s

/-! ### The trace (R359) -/

def ansCode : AnswerKind → Nat
  | .invalidated => 0
  | .notPresent => 1
  | .writeBack => 2

/-- An event recorded by the slice of a line when its region is traced. -/
def State.trace (s : State) (line agent event ans : Nat) : State :=
  if s.homes.ports.isEmpty || !isDevice (128 * line) then s
  else
    let k := sliceOf (128 * line)
    let p := SMap.get DebugPort.reset s.homes.ports k
    if p.en && p.latched == regionOf line then
      let w : Word := BitVec.ofNat 64 (s.time % 2 ^ 32 + agent % 256 * 2 ^ 32 + event * 2 ^ 40 + line % 4 * 2 ^ 44 + ans * 2 ^ 46)
      let p := { p with
        ring := p.ring.set 0 (p.events % 64) w, events := p.events + 1
        count := BitVec.ofNat 8 (min (p.count.toNat + 1) 255) }
      s.setHomes { s.homes with ports := s.homes.ports.set DebugPort.reset k p }
    else s

/-- An entry changed, with the trace of a change of mode (R118, R359). -/
def State.setDirT (s : State) (region agent : Nat) (e : DirEntry) (line : Nat) : State :=
  let turns := !(s.dirAt region).coarse && e.coarse
  let s := s.setDir region e
  if turns then s.trace line agent 10 0 else s

/-- One line's entry changed, with that trace. -/
def State.updLineT (s : State) (line agent : Nat) (f : DirEntry → Nat → DirEntry) : State :=
  s.setDirT (regionOf line) agent (f (s.dirAt (regionOf line)) (line % 4)) line

/-! ### Lost lines -/

/-- A line becomes lost (R384): zeros are written, the event is logged with KIND 2, and counted in the structure's UE counter and
in LOSTMK of the tenant whose request found it. -/
def State.loseLine (s : State) (line struct agent : Nat) (tenant : Option Nat) : State :=
  let s := s.markLost line
  let s := { s with mem := s.mem.writeLe (128 * line) 128 0 }
  let s := s.logEvent (128 * line) struct 2 agent (tenant.getD 0)
  let s := s.count1 (structCounter struct 1)
  match tenant with
  | some t => s.count1 (memCounter t 0x18)
  | none => s

/-- The tenant whose request found a line uncorrectable: that of the request at the head of its queue (R384). -/
def State.finder (s : State) (line : Nat) : Option Nat := (s.reqsAt line).head?.map (·.tenant)

/-- The entry of a lost line holds L again when a miss reads the lost code (R115). -/
def State.restoreLost (s : State) (line : Nat) : State :=
  if s.homes.lost.contains line && !((s.dirAt (regionOf line)).line (line % 4) == .L) then
    s.updLine line fun e i => e.clearLine i .L
  else s

/-! ### Probes -/

/-- A probe sent to an agent. -/
def State.sendProbe (s : State) (line agent : Nat) (invalidate : Bool) : State :=
  let s := s.trace line agent (if invalidate then 6 else 7) 0
  s.setHomes { s.homes with
    probes := s.homes.probes ++ [{ agent := agent, line := line, invalidate := invalidate, sent := s.time }] }

/-- Such lines of n bytes. -/
def State.hostOwned (s : State) (base n : Nat) : List Nat :=
  (s.homes.dir.flatMap fun e => (List.range 4).map (4 * e.1 + ·)).filter fun x =>
    decide (base / 128 ≤ x) && decide (x < (base + n + 127) / 128) && s.hostOwns x

/-- The owners of these lines are recalled to S, each line in its turn; whether none was left to recall (R118). -/
def State.recallLines (s : State) (lines : List Nat) : State × Bool :=
  (lines.foldl (fun s l => s.homeWork l .recall) s, lines.isEmpty)

/-- The slices whose request buffer is full. -/
def State.fullSlices (s : State) : List Nat :=
  (((s.homes.reqs.filter fun e => isDevice (128 * e.1)).map fun e => sliceOf (128 * e.1)).eraseDups).filter fun k => decide (512 ≤ s.sliceLoad k)

/-- The slices where a request at the head of a line's list waits for a directory way. -/
def State.waySlices (s : State) : List Nat :=
  ((s.homes.reqs.filter fun e => isDevice (128 * e.1) && (match e.2 with | r :: _ => r.phase == .held | [] => false)
    && (s.tileOf e.1).isNone && !s.dirFree (regionOf e.1)).map fun e => sliceOf (128 * e.1)).eraseDups

/-- What a cycle counts: BQFULL of the slices whose buffer is full, DIRWAIT of those where a request waits for a way (R395, R400). -/
def State.countCycle (s : State) : State :=
  let full := s.fullSlices.foldl (fun t k => t.count1 (sliceCounter k 0)) s
  s.waySlices.foldl (fun t k => t.count1 (sliceCounter k 8)) full

/-! ### Tiles as whole operations (R129 to R133) -/

def State.setTile (s : State) (tid : Nat) (t : TileRec) : State := s.setHomes { s.homes with tiles := s.homes.tiles.put tid t }

/-- The regions that a tile's lines lie in. -/
def TileRec.regions (t : TileRec) : List Nat := (t.lines.map regionOf).dedup

/-- One of the lines is not yet free for an operation that has the number `no` (R131): a request that arrived before it is on its way for the
line, or one is in progress there. -/
def State.linesBusy (s : State) (lines : List Nat) (no : Nat) : Bool :=
  lines.any fun l =>
    s.anyReq l (fun r => decide (r.no < no)) || (match s.reqsAt l with | [] => false | r :: _ => r.begun)

/-- A bound line other than `but` is not yet free for a whole-tile operation. -/
def State.tileBusy (s : State) (t : TileRec) (but no : Nat) : Bool := s.linesBusy (t.lines.filter (· != but)) no

/-- A whole-tile operation sets MOVING and takes its place in the list of every bound line (R131). -/
def State.beginTile (s : State) (tid : Nat) (t : TileRec) (but no : Nat) : State :=
  (t.lines.filter (· != but)).foldl (fun s l => s.takePlace l no .part) (s.setTile tid { t with moving := true })

/-- A whole-tile operation is over: its places are given up, and MOVING falls unless another has begun (R131). -/
def State.endTile (s : State) (tid no : Nat) : State :=
  let s := s.dropParts no
  match SMap.find s.homes.tiles tid with
  | some t => s.setTile tid { t with moving := t.lines.any fun l => (s.reqsAt l).any (·.kind == .part) }
  | none => s

/-- The demoted entry of a tile (R132, R363): the state and the holder of each of its lines, then TB and TID. -/
def TileRec.released (t : TileRec) (e : DirEntry) : DirEntry :=
  { (List.range 4).foldl (demoteLine t) e with tb := 0, tid := 0 }

/-- The owners that a demotion must recall first: those of the regions' other lines, where an entry that is or turns coarse is to name the
holder (R118, R363). -/
def State.demoteRecalls (s : State) (tid : Nat) (t : TileRec) : List Nat :=
  if !t.present then []
  else t.regions.flatMap fun r =>
    let e := s.dirAt r
    if e.tb != 0 && e.tid.toNat == tid then (e.recallsFor t.holder t.own e.tb.getLsbD).map (4 * r + ·) else []

/-- The tile is demoted: its lines follow R132, TB and TID are cleared, and the record is freed. -/
def State.demote (s : State) (tid : Nat) (t : TileRec) : State :=
  let s := t.regions.foldl (fun s r =>
    let e := s.dirAt r
    if e.tb != 0 && e.tid.toNat == tid then
      s.setDirT r t.holder (t.released e) (4 * r + (((List.range 4).find? e.tb.getLsbD).getD 0))
    else s) s
  s.setHomes { s.homes with tiles := s.homes.tiles.erase tid }

/-- The demotion, once the owners that stand in its way have become sharers; and whether it was made. -/
def State.demoteTile (s : State) (tid : Nat) (t : TileRec) : State × Bool :=
  match s.demoteRecalls tid t with
  | [] => (s.demote tid t, true)
  | ls => ((s.recallLines ls).1, false)

/-- A tile's record and its bindings are gone; its lines are in I, or stay lost. -/
def State.unbind (s : State) (tid : Nat) (t : TileRec) : State :=
  let s := s.setHomes { s.homes with tiles := s.homes.tiles.erase tid }
  t.regions.foldl (fun s r =>
    let e := s.dirAt r
    if e.tb != 0 && e.tid.toNat == tid then s.setDir r { e with tb := 0, tid := 0 } else s) s

/-- The latest horizon among the bound lines. -/
def State.tileHorizon (s : State) (t : TileRec) : Nat := (t.lines.map s.horizonOf).foldl max 0

/-- An L2 takes a copy (R19, R73): a new line takes a way of the tenant's, and the victim is given up; a line that is held keeps its way
and its presence bits, which only a core's L1 sets (R113), and a tracked copy is never replaced by a leased one (R124). A copy that another
tenant or key filled is written back and filled anew (R89, R343). The L2 of an application cluster and the hub Hod's cache are laid out as a
quad's L2 (DESIGN CHOICE, log entry 7). -/
def State.putCopy (s : State) (a line core tenant key : Nat) (st : CopyState) : State :=
  if 197 ≤ a then s
  else
    let k := l2Key a line
    let share := s.shareOf core tenant
    let mine := match s.copyAt a line with
      | some c => if c.tenant = tenant ∧ c.key = key then some c else none
      | none => none
    match mine with
    | some c =>
      let leased := match st with | .leased _ => true | _ => false
      let tracked := match c.st with | .leased _ => false | _ => true
      if leased && tracked then s
      else (s.setCopy a line { c with st := st }).setStack k (hitStack (s.protects share 0 16 c.way) line (s.stack k))
    | none =>
      let s : State := match s.copyAt a line with
        | some c => if c.st == .owned then s.fillLlc core c.tenant c.key line true else s
        | none => s
      let held := (s.copies.filter fun e => e.1 / 2 ^ 45 == a && l2Key a (e.1 % 2 ^ 45) == k && e.1 % 2 ^ 45 != line).map fun e =>
        (e.1 % 2 ^ 45, e.2.way)
      let w := fillWay (match share with | some r => fieldN r 0 16 | none => 0xFFFF) 16 held (s.stack k)
      let s := match w.2 with | some x => s.evictCopy a x | none => s
      let live := (s.stack k).filter fun x => held.any (·.1 == x) && w.2 != some x
      (s.setCopy a line { st := st, presence := 0, modified := none, tenant := tenant, key := key, way := w.1, reserved := 0
                          data := none }).setStack k (enterStack (s.protects share 0 16 w.1) line live)

/-- The holder of an O line is left with a clean copy. -/
def State.cleanCopy (s : State) (a line : Nat) : State :=
  match s.copyAt a line with
  | some c => s.setCopy a line { c with st := .shared, modified := none }
  | none => s

/-- The whole tile moves into its holder's L2 (R131): lines in L stay. -/
def State.moveTile (s : State) (tid : Nat) (t : TileRec) (own : Bool) (core tenant key : Nat) : State :=
  let t := { t with own := t.own || own, present := true, moving := false }
  t.lines.foldl (fun s l =>
    if s.isLost (128 * l) then s
    else ((s.dropOtherCopies t.holder l).cleanCopy t.holder l).putCopy t.holder l core tenant key (if t.own then .owned else .shared))
    (s.setTile tid t)

/-- The holder's L2 evicts the tile: it is written back or dropped whole (R131); `tenant` and `key` are those of the line whose eviction
began it. -/
def State.evictTile (s : State) (tid : Nat) (t : TileRec) (tenant key : Nat) : State :=
  t.lines.foldl (fun s l =>
    let x := match s.copyAt t.holder l with | some c => (c.tenant, c.key) | none => (tenant, key)
    let s := s.dropCopy t.holder l
    if t.own && !s.isLost (128 * l) then s.fillLlc (4 * t.holder) x.1 x.2 l true else s)
    (s.setTile tid { t with present := false, moving := false })

/-! ### Directory ways (R115) -/

/-- An entry that can be given up now: none of its lines is busy, and none of its tile's. -/
def State.canEvict (s : State) (region : Nat) : Bool :=
  !s.regionBusy region
    && (match SMap.find s.homes.tiles (s.dirAt region).tid.toNat with
      | some t => (s.dirAt region).tb == 0 || !s.linesBusy t.lines s.homes.arrivals
      | none => true)

/-- The victim's tile is demoted, then every copy of its lines is called in, each line in its turn; a lost line leaves with the lost code.
Once that has been done the entry is freed (R115). -/
def State.evictRegion (s : State) (region : Nat) : State :=
  let e := s.dirAt region
  match if e.tb == 0 then none else SMap.find s.homes.tiles e.tid.toNat with
  | some t => (s.demoteTile e.tid.toNat t).1
  | none =>
    match (List.range 4).filter fun i => !(e.holders i).isEmpty with
    | [] =>
      s.setHomes { s.homes with
        dir := s.homes.dir.erase region
        llc := s.homes.llc.filter fun x => !(regionOf x.1 == region && s.homes.lost.contains x.1) }
    | ls => ls.foldl (fun s i => s.homeWork (4 * region + i) .clear) s

/-- The line's region takes a way where there is one, and whether it has one; else the eviction of a victim goes on (R115). -/
def State.dirRoom (s : State) (line : Nat) : State × Bool :=
  let region := regionOf line
  if s.dirFree region then (s.holdDir region, true)
  else
    match (s.dirSet region).find? fun e => s.canEvict e.1 with
    | none => (s, false)
    | some e =>
      let s := s.evictRegion e.1
      if s.dirFree region then (s.holdDir region, true) else (s, false)

/-! ### Dissolved tiles and directory repair (R391, R392) -/

/-- A line lost with its tile where a holder that owned it does not answer (R392), or I; the record is freed. -/
def State.dissolveLost (s : State) (tid : Nat) : State :=
  match SMap.find s.homes.tiles tid with
  | none => s
  | some t =>
    let s := s.unbind tid t
    let s := t.lines.foldl (fun s l =>
      if t.own then s.loseLine l 4 t.holder (s.finder l) else if s.isLost (128 * l) then s else s.dropAllCopies l) s
    s.logEvent t.base 4 6 t.holder 0

/-- Directory repair begins (R391): every line of the region is busy with it, behind what is in progress there and ahead of what is queued. -/
def State.repairDirectory (s : State) (region : Nat) : State :=
  (List.range 4).foldl (fun s i => s.takePlace (4 * region + i) 0 .repair) s

/-- A tile dissolved by a broadcast of its TID: every entry that carries it is repaired, and the record is freed (R392). -/
def State.dissolve (s : State) (tid : Nat) : State :=
  match SMap.find s.homes.tiles tid with
  | none => s
  | some t =>
    let regions := (s.homes.dir.filter fun e => e.2.tb != 0 && e.2.tid.toNat == tid).map Prod.fst
    let s := s.setHomes { s.homes with tiles := s.homes.tiles.erase tid }
    (regions.foldl State.repairDirectory s).logEvent t.base 4 6 0 0

/-- The span of a tile, first to last byte, meets a region (R391). -/
def TileRec.spans (t : TileRec) (region : Nat) : Bool :=
  decide (t.base / 512 ≤ region) && decide (region ≤ (t.base + (t.rows - 1) * t.stride + t.rowb - 1) / 512)

/-- Every answer of a repair is counted: the entry is rebuilt with every line in I, what was lost reads as zeros from now on, the tiles whose
span meets the region are dissolved, and what is queued follows (R391). -/
def State.finishRepair (s : State) (region : Nat) : State :=
  let ready (i : Nat) : Bool := match s.reqsAt (4 * region + i) with | r :: _ => r.kind == .repair && r.phase == .probing 0 | [] => false
  if !(List.range 4).all ready then s
  else
    let s := s.setHomes { s.homes with
      dir := s.homes.dir.put region DirEntry.reset, lost := s.homes.lost.filter fun l => regionOf l != region }
    let s := (s.homes.tiles.filter fun e => e.2.spans region && homeDie e.2.base == homeDie (512 * region)).foldl (fun s e => s.dissolve e.1) s
    let s := (s.logEvent (512 * region) 2 5 0 0).count1 (structCounter 2 1)
    (List.range 4).foldl (fun s i => s.popReq (4 * region + i)) s

/-! ### Horizons (R124 to R126) -/

def leaseLen (c : Nat) : Nat := 2 ^ (c + 6)

/-- A `GetL` served now raises the line's horizon; a set of four live horizons gives up its earliest to the floor. -/
def State.raiseHorizon (s : State) (line c : Nat) : State :=
  let h := max (s.horizonOf line) (s.time + leaseLen c)
  let live : SMap Nat := s.homes.horizons.filter fun e => decide (s.time < e.2)
  let s := s.setHomes { s.homes with horizons := live }
  if (SMap.find live line).isSome || decide (live.length < 4) then
    s.setHomes { s.homes with horizons := live.put line h }
  else
    let k := horizonSetOf line
    let same := live.filter fun e => horizonSetOf e.1 == k
    if same.length < 4 then s.setHomes { s.homes with horizons := live.put line h }
    else
      match same.foldl (fun (b : Option (Nat × Nat)) e => match b with
          | none => some e
          | some x => if e.2 < x.2 then some e else some x) none with
      | none => s
      | some x =>
        s.setHomes { s.homes with
          horizons := SMap.put (SMap.erase live x.1) line h
          floors := s.homes.floors.set 0 k (max (SMap.get 0 s.homes.floors k) x.2) }

/-! ### Grants (R119) -/

/-- The line's O holder, if any, becomes a sharer (R119). -/
def State.shareOwner (s : State) (line : Nat) : State :=
  match (s.dirAt (regionOf line)).ownerOf (line % 4) with
  | some y => (s.cleanCopy y line).updLineT line y fun e i => e.share y i
  | none => s

/-- The home's own copy of the line serves or takes the data of a request (R114). -/
def State.llcFor (s : State) (r : Request) (line : Nat) (modified : Bool) : State := s.fillLlc r.core r.tenant r.key line modified

/-- The count of an access that met lost data or a cleared key (R387). -/
def State.countLostRead (s : State) (tenant key pa : Nat) : State :=
  s.count1 (memCounter tenant (if isDevice pa && s.keyCleared key then 0x28 else 0x08))

/-- n bytes read for a tenant, and whether they were lost, which is counted (R387, R399). -/
def State.readCounted (s : State) (tenant key pa n : Nat) : State × Nat × Bool :=
  let r := s.readPa pa key n
  (if r.2 then s.countLostRead tenant key pa else s, r)

/-- What a party was last told. -/
def State.tell (s : State) (party : Nat) (x : PartyReply) : State := s.setHub { s.hub with told := s.hub.told.put party x }

/-- A request of a host port whose BIFAIL is 1 (R396). -/
def State.hostFailed (s : State) (agent : Nat) : Bool := (agent == 200 || agent == 201) && s.sys.bifail.getLsbD (agent - 200)

/-- A host port is given the data of a line: zeros for a lost one (R387), or while BIFAIL is 1 (R396). -/
def State.tellHost (s : State) (agent line : Nat) : State :=
  if agent != 200 && agent != 201 then s
  else if s.hostFailed agent then s.tell (agent - 104) (.value 0)
  else
    let x := s.readCounted 0 (s.keyOfTenant 0) (128 * line) 128
    x.1.tell (agent - 104) (.value x.2.1)

/-- A `GetS` is granted: S with the requester added. -/
def State.grantS (s : State) (r : Request) (line : Nat) : State :=
  let s := s.tellHost r.agent line
  if (s.dirAt (regionOf line)).ownerOf (line % 4) = some r.agent then
    ((s.trace line r.agent 9 0).popReq line).putCopy r.agent line r.core r.tenant r.key .owned
  else
    let s := (s.shareOwner line).llcFor r line false
    let s := s.updLineT line r.agent fun e i => e.share r.agent i
    ((s.trace line r.agent 9 0).popReq line).putCopy r.agent line r.core r.tenant r.key .shared

/-- A `GetL` of class c is granted: the horizon is updated and no holder is recorded. A lease that has run out already leaves its data to the
load alone (R124). -/
def State.grantL (s : State) (r : Request) (line c : Nat) : State :=
  let s := ((s.shareOwner line).llcFor r line false).raiseHorizon line c
  let expiry := r.issued + leaseLen c - 8
  let s := (s.trace line r.agent 9 0).popReq line
  if s.time < expiry then s.putCopy r.agent line r.core r.tenant r.key (.leased expiry) else s.answerBare r line false

/-- A `GetO` is granted: O at the requester, and every other copy is gone. -/
def State.grantO (s : State) (r : Request) (line : Nat) : State :=
  let s := (s.tellHost r.agent line).dropOtherCopies r.agent line
  let s := s.updLineT line r.agent fun e i => (e.own r.agent i).sweep
  ((s.trace line r.agent 9 0).popReq line).putCopy r.agent line r.core r.tenant r.key .owned

/-- The line is taken as for a `GetO` by the home: no copy of it is left; of host memory the hub keeps what the device owns (R119, R135). -/
def State.takeLine (s : State) (line : Nat) : State :=
  if isDevice (128 * line) then
    let s := s.dropAllCopies line
    if s.isLost (128 * line) then s else s.updLine line fun e i => (e.clearLine i .I).sweep
  else if isHostMem (128 * line) then
    (s.dropAllCopies line).setSnoop line { s.snoopAt line with agents := [196] }
  else s

/-- A write is performed at the home: every copy is invalidated and the bytes are written into the LLC, or at the target that the window
names. One of no bytes takes the line for a party's operation there. -/
def State.homeStore (s : State) (w : HomeStore) : State :=
  let s := if isDevice w.pa || isHostMem w.pa then s.takeLine (lineOf w.pa) else s
  if w.bytes = 0 then s.fillLlc 784 w.tenant w.key (lineOf w.pa) false
  else
  let s := (s.storeAt w.tenant w.key w.pa w.bytes w.val w.whole).1
  s.fillLlc 784 w.tenant w.key (lineOf w.pa) true

/-- The horizon of a write whose answers are counted has passed, or it waits (R125). -/
def State.afterHorizon (s : State) (r : Request) (line : Nat) (done : State) : State :=
  if s.horizonOf line ≤ s.time then done else s.setHead line { r with phase := .horizon }

/-- A `GetO` whose answers are counted: granted when the horizon has passed. -/
def State.horizonO (s : State) (r : Request) (line : Nat) : State := s.afterHorizon r line (s.grantO r line)

/-- A request that waits at the head. -/
def State.holdReq (s : State) (r : Request) (line : Nat) : State := s.setHead line { r with phase := .held }

/-- The owners that must be sharers before an entry that is or turns coarse records the requester are recalled (R118); whether none was
left. -/
def State.recallFor (s : State) (r : Request) (line : Nat) (own : Bool) : State × Bool :=
  s.recallLines (((s.dirAt (regionOf line)).recalls r.agent (line % 4) own).map (4 * regionOf line + ·))

/-- No holder of a line of device memory that is not lost is left. -/
def State.vacate (s : State) (line : Nat) : State :=
  if s.isLost (128 * line) then s else s.updLine line fun e i => (e.clearLine i .I).sweep

/-- A tracked read whose answers are counted. -/
def State.finishS (s : State) (r : Request) (line : Nat) : State :=
  let s := s.shareOwner line
  let x := s.recallFor r line false
  if x.2 then x.1.grantS r line else x.1.holdReq r line

/-- A request for a lost line is answered with no copy: a read with zeros, a store of the whole line once the horizon has passed, so that the
home may write it, and any other store with its discard (R119, R125). -/
def State.finishLost (s : State) (r : Request) (line : Nat) : State :=
  match r.kind with
  | .getO true => s.afterHorizon r line ((s.answerBare r line true).popReq line)
  | .getO false => ((s.tellHost r.agent line).answerBare r line true).popReq line
  | _ => ((s.tellHost r.agent line).answerBare r line false).popReq line

/-- Every answer of the head request is counted. An owner that a `GetO` has called in no longer holds the line while the grant waits for a
recall (R118). -/
def State.finishReq (s : State) (r : Request) (line : Nat) : State :=
  match r.kind with
  | .homeWrite w => s.afterHorizon r line (((s.trace line r.agent 9 0).homeStore w).popReq line)
  | .clear => (s.vacate line).popReq line
  | .recall => (s.shareOwner line).popReq line
  | .repair => (s.setHead line { r with phase := .probing 0 }).finishRepair (regionOf line)
  | .part => (s.vacate line).setHead line { r with phase := .waiting }
  | k =>
    if s.hostFailed r.agent then (s.tellHost r.agent line).popReq line
    else if s.isLost (128 * line) then s.finishLost r line
    else
      match k with
      | .getS => s.finishS r line
      | .getL c => if s.sys.alarm then s.finishS r line else s.grantL r line c.toNat
      | .getO _ =>
        let x := s.recallFor r line true
        if x.2 then x.1.horizonO r line
        else
          let s := x.1
          ((if (s.dirAt (regionOf line)).line (line % 4) == .O then s.vacate line else s).holdReq r line)
      | .homeRead c =>
        let s := (((s.shareOwner line).llcFor r line false).trace line r.agent 9 0).popReq line
        if c = 0 || s.sys.alarm then s else s.raiseHorizon line c
      | _ => s.popReq line

/-! ### Requests at the head -/

/-- The agents that receive an invalidation for a `GetO` (R119, R120). -/
def State.targets (s : State) (line agent : Nat) : List Nat :=
  let e := s.dirAt (regionOf line)
  match e.line (line % 4) with
  | .S => (e.holders (line % 4)).filter (· != agent)
  | .O => (e.holders (line % 4)).filter (· != agent)
  | _ => []

/-- What a request asks of other holders. -/
def ReqKind.takes : ReqKind → Bool
  | .getO _ => true
  | .homeWrite _ => true
  | .clear => true
  | .repair => true
  | .part => true
  | _ => false

/-- The agents that a request at the head probes: a repair every agent (R391), one that takes the line every other holder, and a read the
owner. -/
def State.probed (s : State) (r : Request) (line : Nat) : List Nat :=
  if r.kind == .repair then dirAgents
  else if r.kind.takes then s.targets line r.agent
  else (((s.dirAt (regionOf line)).ownerOf (line % 4)).toList).filter (· != r.agent)

/-- The head request probes, and without anyone to probe it is complete. -/
def State.probeFor (s : State) (r : Request) (line : Nat) : State :=
  match s.probed r line with
  | [] => s.finishReq r line
  | ts => (ts.foldl (fun s a => s.sendProbe line a r.kind.takes) s).setHead line { r with phase := .probing ts.length }

/-- A request at the head whose tile, if any, has been dealt with (R119): its region has a directory way, and other holders are probed. -/
def State.serveLine (s : State) (r : Request) (line : Nat) : State :=
  if s.hostFailed r.agent then s.finishReq r line
  else
    let room := s.dirRoom line
    if !room.2 then room.1.holdReq r line else (room.1.restoreLost line).probeFor r line

/-- The answer to the holder's request once the tile is with it: a copy of the line, or none of a lost one. -/
def State.answerTile (s : State) (r : Request) (line : Nat) (own : Bool) : State :=
  if s.isLost (128 * line) then s.finishLost r line
  else ((s.trace line r.agent 9 0).popReq line).putCopy r.agent line r.core r.tenant r.key (if own then .owned else .shared)

/-- A tracked request of the holder for a bound line (R131). -/
def State.serveTile (s : State) (r : Request) (line tid : Nat) (t : TileRec) (own : Bool) : State :=
  if s.tileBusy t line r.no then (s.beginTile tid t line r.no).holdReq r line
  else if t.present && (t.own || !own) then (s.endTile tid r.no).answerTile r line t.own
  else if (own || t.own) && decide (s.time < s.tileHorizon t) then (s.beginTile tid t line r.no).holdReq r line
  else ((s.moveTile tid t own r.core r.tenant r.key).endTile tid r.no).answerTile r line (t.own || own)

/-- A request of another agent for a bound line: the tile is demoted first (R132). -/
def State.demoteFor (s : State) (r : Request) (line tid : Nat) (t : TileRec) (f : State → State) : State :=
  if s.tileBusy t line r.no then (s.beginTile tid t line r.no).holdReq r line
  else
    let x := s.demoteTile tid t
    if x.2 then f (x.1.dropParts r.no) else (x.1.beginTile tid t line r.no).holdReq r line

/-- A request at the head of its line's queue is served (R119, R131, R132). -/
def State.serve (s : State) (r : Request) (line event : Nat) : State :=
  let s := if r.phase = .waiting && r.kind.message then s.trace line r.agent event 0 else s
  match s.tileOf line with
  | none => s.serveLine r line
  | some (tid, t) =>
    if r.kind == .repair then s.serveLine r line
    else if t.holder = r.agent then
      match r.kind with
      | .getS => s.serveTile r line tid t false
      | .getO _ => s.serveTile r line tid t true
      | _ => s.serveLine r line
    else s.demoteFor r line tid t fun s => s.serveLine r line

/-- A request waits at the head, not yet begun. -/
def Request.atHead (r : Request) : Bool := r.phase == .waiting || r.phase == .held

/-! ### Accesses that the home performs for parties that hold no copies -/

/-- A line may be read or written at the home at once: no request is on its way for it, no tile binds it, no holder has to be probed, and
a write finds the horizon past. Of host memory the hub must hold the line, and of a peer traffic must be carried. -/
def State.homeQuiet (s : State) (line : Nat) (write : Bool) : Bool :=
  let pa := 128 * line
  if isDevice pa then
    !s.lineBusy line && (s.tileOf line).isNone
      && (if write then ((s.dirAt (regionOf line)).holders (line % 4)).isEmpty && decide (s.horizonOf line ≤ s.time)
          else ((s.dirAt (regionOf line)).ownerOf (line % 4)).isNone)
  else if isHostMem pa then
    s.sys.portDown.getLsbD (window pa - 0xC)
      || (!s.lineBusy line && (if write then (s.snoopAt line).owned else !(s.snoopAt line).agents.isEmpty))
  else s.carried pa

/-- The agent in whose name the home, or the hub for host memory, performs an access. -/
def homeAgent (line : Nat) : Nat := if isHostMem (128 * line) then 196 else 255

/-- A read at the home is asked for. -/
def State.askHome (s : State) (line tenant key c : Nat) : State :=
  if s.homeQuiet line false || s.anyReq line fun r => r.agent == homeAgent line && r.kind == .homeRead c then s
  else s.appendReq line (newReq s (homeAgent line) 784 tenant key (.homeRead c))

/-- The lines of n bytes. -/
def linesOf (pa n : Nat) : List Nat := (List.range (lineOf (pa + n - 1) + 1 - lineOf pa)).map (lineOf pa + ·)

/-- n bytes can be read at the home now. -/
def State.homeReadable (s : State) (pa n : Nat) : Bool := (linesOf pa n).all fun l => s.homeQuiet l false

/-- One write within a line for a party that holds no copies: at once, or in the line's turn. -/
def State.homeWriteLine (s : State) (w : HomeStore) : State :=
  let line := lineOf w.pa
  if s.homeQuiet line true then (s.trace line (homeAgent line) 2 0).trace line (homeAgent line) 9 0 |>.homeStore w
  else if isDevice w.pa || isHostMem w.pa then
    s.appendReq (lineOf w.pa) (newReq s (homeAgent (lineOf w.pa)) 784 w.tenant w.key (.homeWrite w))
  else s

/-- A write performed at the target for a party that holds no copies: the hub, Lintel, a peer, a home Hod or a host; `whole` says that it
writes every byte of its lines. -/
def State.homeWrite (s : State) (tenant key pa n v : Nat) (whole : Bool) : State :=
  (linesOf pa n).foldl (fun s l =>
    let first := max pa (128 * l)
    let last := min (pa + n) (128 * l + 128)
    s.homeWriteLine { pa := first, bytes := last - first, val := v / 2 ^ (8 * (first - pa)) % 2 ^ (8 * (last - first))
                      tenant := tenant, key := key, whole := whole }) s

/-- A write of the home to bytes of a range has not been performed yet. -/
def State.homePending (s : State) (pa n : Nat) : Bool :=
  let hit (r : Request) : Bool := match r.kind with
    | .homeWrite w => decide (w.pa < pa + n) && decide (pa < w.pa + w.bytes)
    | _ => false
  s.homes.reqs.any (fun e => e.2.any hit) || s.homes.ingress.any fun x => hit x.2

/-! ### Host memory (R135) -/

/-- An agent of the device gives up a line of host memory: written back by its owner, it is the host's again. -/
def SnoopEntry.without (e : SnoopEntry) (a : Nat) (back : Bool) : SnoopEntry :=
  let l := e.agents.filter (· != a)
  if !e.agents.contains a then e
  else if e.owned && !back && !l.isEmpty then { e with agents := l } else { agents := l, owned := false, older := 0 }

/-- A request for host memory that the device holds already, with ownership where it asks for that: the hub's snoop filter serves it among
the device's own copies. -/
def State.grantHost (s : State) (r : Request) (line : Nat) : State :=
  let e := s.snoopAt line
  let s := s.popReq line
  match r.kind with
  | .getO _ => ((s.dropOtherCopies r.agent line).setSnoop line { agents := [r.agent], owned := true, older := e.older }).putCopy r.agent line r.core r.tenant
      r.key .owned
  | .homeWrite w => s.homeStore w
  | _ =>
    let s := e.agents.foldl (fun s a => s.cleanCopy a line) s
    (s.setSnoop line { e with agents := if e.agents.contains r.agent then e.agents else e.agents ++ [r.agent] }).putCopy r.agent line r.core
      r.tenant r.key .shared

/-- A request for host memory at the head: served by the device's own copies, or it waits for the host. -/
def State.serveHost (s : State) (r : Request) (line : Nat) : State :=
  let e := s.snoopAt line
  match r.kind with
  | .putO => (s.popReq line).setSnoop line (e.without r.agent true)
  | .putS => (s.popReq line).setSnoop line (e.without r.agent false)
  | k => if (if k.takes then e.owned else !e.agents.isEmpty) then s.grantHost r line else s

/-! ### The rows -/

/-- The row that serves a kind of request: 0 for GETS, 1 for GETL, 2 for GETO, 3 for PUTO and 4 for PUTS. -/
def ReqKind.row : ReqKind → Nat
  | .getS => 0
  | .getL _ => 1
  | .getO _ => 2
  | .putO => 3
  | .putS => 4
  | .homeRead c => if c = 0 then 0 else 1
  | .homeWrite _ => 2
  | .hostPut _ => 3
  | .recall => 0
  | .clear => 2
  | .repair => 2
  | .part => 2

/-- The operation that holds a place with a number is under way: a request that has it waits at a head, or the strand that began it stands at
its instruction. -/
def State.operates (s : State) (no : Nat) : Bool :=
  s.homes.reqs.any (fun e => match e.2 with | r :: _ => r.no == no && r.kind != .part | [] => false)
    || s.homes.tileOps.any fun e => e.2.no == no && (match s.strandAt e.1 with | some st => st.lid == e.2.lid && st.pc == e.2.pc | none => false)

/-- The request at the head of a line's queue is served when it is of a row and has not begun. A place whose operation has ended is given
up. -/
def State.serveRow (s : State) (line row : Nat) : State :=
  match s.reqsAt line with
  | [] => s
  | r :: _ =>
    if r.kind.row != row || !r.atHead then s
    else if r.kind == .part then (if s.operates r.no then s else s.popReq line)
    else if isHostMem (128 * line) then s.serveHost r line
    else if isDevice (128 * line) then s.serve r line row
    else s

/-- A tracked read at the head of its line's queue (R119). -/
def execGets (line : Nat) (s : State) : Out := .next (s.serveRow line 0)

/-- The request at the head as a tracked read. -/
def Request.tracked (r : Request) : Request :=
  { r with kind := match r.kind with | .getL _ => .getS | .homeRead _ => .homeRead 0 | k => k }

/-- A leased read at the head; a standing lease timing alarm serves it as `GetS` (R119, R394), and host memory has no leases (R127). -/
def execGetl (line : Nat) (s : State) : Out :=
  match s.reqsAt line with
  | [] => .next s
  | r :: _ =>
    if r.kind.row != 1 || !r.atHead then .next s
    else if isHostMem (128 * line) then .next (s.serveHost r.tracked line)
    else if !isDevice (128 * line) then .next s
    else .next (s.serve (if s.sys.alarm then r.tracked else r) line 1)

/-- A read for ownership, or a write that the home performs, at the head (R119). -/
def execGeto (line : Nat) (s : State) : Out := .next (s.serveRow line 2)

/-- One more answer of the head request is counted (R120). -/
def State.countAnswer (s : State) (line : Nat) : State :=
  match s.reqsAt line with
  | [] => s
  | r :: _ =>
    match r.phase with
    | .probing n => if n ≤ 1 then s.finishReq r line else s.setHead line { r with phase := .probing (n - 1) }
    | _ => s

/-- Whether a message is the write-back of a line by an agent. -/
def Request.isPutO (agent : Nat) (r : Request) : Bool :=
  r.agent == agent && (match r.kind with | .putO => true | .hostPut _ => true | _ => false)

/-- A write-back or a clean-eviction notice at the head, for a bound line: an eviction of the holder's, or a request that demotes the tile
(R131, R132). -/
def State.putTile (s : State) (h : Request) (line tid : Nat) (t : TileRec) : State :=
  if t.holder = h.agent then
    if s.tileBusy t line h.no then (s.beginTile tid t line h.no).holdReq h line
    else
      let s := if t.present && (h.kind == .putO || !t.own) then s.evictTile tid t h.tenant h.key else s
      (s.endTile tid h.no).popReq line
  else s.demoteFor h line tid t fun s => s.popReq line

/-- A write-back takes effect: an O line of its sender becomes I, with the data in the LLC; a host's brings its data with it. -/
def State.takePutO (s : State) (h : Request) (line : Nat) : State :=
  if (s.dirAt (regionOf line)).ownerOf (line % 4) = some h.agent then
    let s := match h.kind with
      | .hostPut d => (s.storeAt h.tenant h.key (128 * line) 128 (leOfBytes d) false).1
      | _ => s
    (s.updLine line fun e i => e.clearLine i .I).llcFor h line true
  else s

/-- A host's write-back at the head (R134, R396): of a lost line, or while BIFAIL is 1, it is discarded; of a line that the host does not own
it is a write at the home. -/
def State.serveHostPut (s : State) (h : Request) (line : Nat) (d : List Byte) : State :=
  if s.hostFailed h.agent then s.popReq line
  else if s.isLost (128 * line) then (s.count1 (memCounter 0 0x10)).popReq line
  else if (s.dirAt (regionOf line)).ownerOf (line % 4) = some h.agent then ((s.dropCopy h.agent line).takePutO h line).popReq line
  else
    let w : HomeStore := { pa := 128 * line, bytes := 128, val := leOfBytes d, tenant := h.tenant, key := h.key, whole := false }
    let r : Request := { h with agent := 255, kind := .homeWrite w, phase := .held }
    (s.setHead line r).serve r line 2

/-- A write-back at the head of its line's list (R119): an O line of its sender becomes I, and a tile held by its sender leaves that L2
(R131). -/
def State.servePutO (s : State) (h : Request) (line : Nat) : State :=
  let s := if h.phase = .waiting then s.trace line h.agent 3 0 else s
  match s.tileOf line, h.kind with
  | some (tid, t), .hostPut d => s.demoteFor h line tid t fun s => s.serveHostPut h line d
  | some (tid, t), _ => s.putTile h line tid t
  | none, .hostPut d => s.serveHostPut h line d
  | none, _ => (s.takePutO h line).popReq line

/-- A write-back reaches the home (R119). While the head request waits for its sender, it counts as that sender's answer (R121). -/
def execPuto (agent line : Nat) (s : State) : Out :=
  match s.reqsAt line with
  | [] => .next s
  | h :: _ =>
    if h.isPutO agent then
      if !h.atHead then .next s
      else if isHostMem (128 * line) then .next (s.serveHost h line)
      else .next (s.servePutO h line)
    else
      let put := ((s.reqsAt line) ++ ((s.homes.ingress.filter fun x => x.1 == line).map Prod.snd)).find? (Request.isPutO agent)
      match s.homes.answers.find? fun x => x.agent == agent && x.line == line && x.kind == .writeBack, put with
      | some x, some p =>
        let s := s.dropReqs line (Request.isPutO agent)
        let s := s.setHomes { s.homes with answers := s.homes.answers.erase x }
        .next ((((s.takePutO p line).trace line agent 8 2)).countAnswer line)
      | _, _ => .next s

/-- A clean-eviction notice reaches the head: applied when it removes a line bit, and otherwise discarded (R119, R121). -/
def execPuts (agent line : Nat) (s : State) : Out :=
  match s.reqsAt line with
  | [] => .next s
  | h :: _ =>
    if h.kind = .putS ∧ h.agent = agent ∧ h.atHead then
      if isHostMem (128 * line) then .next (s.serveHost h line)
      else
        match s.tileOf line with
        | some (tid, t) => .next ((if h.phase = .waiting then s.trace line agent 5 0 else s).putTile h line tid t)
        | none =>
          let e := s.dirAt (regionOf line)
          if !e.coarse && e.line (line % 4) == .S && (e.holders (line % 4)).contains agent then
            .next (((s.trace line agent 4 0).updLine line fun e i => e.unshare agent i).popReq line)
          else .next ((s.trace line agent 5 0).popReq line)
    else .next s

/-- The probe to an agent for a line that it has not yet received. -/
def State.probeOf (s : State) (agent line : Nat) : Option Probe :=
  s.homes.probes.find? fun p => p.agent == agent && p.line == line

def State.dropProbe (s : State) (agent line : Nat) : State :=
  s.setHomes { s.homes with probes := s.homes.probes.filter fun p => !(p.agent == agent && p.line == line) }

/-- An agent's answer sets out. -/
def State.sendAnswer (s : State) (agent line : Nat) (kind : AnswerKind) (invalidate : Bool) : State :=
  s.setHomes { s.homes with answers := s.homes.answers ++ [{ agent := agent, line := line, kind := kind, invalidate := invalidate }] }

/-- The answer of an agent that receives a probe (R120, R121): a write-back in flight answers for the line. -/
def State.probeAnswer (s : State) (agent line : Nat) : AnswerKind :=
  if s.anyReq line (Request.isPutO agent) then .writeBack
  else if (s.copyAt agent line).isSome then .invalidated
  else .notPresent

/-- A probe goes unanswered: a host answers by BIRsp (R134), and what an isolated agent sends is discarded, so that its answer times out
(R389). -/
def State.unanswered (s : State) (agent : Nat) : Bool := agent == 200 || agent == 201 || s.homes.isolated.contains agent

/-- What an agent gives up to work of the home's own, modified, is written to the LLC (R115, R391). -/
def State.giveUp (s : State) (agent line : Nat) : State :=
  match s.copyAt agent line, s.reqsAt line with
  | some c, r :: _ => if c.st == .owned && !r.kind.message then s.fillLlc (4 * agent) c.tenant c.key line true else s
  | _, _ => s

/-- An agent receives an invalidation and answers it once (R120). -/
def execInvalidation (agent line : Nat) (s : State) : Out :=
  match s.probeOf agent line with
  | some p =>
    if !p.invalidate || s.unanswered agent then .next s
    else .next ((((s.dropProbe agent line).sendAnswer agent line (s.probeAnswer agent line) true).giveUp agent line).dropCopy agent line)
  | none => .next s

/-- An agent receives a recall and returns its data, keeping a clean copy (R119). -/
def execRecall (agent line : Nat) (s : State) : Out :=
  match s.probeOf agent line with
  | some p =>
    if p.invalidate || s.unanswered agent then .next s
    else .next (((s.dropProbe agent line).sendAnswer agent line (s.probeAnswer agent line) false).cleanCopy agent line)
  | none => .next s

/-- The home counts an answer, and grants when the count is complete (R120). An answer that reports a write-back in flight is
completed by that write-back (R121); an isolated agent's answer is discarded (R389). -/
def execAnswer (agent line : Nat) (s : State) : Out :=
  match s.homes.answers.find? fun x => x.agent == agent && x.line == line with
  | none => .next s
  | some x =>
    if s.homes.isolated.contains agent then
      .next (s.setHomes { s.homes with answers := s.homes.answers.erase x })
    else
      match x.kind with
      | .writeBack =>
        -- the write-back may have been applied already; then nothing is left to wait for
        if s.anyReq line (Request.isPutO agent) then .next s
        else .next (((s.setHomes { s.homes with answers := s.homes.answers.erase x }).trace line agent 8 2).countAnswer line)
      | k => .next (((s.setHomes { s.homes with answers := s.homes.answers.erase x }).trace line agent 8 (ansCode k)).countAnswer line)

/-- The home's time reaches H(x): a `GetO` that waits for it is granted (R125). -/
def execHorizonExpiry (line : Nat) (s : State) : Out :=
  match s.reqsAt line with
  | [] => .next s
  | r :: _ =>
    if r.phase = .horizon then
      let s := { s with time := max s.time (s.horizonOf line) }
      .next (s.finishReq r line)
    else .next s

/-- A leased copy is invalid from its expiry on (R124) (DEDUCED, log entry 5). -/
def execLeaseExpiry (agent line : Nat) (s : State) : Out :=
  match SMap.find s.copies (copyKey agent line) with
  | some c =>
    match c.st with
    | .leased e => .next ({ s with time := max s.time e }.dropCopy agent line)
    | _ => .next s
  | none => .next s

/-! ### Agents that stop answering (R389, R390) -/

/-- A coarse entry without the bit that covers an isolated agent alone: SPM's, or that of three isolated quads; a line in S that no bit covers
any more is in I (DEDUCED, log entry 7). -/
def DirEntry.uncover (e : DirEntry) (agent : Nat) (gone : Nat → Bool) : DirEntry :=
  let e := if agent < 192 then
      (if [0, 1, 2].all fun k => gone (agent / 3 * 3 + k) then { e with cv := e.cv &&& ~~~cvBit agent } else e)
    else { e with spm := e.spm &&& ~~~spmBit agent }
  if e.cv = 0 && e.spm = 0 then (List.range 4).foldl (fun e i => if e.line i == .S then e.setLine i .I else e) e else e

/-- The lines of an entry that an agent held in S are removed. -/
def DirEntry.forget (e : DirEntry) (agent : Nat) (gone : Nat → Bool) : DirEntry :=
  if e.coarse then e.uncover agent gone
  else (List.range 4).foldl (fun e i => if e.line i == .S then e.unshare agent i else e) e

/-- Every line that an agent holds: S lines are removed, O lines become lost, and its tiles are dissolved. -/
def State.loseAgent (s : State) (agent : Nat) : State :=
  let tids := (s.homes.tiles.filter fun e => e.2.holder == agent).map Prod.fst
  let s := tids.foldl State.dissolveLost s
  let owned := s.homes.dir.flatMap fun e =>
    ((List.range 4).filter fun i => e.2.ownerOf i == some agent).map fun i => 4 * e.1 + i
  let s := owned.foldl (fun s l => s.loseLine l 5 agent (s.finder l)) s
  let s := { s with copies := s.copies.filter fun e => e.1 / 2 ^ 45 != agent }
  let gone (a : Nat) : Bool := a == agent || s.homes.isolated.contains a
  (s.homes.dir.map Prod.fst).foldl (fun s r => s.setDir r ((s.dirAt r).forget agent gone)) s

/-- The hub isolates an agent: its later requests and answers are discarded, and those of its requests that have not begun. -/
def State.isolate (s : State) (agent : Nat) : State :=
  let h := s.homes
  (s.setHomes { h with
    isolated := if h.isolated.contains agent then h.isolated else agent :: h.isolated
    answers := h.answers.filter fun x => x.agent != agent
    served := h.served.filter fun x => x.agent != agent
    ingress := h.ingress.filter fun x => x.2.agent != agent
    reqs := (h.reqs.map fun e => (e.1, match e.2 with
      | [] => []
      | r :: q => if r.agent = agent && r.atHead then q.filter fun x => x.agent != agent
          else r :: q.filter fun x => x.agent != agent)).filter fun e => !e.2.isEmpty }).fillBuffers

/-- The home applies R389 to an agent: its missing answers, on every line, count as received, its lines are lost or removed, KIND 7 is logged
with the line at which it was found out, and it is isolated. -/
def State.dropAgent (s : State) (a line : Nat) : State :=
  let waiting := (s.homes.probes.filter fun p => p.agent == a) |>.map (·.line)
  let owed := (s.homes.answers.filter fun x => x.agent == a) |>.map (·.line)
  let s := s.setHomes { s.homes with
    probes := s.homes.probes.filter fun p => p.agent != a, answers := s.homes.answers.filter fun x => x.agent != a }
  let s := (s.loseAgent a).logEvent (128 * line) 0 7 a 0
  (waiting ++ owed).foldl State.countAnswer (s.isolate a)

/-- After 2^20 cycles without an answer the agent is unresponsive (R389). Host ports follow R396. -/
def execAgentUnresponsive (agent line : Nat) (s : State) : Out :=
  match s.probeOf agent line with
  | none => .next s
  | some p =>
    if agent == 200 || agent == 201 then .next s
    else .next (({ s with time := max s.time (p.sent + 2 ^ 20) } : State).dropAgent agent line)

end Sys2Proof.Machine
end

