-- ==== Sys2Proof/Machine/Ops.lean ====
section
/-! DEFINITION. The named operations that the meanings share: fault records (spec/13_traps_context.md R310, R311), trap entry
and the return from one (R307, R296), completion with its end test (spec/08_scalar_control.md R166, R208), instruction lines
(spec/07_encoding.md R163 to R168), window frames in memory (R191, R205), accesses in flight (R60, R141) and the end of a
strand (R297). -/

namespace Sys2Proof.Machine

/-! ### The hub as a party -/

/-- The hub's access context for a tenant in an address space: it uses every mapping, and it holds no TLB
(DEDUCED, log entry 32). -/
def hubCtx (tenant asid : Nat) : Ctx :=
  { agent := 196, core := 784, tenant := tenant, asid := asid, lid := 0, sright := true, engine := true }

/-- The physical address of a byte that the hub may access. A walk of its own reads what memory holds (DEDUCED, log entry 34). -/
def State.hubPa (s : State) (tenant asid va : Nat) (r : Right) : Option Nat :=
  match s.translateNow (hubCtx tenant asid) (va % 2 ^ 52) r with
  | .ok e => s.physical (hubCtx tenant asid) (leafPa e.level e.entry.toNat (va % 2 ^ 52)) (r == .write)
  | .error _ => none

/-- n bytes read by the hub from an address inside one page; none where an address faults. -/
def State.hubRead (s : State) (tenant asid va n : Nat) : Option Nat :=
  match s.hubPa tenant asid va .read with
  | some p => some (s.readPa p (s.keyOfAsid asid) n).1
  | none => none

/-- The count of such a read that meets lost data, for the tenant (R387). -/
def State.hubCount (s : State) (tenant asid va n : Nat) : State :=
  match s.hubPa tenant asid va .read with
  | some p => (s.readCounted tenant (s.keyOfAsid asid) p n).1
  | none => s

/-- n bytes written by the hub at an address inside one page; none where the address faults. -/
def State.hubWrite (s : State) (tenant asid va n v : Nat) : Option State :=
  match s.hubPa tenant asid va .write with
  | some p => some (s.homeWrite tenant (s.keyOfAsid asid) p n v false)
  | none => none

/-- The hub can read n bytes inside one page now: no host holds what its walk reads, and the bytes are there; an address that faults needs no
wait. -/
def State.hubReadable (s : State) (tenant asid va n : Nat) : Bool :=
  (s.walkHeld asid (va % 2 ^ 52)).isNone
    && (match s.hubPa tenant asid va .read with
      | some p => s.homeReadable p n
      | none => true)

/-- The hub asks for what it lacks. -/
def State.hubAsk (s : State) (tenant asid va n : Nat) : State :=
  match s.walkHeld asid (va % 2 ^ 52) with
  | some q => (s.recallLines [lineOf q]).1
  | none =>
    match s.hubPa tenant asid va .read with
    | some p => (linesOf p n).foldl (fun s l => s.askHome l tenant (s.keyOfAsid asid) 0) s
    | none => s

/-- The address translates into the window of a CXL port that is down (R414). -/
def State.hubPortDown (s : State) (tenant asid va : Nat) (r : Right) : Bool :=
  match s.translateNow (hubCtx tenant asid) (va % 2 ^ 52) r with
  | .ok e =>
    let pa := leafPa e.level e.entry.toNat (va % 2 ^ 52)
    isHostMem pa && s.sys.portDown.getLsbD (window pa - 0xC)
  | .error _ => false

/-- A record write of the hub that a down port discards is counted in HOSTDISC (R414). -/
def State.countHostDisc (s : State) (tenant asid va : Nat) : State :=
  if s.hubPortDown tenant asid va .write then s.count1 (sysCounter 0x30) else s

/-! ### Fault records (R310 to R312) -/

/-- The fields of a fault record but its time and number. -/
structure FaultInfo where
  vaddr : Nat
  offset : Nat
  map : Nat
  comp : Nat
  code : Nat
  source : Nat
  stopped : Bool
  acc : Nat
  aux : Nat
  ord : Nat
  deriving DecidableEq, Repr

/-- The 64 bytes of a fault record with number i (R310). -/
def faultRecord (f : FaultInfo) (time i : Nat) : Nat :=
  f.vaddr % 2 ^ 64 + f.offset % 2 ^ 64 * 2 ^ 64 + f.map % 2 ^ 64 * 2 ^ 128 + f.comp % 2 ^ 64 * 2 ^ 192
    + (if f.stopped then (i + 1) % 2 ^ 32 else 0) * 2 ^ 256 + f.code % 256 * 2 ^ 288 + f.source % 8 * 2 ^ 296
    + f.stopped.toNat * 2 ^ 299 + f.acc % 4 * 2 ^ 300 + f.aux % 256 * 2 ^ 304 + f.ord % 2 ^ 64 * 2 ^ 320
    + time % 2 ^ 64 * 2 ^ 384 + (i + 1) % 2 ^ 64 * 2 ^ 448

def State.setFaultQueue (s : State) (tenant : Nat) (q : FaultQueue) : State :=
  s.setHub { s.hub with faultQueues := s.hub.faultQueues.set FaultQueue.reset tenant q }

/-- DROPPED counted (R311). -/
def FaultQueue.drop (q : FaultQueue) : FaultQueue :=
  { q with dropped := BitVec.ofNat 32 (min (q.dropped.toNat + 1) (2 ^ 32 - 1)) }

/-- The hub numbers a record of a fault found at a time and writes it, or drops it (R311). Answers the record's JOB, SEQ[31:0]. -/
def State.faultWrite (s : State) (tenant found : Nat) (f : FaultInfo) : Nat × State :=
  let q := SMap.get FaultQueue.reset s.hub.faultQueues tenant
  let i := q.count.toNat
  let job := (i + 1) % 2 ^ 32
  let q := { q with count := q.count + 1 }
  let room := (i : Int) - q.head.toNat < 2 ^ q.logn.toNat
  let va := q.base.toNat + i % 2 ^ q.logn.toNat * 64
  if q.enable && room then
    match s.hubWrite tenant q.asid.toNat va 64 (faultRecord f found i) with
    | some s => (job, s.setFaultQueue tenant q)
    | none => (job, (s.countHostDisc tenant q.asid.toNat va).setFaultQueue tenant q.drop)
  else (job, s.setFaultQueue tenant q.drop)

/-- COMP of a launch, zero when there is none. -/
def State.compOf (s : State) (lid : Nat) : Nat := ((s.launchOf lid).map fun l => recComp l.record).getD 0

/-! ### The program counter -/

/-- pc := v; a fetched line is kept while the strand stays in it (R165). -/
def Strand.setPc (st : Strand) (v : VAddr) : Strand :=
  { st with
    pc := v, since := none, next := none
    fetch := match st.fetch with
      | some (a, l) => if a.toNat = v.toNat / 64 * 64 then some (a, l) else none
      | none => none }

/-- The head after an address in a line (R166). -/
def headAfter (l : Line) (a : VAddr) : VAddr :=
  let k := (a.toNat % 64 - 2) / 2
  if k + 1 < lineHeadCount l then a + 2 else BitVec.ofNat 52 (a.toNat / 64 * 64 + 66)

/-- The head after the program counter; a strand that executes holds its line, and without one the next line's. -/
def Strand.nextHead (st : Strand) : VAddr :=
  match st.fetch with
  | some (_, l) => headAfter l st.pc
  | none => BitVec.ofNat 52 (st.pc.toNat / 64 * 64 + 66)

/-- The value of the head at the program counter. -/
def Strand.headValue (st : Strand) : Nat :=
  match st.fetch with
  | some (_, l) => lineHead l ((st.pc.toNat % 64 - 2) / 2)
  | none => 0

/-- Whether an address is a head of a line (R166, R168). -/
def isHead (l : Line) (a : Nat) : Bool := a % 2 == 0 && a % 64 != 0 && decide ((a % 64 - 2) / 2 < lineHeadCount l)

/-- branch_target of R167. -/
def branchTarget (pc : VAddr) (i24 : BitVec 24) : VAddr :=
  BitVec.ofInt 52 ((pc.toNat / 64 * 64 : Nat) + signedOf 19 (i24.toNat / 32) * 64 + 2 + 2 * (i24.toNat % 32))

/-- A strand that could issue now (R60, R348), as far as its wait and its halt decide. -/
def Strand.ready (st : Strand) : Bool := st.wait == .ready && st.halt != .halted

/-! ### The end test (R208) -/

def Strand.getLc (st : Strand) (d : Nat) : Word := st.lc.toList.getD d 0
def Strand.setLc (st : Strand) (d : Nat) (v : Word) : Strand :=
  if h : d < 3 then { st with lc := st.lc.set d v h } else st

/-- end_test over the levels, innermost first; the start to iterate at, if any. -/
def endTest (addr : VAddr) : List LoopLevel → Strand → Strand × Option VAddr
  | [], st => ({ st with loops := [] }, none)
  | l :: r, st =>
    if l.finish ≠ addr then ({ st with loops := (l :: r).reverse }, none)
    else if 1 < (st.getLc r.length).toNat then
      ({ (st.setLc r.length (st.getLc r.length - 1)) with loops := (l :: r).reverse }, some l.start)
    else endTest addr r (st.setLc r.length 0)

/-- An instruction whose successor is the head `next` in sequence completes: the end test, then the program counter (R208). -/
def Strand.advanceTo (st : Strand) (next : VAddr) : Strand :=
  let r := endTest st.pc st.loops.reverse st
  r.1.setPc (r.2.getD next)

/-- The same with the next head of the strand's line. -/
def Strand.advance (st : Strand) : Strand := st.advanceTo st.nextHead

/-! ### Issue -/

/-- Slot `slot` no longer holds up the `YIELD` of another strand of its core (R210). -/
def Strand.sawIssue (slot : Nat) (st : Strand) : Strand :=
  match st.wait with
  | .yielding t o => { st with wait := .yielding t (o.filter (· != slot)) }
  | _ => st

/-- The halt after an instruction has issued (R348). -/
def Halt.issued : Halt → Halt
  | .stepping => .halted
  | .released => .running
  | h => h

/-- The bays that have been idle so far, but for those over a core (R85). -/
def State.stillIdle (s : State) (core : Nat) : SMap Nat :=
  s.coursing.idleSince.filter fun e =>
    !(e.1 / 8 == core / 192 && bayCovers s.coursing.table s.coursing.active s.coursing.course.toNat (e.1 % 8) core)

/-- The strand in a slot has issued: the core's round-robin pointer (R59), the strands that yield to it (R210), a strand released
for one instruction halts again (R348), and no bay over the core counts as idle so far (R85). -/
def State.issued (s : State) (slot : Nat) : State :=
  let c := s.coreAt (coreOf slot)
  let s := s.setCore (coreOf slot) { c with last := slot % 16 }
  { s with
    coursing := { s.coursing with idleSince := s.stillIdle (coreOf slot) }
    strands := s.strands.map fun e =>
      if coreOf e.1 = coreOf slot then
        let st := e.2.sawIssue slot
        (e.1, if e.1 = slot then { st with halt := st.halt.issued } else st)
      else e }

/-- The strand completes its instruction and goes on to the next head, or iterates a loop. -/
def State.retire (s : State) (slot : Nat) (st : Strand) : State := (s.setStrand slot st.advance).issued slot

/-- The strand completes a control transfer: no end test runs (R208). -/
def State.jump (s : State) (slot : Nat) (st : Strand) (target : VAddr) : State :=
  (s.setStrand slot (st.setPc target)).issued slot

/-! ### Accesses in flight -/

/-- The accesses of a strand that are not yet performed whole. -/
def State.pending (s : State) (slot : Nat) : List Access :=
  (s.coreAt (coreOf slot)).queue.filter fun a => a.slot == slot

/-- Every earlier access of the strand is performed. -/
def State.drained (s : State) (slot : Nat) : Bool := (s.pending slot).isEmpty

/-- Whether an access writes memory. -/
def AccessKind.writes : AccessKind → Bool
  | .load => false
  | .store => true
  | .atomic _ _ _ => true
  | .flush => false
  | .fence => false

/-- Whether an access reads memory. -/
def AccessKind.reads : AccessKind → Bool
  | .load => true
  | .atomic _ _ _ => true
  | _ => false

/-- Whether an access reads or writes memory. -/
def AccessKind.touches (k : AccessKind) : Bool := k.writes || k.reads

/-- Every access of the core's strands is performed: each happens before what the core issues next (R147). -/
def State.accessesPerformed (s : State) (core : Nat) : Bool := (s.coreAt core).queue.all fun a => !a.kind.touches

/-- A release fence of the strand holds back its later stores (R141). -/
def State.fencePending (s : State) (slot : Nat) : Bool :=
  (s.coreAt (coreOf slot)).queue.any fun x => x.kind == .fence && x.slot == slot

/-- Ordering codes that order towards parties beyond the core (R141, R148, R150). -/
def Access.acquires (a : Access) : Bool := a.scope != 0 && (a.ord == 4 || (a.kind.reads && (a.ord == 1 || a.ord == 3)))
def Access.releases (a : Access) : Bool := a.scope != 0 && (a.ord == 2 || a.ord == 3 || a.ord == 4)

/-- Access x, not yet performed, holds back a later access of a slot of its core: x acquires, and it is of the same strand (R141, R150),
or it reads, since the core's issue order lies in happens-before (R147) (DEDUCED, log entry 9). -/
def Access.holdsBack (x : Access) (slot : Nat) : Bool := x.acquires && (x.slot == slot || x.kind.reads)

/-- An access of the core holds back what the strand of a slot does next. -/
def State.acquirePending (s : State) (slot : Nat) : Bool := (s.coreAt (coreOf slot)).queue.any fun x => x.holdsBack slot

/-- A fence in the queue is done once every access of its strand, and every load, store and atomic of its core, before it is performed
(R141, R147). -/
def pruneFences : List Access → List Access → List Access
  | _, [] => []
  | before, a :: r =>
    if a.kind == .fence && before.all fun x => x.slot != a.slot && !x.kind.touches then pruneFences before r
    else a :: pruneFences (before ++ [a]) r

/-- A scalar register that an access in flight will write (R60). -/
def Access.writesG (a : Access) (r : BitVec 4) : Bool :=
  match a.dest with
  | .scalar d _ => d == r && d != 0
  | _ => false

/-- A vector register that an access in flight will write. -/
def Access.writesV (a : Access) (r : BitVec 5) : Bool :=
  match a.dest with
  | .vector d _ => d == r
  | .tagged d _ _ _ _ => d == r
  | _ => false

/-- The strand waits for a scalar register that an earlier instruction has not yet written. -/
def State.busyG (s : State) (slot : Nat) (rs : List (BitVec 4)) : Bool :=
  (s.pending slot).any fun a => rs.any a.writesG

def State.busyV (s : State) (slot : Nat) (rs : List (BitVec 5)) : Bool :=
  (s.pending slot).any fun a => rs.any a.writesV

/-- An access of the core overlaps the n bytes at a physical address. -/
def State.overlapsQueue (s : State) (core pa n : Nat) : Bool :=
  (s.coreAt core).queue.any fun a => a.pieces.any fun p => decide (p.pa < pa + n) && decide (pa < p.pa + p.bytes)

/-- An access appended to the core's queue. -/
def State.enqueue (s : State) (core : Nat) (a : Access) : State :=
  let c := s.coreAt core
  s.setCore core { c with queue := c.queue ++ [a] }

/-! ### The end of a strand (R297, R307) -/

/-- `EXIT` with an XCODE: the launch's XCODE and LOSTSEEN, and the slot is free. Loads that are still in flight, of a strand
ended from outside, write no register. -/
def State.endStrand (s : State) (slot : Nat) (st : Strand) (xcode : Nat) : State :=
  let s := s.updLaunch st.lid fun l =>
    { l with
      xcode := l.xcode ||| BitVec.ofNat 8 xcode, lostSeen := l.lostSeen || st.lost != 0
      ended := l.ended.put (slot / 3072) s.time }
  let c := s.coreAt (coreOf slot)
  let s := s.setCore (coreOf slot)
    { c with
      queue := c.queue.map fun a => if a.slot == slot then { a with dest := .none } else a }
  (s.issued slot).dropStrand slot

/-- fatal_trap of R307 (DEDUCED, log entry 30). -/
def State.fatalTrap (s : State) (slot : Nat) (st : Strand) (t : Trap) : State :=
  let tenant := s.tenantOf st
  let s := (s.faultWrite tenant s.time
    { vaddr := t.tval, offset := 0, map := 0, comp := s.compOf st.lid, code := 0x27, source := 0, stopped := false
      acc := t.acc, aux := t.code, ord := s.ordinalOf st }).2
  let s := s.count1 (execCounter tenant 8)
  s.endStrand slot st 0x80

/-- The value that trap entry gives `sr.cause` (R304, R307). -/
def Trap.cause (t : Trap) : Word :=
  BitVec.ofNat 64 (t.code % 256 + t.acc % 4 * 256 + t.badpte.toNat * 1024 + t.spill.toNat * 2048)

/-- The registers that trap entry writes (R307). -/
def Strand.enter (st : Strand) (t : Trap) (epc : VAddr) : Strand :=
  ({ st with
    cause := t.cause, tval := BitVec.ofNat 64 t.tval, epc := epc.setWidth 64, inh := true, wait := .ready }).setPc
    (st.tvec.setWidth 52)

/-- Whether a trap of the strand is fatal (R307). -/
def Strand.trapIsFatal (st : Strand) : Bool := st.inh || st.tvec == 0

/-- A walk that ended at a lost entry is counted for the tenant (R387). -/
def State.countWalk (s : State) (tenant asid : Nat) (t : Trap) : State :=
  if !t.badpte then s
  else match s.walkLost asid t.tval with
    | some p => s.countLostRead tenant (s.keyOfTenant (asidTenant (s.asidEntry asid))) p
    | none => s

/-- take_trap of R307; a walk that has to wait for a host is no trap (R134). A fatal trap ends the strand as `EXIT` does, once every earlier access is performed; until then the
strand waits and the trap is found again. -/
def State.takeTrap (s : State) (slot : Nat) (st : Strand) (t : Trap) (epc : VAddr) : State :=
  if t.code = heldWalk then (s.recallLines [lineOf t.tval]).1
  else if st.trapIsFatal && !s.drained slot then s
  else
    let s := s.countWalk (s.tenantOf st) (s.asidOf st) t
    let s := s.count1 (execCounter (s.tenantOf st) 0)
    if st.trapIsFatal then s.fatalTrap slot st t
    else (s.setStrand slot (st.enter t epc)).issued slot

/-- A trap at the head that executes. -/
def State.trap (s : State) (slot : Nat) (st : Strand) (t : Trap) : State := s.takeTrap slot st t st.pc

/-- A trap whose `sr.tval` is the head value: codes 0x02 to 0x04 (R305). -/
def State.trapHead (s : State) (slot : Nat) (st : Strand) (code : Nat) : State :=
  s.trap slot st (trapOf code 0 st.headValue)

def causeIllegalLine : Nat := 0x01
def causeIllegalInstr : Nat := 0x02
def causeIllegalOperand : Nat := 0x03
def causePrivilege : Nat := 0x04
def causeMisaligned : Nat := 0x05
def causePage : Nat := 0x06
def causePermission : Nat := 0x07
def causePhysical : Nat := 0x08
def causeFormat : Nat := 0x09
def causeLocal : Nat := 0x0A
def causeUnderflow : Nat := 0x0B
def causeLoopDepth : Nat := 0x0C
def causeBarrier : Nat := 0x0D
def causeEngine : Nat := 0x0E
def causeSoftware : Nat := 0x0F

/-- trap_return of R296: INH := 0 and pc := `sr.epc`. -/
def State.trapReturn (s : State) (slot : Nat) (st : Strand) : State :=
  s.jump slot { st with inh := false } (st.epc.setWidth 52)

/-! ### Running an instruction of the strand in focus -/

/-- The strand in slot `cur` runs an instruction that names the registers listed, once none of them waits for an earlier
instruction (R60). -/
def State.run (s : State) (gs : List (BitVec 4)) (vs : List (BitVec 5)) (f : Nat → Strand → Out) : Out :=
  match s.strandAt s.cur with
  | none => .fault .noStrand
  | some st => if s.busyG s.cur gs || s.busyV s.cur vs then .next s else f s.cur st

/-! ### Instruction lines -/

/-- The stack of an instruction cache: its lines, the one fetched last first. -/
def icacheKey (core : Nat) : Nat := 2 ^ 23 + core

/-- The lines that fit a loop buffer of n instructions, those entered last first (R21). -/
def loopRoom : Nat → List (Nat × Line) → List (Nat × Line)
  | _, [] => []
  | n, x :: r => if lineHeadCount x.2 ≤ n then x :: loopRoom (n - lineHeadCount x.2) r else []

/-- The body of an active loop of the strand takes in the line at an address. -/
def Strand.loopsOver (st : Strand) (va : Nat) : Bool :=
  st.loops.any fun l => decide (l.start.toNat / 64 * 64 ≤ va) && decide (va ≤ l.finish.toNat)

/-- The core's loop buffer takes a line that a strand enters in an active loop's body (R21, R209): 256 instructions, those entered last
(DESIGN CHOICE, log entry 7). -/
def State.keepLoop (s : State) (core : Nat) (st : Strand) (va pa : Nat) (l : Line) : State :=
  if st.loopsOver va then
    let c := s.coreAt core
    s.setCore core { c with loopBuf := loopRoom 256 ((pa / 64, l) :: c.loopBuf.filter (·.1 != pa / 64)) }
  else s

/-- The line of a physical address in a core's instruction cache, or else in its loop buffer (R60, R165). -/
def State.heldCode (s : State) (core pa : Nat) : Option Line :=
  match SMap.find s.icache (2 ^ 46 * core + pa / 64) with
  | some l => some l
  | none => ((s.coreAt core).loopBuf.find? (·.1 == pa / 64)).map Prod.snd

/-- A core's instruction cache takes a line, of 1,024 (R21); the line that leaves is the one fetched longest ago
(DESIGN CHOICE, log entry 7). -/
def State.fillIcache (s : State) (core pa : Nat) (l : Line) : State :=
  let k := pa / 64
  let st := k :: (s.stack (icacheKey core)).filter (· != k)
  let s := { s with icache := s.icache.put (2 ^ 46 * core + k) l }
  (st.drop 1024).foldl (fun s x => { s with icache := s.icache.erase (2 ^ 46 * core + x) }) (s.setStack (icacheKey core) (st.take 1024))

/-- Why a line is not fetched. -/
inductive FetchStop where
  | trap (t : Trap)
  /-- The quad lacks the line at a physical address, which has to be asked for. -/
  | wait (pa : Nat)

/-- The line at a virtual line address as a strand fetches it, from the instruction cache or loop buffer or else through the L1 and L2 (R165,
R251), and the state with the translation kept, and the line where it is of device or host memory (R112). Faults carry access kind 1. -/
def State.readLine (s : State) (slot : Nat) (st : Strand) (va : Nat) : Except FetchStop (Line × State) :=
  let c := s.ctxOf slot st
  match s.physOf c va .fetch with
  | .error t => .error (.trap t)
  | .ok (pa, e) =>
    if isControl pa then .error (.trap (trapOf causePhysical accFetch va))
    else
      let key := s.keyOfAsid c.asid
      match s.heldCode c.core pa with
      | some l =>
        let t := s.tlbFill c.core e
        let t := if (SMap.find s.icache (2 ^ 46 * c.core + pa / 64)).isSome then t.fillIcache c.core pa l else t
        .ok (l, t.keepLoop c.core st va pa l)
      | none =>
        if !s.lineReady c.agent pa c.tenant key false then .error (.wait pa)
        else
          let x := s.readCounted c.tenant key pa 64
          let l : Line := BitVec.ofNat 512 x.2.1
          let t := ((x.1.tlbFill c.core e).touchCopy c.core c.agent pa false).useAnswer c.agent (lineOf pa) false
          .ok (l, if isDevice pa || isHostMem pa then (t.fillIcache c.core pa l).keepLoop c.core st va pa l else t)

/-- The line that a fetch lacks is asked for. -/
def State.askFetch (s : State) (slot : Nat) (st : Strand) (pa : Nat) : State :=
  let c := s.ctxOf slot st
  s.askLine c.core c.agent c.tenant (s.keyOfAsid c.asid) pa .getS

/-- A strand whose fetch stops takes the trap, or waits for the line. -/
def State.fetchStop (s : State) (slot : Nat) (st : Strand) : FetchStop → State
  | .trap t => s.trap slot st t
  | .wait pa => s.askFetch slot st pa

/-- A line as the strand executes it: its own fetched copy while it stays in the line (R165). -/
def State.lineFor (s : State) (slot : Nat) (st : Strand) (va : Nat) : Except FetchStop (Line × State) :=
  match st.fetch with
  | some (a, l) => if a.toNat = va then .ok (l, s) else s.readLine slot st va
  | none => s.readLine slot st va

/-- Lines read in execution order from a head for n heads (R207): the n-th head after `a` and the head after it, or why not. `fuel` bounds
the walk at one step a head. -/
def State.walkHeads (s : State) (slot : Nat) (st : Strand) : Nat → Nat → Except FetchStop (Nat × Nat × State)
  | 0, a => .ok (a, a, s)
  | n + 1, a =>
    match s.lineFor slot st (a / 64 * 64) with
    | .error t => .error t
    | .ok (l, s) =>
      match checkLine l with
      | .error _ => .error (.trap (trapOf causeIllegalLine 0 (a / 64 * 64)))
      | .ok _ =>
        let nx := (headAfter l (BitVec.ofNat 52 a)).toNat
        if n = 0 then .ok (a, nx, s) else State.walkHeads s slot st n nx

/-! ### Window frames (R190, R191, R205) -/

/-- A frame as the strand holds it now: g4 to g11. -/
def Strand.frame (st : Strand) : Frame :=
  BitVec.ofNat 512 (packElems 64 ((List.range 8).map fun i => (st.g.toList.getD (4 + i) 0).toNat))

/-- Register g(4 + i) of a frame. -/
def frameReg (f : Frame) (i : Nat) : Word := BitVec.ofNat 64 (elemOf f.toNat 64 i)

end Sys2Proof.Machine
end

