-- ==== Sys2Proof/Machine/Operands.lean ====
section
/-! DEFINITION. Every operand form: second sources and types of the scalar majors (spec/08_scalar_control.md R192 to R201), fat
pointers (spec/01_organisation.md R30 to R33, R200), the vector frame (spec/09_vector.md R213 to R217), and the addresses and
checks of the memory class (spec/10_memory_sync.md R237 to R240). -/

namespace Sys2Proof

open Machine

/-- The second source of the form with a 2-byte tail. -/
def TwoSrc2.second (o : TwoSrc2) (st : Strand) : Word := if o.imm then o.k8.signExtend 64 else st.getG o.c

/-- The registers that the form names. -/
def TwoSrc2.regs (o : TwoSrc2) : List (BitVec 4) := [o.a, o.b, o.c]

/-- The immediate of the form with a 4-byte tail. -/
def TwoSrc4.second (o : TwoSrc4) : Word := o.i24.signExtend 64

def TwoSrc4.regs (o : TwoSrc4) : List (BitVec 4) := [o.a, o.b]

/-- The type and operand fields of a vector instruction as numbers. -/
def VecOps.tn (o : VecOps) : Nat := o.t.toNat
def VecOps.rnd (o : VecOps) : Nat := match o.ext with | none => 0 | some e => e.rnd.toNat
def VecOps.sat (o : VecOps) : Bool := match o.ext with | none => false | some e => e.sat
def VecOps.vs3 (o : VecOps) : Nat := match o.ext with | none => 0 | some e => e.vs3.toNat
def VecOps.i20 (o : VecOps) : Int := match o.ext with | none => 0 | some e => signedOf 20 e.i20.toNat

/-- The scalar registers that a vector instruction names. -/
def VecOps.gregs (o : VecOps) : List (BitVec 4) := [o.a, o.b]

def MemOps.tn (o : MemOps) : Nat := o.t.toNat

/-- The sign-extended OFF14 as an offset in bytes: for a 4-bit T two elements lie in one byte (R238). -/
def MemOps.offset (o : MemOps) (byteI32 : Bool) : Int :=
  match byteI32, o.hi with
  | true, some i => signedOf 32 i.toNat
  | _, _ => signedOf 14 o.off.toNat * typeBits o.tn / 8

/-- The bits of I32, zero with the 4-byte tail. -/
def MemOps.hiBits (o : MemOps) (lo w : Nat) : Nat := match o.hi with | none => 0 | some i => fieldN i.toNat lo w

end Sys2Proof

namespace Sys2Proof.Machine

/-! ### Scalar operands -/

/-- The type code of the 2-bit TY field (R193). -/
def tyCode (ty : BitVec 2) : Nat :=
  match ty.toNat with
  | 0 => 6
  | 1 => 7
  | 2 => 4
  | _ => 5

/-- ext64(fit_int(v, t, sat), t) with the flags it raises (R192). -/
def intResult (v : Int) (t : Nat) (sat : Bool) : Word × FFlags := (ext64 (fitInt v t sat).1 t, (fitInt v t sat).2)

/-- A scalar result written to gA, its flags raised, and the instruction completed. -/
def State.setResult (s : State) (slot : Nat) (st : Strand) (a : BitVec 4) (r : Word × FFlags) : State :=
  s.retire slot ((st.setG a r.1).raise r.2)

/-- gA := v, with no flag. -/
def State.setWord (s : State) (slot : Nat) (st : Strand) (a : BitVec 4) (v : Word) : State := s.retire slot (st.setG a v)

/-- Shift amounts of R193: s = second[5:0] or second[4:0]. -/
def shiftAmount (y : Word) (t : Nat) : Nat := y.toNat % typeBits t

/-- The two-source results before fit_int (R193), from the source registers. -/
def opAdd (x y : Word) (t : Nat) : Int := intOf x.toNat t + intOf y.toNat t
def opSub (x y : Word) (t : Nat) : Int := intOf x.toNat t - intOf y.toNat t
def opMul (x y : Word) (t : Nat) : Int := intOf x.toNat t * intOf y.toNat t
def opAnd (x y : Word) (_ : Nat) : Int := (x &&& y).toInt
def opOr (x y : Word) (_ : Nat) : Int := (x ||| y).toInt
def opXor (x y : Word) (_ : Nat) : Int := (x ^^^ y).toInt
def opShl (x y : Word) (t : Nat) : Int := intOf x.toNat t * 2 ^ shiftAmount y t
def opShr (x y : Word) (t : Nat) : Int := ((x.toNat % 2 ^ typeBits t / 2 ^ shiftAmount y t : Nat) : Int)
def opSar (x y : Word) (t : Nat) : Int := signedOf (typeBits t) x.toNat / 2 ^ shiftAmount y t
def opRol (x y : Word) (t : Nat) : Int :=
  let w := typeBits t
  let v := x.toNat % 2 ^ w
  let k := shiftAmount y t
  ((v * 2 ^ k % 2 ^ w + v / 2 ^ (w - k) : Nat) : Int)

/-- The result of a two-source operation at a type. -/
def twoSource (op : Word → Word → Nat → Int) (x y : Word) (t : Nat) (sat : Bool) : Word × FFlags :=
  intResult (op x y t) t sat

/-- MULH, DIV and REM of R194, with DZ. -/
def opMulh (x y : Word) (t : Nat) : Word × FFlags :=
  intResult (intOf x.toNat t * intOf y.toNat t / 2 ^ typeBits t) t false

def opDiv (x y : Word) (t : Nat) : Word × FFlags :=
  let a := intOf x.toNat t
  let b := intOf y.toNat t
  if b = 0 then ((intResult (if typeSigned t then -1 else 2 ^ typeBits t - 1) t false).1, flagDZ)
  else intResult (Int.tdiv a b) t false

def opRem (x y : Word) (t : Nat) : Word × FFlags :=
  let a := intOf x.toNat t
  let b := intOf y.toNat t
  if b = 0 then ((intResult a t false).1, flagDZ) else intResult (Int.tmod a b) t false

/-- MIN and MAX of R195. -/
def opMin (x y : Word) (t : Nat) : Int := min (intOf x.toNat t) (intOf y.toNat t)
def opMax (x y : Word) (t : Nat) : Int := max (intOf x.toNat t) (intOf y.toNat t)

/-- Bit operations of R196 on the low w bits. -/
def leadingZeros (w x : Nat) : Nat := if x % 2 ^ w = 0 then w else w - 1 - (x % 2 ^ w).log2
def trailingZeros : Nat → Nat → Nat
  | 0, _ => 0
  | w + 1, x => if x % 2 = 1 then 0 else 1 + trailingZeros w (x / 2)
def popCount : Nat → Nat → Nat
  | 0, _ => 0
  | w + 1, x => x % 2 + popCount w (x / 2)
/-- The w digits of `2^k` bits each, in reverse order. -/
def reverseDigits (k : Nat) : Nat → Nat → Nat
  | 0, _ => 0
  | w + 1, x => x % 2 ^ k * 2 ^ (k * w) + reverseDigits k w (x / 2 ^ k)

/-- Types of CLZ to BREV, and of BSWAP. -/
def bitType (t : BitVec 4) : Bool := 4 ≤ t.toNat && t.toNat ≤ 7
def swapType (t : BitVec 4) : Bool := 2 ≤ t.toNat && t.toNat ≤ 7

/-! ### Fat pointers -/

def ptrFmt (p : Word) : Nat := p.toNat / 2 ^ 58
def ptrBlog (p : Word) : Nat := p.toNat / 2 ^ 54 % 16
def ptrVa (p : Word) : Nat := p.toNat % 2 ^ 52

/-- A format fault of R31. -/
def formatFault (p : Word) : Bool :=
  let f := ptrFmt p
  let b := ptrBlog p
  let group := isGroupFmt f
  !(f ≤ 16 || group) || (group && !(5 ≤ b && b ≤ 7)) || (!group && b != 0) || p.toNat / 2 ^ 52 % 4 != 0
    || (group && ptrVa p % 4 != 0)

/-- group_block_addr of R33, before the wrap. -/
def groupBlock (va fmt blog : Nat) (e : Int) : Int := va + e / 2 ^ blog * groupStride fmt blog

/-- The index of an element within its block. -/
def groupIndex (blog : Nat) (e : Int) : Nat := (e % 2 ^ blog).toNat

/-- Bits of an element of a raw or plain format. -/
def plainBits (fmt : Nat) : Nat := if fmt = 0 then 8 else typeBits (fmt - 1)

/-- The byte that holds element e of a tagged array (R200). -/
def elementAddr (va fmt blog : Nat) (e : Int) : Nat :=
  let a : Int :=
    if isGroupFmt fmt then groupBlock va fmt blog e + 4 + groupIndex blog e * groupElemBits fmt / 8
    else va + e * plainBits fmt / 8
  (a % 2 ^ 52).toNat

/-- eidx of R200 with the pointer's tag. -/
def eidx (p : Word) (e : Int) : Word :=
  BitVec.ofNat 64 (p.toNat / 2 ^ 52 * 2 ^ 52 + elementAddr (ptrVa p) (ptrFmt p) (ptrBlog p) e)

/-- ADDA of R198. -/
def opAdda (base off : Word) : Word :=
  BitVec.ofNat 64 (base.toNat / 2 ^ 52 * 2 ^ 52 + (((base.toNat % 2 ^ 52 : Nat) + off.toInt) % 2 ^ 52).toNat)

/-! ### The vector frame -/

/-- Element count of a type (R213). -/
def elemCount (t : Nat) : Nat := 4096 / typeBits t

/-- INT, FLT of R216. -/
def isInt (t : Nat) : Bool := decide (t < 8)
def isFlt (t : Nat) : Bool := 8 ≤ t && t ≤ 10

/-- k consecutive vector register numbers. -/
def groupRegs (base : BitVec 5) (k : Nat) : List (BitVec 5) := (List.range k).map fun i => base + BitVec.ofNat 5 i

/-- What the order 3 checks of a vector instruction ask for. -/
structure VecCheck where
  /-- The types accepted. -/
  types : Nat → Bool
  /-- SRC values accepted. -/
  src : List Nat
  /-- Registers read or written, each base with its group size (R214). -/
  groups : List (BitVec 5 × Nat)
  /-- RND 5 is not accepted (R230). -/
  noRsr : Bool
  /-- Any further condition. -/
  other : Bool

/-- An illegal operand (R214 to R216, R11): a type, SRC, rounding mode or register that the instruction does not accept. -/
def VecCheck.ok (c : VecCheck) (o : VecOps) (st : Strand) : Bool :=
  c.types o.tn && c.src.contains o.src.toNat && !(o.src == 2 && typeFloat o.tn) && decide (o.rnd < 6)
    && !(c.noRsr && o.rnd == 5)
    && (c.groups.all fun g => g.1.toNat % g.2 == 0 && decide (g.1.toNat + g.2 ≤ st.vcount)) && c.other

/-- The second operand's elements (R215). -/
def secondElems (s : State) (slot : Nat) (st : Strand) (o : VecOps) : Nat → Nat :=
  let w := typeBits o.tn
  match o.src.toNat with
  | 0 => elemOf (s.getV slot st o.vs2.toNat).toNat w
  | 1 => fun _ => (st.getG o.b).toNat % 2 ^ w
  | _ => fun _ => wrapInt w o.i20

/-- Results for elements 0 to n − 1 in ascending order: an inactive element keeps what `old` gives and takes no draw; flags are
collected, and under rsr one draw is taken for each active element (R217, R100). -/
def frameElems (mode : Nat) (active : Nat → Bool) (old : Nat → Nat) (f : Nat → Nat → Nat × FFlags) :
    Nat → Nat → Word → List Nat × FFlags × Word
  | 0, _, g => ([], 0, g)
  | n + 1, i, g =>
    if active i then
      let g' := if mode = 5 then genStep g else g
      let r := f i (if mode = 5 then genDraw g' else 0)
      let q := frameElems mode active old f n (i + 1) g'
      (r.1 :: q.1, r.2 ||| q.2.1, q.2.2)
    else
      let q := frameElems mode active old f n (i + 1) g
      (old i :: q.1, q.2.1, q.2.2)

/-- A register of n packed elements. -/
def packV (w : Nat) (l : List Nat) : VReg := BitVec.ofNat 4096 (packElems w l)

/-- Element i of a group of k registers from `base` (R214). -/
def groupElem (s : State) (slot : Nat) (st : Strand) (base k w i : Nat) : Nat :=
  elemOf (s.getV slot st (base + i % k)).toNat w (i / k)

/-- A group of k registers written with elements in group order. -/
def setGroup (s : State) (slot : Nat) (st : Strand) (base k w : Nat) (l : List Nat) : State :=
  (List.range k).foldl
    (fun s j => s.setV slot st (base + j) (packV w ((List.range (4096 / w)).map fun i => l.getD (i * k + j) 0))) s

/-- A `PHINT` record ends when one of the registers is written (R299). -/
def Strand.touchGroup (st : Strand) (base k : Nat) : Strand := (List.range k).foldl (fun st j => st.touchV (base + j)) st

/-- Runs a vector instruction: the registers it names, its order 3 checks, then `f`. -/
def State.runV (s : State) (o : VecOps) (c : VecCheck) (f : Nat → Strand → Out) : Out :=
  s.run o.gregs (c.groups.flatMap fun g => groupRegs g.1 g.2) fun slot st =>
    if c.ok o st then f slot st else .next (s.trapHead slot st causeIllegalOperand)

/-- The whole of an elementwise instruction with one destination register: `f i u` is the result of active element i. -/
def State.elementwise (s : State) (slot : Nat) (st : Strand) (o : VecOps) (f : Nat → Nat → Nat × FFlags) : Out :=
  let w := typeBits o.tn
  let m := st.getM o.m
  let old := (s.getV slot st o.vd.toNat).toNat
  let r := frameElems o.rnd m.getLsbD (elemOf old w) f (elemCount o.tn) 0 st.gen
  let st := ({ st with gen := r.2.2 }.raise r.2.1).touchV o.vd.toNat
  .next ((s.setV slot st o.vd.toNat (packV w r.1)).retire slot st)

/-! ### Addresses of the memory class -/

/-- OFF14 in bytes, for the instructions whose T is fixed at 0. -/
def effective (base : Word) (off : Int) : Nat := (((base.toNat % 2 ^ 52 : Nat) + off) % 2 ^ 52).toNat

/-- Rows of the table of R237: the types, orderings and leases that an instruction accepts. -/
structure MemCheck where
  types : Nat → Bool
  ords : List Nat
  /-- A lease class other than 0 is accepted, with a plain access only. -/
  lease : Bool
  /-- SCOPE may be nonzero with a plain access (the barrier instructions). -/
  anyScope : Bool := false

/-- The order 3 conditions of the memory class (R237, R238, R177, R11). -/
def MemCheck.ok (c : MemCheck) (o : MemOps) : Bool :=
  c.types o.tn && c.ords.contains o.ord.toNat && (o.lease == 0 || (c.lease && o.ord == 0)) && decide (o.scope.toNat < 6)
    && (c.anyScope || o.ord != 0 || o.scope == 0) && !(typeBits o.tn == 4 && o.off.toNat % 2 == 1)

end Sys2Proof.Machine
end

