-- ==== Sys2Proof/Machine/Jobs.lean ====
section
/-! DEFINITION. What the engines' commands do once they run: byte barriers (spec/11_engines.md R264, R265), footprints (R156,
R262), the products and stores of Ashlar (R272 to R275), the Sett array (R277 to R280), the pieces of the Hod (R282 to R288),
and how a command faults, stops and is retired (R263, R287, R302). -/

namespace Sys2Proof.Machine

/-! ### Scratchpad -/

/-- The physical address of a scratchpad offset. -/
def spAddr (agent off : Nat) : Nat := 8 * 2 ^ 48 + agent * 2 ^ 24 + off

/-- n bytes of a scratchpad, zero where lost, and whether any was lost. -/
def State.spRead (s : State) (agent off n : Nat) : Nat × Bool := s.readPa (spAddr agent off) 0 n

/-- n bytes written to a scratchpad as part of a piece, and whether the write was discarded. -/
def State.spWrite (s : State) (tenant agent off n v : Nat) : State × Bool := s.storePa tenant 0 (spAddr agent off) n v false

/-- n bytes written to a scratchpad by a landing, piece by piece, and whether a write was discarded: one that covers a piece clears its lost
state (R385, R387). `k` bounds the number of pieces. -/
def State.spLand (s : State) (tenant agent : Nat) : Nat → Nat → Nat → Nat → State × Bool
  | 0, _, _, _ => (s, false)
  | k + 1, off, n, v =>
    let len := min n (128 - off % 128)
    if n = 0 then (s, false)
    else
      let w := s.storePa tenant 0 (spAddr agent off) len (v % 2 ^ (8 * len)) (len == 128)
      let r := State.spLand w.1 tenant agent k (off + len) (n - len) (v / 2 ^ (8 * len))
      (r.1, w.2 || r.2)

/-! ### Byte barriers -/

/-- The fields of a byte barrier (R264). -/
def bbExpect (b : Nat) : Nat := fieldN b 0 32
def bbArrived (b : Nat) : Nat := fieldN b 32 32
def bbPhase (b : Nat) : Bool := fieldN b 64 1 == 1
def bbScope (b : Nat) : Nat := fieldN b 65 3

/-- The barrier at an offset; in a lost piece it reads as zero (R385). -/
def State.bbRead (s : State) (agent off : Nat) : Nat := (s.spRead agent off 16).1

/-- bb_land of R265 with n bytes. -/
def bbCount (b n : Nat) : Nat :=
  let arrived := bbArrived b + n
  let e := bbExpect b
  if e = 0 then setField b 32 32 arrived
  else setField (setField b 32 32 (arrived % e)) 64 1 ((bbPhase b).toNat + arrived / e)

/-- A landing of n bytes at a barrier, with conditions, FAULT and OOR raised; in a lost piece it is discarded (R385), and counted as any partial
write there (R387). -/
def State.bbLand (s : State) (tenant agent : Nat) (bb : Option Nat) (n : Nat) (cond : TileFlags) (fault oor : Bool) : State :=
  match bb with
  | none => s
  | some off =>
    if s.isLost (spAddr agent off) then s.count1 (memCounter tenant 0x10)
    else
      let b := s.bbRead agent off
      let b := b ||| cond.toNat * 2 ^ 69 ||| fault.toNat * 2 ^ 76 ||| oor.toNat * 2 ^ 77
      (s.spWrite tenant agent off 16 (if n = 0 then b else bbCount b n)).1

def lostFlag : TileFlags := 64
def nanFlag : TileFlags := 32

/-- A command or piece whose reads met lost data is counted in LOSTRD (R387). -/
def State.countLost (s : State) (tenant : Nat) (f : TileFlags) : State :=
  if f &&& lostFlag = 0 then s else s.count1 (memCounter tenant 0x08)

/-! ### The footprint unit -/

/-- The last byte of a region. -/
def Region.last (r : Region) : Nat := r.base + (r.rows - 1) * r.stride + r.len - 1

/-- Overlap as R56 judges it: one-dimensional regions exactly, two-dimensional regions of equal stride row by row, any other pair
on the enclosing intervals. -/
def Region.overlaps (x y : Region) : Bool :=
  let hull := decide (x.base ≤ y.last) && decide (y.base ≤ x.last)
  if x.rows ≠ 1 ∧ y.rows ≠ 1 ∧ x.stride = y.stride then
    hull && (List.range x.rows).any fun i => (List.range y.rows).any fun j =>
      decide (x.base + i * x.stride < y.base + j * y.stride + y.len)
        && decide (y.base + j * y.stride < x.base + i * x.stride + x.len)
  else hull

/-- Two lists of regions conflict: they overlap and one of the two writes (R56, R156). -/
def regionsConflict (a b : List Region) : Bool :=
  a.any fun x => b.any fun y => (x.write || y.write) && x.overlaps y

/-- Two commands' footprints conflict (R156). -/
def Cmd.conflicts (x y : Cmd) : Bool :=
  x.unitsRead &&& y.unitsWritten != 0 || x.unitsWritten &&& y.unitsRead != 0 || x.unitsWritten &&& y.unitsWritten != 0
    || regionsConflict x.regions y.regions

/-- The unit has released a command: no earlier uncompleted command conflicts with it, and its copy has landed (R156, R283). -/
def QuadState.released (q : QuadState) (c : Cmd) : Bool :=
  (q.cmds.all fun x => !(decide (x.seq < c.seq) && x.conflicts c))
    && (match c.after with | none => true | some n => q.cmds.all fun x => x.seq != n)

def QuadState.cmdOf (q : QuadState) (seq : Nat) : Option Cmd := q.cmds.find? fun c => c.seq == seq

def State.updCmd (s : State) (a seq : Nat) (f : Cmd → Cmd) : State :=
  let q := s.quadAt a
  s.setQuad a { q with cmds := q.cmds.map fun c => if c.seq = seq then f c else c }

/-- The command completes or is retired: the unit forgets it. -/
def State.dropCmd (s : State) (a seq : Nat) : State :=
  let q := s.quadAt a
  s.setQuad a { q with cmds := q.cmds.filter fun c => c.seq != seq }

/-- The unit of a bank in `unitsRead` and `unitsWritten`, and the Sett array. -/
def bankUnit (b : Nat) : BitVec 5 := 1#5 <<< b
def settUnit : BitVec 5 := 16

/-! ### Faults and retirement -/

/-- SOURCE of a fault record (R310). -/
def sourceOf : Option Engine → Nat
  | some .hod => 1
  | some .ashlar => 2
  | some .sett => 3
  | none => 1

/-- A translation, of a walk that would wait for a host's line by what memory holds of it (DEDUCED, log entry 34). -/
def State.leafOf (s : State) (x : Ctx) (va : Nat) (r : Right) : Except Trap TlbEntry :=
  match s.translate x va r with
  | .error t => if t.code = heldWalk then s.translateNow x va r else .error t
  | .ok e => .ok e

/-- The quad whose scratchpad holds the command's barrier: for `HSEND` the destination quad (R284), else its own; none on a pod
peer, and none where the tenant does not hold the quad whole (R25). -/
def State.bbAgent (s : State) (a : Nat) (c : Cmd) : Option Nat :=
  match c.op with
  | .hsend d =>
    match s.leafOf (cmdCtx a c) (fieldN d 64 52) .write with
    | .ok e =>
      match s.physical (cmdCtx a c) (leafPa e.level e.entry.toNat (fieldN d 64 52)) true with
      | some p => if isScratch p then some (p / 2 ^ 24 % 256) else none
      | none => none
    | .error _ => none
  | _ => some a

/-- A landing at the command's own barrier. -/
def State.bbLandOf (s : State) (a : Nat) (c : Cmd) (n : Nat) (cond : TileFlags) (fault oor : Bool) : State :=
  match s.bbAgent a c with
  | some b => s.bbLand c.tenant b c.bb n cond fault oor
  | none => s

/-- An engine fault or an overrun stop: the record is numbered and written, FAULT is set at the barrier, and the launch is marked
(R263, R287, R84, R298). Answers the record's JOB. -/
def State.cmdRecord (s : State) (a : Nat) (c : Cmd) (code acc vaddr f map : Nat) (stopped : Bool) (found : Nat) : Nat × State :=
  let s := s.updLaunch c.lid fun l => { l with faults := true }
  let s := s.bbLandOf a c 0 0 true false
  s.faultWrite c.tenant found
    { vaddr := vaddr, offset := f, map := map, comp := s.compOf c.lid, code := code, source := sourceOf c.engine
      stopped := stopped, acc := acc, aux := 0, ord := c.ordinal }

/-- An engine fault of a command that is retired with no effect (R263). -/
def State.retireFaulted (s : State) (a : Nat) (c : Cmd) (code : Nat) : State :=
  let s := (s.cmdRecord a c code 0 0 0 0 false s.time).2
  (s.count1 (execCounter c.tenant 0x28)).dropCmd a c.seq

/-- A bank flag set. -/
def State.raiseBank (s : State) (a bank : Nat) (f : TileFlags) : State :=
  let q := s.quadAt a
  s.setQuad a { q with bankFlags := q.bankFlags.set (bank % 4) (q.bankFlags[bank % 4] ||| f) }

/-- A bank's flags. -/
def State.bankFlagsOf (s : State) (a bank : Nat) : TileFlags := (s.quadAt a).bankFlags.toList.getD (bank % 4) 0

def State.setBankFlags (s : State) (a bank : Nat) (f : TileFlags) : State :=
  let q := s.quadAt a
  s.setQuad a { q with bankFlags := q.bankFlags.set (bank % 4) f }

/-- The bank that an Ashlar command writes, if any. -/
def CmdOp.bank : CmdOp → Option Nat
  | .mzero o => some (o.x.toNat % 4)
  | .mma o => some (o.x.toNat % 4)
  | .mld o => some (o.x.toNat % 4)
  | _ => none

/-- The follow-ons of a copy that is abandoned are discarded and count nothing (R283). -/
def State.orphan (s : State) (a : Nat) (copy : Cmd) : State :=
  (s.quadAt a).cmds.foldl (fun s c =>
    if c.after = some copy.seq then (s.count1 (execCounter c.tenant 0x40)).dropCmd a c.seq else s) s

/-- LOST, which a retired command leaves: of a Hod command in COND of its barrier, of an Ashlar command in its bank's flags
(R302, R375). -/
def State.leaveLost (s : State) (a : Nat) (c : Cmd) : State :=
  match c.engine with
  | some .hod => s.bbLandOf a c 0 lostFlag false false
  | some .ashlar => (match c.op.bank with | some b => s.raiseBank a b lostFlag | none => s)
  | _ => s

/-- A command is retired as by `FACK` with ABANDON 1 (R302, R375): a Hod command sets LOST in COND and orphans its follow-on; an Ashlar
command sets LOST in its bank. -/
def State.abandon (s : State) (a : Nat) (c : Cmd) : State :=
  let s := (s.updLaunch c.lid fun l => { l with abandoned := true }).leaveLost a c
  match c.engine with
  | some .hod => (s.orphan a c).dropCmd a c.seq
  | _ => s.dropCmd a c.seq

/-! ### Ashlar -/

/-- The grant of `sr.shape` (R268). -/
def shapeM (w : BitVec 32) : Nat := fieldN w.toNat 0 8 + 1
def shapeN (w : BitVec 32) : Nat := fieldN w.toNat 8 8 + 1
def shapeK (w : BitVec 32) : Nat := fieldN w.toNat 16 14
def shapeValid (w : BitVec 32) : Bool := w.getLsbD 31

/-- The placement register (R269). -/
def MatOp.row0 (o : MatOp) : Nat := fieldN o.place.toNat 0 7
def MatOp.col0 (o : MatOp) : Nat := fieldN o.place.toNat 8 7
def MatOp.em (o : MatOp) : Nat := if fieldN o.place.toNat 16 8 = 0 then shapeM o.shape else fieldN o.place.toNat 16 8
def MatOp.en (o : MatOp) : Nat := if fieldN o.place.toNat 24 8 = 0 then shapeN o.shape else fieldN o.place.toNat 24 8

/-- The fields of X16 and I32 (R271). -/
def MatOp.bank (o : MatOp) : Nat := fieldN o.x.toNat 0 2
def MatOp.asrc (o : MatOp) : Bool := o.x.getLsbD 2
def MatOp.abank (o : MatOp) : Nat := fieldN o.x.toNat 3 2
def MatOp.accum (o : MatOp) : Bool := o.x.getLsbD 5
def MatOp.fa (o : MatOp) : Nat := fieldN o.i.toNat 0 6
def MatOp.fb (o : MatOp) : Nat := fieldN o.i.toNat 6 6
def MatOp.blog (o : MatOp) : Nat := fieldN o.i.toNat 12 4
def MatOp.rnd (o : MatOp) : Nat := fieldN o.i.toNat 16 3
def MatOp.sat (o : MatOp) : Bool := o.i.getLsbD 19

/-- An element of an accumulator bank. -/
def accKey (a bank row col : Nat) : Nat := 2 ^ 16 * a + 2 ^ 14 * bank + 2 ^ 7 * row + col
def State.getAcc (s : State) (a bank row col : Nat) : Nat := (SMap.get (0 : BitVec 32) s.acc (accKey a bank row col)).toNat
def State.setAcc (s : State) (a bank row col v : Nat) : State :=
  { s with acc := s.acc.set 0 (accKey a bank row col) (BitVec.ofNat 32 v) }

/-- The placed region as pairs (i, j), row by row. -/
def MatOp.cells (o : MatOp) : List (Nat × Nat) := (List.range o.em).flatMap fun i => (List.range o.en).map fun j => (i, j)

/-- An operand's element: its bits, its block header, and whether any byte was lost (R272, R32, R33). -/
def State.matElem (s : State) (a fmt blog row k : Nat) : Nat × Nat × Bool :=
  if isGroupFmt fmt then
    let b := row + k / 2 ^ blog * groupStride fmt blog
    let w := groupElemBits fmt
    let i := k % 2 ^ blog
    let h := s.spRead a b 4
    let q := s.spRead a (b + 4 + i * w / 8) 1
    (q.1 / 2 ^ (i * w % 8) % 2 ^ w, h.1, h.2 || q.2)
  else
    let w := typeBits (fmt - 1)
    let q := s.spRead a (row + k * w / 8) ((w + 7) / 8)
    (q.1 / 2 ^ (k * w % 8) % 2 ^ w, 0, q.2)

/-- The value of an operand's element with the conditions that decoding raises (R94). -/
def matValue (fmt : Nat) (e : Nat × Nat × Bool) : Num × TileFlags :=
  let lost := if e.2.2 then lostFlag else 0
  if isGroupFmt fmt then
    let r := groupDecode e.2.1 e.1 fmt
    (r.1, (if r.2 then 1 else 0) ||| lost)
  else (decodeNum e.1 (fmt - 1), lost)

/-- The row count of A terms, one K-chunk (R103). -/
def chunkTerms (fa blog : Nat) : Nat :=
  if fa == 0x21 || fa == 0x22 then 2 ^ blog
  else if fa == 0x01 || fa == 0x02 || fa == 0x0A || fa == 0x0B then 2
  else 4

/-- The accumulator holds s32: an integer pairing (R103, R271). -/
def matInt (fa : Nat) : Bool := fa == 0x01 || fa == 0x02 || fa == 0x0F || fa == 0x10

/-- A's element (i, k) from scratchpad (R272). -/
def State.matA (s : State) (a : Nat) (o : MatOp) (i k : Nat) : Num × TileFlags :=
  matValue o.fa (s.matElem a o.fa o.blog (o.a.toNat + i * fieldN o.pitch.toNat 0 32) k)

/-- B's element (k, j). -/
def State.matB (s : State) (a : Nat) (o : MatOp) (j k : Nat) : Num × TileFlags :=
  matValue o.fb (s.matElem a o.fb o.blog (o.b.toNat + j * fieldN o.pitch.toNat 32 32) k)

/-- The content of a bank element, s32 or f32, converted to a type (R272, R275): R99 from one integer to another, R97 otherwise. -/
def convertBank (x : Nat) (int : Bool) (t mode : Nat) (sat : Bool) (u : Nat) : Nat × FFlags :=
  if int && !typeFloat t then fitInt (intOf x 4) t sat
  else roundTo (if int then Num.ofInt (intOf x 4) else decodeFloat x 8) t mode sat u

/-- Rows of A that a product uses: its placed rows, and in a joint product all M′, since a member of another placement may use more
(R273). -/
def MatOp.aRows (o : MatOp) : Nat := if o.joint then shapeM o.shape else o.em

/-- A taken from a bank with the down-conversion of R272, row by row, with the generator's draws (R100): the rows that the product
uses. -/
def State.matBankRows (s : State) (a : Nat) (o : MatOp) (gen : Word) : List (Num × TileFlags) :=
  let k := shapeK o.shape
  let a0 := fieldN o.a.toNat 0 7
  let b0 := fieldN o.a.toNat 8 7
  let t := o.fa - 1
  ((List.range (o.aRows * k)).foldl (fun (r : List (Num × TileFlags) × Word) n =>
    let g := if o.rnd = 5 then genStep r.2 else r.2
    let x := s.getAcc a o.abank (a0 + n / k) (b0 + n % k)
    let q := convertBank x (matInt o.fa) t o.rnd o.sat (if o.rnd = 5 then genDraw g else 0)
    ((decodeNum q.1 t, tileFlags q.2) :: r.1, g)) ([], gen)).1.reverse

/-- The A operand as a function of (i, k), with a fixed list for a bank source. -/
def State.matAOf (s : State) (a : Nat) (o : MatOp) (gen : Word) : Nat → Nat → Num × TileFlags :=
  if o.asrc then
    let l := (s.matBankRows a o gen).toArray
    fun i k => l.getD (i * shapeK o.shape + k) (.fin false 0 0, 0)
  else s.matA a o

/-- One chunk added to an accumulator element (R104 to R106). -/
def matChunk (int : Bool) (c : Nat) (terms : List ((Num × TileFlags) × (Num × TileFlags))) : Nat × TileFlags :=
  let extra := terms.foldl (fun f t => f ||| t.1.2 ||| t.2.2) (0 : TileFlags)
  if int then
    let sum := terms.foldl (fun n t => n + finAtOf t.1.1 * finAtOf t.2.1) (0 : Int)
    let r := intChunkAcc c sum
    (r.1, r.2 ||| extra)
  else
    let r := chunkAcc c (terms.map fun t => (t.1.1, t.2.1))
    (r.1, r.2 ||| extra)
where
  /-- An integer operand's value. -/
  finAtOf : Num → Int
    | .fin s m _ => if s then -m else m
    | _ => 0

/-- One element of the product over the first `chunks` chunks of each (A, B) pair of halves. -/
def matElement (int : Bool) (terms k chunks c0 : Nat) (halves : List ((Nat → Num × TileFlags) × (Nat → Num × TileFlags))) :
    Nat × TileFlags :=
  let per := k / terms
  (List.range (min chunks (per * halves.length))).foldl (fun (r : Nat × TileFlags) n =>
    match halves[n / per]? with
    | none => r
    | some h =>
      let q := matChunk int r.1 ((List.range terms).map fun x => (h.1 (n % per * terms + x), h.2 (n % per * terms + x)))
      (q.1, r.2 ||| q.2)) (c0, 0)

/-- A NaN pattern of f32. -/
def isNan32 (x : Nat) : Bool := (decodeFloat x 8).isNan

/-- The product of R272 or R273 over the first `chunks` chunks: the placed region is written and the bank flags are raised.
`halves` gives the operands for a row i and a column j. -/
def State.matProduct (s : State) (a tenant : Nat) (o : MatOp) (chunks : Nat)
    (halves : Nat → Nat → List ((Nat → Num × TileFlags) × (Nat → Num × TileFlags))) (extra : TileFlags) : State :=
  let int := matInt o.fa
  let s := if o.accum then s else s.setBankFlags a o.bank 0
  let start := s
  let r := o.cells.foldl (fun (r : State × TileFlags) ij =>
    let row := o.row0 + ij.1
    let col := o.col0 + ij.2
    let c0 := if o.accum then start.getAcc a o.bank row col else 0
    let q := matElement int (chunkTerms o.fa o.blog) (shapeK o.shape) chunks c0 (halves ij.1 ij.2)
    let nan := if !int && isNan32 q.1 then nanFlag else 0
    (r.1.setAcc a o.bank row col q.1, r.2 ||| q.2 ||| nan)) (s, extra)
  (r.1.raiseBank a o.bank r.2).countLost tenant r.2

/-- The conditions of the down-conversion of a bank source. -/
def State.bankExtra (s : State) (a : Nat) (o : MatOp) (gen : Word) : TileFlags :=
  if o.asrc then ((s.matBankRows a o gen).take (o.em * shapeK o.shape)).foldl (fun f x => f ||| x.2) 0 else 0

/-- `MMA` (R272) over its first `chunks` chunks. -/
def State.runMma (s : State) (a tenant : Nat) (o : MatOp) (gen : Word) (chunks : Nat) : State :=
  let fa := s.matAOf a o gen
  s.matProduct a tenant o chunks (fun i j => [(fa i, s.matB a o j)]) (s.bankExtra a o gen)

/-- All the chunks of a product. -/
def MatOp.allChunks (o : MatOp) : Nat := 2 * shapeK o.shape

/-- `MZERO` (R274). -/
def State.runMzero (s : State) (a : Nat) (o : MatOp) : State :=
  let s := o.cells.foldl (fun s ij => s.setAcc a o.bank (o.row0 + ij.1) (o.col0 + ij.2) 0) s
  s.setBankFlags a o.bank 0

/-- `MLD` (R274); lost bytes read as zeros and set LOST in the bank flags (R387). -/
def State.runMld (s : State) (a tenant : Nat) (o : MatOp) : State :=
  let r := o.cells.foldl (fun (r : State × TileFlags) ij =>
    let x := r.1.spRead a (o.a.toNat + ij.1 * fieldN o.pitch.toNat 0 32 + 4 * ij.2) 4
    (r.1.setAcc a o.bank (o.row0 + ij.1) (o.col0 + ij.2) x.1, if x.2 then lostFlag else r.2)) (s, 0)
  (r.1.raiseBank a o.bank r.2).countLost tenant r.2

/-- The fields of `MST` (R275). -/
def MatOp.sint (o : MatOp) : Bool := o.x.getLsbD 2
def MatOp.ft (o : MatOp) : Nat := fieldN o.x.toNat 3 4
def MatOp.srnd (o : MatOp) : Nat := fieldN o.x.toNat 7 3
def MatOp.ssat (o : MatOp) : Bool := o.x.getLsbD 10

/-- Bytes of a row that `MST` stores. -/
def MatOp.rowBytes (o : MatOp) : Nat := (o.en * typeBits o.ft + 7) / 8

/-- A NaN of a stored type. -/
def isNanPattern (x t : Nat) : Bool := typeFloat t && (decodeFloat x t).isNan

/-- One row of `MST`: its bytes, the conditions, and the generator. -/
def State.mstRow (s : State) (a : Nat) (o : MatOp) (i : Nat) (gen : Word) : Nat × TileFlags × Word :=
  let w := typeBits o.ft
  (List.range o.en).foldl (fun (r : Nat × TileFlags × Word) j =>
    let g := if o.srnd = 5 then genStep r.2.2 else r.2.2
    let x := s.getAcc a o.bank (o.row0 + i) (o.col0 + j)
    let q := convertBank x o.sint o.ft o.srnd o.ssat (if o.srnd = 5 then genDraw g else 0)
    let nan := if isNanPattern q.1 o.ft then nanFlag else 0
    (r.1 + q.1 % 2 ^ w * 2 ^ (w * j), r.2.1 ||| tileFlags q.2 ||| nan, g)) (0, 0, gen)

/-- `MST` (R275): the tile rows, then the status word; discarded bytes set LOST in it (R387). -/
def State.runMst (s : State) (a : Nat) (c : Cmd) (o : MatOp) : State :=
  let r := (List.range o.em).foldl (fun (r : State × TileFlags × Word) i =>
    let q := r.1.mstRow a o i r.2.2
    let w := r.1.spLand c.tenant a (o.rowBytes / 128 + 2) (o.a.toNat + i * fieldN o.pitch.toNat 0 32) o.rowBytes q.1
    (w.1, r.2.1 ||| q.2.1 ||| (if w.2 then lostFlag else 0), q.2.2)) (s, s.bankFlagsOf a o.bank, c.gen)
  let s := r.1.bbLand c.tenant a c.bb (o.em * o.rowBytes) 0 false false
  let s := (s.spWrite c.tenant a o.b.toNat 4 (r.2.1.toNat + 2 ^ 31)).1
  s.bbLand c.tenant a c.bb 4 0 false false

/-! ### MJOINT (R273) -/

/-- The bond member at a position, and the position of a member. -/
def memberAt (r c : Nat) : Nat := if r = 0 then c else 3 - c
def memberRow (k : Nat) : Nat := k / 2
def memberCol (k : Nat) : Nat := if k = 1 ∨ k = 2 then 1 else 0

/-- The quads of a bond as agents, in bond-sequence order. -/
def bondAgents (die bond : Nat) : List Nat := (bondQuads bond).map fun q => 48 * die + q

/-- A member's command of a launch's joint operation with a number. -/
def QuadState.jointCmd (q : QuadState) (lid no : Nat) : Option (Cmd × MatOp) :=
  q.cmds.findSome? fun c => match c.op with
    | .mma o => if o.joint && c.lid == lid && c.jointNo == no then some (c, o) else none
    | _ => none

/-- The four members' commands of a joint operation, in bond order, where all have issued it. -/
def State.jointMembers (s : State) (die bond lid no : Nat) : Option (List (Nat × Cmd × MatOp)) :=
  let l := (bondAgents die bond).filterMap fun a => ((s.quadAt a).jointCmd lid no).map fun x => (a, x)
  if l.length = 4 then some l else none

/-- The joint operations of a bond that all four members have issued, oldest first (R55). -/
def State.jointSets (s : State) (die bond : Nat) : List (List (Nat × Cmd × MatOp)) :=
  match bondAgents die bond with
  | [] => []
  | a :: _ => (s.quadAt a).cmds.filterMap fun c => match c.op with
    | .mma o => if o.joint then s.jointMembers die bond c.lid c.jointNo else none
    | _ => none

/-- The members agree (R273): on the grant, whatever was asked for. -/
def MatOp.agrees (x y : MatOp) : Bool :=
  shapeM x.shape == shapeM y.shape && shapeN x.shape == shapeN y.shape && shapeK x.shape == shapeK y.shape && x.asrc == y.asrc && x.accum == y.accum && x.i == y.i

/-- The joint operation of the four members, in bond order, over the first `chunks` chunks: each quarter is computed from the
operands as they were at the start. -/
def State.runJoint (s : State) (l : List (Nat × Cmd × MatOp)) (chunks : Nat) : State :=
  let fs := l.map fun x => (s.matAOf x.1 x.2.2 x.2.1.gen, s.matB x.1 x.2.2)
  let zero : (Nat → Nat → Num × TileFlags) := fun _ _ => (.fin false 0 0, 0)
  let opA (m : Nat) := (fs.getD m (zero, zero)).1
  let opB (m : Nat) := (fs.getD m (zero, zero)).2
  ((List.range 4).zip l).foldl (fun t kx =>
    let r := memberRow kx.1
    let c := memberCol kx.1
    let x := kx.2
    let m0 := memberAt r 0
    let m1 := memberAt r 1
    let n0 := memberAt 0 c
    let n1 := memberAt 1 c
    t.matProduct x.1 x.2.1.tenant x.2.2 chunks (fun i j => [(opA m0 i, opB n0 j), (opA m1 i, opB n1 j)])
      (s.bankExtra x.1 x.2.2 x.2.1.gen)) s

/-! ### Sett (R277 to R280) -/

def settKey (a pos : Nat) : Nat := 2 ^ 14 * a + pos
def State.getCell (s : State) (a pos : Nat) : SettCell := SMap.get SettCell.reset s.sett (settKey a pos)

/-- A quad's array as row-major cells. -/
def State.settArray (s : State) (a : Nat) : Array SettCell :=
  (s.sett.foldl (fun (r : Array SettCell) e =>
    if e.1 / 2 ^ 14 = a then r.setIfInBounds (e.1 % 2 ^ 14) e.2 else r) (Array.replicate 16384 SettCell.reset))

/-- A quad's array replaced. -/
def State.setSettArray (s : State) (a : Nat) (l : Array SettCell) : State :=
  let mine := ((List.range 16384).map fun p => (settKey a p, l.getD p SettCell.reset)).filter fun e => e.2 != SettCell.reset
  { s with sett := (s.sett.filter fun e => decide (e.1 / 2 ^ 14 < a)) ++ mine
      ++ s.sett.filter fun e => decide (a < e.1 / 2 ^ 14) }

/-- The key of a cell, as a sort code (R108, R109). -/
def cellCode (st : SettState) (c : SettCell) : Nat := sortCode (c.bits.toNat / 2 ^ (64 - typeBits st.t)) st.t st.desc st.canz

/-- Cell x follows cell y in the order of R109. -/
def cellFollows (st : SettState) (x y : SettCell) : Bool :=
  if x.pad != y.pad then x.pad
  else if cellCode st x ≠ cellCode st y then decide (cellCode st y < cellCode st x)
  else decide (y.pos < x.pos)

/-- The cell of line `line` at place j in phase p (R279). -/
def phaseCell (p line j : Nat) : Nat := if p % 2 = 0 then 128 * line + j else 128 * j + line

/-- One compare-exchange step of a phase (SETT_STEP, R279). -/
def settStep (st : SettState) (p step : Nat) (l : Array SettCell) : Array SettCell :=
  (List.range 128).foldl (fun l line =>
    (List.range 127).foldl (fun l j =>
      if j % 2 ≠ step % 2 then l
      else
        let x := phaseCell p line j
        let y := phaseCell p line (j + 1)
        let cx := l.getD x SettCell.reset
        let cy := l.getD y SettCell.reset
        -- odd rows of a row phase ascend to the left
        let swap := if p % 2 = 0 ∧ line % 2 = 1 then cellFollows st cy cx else cellFollows st cx cy
        if swap then (l.setIfInBounds x cy).setIfInBounds y cx else l) l) l

/-- n steps from the state's PHASE and STEP, to the end of phase `stop` at the latest. -/
def settSteps (stop : Nat) : Nat → SettState → Array SettCell → SettState × Array SettCell
  | 0, st, l => (st, l)
  | n + 1, st, l =>
    if stop ≤ st.phase then (st, l)
    else
      let l := settStep st st.phase st.step l
      let st := if st.step = 127 then { st with phase := st.phase + 1, step := 0 } else { st with step := st.step + 1 }
      settSteps stop n st l

/-- The steps that a sort still has to run, when its phases end before phase `stop`. -/
def stepsLeft (st : SettState) (stop : Nat) : Nat := (stop - st.phase) * 128 - st.step

/-- Sorted position t on the snake (R279). -/
def snakeCell (t : Nat) : Nat := 128 * (t / 128) + (if t / 128 % 2 = 0 then t % 128 else 127 - t % 128)

/-- `SSTAT`'s word (R277). -/
def SettState.word (st : SettState) (busy : Bool) : Nat :=
  st.phase + st.step * 2 ^ 4 + st.loaded.toNat * 2 ^ 11 + st.t * 2 ^ 12 + st.desc.toNat * 2 ^ 16 + st.canz.toNat * 2 ^ 17
    + st.latched.toNat * 2 ^ 18 + st.count * 2 ^ 19 + busy.toNat * 2 ^ 34

/-- `SLOAD` (R278): lost bytes make zero cells and set the lost latch (R387). -/
def State.runSload (s : State) (a tenant src count : Nat) : State :=
  let r := (List.range 16384).foldl (fun (r : Array SettCell × Bool) t =>
    if t < count then
      let x := s.spRead a (src + 8 * t) 8
      (r.1.push { pad := false, bits := BitVec.ofNat 64 x.1, pos := t }, r.2 || x.2)
    else (r.1.push { pad := true, bits := 0, pos := t }, r.2)) (#[], false)
  let s := s.setSettArray a r.1
  let q := s.quadAt a
  let s := s.countLost tenant (if r.2 then lostFlag else 0)
  s.setQuad a { q with
    sett := { q.sett with loaded := true, latched := false, phase := 0, step := 0, count := count, lostLatch := r.2 } }

/-- The cells that `SSTORE` stores, in its order (R280). -/
def State.storedCells (s : State) (a count : Nat) (raw : Bool) : List SettCell :=
  let l := s.settArray a
  (List.range count).map fun t => l.getD (if raw then t else snakeCell t) SettCell.reset

/-- `SSTORE` (R280): cells as loaded, and positions where asked for. -/
def State.runSstore (s : State) (a : Nat) (c : Cmd) (dst count pos : Nat) (hasPos raw : Bool) : State :=
  let loaded := (s.quadAt a).sett.loaded
  let l := s.storedCells a count raw
  let empty (x : SettCell) : Bool := x.pad || !loaded
  let w := s.spLand c.tenant a (8 * count / 128 + 2) dst (8 * count) (packElems 64 (l.map fun x => if empty x then 0 else x.bits.toNat))
  let p := if hasPos then
      w.1.spLand c.tenant a (2 * count / 128 + 2) pos (2 * count) (packElems 16 (l.map fun x => if empty x then 0xFFFF else x.pos))
    else (w.1, false)
  let n := 8 * count + if hasPos then 2 * count else 0
  let lost := w.2 || p.2 || (s.quadAt a).sett.lostLatch
  p.1.bbLand c.tenant a c.bb n (if lost then lostFlag else 0) false false

/-! ### Hod (R281 to R288) -/

/-- The fields of a copy descriptor (R281, R285). -/
def dscSrc (d : Nat) : Word := BitVec.ofNat 64 (fieldN d 0 64)
def dscDst (d : Nat) : Nat := fieldN d 64 52
def dscXn (d : Nat) : Nat := fieldN d 128 32
def dscYn (d : Nat) : Nat := fieldN d 160 16
def dscZn (d : Nat) : Nat := fieldN d 176 16
def dscSy (d : Nat) : Int := signedOf 32 (fieldN d 192 32)
def dscSz (d : Nat) : Int := signedOf 32 (fieldN d 224 32)
def dscDy (d : Nat) : Int := signedOf 32 (fieldN d 256 32)
def dscDz (d : Nat) : Int := signedOf 32 (fieldN d 288 32)
def dscDt (d : Nat) : Nat := fieldN d 320 4
def dscDec (d : Nat) : Bool := fieldN d 324 1 == 1
def dscLease (d : Nat) : Nat := fieldN d 325 3
def dscIdx (d : Nat) : Nat := fieldN d 192 52
def dscBound (d : Nat) : Nat := fieldN d 256 64

/-- Whether the command gathers. -/
def CmdOp.gathers : CmdOp → Bool
  | .hgath _ => true
  | _ => false

/-- The descriptor of a Hod command. -/
def CmdOp.desc : CmdOp → Nat
  | .hcopy d => d
  | .hsend d => d
  | .hgath d => d
  | _ => 0

/-- Destination bytes of a row. -/
def rowLen (gather : Bool) (d : Nat) : Nat := if !gather && dscDec d then dscXn d * typeBits (dscDt d) / 8 else dscXn d

/-- Rows of the destination, planes included. -/
def rowCount (gather : Bool) (d : Nat) : Nat := if gather then dscYn d else dscYn d * dscZn d

/-- The destination address of row r. -/
def rowDst (gather : Bool) (d r : Nat) : Nat :=
  if gather then (dscDst d + r * dscXn d) % 2 ^ 52
  else (((dscDst d : Int) + (r / dscYn d : Nat) * dscDz d + (r % dscYn d : Nat) * dscDy d) % 2 ^ 52).toNat

/-- The source address of row r of a copy. -/
def rowSrc (d r : Nat) : Nat :=
  (((ptrVa (dscSrc d) : Int) + (r / dscYn d : Nat) * dscSz d + (r % dscYn d : Nat) * dscSy d) % 2 ^ 52).toNat

/-- A piece of R388: its row, its first byte in the row, its bytes, and its linear index. -/
structure HodPiece where
  row : Nat
  first : Nat
  len : Nat
  linear : Nat
  deriving DecidableEq, Repr

/-- Piece k of a row of n bytes at a destination: its first byte and its length. -/
def pieceInRow (dst n k : Nat) : Nat × Nat :=
  let lo := if k = 0 then 0 else 128 * k - dst % 128
  let hi := min n (128 * (k + 1) - dst % 128)
  (lo, hi - lo)

/-- Pieces of a row. -/
def piecesOfRow (dst n : Nat) : Nat := (dst % 128 + n + 127) / 128

/-- Piece p, counted from row `row` with `left` rows to go; none past the last. -/
def findPiece (gather : Bool) (d : Nat) : Nat → Nat → Nat → Option HodPiece
  | 0, _, _ => none
  | left + 1, row, p =>
    let dst := rowDst gather d row
    let n := rowLen gather d
    let k := piecesOfRow dst n
    if p < k then
      let x := pieceInRow dst n p
      some { row := row, first := x.1, len := x.2, linear := row * n + x.1 }
    else findPiece gather d left (row + 1) (p - k)

def CmdOp.piece (op : CmdOp) (p : Nat) : Option HodPiece :=
  findPiece op.gathers op.desc (rowCount op.gathers op.desc) 0 p

/-- A fault of a piece: its code, access kind and address. -/
abbrev PieceFault := Nat × Nat × Nat

/-- Where a Hod byte lies: an address that no party's access may have is a physical-address fault (R25 to R28); of the others a scratchpad
byte outside `quad`, a control window or the mailbox is a forbidden window (R282, R284). -/
def State.hodAddr (s : State) (a : Nat) (c : Cmd) (va : Nat) (write : Bool) (quad : Option Nat) : Except PieceFault Nat :=
  let x := cmdCtx a c
  let acc := if write then accWrite else accRead
  match s.translate x (va % 2 ^ 52) (if write then .write else .read) with
  | .error t => .error (t.code, t.acc, t.tval)
  | .ok e =>
    let pa := leafPa e.level e.entry.toNat (va % 2 ^ 52)
    match if isScratch pa then s.scratchTarget x pa else some pa with
    | none => .error (0x08, acc, va % 2 ^ 52)
    | some p =>
      let peerQuad := isPeer p && p / 2 ^ 40 % 4 == 1
      let wrong : Bool :=
        isControl p || (match quad with
          | none => (isScratch p && p / 2 ^ 24 % 2 ^ 24 != a) || peerQuad
          | some k => !((isScratch p || peerQuad) && p / 2 ^ 24 == k))
      if !s.decodes p then .error (0x08, acc, va % 2 ^ 52)
      else if wrong then .error (0x22, acc, va % 2 ^ 52)
      else
        match s.physical x pa write with
        | some p => .ok p
        | none => .error (if quad.isSome && isScratch p && s.dieUp (p / 2 ^ 24 % 256 / 48) then 0x22 else 0x08, acc, va % 2 ^ 52)

/-- A source byte, and whether it was lost. -/
def State.hodByte (s : State) (a : Nat) (c : Cmd) (va : Nat) : Except PieceFault (Byte × Bool) :=
  let own := match c.op with | .hsend _ => some (spAddr a 0 / 2 ^ 24) | _ => none
  match s.hodAddr a c va false own with
  | .error e => .error e
  | .ok p => .ok (s.readByte p (s.keyOfAsid c.asid))

/-- n source bytes in ascending order, little-endian, or the first fault. -/
def State.hodBytes (s : State) (a : Nat) (c : Cmd) (va : Nat) : Nat → Except PieceFault (Nat × Bool)
  | 0 => .ok (0, false)
  | n + 1 =>
    match s.hodByte a c va with
    | .error e => .error e
    | .ok b =>
      match State.hodBytes s a c (va + 1) n with
      | .error e => .error e
      | .ok r => .ok (b.1.toNat + 256 * r.1, b.2 || r.2)

/-- Element e of the array that the descriptor's pointer describes, at a row's base: its value, and the conditions (R244). -/
def State.hodElem (s : State) (a : Nat) (c : Cmd) (base : Nat) (e : Nat) : Except PieceFault (Num × TileFlags) :=
  let p := dscSrc c.op.desc
  let fmt := ptrFmt p
  let blog := ptrBlog p
  if isGroupFmt fmt then
    let b := base + e / 2 ^ blog * groupStride fmt blog
    let w := groupElemBits fmt
    let i := e % 2 ^ blog
    match s.hodBytes a c b 4, s.hodBytes a c (b + 4 + i * w / 8) 1 with
    | .error x, _ => .error x
    | _, .error x => .error x
    | .ok h, .ok q =>
      let r := groupDecode h.1 (q.1 / 2 ^ (i * w % 8) % 2 ^ w) fmt
      .ok (r.1, (if r.2 then 1 else 0) ||| (if h.2 || q.2 then lostFlag else 0))
  else
    let w := plainBits fmt
    match s.hodBytes a c (base + e * w / 8) ((w + 7) / 8) with
    | .error x => .error x
    | .ok q => .ok (decodeNum (q.1 / 2 ^ (e * w % 8) % 2 ^ w) (fmt - 1), if q.2 then lostFlag else 0)

/-- Elements e to e + n − 1 decoded to DT, packed, with the conditions. -/
def State.hodElems (s : State) (a : Nat) (c : Cmd) (base dt : Nat) : Nat → Nat → Except PieceFault (Nat × TileFlags)
  | 0, _ => .ok (0, 0)
  | n + 1, e =>
    match s.hodElem a c base e with
    | .error x => .error x
    | .ok v =>
      let q := roundTo v.1 dt 0 false 0
      match State.hodElems s a c base dt n (e + 1) with
      | .error x => .error x
      | .ok r =>
        .ok (q.1 + 2 ^ typeBits dt * r.1, v.2 ||| tileFlags q.2 ||| (if isNanPattern q.1 dt then nanFlag else 0) ||| r.2)

/-- What a piece will write: its bytes, conditions, OOR, and the index it read, if any. -/
structure PieceData where
  val : Nat
  cond : TileFlags
  oor : Bool
  index : Option Nat

/-- The source side of a piece (R282, R284, R285). -/
def State.pieceData (s : State) (a : Nat) (c : Cmd) (p : HodPiece) : Except PieceFault PieceData :=
  let d := c.op.desc
  match c.op with
  | .hgath _ =>
    let size := typeBits (dscDt d) / 8
    let idx : Except PieceFault (Nat × Bool) :=
      match SMap.find c.indices p.row with
      | some j => .ok (j, false)
      | none => s.hodBytes a c (dscIdx d + p.row * size) size
    match idx with
    | .error x => .error x
    | .ok (j, gone) =>
      if dscBound d ≤ j then .ok { val := 0, cond := if gone then lostFlag else 0, oor := true, index := some j }
      else
        match s.hodBytes a c (ptrVa (dscSrc d) + j * dscXn d + p.first) p.len with
        | .error x => .error x
        | .ok v => .ok { val := v.1, cond := if gone || v.2 then lostFlag else 0, oor := false, index := some j }
  | _ =>
    if dscDec d then
      let w := typeBits (dscDt d) / 8
      -- elements may straddle two pieces when the destination is not a multiple of their width
      let e0 := p.first / w
      let e1 := (p.first + p.len + w - 1) / w
      match s.hodElems a c (rowSrc d p.row) (dscDt d) (e1 - e0) e0 with
      | .error x => .error x
      | .ok v => .ok { val := v.1 / 2 ^ (8 * (p.first - e0 * w)) % 2 ^ (8 * p.len), cond := v.2, oor := false, index := none }
    else
      match s.hodBytes a c (rowSrc d p.row + p.first) p.len with
      | .error x => .error x
      | .ok v => .ok { val := v.1, cond := if v.2 then lostFlag else 0, oor := false, index := none }

/-- The destination quad of an `HSEND`: PA[51:24] of its first destination byte (R284). -/
def State.sendTarget (s : State) (a : Nat) (c : Cmd) : Except PieceFault Nat :=
  let x := cmdCtx a c
  match s.translate x (dscDst c.op.desc) .write with
  | .error t => .error (t.code, t.acc, t.tval)
  | .ok e =>
    let pa := leafPa e.level e.entry.toNat (dscDst c.op.desc)
    match if isScratch pa then s.scratchTarget x pa else some pa with
    | none => .error (0x08, accWrite, dscDst c.op.desc)
    | some p =>
      let peerQuad := isPeer p && p / 2 ^ 40 % 4 == 1
      if !s.decodes p then .error (0x08, accWrite, dscDst c.op.desc)
      else if (isScratch p && p / 2 ^ 24 % 2 ^ 24 != a) || peerQuad then .ok (p / 2 ^ 24)
      else .error (0x22, accWrite, dscDst c.op.desc)

/-- The destination of a piece: the physical address of its first byte. A piece crosses no 128-byte boundary, so its bytes lie in
one page. -/
def State.pieceDst (s : State) (a : Nat) (c : Cmd) (p : HodPiece) : Except PieceFault Nat :=
  let va := rowDst c.op.gathers c.op.desc p.row + p.first
  match c.op with
  | .hsend _ =>
    match s.sendTarget a c with
    | .error x => .error x
    | .ok k => s.hodAddr a c va true (some k)
  | _ => s.hodAddr a c va true none

/-- Source bytes that a piece reads, as (address, length): those of its elements with DEC 1, headers included; for a gather its index,
unless it has been read, and its element. -/
def sourceSpans (c : Cmd) (p : HodPiece) (index : Option Nat) : List (Nat × Nat) :=
  let d := c.op.desc
  match c.op with
  | .hgath _ =>
    let size := typeBits (dscDt d) / 8
    (if (SMap.find c.indices p.row).isSome then [] else [(dscIdx d + p.row * size, size)])
      ++ (match index with
        | some j => if dscBound d ≤ j then [] else [(ptrVa (dscSrc d) + j * dscXn d + p.first, p.len)]
        | none => [])
  | .hcopy _ =>
    if dscDec d then
      let w := typeBits (dscDt d) / 8
      let fmt := ptrFmt (dscSrc d)
      let blog := ptrBlog (dscSrc d)
      let base := rowSrc d p.row
      ((List.range ((p.first + p.len + w - 1) / w - p.first / w)).map (p.first / w + ·)).flatMap fun e =>
        if isGroupFmt fmt then
          let b := base + e / 2 ^ blog * groupStride fmt blog
          [(b, 4), (b + 4 + e % 2 ^ blog * groupElemBits fmt / 8, 1)]
        else [(base + e * plainBits fmt / 8, (plainBits fmt + 7) / 8)]
    else [(rowSrc d p.row + p.first, p.len)]
  | _ => []

/-- The lines that a piece reads, and that of a table entry for which a walk of its waits. -/
def State.sourceLines (s : State) (a : Nat) (c : Cmd) (p : HodPiece) (index : Option Nat) : List Nat :=
  ((sourceSpans c p index).flatMap fun x =>
    let last := x.1 + x.2 - 1
    ((List.range (last / 128 + 1 - x.1 / 128)).map fun i => max x.1 ((x.1 / 128 + i) * 128)).filterMap fun v =>
      match s.hodAddr a c v false none with
      | .ok q => some (lineOf q)
      | .error f => if f.1 = heldWalk then some (lineOf f.2.2) else none).dedup

/-- Lines that a piece reads and writes are there: the Hod's accesses are those of its quad's agent, whose L2 must hold the lines as for a
load or store (R282); a whole lost line is written at the home. -/
def State.pieceLines (s : State) (a : Nat) (c : Cmd) (p : HodPiece) (pa : Nat) (index : Option Nat) : Bool :=
  let key := s.keyOfAsid c.asid
  ((s.sourceLines a c p index).all fun l => s.lineReady a (128 * l) c.tenant key false) && s.lineReady a pa c.tenant key true
    && !(p.len == 128 && isDevice pa && s.isLost pa && !s.homeLost pa && decide (s.time < s.horizonOf (lineOf pa)))

/-- The lines that a piece lacks are asked for, its source with the descriptor's lease class (R281). -/
def State.askPiece (s : State) (a : Nat) (c : Cmd) (p : HodPiece) (pa : Nat) (index : Option Nat) : State :=
  let key := s.keyOfAsid c.asid
  let s := (s.sourceLines a c p index).foldl (fun s l =>
    let k : ReqKind := if dscLease c.op.desc ≠ 0 ∧ isDevice (128 * l) then .getL (BitVec.ofNat 3 (dscLease c.op.desc)) else .getS
    s.askLine (4 * a) a c.tenant key (128 * l) k) s
  s.askLine (4 * a) a c.tenant key pa (.getO (p.len == 128))

/-- A piece lands at its destination: written as the quad's agent does, and counted at the barrier (R265, R387, R388)
(DESIGN CHOICE, log entry 31). -/
def State.landPiece (s : State) (a : Nat) (c : Cmd) (p : HodPiece) (pa : Nat) (d : PieceData) : State :=
  let s := (s.sourceLines a c p d.index).foldl (fun s l => s.touchL2 a l c.tenant false) s
  let s := s.touchL2 a (lineOf pa) c.tenant true
  let w := s.storeAt c.tenant (s.keyOfAsid c.asid) pa p.len d.val (p.len == 128)
  let s := ((s.sourceLines a c p d.index).foldl (fun s l => s.useAnswer a l false) w.1).useAnswer a (lineOf pa) true
  let s := match d.index with
    | some j => s.updCmd a c.seq fun x => { x with indices := x.indices.put p.row j }
    | none => s
  let s :=
    if s.keyCleared (s.keyOfAsid c.asid) then
      (if d.cond &&& lostFlag = 0 then s else s.count1 (memCounter c.tenant 0x28))
    else s.countLost c.tenant d.cond
  s.bbLandOf a c p.len (d.cond ||| (if w.2 then lostFlag else 0)) false d.oor

/-- The lowest piece that has not landed. -/
def Cmd.low (c : Cmd) : Nat :=
  let x := c.flight.foldl min c.next
  match c.failed with
  | some f => min x f.1
  | none => x

/-- Pieces from `next` up to p issue, up to 64 in flight (R286, R287); those that the map marks are skipped. -/
def Cmd.issueTo (c : Cmd) (p : Nat) : Cmd :=
  if p < c.next then c
  else
    { c with
      next := p + 1
      flight := c.flight ++ ((List.range (p + 1 - c.next)).map (c.next + ·)).filter fun n => !c.landed.contains n }

/-- Piece p may complete now: it is in flight, or it and those before it issue within the 64. -/
def Cmd.mayLand (c : Cmd) (p : Nat) : Bool :=
  c.flight.contains p || (c.failed.isNone && decide (c.next ≤ p) && !c.landed.contains p && decide (p < c.low + 64))

/-- The map of R287: bit i says that the (i + 1)-th piece after the one at f landed. -/
def landedMap (c : Cmd) (f : Nat) : Nat := ((List.range 64).filter fun i => c.landed.contains (f + 1 + i)).foldl (fun m i => m + 2 ^ i) 0

/-- Pieces that have landed already are not issued again: `next` passes them. -/
def Cmd.skipLanded (c : Cmd) : Nat → Cmd
  | 0 => c
  | n + 1 => if c.landed.contains c.next then Cmd.skipLanded { c with next := c.next + 1 } n else c

/-- Landed pieces below the lowest missing one are forgotten. -/
def Cmd.prune (c : Cmd) : Cmd :=
  let c := c.skipLanded c.landed.length
  { c with landed := c.landed.filter fun n => decide (c.low ≤ n) }

/-- A Hod command whose pieces in flight have all ended after a failure or an overrun stops (R287, R84). -/
def State.settleHod (s : State) (a : Nat) (c : Cmd) : State :=
  match c.failed with
  | some (n, code, acc, va) =>
    if c.flight.isEmpty then
      let f := match c.op.piece n with | some p => p.linear | none => rowCount c.op.gathers c.op.desc * rowLen c.op.gathers c.op.desc
      let m := landedMap c n
      let r := s.cmdRecord a c code acc va f m true c.foundAt
      let s := if code = 0x23 then r.2 else r.2.count1 (execCounter c.tenant 0x28)
      let s := s.count1 (execCounter c.tenant 0x30)
      s.updCmd a c.seq fun _ =>
        { c with state := .stopped r.1 f (BitVec.ofNat 64 m), next := n, failed := none, flight := [] }
    else s.updCmd a c.seq fun _ => c
  | none =>
    if c.flight.isEmpty && (c.op.piece c.next).isNone then s.dropCmd a c.seq else s.updCmd a c.seq fun _ => c

/-- `FACK` lets a stopped Hod command go on from f once the Hod starts it again (R263, R287, R302). -/
def Cmd.continueHod (c : Cmd) : Cmd := { c with state := .queued }

/-! ### Stops of R84 and R375 -/

/-- A free number of K-chunks that an Ashlar command has added when it stops (R84: which chunk is timing; DESIGN CHOICE, log entry 31). -/
def State.freeChunks (s : State) (a : Nat) (o : MatOp) (halves : Nat) : Nat :=
  (Config.freeWord (2 ^ 20 * s.free + 2 ^ 12 * a + 4095)).toNat % (halves * (shapeK o.shape / chunkTerms o.fa o.blog) + 1)

/-- The chunks that a running Ashlar command had added stay in its bank. An `MZERO`, `MLD` or `MST`, which has no chunks, has then written
nothing (DESIGN CHOICE, log entry 31). -/
def State.partialAshlar (s : State) (a : Nat) (c : Cmd) : State :=
  match c.op, c.state with
  | .mma o, .running =>
    if o.joint then
      -- the joint operation runs at all four members; each keeps the chunks it has added
      let die := a / 48
      match s.jointMembers die (bondOf (a % 48)) c.lid c.jointNo with
      | some l =>
        let t := s.runJoint l (s.freeChunks a o 2)
        -- only this member's quarter is taken over
        let mine (k : Nat) : Bool := k / 2 ^ 16 == a
        { s with
          acc := (s.acc.filter fun e => decide (e.1 / 2 ^ 16 < a)) ++ (t.acc.filter fun e => mine e.1)
            ++ s.acc.filter fun e => decide (a < e.1 / 2 ^ 16)
          quads := (s.setQuad a { s.quadAt a with bankFlags := (t.quadAt a).bankFlags }).quads }
      | none => s
    else s.runMma a c.tenant o c.gen (s.freeChunks a o 1)
  | _, _ => s

/-- An Ashlar command stopped under R84: its chunks stay, and it waits for `FACK`. -/
def State.stopAshlar (s : State) (a : Nat) (c : Cmd) (code : Nat) : State :=
  let s := s.partialAshlar a c
  let r := s.cmdRecord a c code 0 0 0 0 true s.time
  r.2.updCmd a c.seq fun x => { x with state := .stopped r.1 0 0 }

/-- The steps that a running sort has taken by now, one a cycle, are made (R279, R367). -/
def State.advanceSort (s : State) (a : Nat) (c : Cmd) : State :=
  match c.op, c.state with
  | .ssort _ _ _ _, .running =>
    let q := s.quadAt a
    let r := settSteps (min 15 c.phases) (min (s.time - c.started) (stepsLeft q.sett (min 15 c.phases))) q.sett (s.settArray a)
    ((s.setSettArray a r.2).setQuad a { q with sett := r.1 }).updCmd a c.seq fun x => { x with started := s.time }
  | _, _ => s

/-- FAULT at the barrier and FAULTS of the launch, which the stop of an engine's command sets (R264, R287, R298). -/
def State.stopFlags (s : State) (a : Nat) (c : Cmd) : State :=
  if c.engine.isNone then s else (s.updLaunch c.lid fun l => { l with faults := true }).bbLandOf a c 0 0 true false

/-- A command of a launch that ends is stopped and retired, with no fault record (R375; DEDUCED, log entry 31). -/
def State.killCmd (s : State) (a : Nat) (c : Cmd) : State :=
  let s := match c.engine with
    | some .ashlar => s.partialAshlar a c
    | some .sett => s.advanceSort a c
    | _ => s
  (s.stopFlags a c).abandon a c

/-- The commands of a launch, with their quads, oldest first. -/
def State.cmdsOf (s : State) (lid : Nat) : List (Nat × Cmd) :=
  s.quads.flatMap fun e => (e.2.cmds.filter fun c => c.lid == lid).map fun c => (e.1, c)

/-- A strand's stop and end from outside (R375, R408): no arrival is made, and FATAL is not counted. -/
def State.killStrand (s : State) (slot : Nat) (st : Strand) : State := s.endStrand slot st 0x80

/-- The command is the follow-on of a copy that is saved with it. -/
def SavedQuad.followsHere (v : SavedQuad) (c : Cmd) : Bool :=
  match c.after with
  | some n => v.cmds.any fun x => x.seq == n
  | none => false

/-- The commands of a launch leave a saved quad; what their retirement writes there is written when the quad is restored (R375). -/
def SavedQuad.endLaunch (v : SavedQuad) (lid : Nat) : SavedQuad :=
  { v with
    cmds := v.cmds.filter fun c => c.lid != lid
    ended := v.ended ++ v.cmds.filter fun c => c.lid == lid && !v.followsHere c }

/-- What a saved command's end leaves in its launch and in the counts: an orphan's, or those of a command stopped and retired (R375). -/
def State.countEnded (s : State) (orphan : Bool) (c : Cmd) : State :=
  if orphan then s.count1 (execCounter c.tenant 0x40)
  else s.updLaunch c.lid fun l => { l with abandoned := true, faults := l.faults || c.engine.isSome }

/-! ### The save area (R313) -/

/-- BASE of a tenant's save area, and the areas of a quad and of a core in it. -/
def State.saveBase (s : State) (tenant : Nat) : Nat := (SMap.get (0 : BitVec 52) s.coursing.tnsave tenant).toNat
def quadAreaOff (a : Nat) : Nat := a * 0x500000
def coreAreaOff (core : Nat) : Nat := 0x3C000000 + core * 0x60000
def State.quadArea (s : State) (tenant a : Nat) : Nat := s.saveBase tenant + quadAreaOff a
def State.coreArea (s : State) (tenant core : Nat) : Nat := s.saveBase tenant + coreAreaOff core

/-- `sr.lost` of a saved strand, in its record (R316). -/
def State.savedLost (s : State) (tenant core slot : Nat) : Bool :=
  (s.readPa (s.coreArea tenant core + 0x1000 + slot % 16 * 4096 + 0x28) (s.keyOfTenant tenant) 8).1 % 4 != 0

/-- A strand that no slot holds ends on a core as `EXIT` with XCODE 0x80 (R297, R375). -/
def State.endAway (s : State) (lid core : Nat) (lost : Bool) : State :=
  s.updLaunch lid fun l =>
    { l with xcode := l.xcode ||| 0x80, lostSeen := l.lostSeen || lost, ended := l.ended.put (core / 192) s.time }

/-- The strands of a launch that Lintel has saved, or that are in a context packet alone, end (R375, R408). -/
def State.killAway (s : State) (lid : Nat) : State :=
  let saved := s.coursing.savedCores.flatMap fun e => (e.2.strands.filter fun x => x.2.lid == lid).map fun x => (e.1, x.1)
  let packets := (s.coursing.savedCores.flatMap fun e => e.2.packets.map fun p => (e.1 % 768, p))
    ++ s.cores.flatMap fun e => e.2.inbox.map fun p => (e.1, p)
  let t := saved.foldl (fun t x => t.endAway lid (x.1 % 768) (s.savedLost (x.1 / 768) (x.1 % 768) x.2)) s
  (packets.filter fun x => x.2.strand.lid == lid).foldl (fun t x => t.endAway lid x.1 (x.2.strand.lost != 0)) t

/-- Every strand of a launch and every command that it issued end, those that Lintel has saved included (R375). -/
def State.killLaunch (s : State) (lid : Nat) : State :=
  let mine := s.strands.filter fun e => e.2.lid == lid
  let s := s.killAway lid
  let lost := s.coursing.savedQuads.flatMap fun e => (e.2.cmds.filter fun c => c.lid == lid).map fun c => (e.2.followsHere c, c)
  let s := lost.foldl (fun s x => s.countEnded x.1 x.2) s
  let s := s.setCoursing { s.coursing with
    savedCores := s.coursing.savedCores.map fun e => (e.1, { e.2 with
      strands := e.2.strands.filter fun x => x.2.lid != lid, packets := e.2.packets.filter fun p => p.strand.lid != lid })
    savedQuads := s.coursing.savedQuads.map fun e => (e.1, e.2.endLaunch lid) }
  let s := { s with
    cores := (s.cores.map fun (e : Nat × CoreState) =>
      (e.1, { e.2 with inbox := e.2.inbox.filter fun p => p.strand.lid != lid })).filter fun e => e.2 != CoreState.reset }
  let s := mine.foldl (fun s e => s.killStrand e.1 e.2) s
  (s.cmdsOf lid).foldl (fun s x =>
    match (s.quadAt x.1).cmdOf x.2.seq with
    | some c => s.killCmd x.1 c
    | none => s) s

end Sys2Proof.Machine
end

