-- ==== Sys2Proof/Machine/Parties.lean ====
section
/-! DEFINITION. The parties outside the compute dies that access this device's memory: harts, peer devices, the hub Hod and the home
dies' Hods; which of their accesses the memory map and the harts' attributes allow (spec/01_organisation.md R13, R23 to R28;
spec/14_host_peer.md R328 to R331), and the order in which they are performed (spec/06_ordering.md R151, R154). Parties are numbered:
harts 0 to 15, device d of the pod 16 + d, the hub Hod 80, Hod k of home die h 81 + 2h + k, the hub management core 93 and Keystone 94 (DESIGN CHOICE, log entry 35). -/

namespace Sys2Proof.Machine

def isHart (p : Nat) : Bool := decide (p < 16)

/-- The hub management core and Keystone, which run the firmware (R345). -/
def isFirmware (p : Nat) : Bool := p == 93 || p == 94

/-- Another device of the pod. -/
def isPeerParty (p : Nat) : Bool := decide (16 ≤ p) && decide (p < 80)

/-- A party with an agent of its own (R23); peers and the home Hods have none, and the home performs their accesses. -/
def hasAgent (p : Nat) : Bool := isHart p || p == 80

/-- The number that stands for a party among the cores: agent 192 + c for the harts of cluster c, and 196 for the hub Hod. -/
def partyCore (p : Nat) : Nat := if p = 80 then 784 else 768 + p

/-- The party that a core number of the rows LOAD_PERFORMED and STORE_PERFORMED stands for. -/
def partyOfCore (core : Nat) : Nat := core - 768

/-! ### Kinds -/

def PartyKind.reads : PartyKind → Bool
  | .load => true
  | .fetch => true
  | .amo _ _ _ _ => true
  | .reserve => true
  | _ => false

def PartyKind.writes : PartyKind → Bool
  | .store _ => true
  | .amo _ _ _ _ => true
  | .conditional _ => true
  | _ => false

def PartyKind.isFence : PartyKind → Bool
  | .fence _ _ _ _ => true
  | _ => false

/-- A read of a hart's CSR, which is no access to memory. -/
def PartyKind.isCsr : PartyKind → Bool
  | .time => true
  | .tenant => true
  | _ => false

/-- The access kind that an access fault reports (R329). -/
def PartyKind.acc : PartyKind → Nat
  | .fetch => accFetch
  | .load => accRead
  | .reserve => accRead
  | _ => accWrite

/-! ### Tenants and keys (R330, R342) -/

def State.partyTenant (s : State) (p : Nat) (op : PartyOp) : Nat :=
  if isHart p then op.bound.getD (SMap.get (0 : BitVec 6) s.hub.vlntenant p).toNat else op.tenant

def State.partyKey (s : State) (p : Nat) (op : PartyOp) : Nat :=
  if isHart p then s.keyOfTenant (s.partyTenant p op) else s.keyIndex op.key

/-! ### Order (R151) -/

/-- Two operations touch a common byte. -/
def PartyOp.meets (x y : PartyOp) : Bool := decide (x.pa < y.pa + y.bytes) && decide (y.pa < x.pa + x.bytes)

/-- A fence orders an operation before it with one after it. -/
def PartyKind.orders (f x y : PartyKind) : Bool :=
  match f with
  | .fence rr rw wr ww =>
    (rr && x.reads && y.reads) || (rw && x.reads && y.writes) || (wr && x.writes && y.reads) || (ww && x.writes && y.writes)
  | _ => false

/-- A fence among the earlier operations holds x back; `before` lists those that stand before the list. -/
def fenceHolds (x : PartyOp) : List PartyOp → List PartyOp → Bool
  | _, [] => false
  | before, f :: r => before.any (fun y => f.kind.orders y.kind x.kind) || fenceHolds x (before ++ [f]) r

/-- An earlier operation holds x back by its own ordering bits or those of x: acquire, release, and an sc access after another
(R151); control accesses keep their order (R154). -/
def PartyOp.precedes (y x : PartyOp) : Bool :=
  !y.kind.isFence && ((y.aq && y.kind.reads) || (x.rl && x.kind.writes) || (y.rl && x.aq)
    || (isControl y.pa && isControl x.pa && !y.kind.isCsr && !x.kind.isCsr))

/-- The earlier operations that touch a byte of x. -/
def meeting (earlier : List PartyOp) (x : PartyOp) : List PartyOp := earlier.filter fun y => !y.kind.isFence && !y.kind.isCsr && y.meets x

/-- The fences and ordering bits of the earlier operations let x be performed. -/
def mayFollow (earlier : List PartyOp) (x : PartyOp) : Bool := !fenceHolds x [] earlier && earlier.all fun y => !y.precedes x

/-- The value that a load takes from the party's own latest store to its bytes, which is not yet performed. -/
def partyForward (earlier : List PartyOp) (x : PartyOp) : Option Nat :=
  if isControl x.pa then none
  else
    match (meeting earlier x).getLast? with
    | some y =>
      match y.kind with
      | .store v =>
        if decide (y.pa ≤ x.pa) && decide (x.pa + x.bytes ≤ y.pa + y.bytes) && x.kind == .load then
          some (v / 2 ^ (8 * (x.pa - y.pa)) % 2 ^ (8 * x.bytes))
        else none
      | _ => none
    | none => none

/-- The operations of a party, and the one with a number with those before it. -/
def State.opsOf (s : State) (p : Nat) : List PartyOp := SMap.get [] s.hub.ops p
def splitOp (id : Nat) : List PartyOp → Option (List PartyOp × PartyOp)
  | [] => none
  | x :: r => if x.id = id then some ([], x) else (splitOp id r).map fun y => (x :: y.1, y.2)

/-- Fences with nothing before them have done their work. -/
def dropFences : List PartyOp → List PartyOp
  | [] => []
  | x :: r => if x.kind.isFence then dropFences r else x :: r

/-- An operation is performed, and what the party is told. -/
def State.partyDone (s : State) (p id : Nat) (x : PartyReply) : State :=
  s.setHub { s.hub with
    ops := s.hub.ops.set [] p (dropFences ((s.opsOf p).filter fun y => y.id != id)), told := s.hub.told.put p x }

/-! ### Which accesses the map admits (R24 to R28, R329) -/

/-- A party's operations that stand in its order are removed, and it is told nothing. -/
def State.dropOps (s : State) (p : Nat) : State := s.setHub { s.hub with ops := s.hub.ops.erase p }

/-- An aligned access of 1, 2, 4 or 8 bytes. -/
def PartyOp.small (op : PartyOp) : Bool := (op.bytes == 1 || op.bytes == 2 || op.bytes == 4 || op.bytes == 8) && op.pa % op.bytes == 0

/-- An access of a line's bytes. -/
def PartyOp.inLine (op : PartyOp) : Bool := decide (0 < op.bytes) && decide (op.pa % 128 + op.bytes ≤ 128)

/-- An aligned access of 4 or 8 bytes. -/
def PartyOp.wordSized (op : PartyOp) : Bool := op.small && (op.bytes == 4 || op.bytes == 8)

/-- An atomic of its type's size at an aligned address. -/
def PartyOp.atomicOk (op : PartyOp) : Bool :=
  match op.kind with
  | .amo _ t _ _ => op.wordSized && typeBits t == 8 * op.bytes
  | _ => false

/-- A load or a store. -/
def PartyKind.plain : PartyKind → Bool
  | .load => true
  | .store _ => true
  | _ => false

/-- `amoswap.d` or `amoadd.d` on the QTAIL of a queue, at either of its pages (R47, R48). -/
def PartyOp.qtail (op : PartyOp) : Bool :=
  let off := op.pa % 2 ^ 44
  window op.pa == 0xA && op.pa / 2 ^ 44 % 16 == 1 && decide (off < 0x800000) && off % 2 ^ 16 == 0x18 && op.bytes == 8 &&
    (match op.kind with | .amo .add _ _ _ => true | .amo .swap _ _ _ => true | _ => false)

/-- The hub hypervisor: a hart in HS or M mode (R66). -/
def HartMode.high : HartMode → Bool
  | .m => true
  | .hs => true
  | _ => false

/-- The offset in a control block is listed where the block says that a write of any other faults (R66, R371, R399, R403). -/
def ctlListed (block off : Nat) : Bool :=
  let o := off % 4096 / 8 * 8
  match block with
  | 0 => decide (off < 0x20) || (decide (0x10000 ≤ off) && decide (off < 0x10400)) || (decide (0x100000 ≤ off) && decide (off < 0x140000))
  | 3 =>
    if off < 0x40000 then o == 0x800 || o == 0x808 || o == 0xF00
    else if off < 0x80000 then o == 0xF00
    else if 0x92000 ≤ off ∧ off < 0x93000 then decide (o < 0x50) || (decide (0x100 ≤ o) && decide (o < 0x580))
    else true
  | _ => true

/-- A control register admits an access of the hub hypervisor or of F level (`high`), or of a hart below HS mode: that reads the coursing
table and what it is mapped of block 1, writes a queue's mirror there, and reaches blocks 2 and 3 never (R47, R66, R137, R309, R319,
R333, R351, R371, R399 to R403) (DEDUCED, log entry 29). -/
def ctlMay (high : Bool) (pa : Nat) (write : Bool) : Bool :=
  let off := pa % 2 ^ 44
  let block := pa / 2 ^ 44 % 16
  if high then !write || ctlListed block off
  else
    match block with
    | 0 => !write
    | 1 => !write || (decide (off < 0x800000) && off / 2 ^ 16 % 2 == 1)
    | _ => false

/-- The access is one that the memory map, the tenant test of R25 and the harts' attributes allow. A peer's access reaches home memory and
scratchpads (R27); `LR` and `SC`, and AMOs but on QTAIL and at scratchpad banks, are for device memory. Main memory takes a plain access of
any alignment, and the mailbox no hart below HS mode (R340) (DEDUCED, log entry 35). -/
def State.partyMay (s : State) (p : Nat) (op : PartyOp) : Bool :=
  let tenant := s.partyTenant p op
  let high := op.mode.high || isFirmware p
  let rv := isHart p || isFirmware p
  s.decodes op.pa && s.decodes (op.pa + op.bytes - 1) && op.inLine &&
    match window op.pa with
    | 8 => s.holdsQuad tenant (op.pa / 2 ^ 24 % 256) && ((op.kind.plain && (!rv || op.small)) || op.atomicOk)
    | 0xA => rv && op.wordSized && (op.kind.plain || op.qtail) && ctlMay high op.pa op.kind.writes
    | 0xC => !isPeerParty p && (op.kind.plain || op.kind == .fetch)
    | 0xD => !isPeerParty p && (op.kind.plain || op.kind == .fetch)
    | 0xE => isHart p && op.kind.plain && op.small
    | 0xF => (isFirmware p || (isHart p && op.mode.high)) && op.wordSized && op.kind.plain
    | _ => op.kind.plain || op.kind == .fetch || op.atomicOk
        || ((match op.kind with | .reserve => true | .conditional _ => true | _ => false) && op.wordSized)

/-! ### The firmware's host windows (R345) -/

/-- An access to host memory lies in one of the two windows of its port. -/
def State.windowed (s : State) (op : PartyOp) : Bool :=
  let a := op.pa % 2 ^ 48
  [0, 1].any fun w =>
    let x := SMap.get (0, 0) s.hub.fwwin (2 * (window op.pa - 0xC) + w)
    decide (x.1 ≤ a) && decide (a + op.bytes ≤ x.1 + x.2)

/-- A firmware access that the filter drops, counted at its port. -/
def State.dropFirmware (s : State) (op : PartyOp) : State :=
  let port := window op.pa - 0xC
  s.setHub { s.hub with fwdropped := s.hub.fwdropped.put port (SMap.get 0 s.hub.fwdropped port + 1) }

end Sys2Proof.Machine
end

