-- ==== Sys2Proof/Machine/CtlRegs.lean ====
section
/-! DEFINITION. Every register of the control windows and of the Keystone mailbox, read and written at one place each
(spec/03_coursing.md R66 to R72, R369; 02_execution.md R47, R50; 13_traps_context.md R309, R319; 14_host_peer.md R333; 15_trust_debug_power.md R340,
R351; 05_storage_coherence.md R137, R359; 21_faults_execution.md R371 to R375; 22_faults_memory.md R396, R399 to R401; 23_faults_system.md R403). -/

namespace Sys2Proof.Machine

/-- Base addresses of the control blocks (R26) and of the mailbox (R340). -/
def ctlBase (block : Nat) : Nat := 0xA000000000000 + block * 2 ^ 44
def mailboxBase : Nat := 0xF000000000000

/-! ### The coursing block (R66 to R72) -/

/-- The copy that is not active (R67). -/
def State.shadowCopy (s : State) : Bool := !s.coursing.active

/-- The edge of the course in force, with the values in force since its beginning (R69, R70, R77); none for a default course
that nothing ends. -/
def State.boundary (s : State) : Option Nat :=
  let k := s.coursing
  if k.enable then some (k.began + usCycles (courseDur k.table k.active k.course.toNat))
  else k.firstCommit.map fun t => t + usCycles (k.drainleadNow.toNat + 100)
def State.edgeTime (s : State) : Option Nat :=
  let k := s.coursing
  if k.enable then (s.boundary).map (· - usCycles (courseSavelead k.table k.active k.course.toNat))
  else k.firstCommit.map fun t => t + usCycles k.drainleadNow.toNat
def State.holdTime (s : State) : Option Nat := (s.edgeTime).map (· - usCycles s.coursing.drainleadNow.toNat)

/-- The course in force is the last of its frame. -/
def State.lastCourse (s : State) : Bool := s.coursing.course.toNat + 1 == s.coursing.activeN.toNat

/-- The course that follows the boundary of the course in force (R69, R72). -/
def State.nextCourse (s : State) : CourseRef :=
  let k := s.coursing
  if !k.enable then (if k.firstCommit.isSome then .entry (s.shadowCopy) 0 else .default)
  else if s.lastCourse then
    (if k.pending && !k.skipFrame then .entry (s.shadowCopy) 0 else .entry k.active 0)
  else .entry k.active (k.course.toNat + 1)

/-- The tenants 0 to 63. -/
def allTenants : List Nat := List.range 64

/-- The valid bays of a course, as (die, bay). -/
def courseBays (t : SMap Byte) (copy : Bool) (c : Nat) : List (Nat × Bay) :=
  (List.range 4).flatMap fun d => ((List.range 8).map fun b => (d, courseBay t copy c d b)).filter fun x => x.2.valid

/-- A tenant holds a bay in one of the first n courses of a copy. -/
def holdsBay (t : SMap Byte) (copy : Bool) (n tenant : Nat) : Bool :=
  (List.range n).any fun c => (courseBays t copy c).any fun x => x.2.tenant == tenant

/-- Reserved bits of a course entry (R68). -/
def courseReserved (t : SMap Byte) (copy : Bool) (c : Nat) : Bool :=
  let o := courseOff copy c
  tableLe t (o + 4) 60 != 0 || tableLe t (o + 0x140) 0xC0 != 0 || tableLe t (o + 0x600) 0x200 != 0
    || (List.range 32).any (fun b =>
      let r := tableLe t (o + 0x40 + 8 * b) 8
      fieldN r 6 1 != 0 || fieldN r 24 40 != 0)
    || allTenants.any fun n =>
      let r := courseShare t copy c n
      fieldN r 83 5 != 0 || fieldN r 94 2 != 0 || fieldN r 112 16 != 0

/-- Check 2 of R72 for a course, with a DRAINLEAD and OVERLIM. -/
def durationBad (t : SMap Byte) (copy : Bool) (c drain late : Nat) : Bool :=
  let d := courseDur t copy c
  let v := courseSavelead t copy c
  decide (d < 16) || decide (d < drain + v) || decide (v < late)

/-- Checks 2 to 9 of R72 for a course. -/
def courseFails (s : State) (copy : Bool) (c reason : Nat) : Bool :=
  let t := s.coursing.table
  let bays := courseBays t copy c
  let share (n : Nat) := courseShare t copy c n
  match reason with
  | 2 => durationBad t copy c s.coursing.drainlead.toNat s.coursing.overlim.toNat
  | 3 => bays.any fun x => x.2.len == 0 || decide (192 < x.2.base + x.2.len)
  | 4 => ((List.range bays.length).any fun i => (List.range i).any fun j =>
      match bays[i]?, bays[j]? with
      | some x, some y => x.1 == y.1 && decide (x.2.base < y.2.base + y.2.len) && decide (y.2.base < x.2.base + x.2.len)
      | _, _ => false)
  | 5 => bays.any fun x => !sharePresent (share x.2.tenant)
  | 6 => allTenants.any fun n =>
      let r := share n
      sharePresent r && (fieldN r 0 16 == 0 || fieldN r 16 32 == 0 || fieldN r 48 16 == 0 || fieldN r 64 16 == 0)
  | 7 => allTenants.any fun n =>
      let r := share n
      shareDonate r && (!sharePresent (share (shareDonee r)) || shareDonee r == n || shareIdle r == 0)
  | 8 => courseReserved t copy c
  | 9 => bays.any fun x => sharePresent (share x.2.tenant) && SMap.get (0 : BitVec 52) s.coursing.tnsave x.2.tenant == 0
  | _ => false

/-- The first failing check of R72 with its course; checks 1 and 10 fail in no course, and BADCOURSE reads 0 after them (DESIGN CHOICE,
log entry 38). -/
def commitFailure (s : State) (copy : Bool) (n : Nat) : Option (Nat × Nat) :=
  if n = 0 ∨ 64 < n then some (1, 0)
  else
    match ([2, 3, 4, 5, 6, 7, 8, 9] : List Nat).findSome? fun r =>
        ((List.range n).find? fun c => courseFails s copy c r).map fun c => (r, c) with
    | some x => some x
    | none => if !s.coursing.enable && SMap.get (0 : BitVec 52) s.coursing.tnsave 0 == 0 then some (10, 0) else none

/-- A rejected check sets REJECTED, REASON and BADCOURSE. -/
def Coursing.reject (k : Coursing) (reason course : Nat) : Coursing :=
  { k with rejected := true, reason := BitVec.ofNat 4 reason, badcourse := BitVec.ofNat 6 course }

/-- A QTAIL write or a commit ends package idle: the compute dies are ready 32,000 cycles later (R350). -/
def State.wakePackage (s : State) : State :=
  if s.power.idle && s.power.readyAt.isNone then s.setPower { s.power with readyAt := some (s.time + 32000) } else s

/-- CTCTL.COMMIT with the NCOURSE of the same write (R72, R70). An accepted commit leaves REJECTED and REASON as they are, and a commit
ignored while PENDING is 1 still stores its NCOURSE (DESIGN CHOICE, log entry 38). -/
def State.commitApply (s : State) (n : BitVec 7) : State :=
  let k := { s.coursing with ncourse := n }
  if s.coursing.pending then s.setCoursing k
  else
    match commitFailure s s.shadowCopy n.toNat with
    | some x => s.setCoursing (k.reject x.1 x.2)
    | none =>
      if k.enable then
        let begun := s.lastCourse && (match s.holdTime with | some t => decide (t ≤ s.time) | none => false)
        (s.setCoursing { k with pending := true, pendingN := n, skipFrame := begun }).wakePackage
      else
        (s.setCoursing { k with
          pending := true, pendingN := n, skipFrame := false, firstCommit := some s.time, held := false, edged := false, overlimDone := false
          drainleadNow := k.drainlead, overlimNow := k.overlim }).wakePackage

/-- A CTTIME write (R72). -/
def State.cttimeApply (s : State) (v : Word) : State :=
  let k := s.coursing
  let drain := fieldN v.toNat 0 16
  let late := fieldN v.toNat 16 16
  let bad (copy : Bool) (n : Nat) : Option Nat := (List.range n).find? fun c => durationBad k.table copy c drain late
  let fail := match if k.enable then bad k.active k.activeN.toNat else none with
    | some c => some c
    | none => if k.pending then bad s.shadowCopy k.pendingN.toNat else none
  match fail with
  | some c => s.setCoursing (k.reject 2 c)
  | none =>
    let k := { k with drainlead := BitVec.ofNat 16 drain, overlim := BitVec.ofNat 16 late }
    if !k.enable && k.firstCommit.isNone then s.setCoursing { k with drainleadNow := k.drainlead, overlimNow := k.overlim }
    else s.setCoursing k

/-- A TNSAVE write; BASE 0 is ignored for an active tenant (R72). -/
def State.tnsaveApply (s : State) (tenant : Nat) (v : Word) : State :=
  let k := s.coursing
  let b : BitVec 52 := BitVec.ofNat 52 (fieldN v.toNat 12 40 * 2 ^ 12)
  let kept := b == 0 && ((tenant == 0 && !k.enable) || (k.enable && holdsBay k.table k.active k.activeN.toNat tenant)
    || (k.pending && holdsBay k.table s.shadowCopy k.pendingN.toNat tenant))
  if kept then s else s.setCoursing { k with tnsave := k.tnsave.set 0 tenant b }

/-- A write into the table copies: ignored in the active copy, and counted while the shadow copy is pending (R67, R72). -/
def State.tableWrite (s : State) (off n v : Nat) : State :=
  let k := s.coursing
  let copy := decide (2 ^ 17 ≤ off)
  if copy == k.active then s
  else if k.pending then
    s.setCoursing { k with shadowign := BitVec.ofNat 16 (min (k.shadowign.toNat + 1) 0xFFFF) }
  else
    s.setCoursing { k with
      table := (List.range n).foldl (fun t i => t.set 0 (off + i) (BitVec.ofNat 8 (v / 2 ^ (8 * i)))) k.table }

/-! ### Launch queues (R47, R50) -/

def State.queueAt (s : State) (n : Nat) : Queue := SMap.get Queue.reset s.hub.queues n
def State.setQueue (s : State) (n : Nat) (q : Queue) : State := s.setHub { s.hub with queues := s.hub.queues.set Queue.reset n q }

/-- A TAIL write is ignored with OVERRUN (R50). -/
def tailOverruns (q : Queue) (tail : BitVec 32) : Bool :=
  decide (2 ^ q.logn.toNat < (tail - q.head).toNat) || decide ((tail - q.head).toNat < (q.tail - q.head).toNat)

/-- A TAIL write applied, or ignored (R50). -/
def State.tailWrite (s : State) (n : Nat) (tail : BitVec 32) : State :=
  let q := s.queueAt n
  if !q.enable then s
  else if tailOverruns q tail then s.setQueue n { q with overrun := true }
  else (s.setQueue n { q with tail := tail }).wakePackage

/-- QCFG of a queue, and a write of it: ENABLE stays 0 while LOGN is outside 4 to 12 (R47). -/
def Queue.cfg (q : Queue) : Nat :=
  q.tenant.toNat + q.asid.toNat * 2 ^ 6 + q.logn.toNat * 2 ^ 22 + q.priv.toNat * 2 ^ 26 + q.enable.toNat * 2 ^ 27
def Queue.setCfg (q : Queue) (v : Nat) : Queue :=
  let logn := fieldN v 22 4
  { q with
    tenant := BitVec.ofNat 6 v, asid := BitVec.ofNat 16 (v / 2 ^ 6), logn := BitVec.ofNat 4 logn, priv := fieldN v 26 1 == 1
    enable := fieldN v 27 1 == 1 && 4 ≤ logn && logn ≤ 12 }
def Queue.stat (q : Queue) : Nat :=
  q.rejects.toNat + q.overrun.toNat * 2 ^ 16 + q.compfault.toNat * 2 ^ 17 + q.ringfault.toNat * 2 ^ 18
def Queue.clearStat (q : Queue) (v : Nat) : Queue :=
  { q with
    overrun := q.overrun && fieldN v 16 1 == 0, compfault := q.compfault && fieldN v 17 1 == 0
    ringfault := q.ringfault && fieldN v 18 1 == 0 }

/-! ### Fault queues (R309) -/

def FaultQueue.cfg (q : FaultQueue) : Nat := q.asid.toNat + q.logn.toNat * 2 ^ 16 + q.enable.toNat * 2 ^ 20
def FaultQueue.setCfg (q : FaultQueue) (v : Nat) : FaultQueue :=
  let logn := fieldN v 16 4
  { q with
    asid := BitVec.ofNat 16 v, logn := BitVec.ofNat 4 logn, enable := fieldN v 20 1 == 1 && 4 ≤ logn && logn ≤ 12 }

/-! ### Pod registers (R333) -/

def Pod.linkstat (p : Pod) (l : Nat) : Nat :=
  (SMap.get (0 : BitVec 6) p.peer l).toNat + (p.up.getLsbD l).toNat * 2 ^ 6 + (p.silent.getLsbD l).toNat * 2 ^ 7
    + (SMap.get (0 : BitVec 8) p.missed l).toNat * 2 ^ 8

/-- FENCED bits cleared by writing 1: each ends the fence of its device and is logged (R413). -/
def State.unfence (s : State) (v : Word) : State :=
  let gone := (List.range 64).filter fun d => s.pod.fenced.getLsbD d && v.getLsbD d
  let s := s.setPod { s.pod with fenced := s.pod.fenced &&& ~~~v }
  gone.foldl (fun s d => s.logSystem 13 1 d) s

/-! ### Power registers (R351) -/

/-- The power state: package idle, P1, or P0 (R350). -/
def Power.stateCode (p : Power) : Nat := if p.idle then 2 else if p.capen || p.tripPending then 1 else 0

def Power.ctl (p : Power) : Nat :=
  p.capw.toNat + p.capen.toNat * 2 ^ 12 + p.qsleep.toNat * 2 ^ 13 + p.pidle.toNat * 2 ^ 14

/-- With QSLEEP, a quad none of whose cores a valid bay of the course in force covers, and that is scrubbed, goes to sleep (R350). -/
def State.sleepQuads (s : State) : State :=
  if !s.power.qsleep then s
  else
    let idle (a : Nat) : Bool :=
      s.dieUp (a / 48) && (s.quadAt a).phase == .running && !(s.quadAt a).asleep
        && (List.range 4).all fun k => (s.holder (4 * a + k)).isNone && (s.coreAt (4 * a + k)).phase == .running
    ((List.range 192).filter idle).foldl (fun s a => s.setQuad a { s.quadAt a with asleep := true, wakeAt := none }) s

/-- A write of PWRCTL: a CAPW outside 800 to 2,600 is ignored; with no cap and no pending trip the duty is full again
(DEDUCED, log entry 29). -/
def Power.setCtl (p : Power) (v : Nat) : Power :=
  let w := fieldN v 0 12
  let p := { p with
    capw := if 800 ≤ w ∧ w ≤ 2600 then BitVec.ofNat 12 w else p.capw
    capen := fieldN v 12 1 == 1, qsleep := fieldN v 13 1 == 1, pidle := fieldN v 14 1 == 1 }
  if p.capen || p.tripPending then p else { p with duty := 16 }

def State.sleepers (s : State) : Nat := (s.quads.filter fun e => e.2.asleep).length

def State.pwrstat (s : State) : Nat :=
  let p := s.power
  p.stateCode + p.ptrip.toNat * 4 + p.ttrip.toNat * 8 + s.sleepers % 2 ^ 16 * 2 ^ 16

/-! ### Debug ports (R137, R359) -/

/-- A directory entry's 128 bits (R116), given the BUSY bits. -/
def DirEntry.bits (e : DirEntry) (busy : BitVec 4) : Nat :=
  let code : LineState → Nat | .I => 0 | .S => 1 | .O => 2 | .L => 3
  let st := ((List.range 4).map fun i => code (e.line i) * 4 ^ i).sum
  let low := st + busy.toNat * 2 ^ 8 + e.tb.toNat * 2 ^ 12 + e.coarse.toNat * 2 ^ 16
    + (if e.coarse then 0 else e.ptrs.length * 2 ^ 17) + (if e.tb = 0 then 0 else e.tid.toNat * 2 ^ 112)
  if e.coarse then
    low + e.cv.toNat * 2 ^ 24 + e.spm.toNat * 2 ^ 88 + e.ownv.toNat * 2 ^ 95 + e.owner % 256 * 2 ^ 96 + e.ownl.toNat * 2 ^ 104
  else
    low + ((List.range e.ptrs.length).map fun k =>
      match e.ptrs[k]? with
      | some p => p.1 % 256 * 2 ^ (12 * k + 24) + p.2.toNat * 2 ^ (12 * k + 32)
      | none => 0).sum

/-- The BUSY bits of a region (R122). -/
def State.busyBits (s : State) (region : Nat) : BitVec 4 :=
  (List.range 4).foldl (fun m i => if (s.reqsAt (4 * region + i)).isEmpty then m else m ||| (1#4 <<< i)) 0

/-- A tile record's 256 bits (R130). -/
def TileRec.bits (t : TileRec) : Nat :=
  t.holder % 256 + 2 ^ 8 + t.own.toNat * 2 ^ 9 + t.present.toNat * 2 ^ 10 + t.moving.toNat * 2 ^ 11 + t.tenant % 64 * 2 ^ 16
    + t.base % 2 ^ 52 * 2 ^ 64 + (t.rows - 1) % 256 * 2 ^ 128 + (t.rowb - 1) % 4096 * 2 ^ 136 + t.stride % 2 ^ 32 * 2 ^ 148
    + t.nlines % 2 ^ 16 * 2 ^ 192

def State.portAt (s : State) (k : Nat) : DebugPort := SMap.get DebugPort.reset s.homes.ports k
def State.setPort (s : State) (k : Nat) (p : DebugPort) : State :=
  s.setHomes { s.homes with ports := s.homes.ports.set DebugPort.reset k p }

/-- A region lies in a slice (R22). -/
def inSlice (region k : Nat) : Bool := isDevice (512 * region) && sliceOf (512 * region) == k && decide (512 * region % 2 ^ 48 < 2 ^ 37)

/-- DPCTL.SNAP (R137). -/
def State.snapApply (s : State) (k : Nat) : State :=
  let p := s.portAt k
  let region := p.region.toNat / 512
  if !inSlice region k then
    s.setPort k { p with done := true, bad := true, ent := 0, hzn := Vector.replicate 4 0, tile := Vector.replicate 4 0 }
  else
    let e := s.dirAt region
    let ent : Nat :=
      if e = DirEntry.reset ∧ s.busyBits region = 0 then 0 else e.bits (s.busyBits region)
    let rec_ := if e.tb = 0 then 0 else match SMap.find s.homes.tiles e.tid.toNat with | some t => t.bits | none => 0
    s.setPort k { p with
      done := true, ent := BitVec.ofNat 128 ent
      hzn := Vector.ofFn fun i : Fin 4 => BitVec.ofNat 64 (s.horizonOf (4 * region + i.val))
      tile := Vector.ofFn fun i : Fin 4 => BitVec.ofNat 64 (fieldN rec_ (64 * i.val) 64) }

/-- DPTCTL.EN set: the region named now is latched (R359). -/
def State.traceOn (s : State) (k : Nat) : State :=
  let p := s.portAt k
  s.setPort k { p with en := true, latched := if inSlice (p.region.toNat / 512) k then p.region.toNat / 512 else 2 ^ 60 }

/-- DPTCTL.CLR. -/
def State.traceClear (s : State) (k : Nat) : State :=
  s.setPort k { s.portAt k with count := 0, events := 0, ring := [] }

/-! ### Error registers -/

/-- A counter register's 64 bits (R372). -/
def Counter.word (c : Counter) : Nat := c.count.toNat + c.last.toNat * 2 ^ 32

/-- Counters cleared: those at register addresses that satisfy a test. -/
def State.clearCounters (s : State) (p : Nat → Bool) : State :=
  s.setSys { s.sys with counters := s.sys.counters.filter fun e => !p e.1 }

/-- ECCLR of a tenant's page: bit i clears the counter at offset 8i (R372, R399). -/
def State.ecclrApply (s : State) (memoryPage : Bool) (tenant : Nat) (clr : BitVec 15) : State :=
  let base := if memoryPage then memCounter tenant 0 else execCounter tenant 0
  s.clearCounters fun a => decide (base ≤ a) && decide (a < base + 8 * 15) && clr.getLsbD ((a - base) / 8)

/-- All structure and slice counters (R400). -/
def State.clearStructs (s : State) : State :=
  s.clearCounters fun a => decide (0xA300000080000 ≤ a) && decide (a < 0xA300000082000)

/-- LKCTL.GO (R375): every matching placed launch of the tenant is ended. The whole of it is one step, so BUSY reads 0 after it
(DESIGN CHOICE, log entry 31); a GO that matches clears NONE (DESIGN CHOICE, log entry 38). -/
def State.lkctlApply (s : State) (tenant : Nat) : State :=
  let comp := SMap.get (0 : Word) s.sys.lkcomp tenant
  let hit := s.hub.launches.filter fun l =>
    l.tenant == tenant && l.state == .placed && recComp l.record == comp.toNat
  if hit.isEmpty then s.setSys { s.sys with lknone := s.sys.lknone ||| (1#64 <<< tenant) }
  else
    let s := s.setSys { s.sys with lknone := s.sys.lknone &&& ~~~(1#64 <<< tenant) }
    hit.foldl (fun s l => (s.killLaunch l.lid).count1 (execCounter tenant 0x70)) s

/-- SYSDIE (R403). -/
def dieCode : DieState → Nat
  | .running => 0
  | .degraded => 1
  | .lost => 2
  | .held => 3
def State.sysdie (s : State) : Nat :=
  ((List.range 4).map fun d => dieCode (s.sys.cdie.toList.getD d .held) * 4 ^ d).sum
    + ((List.range 6).map fun h => dieCode (s.sys.hdie.toList.getD h .held) * 4 ^ h * 2 ^ 8).sum

/-! ### The mailbox (R340) -/

def Keystone.stat (k : Keystone) : Nat :=
  k.busy.toNat + k.done.toNat * 2 + k.coll.toNat * 4 + k.result.toNat * 2 ^ 8 + k.rlen.toNat * 2 ^ 16

/-- A write of MBCMD: ignored with COLL while a command runs. -/
def Keystone.command (k : Keystone) (who : Party ⊕ Nat) (v : Nat) : Keystone :=
  if k.busy then { k with coll := true }
  else
    { k with
      code := BitVec.ofNat 8 v, len := BitVec.ofNat 16 (v / 2 ^ 16), busy := true, ready := false, requester := some who }

/-! ### Reads -/

/-- The bits of the 8 bytes at an aligned offset of a course entry that are not reserved (R68): the others read zero (R5), though a
written one is kept for check 8 of R72 (DEDUCED, log entry 29). -/
def courseMask (o : Nat) : Nat :=
  if o = 0 then 2 ^ 32 - 1
  else if 0x40 ≤ o ∧ o < 0x140 then 0xFFFFBF
  else if 0x200 ≤ o ∧ o < 0x600 then
    (if o % 16 = 0 then 2 ^ 64 - 1 else 0x7FFFF + 0x3F * 2 ^ 24 + 0xFFFF * 2 ^ 32)
  else 0

/-- The 8 bytes at an aligned offset of block 0. -/
def State.readBlock0 (s : State) (off : Nat) : Nat :=
  let k := s.coursing
  if off = 0 then k.enable.toNat + k.pending.toNat * 4 + k.active.toNat * 8 + k.ncourse.toNat * 16
  else if off = 8 then k.drainlead.toNat + k.overlim.toNat * 2 ^ 16
  else if off = 0x10 then
    k.course.toNat + k.reason.toNat * 2 ^ 8 + k.badcourse.toNat * 2 ^ 12 + k.rejected.toNat * 2 ^ 18 + k.frames.toNat * 2 ^ 32
  else if off = 0x18 then
    k.overruns.toNat + k.savelate.toNat * 2 ^ 16 + k.donated.toNat * 2 ^ 32 + k.shadowign.toNat * 2 ^ 48
  else if off = 0x20 then k.fstart.toNat
  else if 0x10000 ≤ off ∧ off < 0x10400 then
    if off % 16 = 0 then (SMap.get (0 : BitVec 52) k.tnsave ((off - 0x10000) / 16)).toNat else 0
  else if 0x100000 ≤ off ∧ off < 0x140000 then
    (tableLe k.table (off - 0x100000) 8) &&& courseMask (off % 2048)
  else 0

/-- The 8 bytes at an aligned offset of block 1 (DEDUCED, log entry 29). -/
def State.readBlock1 (s : State) (off : Nat) : Nat :=
  if off < 0x800000 then
    let q := s.queueAt (off / 2 ^ 17)
    let mirror := off / 2 ^ 16 % 2 == 1
    match off % 2 ^ 16 with
    | 0x00 => if mirror then 0 else q.cfg
    | 0x08 => if mirror then 0 else q.base.toNat
    | 0x10 => q.head.toNat
    | 0x18 => q.tail.toNat
    | 0x20 => q.stat
    | 0x28 => if mirror then 0 else q.tvec.toNat
    | _ => 0
  else if off = 0x800000 then s.hub.atbase.toNat
  else if 0x900000 ≤ off ∧ off < 0x940000 then
    let q := SMap.get FaultQueue.reset s.hub.faultQueues ((off - 0x900000) / 4096)
    match off % 4096 with
    | 0x00 => q.cfg
    | 0x08 => q.base.toNat
    | 0x10 => q.head.toNat
    | 0x18 => q.dropped.toNat + q.count.toNat % 2 ^ 32 * 2 ^ 32
    | _ => 0
  else if 0xA00000 ≤ off ∧ off < 0xA00300 then
    let o := off - 0xA00000
    if o = 0 then s.pod.self.toNat + s.pod.enable.toNat * 2 ^ 6
    else if o = 8 then s.pod.fenced.toNat
    else if 0x40 ≤ o ∧ o < 0x80 then s.pod.linkstat ((o - 0x40) / 8)
    else if 0x100 ≤ o then (SMap.get (0 : BitVec 7) s.pod.failmap ((o - 0x100) / 8)).toNat
    else 0
  else if off = 0xB00000 then s.power.ctl
  else if off = 0xB00008 then s.pwrstat
  else 0

/-- Which debug port or trace block an offset of block 2 lies in: the slice's number, and the offset inside; `true` for a trace
block. -/
def portOffset (off : Nat) : Option (Nat × Bool × Nat) :=
  let h := off / 2 ^ 16
  let o := off % 2 ^ 16
  if 6 ≤ h then none
  else if o < 0x2000 then some (32 * h + o / 256, false, o % 256)
  else if 0x8000 ≤ o then some (32 * h + (o - 0x8000) / 1024, true, o % 1024)
  else none

/-- The 8 bytes at an aligned offset of block 2. -/
def State.readBlock2 (s : State) (off : Nat) : Nat :=
  match portOffset off with
  | none => 0
  | some (k, false, o) =>
    let p := s.portAt k
    if o = 0 then p.region.toNat
    else if o = 8 then p.done.toNat * 2 + p.bad.toNat * 4
    else if o = 0x10 then p.ent.toNat % 2 ^ 64
    else if o = 0x18 then p.ent.toNat / 2 ^ 64
    else if 0x20 ≤ o ∧ o < 0x40 then (p.hzn.toList.getD ((o - 0x20) / 8) 0).toNat
    else if 0x40 ≤ o ∧ o < 0x60 then (p.tile.toList.getD ((o - 0x40) / 8) 0).toNat
    else 0
  | some (k, true, o) =>
    let p := s.portAt k
    if o = 0 then p.en.toNat + p.count.toNat * 2 ^ 8
    else if 0x80 ≤ o ∧ o < 0x280 then (SMap.get (0 : Word) p.ring ((o - 0x80) / 8)).toNat
    else 0

/-- The 8 bytes at an aligned offset of block 3. -/
def State.readBlock3 (s : State) (off : Nat) : Nat :=
  let counter := (s.counterAt (ctlBase 3 + off)).word
  if off < 0x40000 then
    let t := off / 4096
    let o := off % 4096
    if o ≤ 0x70 then counter
    else if o = 0x800 then (SMap.get (0 : Word) s.sys.lkcomp t).toNat
    else if o = 0x808 then (s.sys.lkbusy.getLsbD t).toNat * 2 + (s.sys.lknone.getLsbD t).toNat * 4
    else 0
  else if off < 0x80000 then (if off % 4096 ≤ 0x28 then counter else 0)
  else if off < 0x80100 then counter
  else if 0x81000 ≤ off ∧ off < 0x81C00 then counter
  else if off = 0x90000 then s.sys.eltail.toNat
  else if off = 0x90008 then s.sys.elhead.toNat
  else if off = 0x90010 then counter
  else if off = 0x90100 ∨ off = 0x90108 then
    let p := (off - 0x90100) / 8
    (s.sys.bito.toList.getD p 0).toNat + (s.sys.bifail.getLsbD p).toNat * 2 ^ 16
  else if 0x92000 ≤ off ∧ off < 0x93000 then
    let o := off - 0x92000
    if o = 0x00 then s.sysdie
    else if o = 0x08 then s.sys.portDown.toNat
    else if o = 0x10 then s.sys.modDown.toNat % 2 ^ 64
    else if o = 0x18 then s.sys.modDown.toNat / 2 ^ 64 % 2 ^ 64
    else if o = 0x48 then s.sys.modDown.toNat / 2 ^ 128
    else if o = 0x20 ∨ o = 0x28 ∨ o = 0x30 ∨ o = 0x38 then counter
    else if o = 0x40 then s.keystone.shutcause.toNat
    else if 0x100 ≤ o ∧ o < 0x580 then counter
    else 0
  else if 0x100000 ≤ off ∧ off < 0x108000 then
    let r := SMap.get (0 : BitVec 256) s.sys.log ((off - 0x100000) / 32)
    fieldN r.toNat (off % 32 * 8) 64
  else 0

/-- The 8 bytes at an aligned offset of the mailbox. -/
def State.readMailbox (s : State) (off : Nat) : Nat :=
  if off = 8 then s.keystone.stat
  else if 0x100 ≤ off then ((List.range 8).map fun i => (SMap.get (0 : Byte) s.keystone.buf (off + i)).toNat * 256 ^ i).sum
  else 0

/-- The 8 bytes at an aligned address of a control window or of the mailbox. -/
def State.reg64 (s : State) (pa : Nat) : Nat :=
  let off := pa % 2 ^ 44
  if window pa = 0xF then s.readMailbox (pa % 2 ^ 48)
  else
    match pa / 2 ^ 44 % 16 with
    | 0 => s.readBlock0 off
    | 1 => s.readBlock1 off
    | 2 => s.readBlock2 off
    | 3 => s.readBlock3 off
    | _ => 0

/-- An aligned read of 4 or 8 bytes. -/
def State.regRead (s : State) (pa n : Nat) : Nat := s.reg64 (pa / 8 * 8) / 2 ^ (8 * (pa % 8)) % 2 ^ (8 * n)

/-! ### Writes -/

/-- A register write as the registers see it: `v` is the register's whole value with the written half replaced, `one` holds the
written bits alone, `low` says that the low half is written. -/
structure RegWrite where
  v : Nat
  one : Nat
  low : Bool

/-- A write into block 0 (R66 to R72). -/
def State.writeBlock0 (s : State) (off : Nat) (w : RegWrite) (raw n : Nat) (at_ : Nat) : State :=
  let k := s.coursing
  if off = 0 then
    if !w.low then s
    else if fieldN w.one 1 1 = 1 then s.commitApply (BitVec.ofNat 7 (w.v / 16))
    else s.setCoursing { k with ncourse := BitVec.ofNat 7 (w.v / 16) }
  else if off = 8 then (if w.low then s.cttimeApply (BitVec.ofNat 64 w.v) else s)
  else if off = 0x10 then s.setCoursing { k with rejected := k.rejected && fieldN w.one 18 1 == 0 }
  else if 0x10000 ≤ off ∧ off < 0x10400 ∧ off % 16 = 0 then s.tnsaveApply ((off - 0x10000) / 16) (BitVec.ofNat 64 w.v)
  else if 0x100000 ≤ off ∧ off < 0x140000 then s.tableWrite (at_ - 0x100000) n raw
  else s

/-- A write into block 1. -/
def State.writeBlock1 (s : State) (off : Nat) (w : RegWrite) : State :=
  if off < 0x800000 then
    let n := off / 2 ^ 17
    let q := s.queueAt n
    let mirror := off / 2 ^ 16 % 2 == 1
    match off % 2 ^ 16 with
    | 0x00 => if mirror then s else s.setQueue n (q.setCfg w.v)
    | 0x08 => if mirror then s else s.setQueue n { q with base := BitVec.ofNat 52 (fieldN w.v 6 46 * 64) }
    | 0x18 => if w.low then s.tailWrite n (BitVec.ofNat 32 w.v) else s
    | 0x20 => s.setQueue n (q.clearStat w.one)
    | 0x28 => if mirror then s else s.setQueue n { q with tvec := BitVec.ofNat 52 w.v }
    | _ => s
  else if off = 0x800000 then s.setHub { s.hub with atbase := BitVec.ofNat 52 (fieldN w.v 20 32 * 2 ^ 20) }
  else if 0x900000 ≤ off ∧ off < 0x940000 then
    let t := (off - 0x900000) / 4096
    let q := SMap.get FaultQueue.reset s.hub.faultQueues t
    match off % 4096 with
    | 0x00 => s.setFaultQueue t (q.setCfg w.v)
    | 0x08 => s.setFaultQueue t { q with base := BitVec.ofNat 52 (fieldN w.v 6 46 * 64) }
    | 0x10 => s.setFaultQueue t { q with head := BitVec.ofNat 64 w.v }
    | _ => s
  else if 0xA00000 ≤ off ∧ off < 0xA00300 then
    let o := off - 0xA00000
    if o = 0 then s.setPod { s.pod with self := BitVec.ofNat 6 w.v, enable := fieldN w.v 6 1 == 1 }
    else if o = 8 then s.unfence (BitVec.ofNat 64 w.one)
    else if 0x100 ≤ o then s.setPod { s.pod with failmap := s.pod.failmap.set 0 ((o - 0x100) / 8) (BitVec.ofNat 7 w.v) }
    else s
  else if off = 0xB00000 then (if w.low then (s.setPower (s.power.setCtl w.v)).sleepQuads else s)
  else if off = 0xB00008 then
    s.setPower { s.power with
      ptrip := s.power.ptrip && fieldN w.one 2 1 == 0, ttrip := s.power.ttrip &&& ~~~(BitVec.ofNat 12 (w.one / 8)) }
  else s

/-- A write into block 2 (R137, R359). -/
def State.writeBlock2 (s : State) (off : Nat) (w : RegWrite) : State :=
  match portOffset off with
  | none => s
  | some (k, false, o) =>
    let p := s.portAt k
    if o = 0 then s.setPort k { p with region := BitVec.ofNat 52 (fieldN w.v 9 43 * 512) }
    else if o = 8 then
      let s := s.setPort k { p with bad := p.bad && fieldN w.one 2 1 == 0 }
      if fieldN w.one 0 1 = 1 then s.snapApply k else s
    else s
  | some (k, true, o) =>
    if o = 0 && w.low then
      let s := if fieldN w.one 1 1 = 1 then s.traceClear k else s
      let p := s.portAt k
      if fieldN w.v 0 1 = 0 then s.setPort k { p with en := false } else s.traceOn k
    else s

/-- A write into block 3. -/
def State.writeBlock3 (s : State) (off : Nat) (w : RegWrite) : State :=
  if off < 0x40000 then
    let t := off / 4096
    match off % 4096 with
    | 0x800 => s.setSys { s.sys with lkcomp := s.sys.lkcomp.set 0 t (BitVec.ofNat 64 w.v) }
    | 0x808 =>
      let s := if fieldN w.one 2 1 = 1 then s.setSys { s.sys with lknone := s.sys.lknone &&& ~~~(1#64 <<< t) } else s
      if fieldN w.one 0 1 = 1 && !s.sys.lkbusy.getLsbD t then s.lkctlApply t else s
    | 0xF00 => s.ecclrApply false t (BitVec.ofNat 15 w.one)
    | _ => s
  else if off < 0x80000 then
    if off % 4096 = 0xF00 then s.ecclrApply true ((off - 0x40000) / 4096) (BitVec.ofNat 15 w.one) else s
  else if off = 0x80F00 then (if fieldN w.one 0 1 = 1 then s.clearStructs else s)
  else if off = 0x90008 then s.setSys { s.sys with elhead := BitVec.ofNat 64 w.v }
  else if off = 0x90100 ∨ off = 0x90108 then
    let p := (off - 0x90100) / 8
    let b := BitVec.ofNat 16 w.v
    let y := s.sys
    s.setSys { y with
      bito := if b = 0 then y.bito else if p = 0 then y.bito.set 0 b else y.bito.set 1 b
      bifail := if fieldN w.one 16 1 = 1 then y.bifail &&& ~~~(1#2 <<< p) else y.bifail }
  else if off = 0x92008 then s.setSys { s.sys with portDown := s.sys.portDown &&& ~~~(BitVec.ofNat 2 w.one) }
  else s

/-- A write into the mailbox (R340). -/
def State.writeMailbox (s : State) (who : Party ⊕ Nat) (off : Nat) (w : RegWrite) (raw n at_ : Nat) : State :=
  let k := s.keystone
  if off = 0 then (if w.low then s.setKeystone (k.command who w.one) else s)
  else if off = 8 then
    s.setKeystone { k with done := k.done && fieldN w.one 1 1 == 0, coll := k.coll && fieldN w.one 2 1 == 0 }
  else if 0x100 ≤ off then
    s.setKeystone { k with
      buf := (List.range n).foldl (fun b i => b.set 0 (at_ + i) (BitVec.ofNat 8 (raw / 2 ^ (8 * i)))) k.buf }
  else s

/-- An aligned write of 4 or 8 bytes by a party, or by a strand of a tenant, that may write there. -/
def State.regWrite (s : State) (who : Party ⊕ Nat) (pa n v : Nat) : State :=
  let a := pa / 8 * 8
  let sh := 8 * (pa % 8)
  let v := v % 2 ^ (8 * n)
  let w : RegWrite := { v := setField (s.reg64 a) sh (8 * n) v, one := v * 2 ^ sh, low := pa % 8 == 0 }
  let off := a % 2 ^ 44
  if window pa = 0xF then s.writeMailbox who (a % 2 ^ 48) w v n (pa % 2 ^ 48)
  else
    match pa / 2 ^ 44 % 16 with
    | 0 => s.writeBlock0 off w v n (pa % 2 ^ 44)
    | 1 => s.writeBlock1 off w
    | 2 => s.writeBlock2 off w
    | 3 => s.writeBlock3 off w
    | _ => s

/-- Whether a party outside the strands may write there (R47, R66, R137, R309, R319, R326, R333, R340, R351, R371, R399, R401, R403).
A hart below HS mode reaches what the hypervisor maps to it: the mirrors of the launch queues. -/
def partyWrites (who : Party) (pa : Nat) : Bool :=
  let off := pa % 2 ^ 44
  let block := pa / 2 ^ 44 % 16
  let mailbox := window pa == 0xF && decide (pa % 2 ^ 48 < 2 ^ 16)
  match who with
  | .firmware => (window pa == 0xA && decide (block < 4)) || mailbox
  | .hypervisor => (window pa == 0xA && decide (block < 4)) || mailbox
  | .host _ => (window pa == 0xA && block == 1 && decide (off < 2 ^ 24)) || mailbox
  | .hart _ => window pa == 0xA && block == 1 && decide (off < 0x800000) && off / 2 ^ 16 % 2 == 1

/-! ### The rows -/

/-- A TAIL write is applied, or ignored with OVERRUN (R50). -/
def execQtailWrite (queue : Nat) (tail : BitVec 32) (s : State) : Out :=
  if queue < 64 then .next (s.tailWrite queue tail) else .next s

/-- A control access that a hart makes now, behind those of its operations that are not yet performed (R151, R154). -/
def State.hartFree (s : State) (hart pa : Nat) (kind : PartyKind) (aq rl : Bool) : Bool :=
  mayFollow (s.opsOf hart) { id := 0, kind := kind, pa := pa, bytes := 8, aq := aq, rl := rl, mode := .m, tenant := 0, key := 0, lease := 0 }

/-- `amoswap.d` or `amoadd.d` on QTAIL as one atomic step; the old TAIL is returned to the hart (R48). It waits for what the hart's fences and
its own release bit put before it (R151). -/
def execQtailAmo (hart queue : Nat) (op : QtailAmo) (v : Word) (s : State) : Out :=
  let pa := 0xA100000010018 + queue * 2 ^ 17
  if queue < 64 ∧ s.hartFree hart pa (.amo (if op.add then .add else .swap) 7 v.toNat 0) op.aq op.rl then
    let old := (s.queueAt queue).tail
    let new : BitVec 32 := if op.add then old + v.setWidth 32 else v.setWidth 32
    .next { s.tailWrite queue new with replies := s.replies.put hart (old.setWidth 64) }
  else .next s

/-- CTCTL.COMMIT (R72). -/
def execCommit (ncourse : BitVec 7) (s : State) : Out := .next (s.commitApply ncourse)

/-- A CTTIME write (R72). -/
def execCttimeWrite (v : Word) (s : State) : Out := .next (s.cttimeApply v)

/-- A TNSAVE write (R72). -/
def execTnsaveWrite (tenant : Nat) (v : Word) (s : State) : Out :=
  if tenant < 64 then .next (s.tnsaveApply tenant v) else .next s

/-- DPCTL.SNAP (R137). -/
def execDpSnap (home slice : Nat) (s : State) : Out :=
  if home < 6 ∧ slice < 32 then .next (s.snapApply (32 * home + slice)) else .next s

/-- DPTCTL.EN (R359). -/
def execDptEnable (home slice : Nat) (s : State) : Out :=
  if home < 6 ∧ slice < 32 then .next (s.traceOn (32 * home + slice)) else .next s

/-- DPTCTL.CLR (R359). -/
def execDptClear (home slice : Nat) (s : State) : Out :=
  if home < 6 ∧ slice < 32 then .next (s.traceClear (32 * home + slice)) else .next s

/-- LKCTL.GO (R375): ignored while BUSY is 1 (DESIGN CHOICE, log entry 31). -/
def execLkctlGo (tenant : Nat) (s : State) : Out :=
  if tenant < 64 && !s.sys.lkbusy.getLsbD tenant then .next (s.lkctlApply tenant) else .next s

/-- ECCLR (R372, R399). -/
def execEcclr (memoryPage : Bool) (tenant : Nat) (clr : BitVec 15) (s : State) : Out := .next (s.ecclrApply memoryPage tenant clr)

/-- The structure and slice counters cleared (R400). -/
def execStructCounterClear (s : State) : Out := .next s.clearStructs

/-- A hart's write waits for what its fences put before it (R151); other parties order their own. -/
def State.partyFree (s : State) (who : Party) (pa : Nat) (v : Word) : Bool :=
  match who with
  | .hart h => s.hartFree h pa (.store v.toNat) false false
  | _ => true

/-- A register write of a party: aligned accesses of 4 or 8 bytes where it may write, and otherwise without effect (R66, R326,
R329, R340); a host is told so by an unsupported-request completion. Firmware whose core is held in reset writes nothing (R415). -/
def execRegisterWrite (who : Party) (pa size : Nat) (v : Word) (s : State) : Out :=
  if (size == 4 || size == 8) && pa % size == 0 && partyWrites who pa && !(who == .firmware && s.sys.mcuHeld) && s.partyFree who pa v then
    .next (s.regWrite (.inl who) pa size v.toNat)
  else
    match who with
    | .host p => .next (s.tell (96 + p) .unsupported)
    | _ => .next s

end Sys2Proof.Machine
end

