-- ==== Sys2Proof/Machine/Edges.lean ====
section
/-! DEFINITION. Which cores and quads change hands at the boundary of the course in force, and the drain-lead hold
(spec/03_coursing.md R76 to R78). -/

namespace Sys2Proof.Machine

/-- The core lies in a donated bay, whose donee is saved at the course's original edge (R86). -/
def State.coreDonated (s : State) (core : Nat) : Bool :=
  s.coursing.donations.any fun d =>
    d.die == core / 192 && bayCovers s.coursing.table s.coursing.active s.coursing.course.toNat d.bay core

/-- A core changes hands at the coming boundary (R76): a donee leaves its bay with the course (R86). -/
def State.coreChanges (s : State) (core : Nat) : Bool :=
  s.coreDonated core || s.holder core != coverIn s.coursing.table s.nextCourse core

/-- A quad changes hands at the coming boundary (R76). -/
def State.quadChanges (s : State) (a : Nat) : Bool :=
  ((s.quadHolder a).isSome && (List.range 4).any fun k => s.coreDonated (4 * a + k))
    || s.quadHolder a != quadOwnerIn s.coursing.table s.nextCourse a

/-- The quad is being lost in a drain-lead hold (R78). -/
def State.quadInHold (s : State) (a : Nat) : Bool := s.coursing.held && !s.coursing.edged && s.quadChanges a

/-- The die has a core that its tenant is about to lose, in a drain-lead hold (R78). -/
def State.dieInHold (s : State) (tenant d : Nat) : Bool :=
  s.coursing.held && !s.coursing.edged
    && (List.range 192).any fun k => s.holder (192 * d + k) == some tenant && s.coreChanges (192 * d + k)

/-! ### Who may reach a scratchpad around an edge (R81, R159) -/

/-- The quad takes the messages of a tenant: it runs, and the tenant holds it. -/
def State.quadOpen (s : State) (tenant q : Nat) : Bool := (s.quadAt q).phase == .running && s.holdsQuad tenant q

/-- What Lintel has saved of a quad for a tenant. -/
def SavedQuad.none_ : SavedQuad := { cmds := [], inbox := [], phint := [], cells := [], barriers := [], ended := [] }
def State.savedQuad (s : State) (tenant q : Nat) : Option SavedQuad := SMap.find s.coursing.savedQuads (192 * tenant + q)

/-- A parked message of the tenant touches one of n scratchpad bytes. -/
def State.parkedOver (s : State) (tenant q off n : Nat) : Bool :=
  ((s.quadAt q).inbox ++ ((s.savedQuad tenant q).map (·.inbox)).getD []).any fun e =>
    e.data.any fun x => decide (off ≤ x.1) && decide (x.1 < off + n)

/-- An access of a tenant to n scratchpad bytes may be performed now. From the edge on, the accesses of the quad's own cores that
were under way, and the loads and atomics of others, still complete; stores of others are parked (R81). -/
def State.quadServes (s : State) (tenant q off n : Nat) (own load store : Bool) : Bool :=
  match (s.quadAt q).phase with
  | .running => s.holdsQuad tenant q
  | .stopped t => t == tenant && (own || !store) && !s.parkedOver tenant q off n
  | .saved t => t == tenant && load && !s.parkedOver tenant q off n
  | _ => false

end Sys2Proof.Machine
end

