-- ==== Sys2Proof/Machine/Frames.lean ====
section
/-! DEFINITION. The memory stack of a strand: frames written and read there as plain accesses of 64 bytes, in program order
(spec/08_scalar_control.md R191, R205). -/

namespace Sys2Proof.Machine

/-- What accesses to the memory stack meet. -/
inductive FrameResult where
  | ok (s : State) (st : Strand) (v : Nat)
  /-- The access at a physical address cannot be performed yet. -/
  | wait (pa : Nat) (write : Bool)
  | trap (s : State) (st : Strand) (t : Trap)

/-- A plain access of n bytes as part of an instruction waits for an earlier access of the core to its bytes (R144), an acquire, or, if it is
a store, a release fence (R141), its line (R113) or its quad (R81). -/
def State.plainReady (s : State) (slot : Nat) (c : Ctx) (key pa n : Nat) (write : Bool) : Bool :=
  !s.overlapsQueue c.core pa n && !s.acquirePending slot && !(write && s.fencePending slot) && s.lineReady c.agent pa c.tenant key write
    && (!isScratch pa || s.quadServes c.tenant (pa / 2 ^ 24 % 256) (pa % 2 ^ 24) n (pa / 2 ^ 24 % 256 == c.agent) (!write) write)

/-- A plain access of 64 bytes at the memory stack, performed as part of the instruction, in program order (R191); `w` is the
64 bytes to write. A walk that waits for a host waits for its entry's line. -/
def State.stackIo (s : State) (slot : Nat) (st : Strand) (va : Nat) (w : Option Frame) : FrameResult :=
  let c := s.ctxOf slot st
  let r := if w.isSome then Right.write else Right.read
  match s.firstFault c r (fun _ p => (p.map isControl).getD true) 3 (va % 2 ^ 52) 64 with
  | some t => if t.code = heldWalk then .wait t.tval false else .trap s st t
  | none =>
    match s.physOf c (va % 2 ^ 52) r with
    | .error t => .trap s st t
    | .ok (pa, e) =>
      let key := s.keyOfAsid c.asid
      if !s.plainReady slot c key pa 64 w.isSome then .wait pa w.isSome
      else
        let s := (s.tlbFill c.core e).touchCopy c.core c.agent pa w.isSome
        match w with
        | none =>
          let x := s.readCounted c.tenant key pa 64
          .ok (x.1.useAnswer c.agent (lineOf pa) false) (if x.2.2 then st.setLost 1 else st) x.2.1
        | some f =>
          let x := s.storePa c.tenant key pa 64 f.toNat false
          .ok (x.1.useAnswer c.agent (lineOf pa) true) (if x.2 then st.setLost 2 else st) 0

/-- The access of a frame; a fault there sets SPILL (R191, R304). -/
def State.frameIo (s : State) (slot : Nat) (st : Strand) (va : Nat) (w : Option Frame) : FrameResult :=
  match s.stackIo slot st va w with
  | .trap s st t => .trap s st { t with spill := true }
  | x => x

/-- An instruction whose plain access waits changes nothing but to ask for the line that it lacks. -/
def State.askPlain (s : State) (slot : Nat) (st : Strand) (pa : Nat) (write : Bool) : State :=
  let c := s.ctxOf slot st
  s.askLine c.core c.agent c.tenant (s.keyOfAsid c.asid) pa (if write then .getO false else .getS)

/-- FLUSHW of R205: every frame held above memory is written, oldest first; a fault keeps those already written. `fuel` is the
number of frames. -/
def State.flushFrames (s : State) (slot : Nat) : Nat → Strand → FrameResult
  | 0, st => .ok s st 0
  | fuel + 1, st =>
    match st.ls ++ st.rf with
    | [] => .ok s st 0
    | f :: _ =>
      match s.frameIo slot st st.wsp.toNat (some f) with
      | .ok s st _ =>
        State.flushFrames s slot fuel
          { st with wsp := st.wsp + 64, ls := st.ls.drop 1, rf := if st.ls.isEmpty then st.rf.drop 1 else st.rf }
      | r => r

end Sys2Proof.Machine
end

