-- ==== Sys2Proof/Machine/Needs.lean ====
section
/-! DEFINITION. The registers that each instruction needs (spec/02_execution.md R60), and with them which strands are ready. -/

namespace Sys2Proof.Machine

/-! ### Register fields -/

/-- The scalar register that DST names (R173). -/
def dstReg (o : MemOps) : BitVec 4 := o.dst.setWidth 4

/-- The stride register of I32[7:4]. -/
def strideReg (o : MemOps) : BitVec 4 := BitVec.ofNat 4 (o.hiBits 4 4)

/-- The index and the bound of a gather or scatter (R245). -/
def indexReg (o : MemOps) : BitVec 5 := BitVec.ofNat 5 (o.hiBits 6 5)
def boundReg (o : MemOps) : BitVec 4 := BitVec.ofNat 4 (o.hiBits 11 4)
/-- gV of R246: gDST with the 4-byte tail. -/
def valueReg (o : MemOps) : BitVec 4 := match o.hi with | none => dstReg o | some _ => BitVec.ofNat 4 (o.hiBits 0 4)
def compareReg (o : MemOps) : BitVec 4 := BitVec.ofNat 4 (o.hiBits 4 4)

/-- The windowed registers: a window shift waits for each of them (R60, R190). -/
def windowRegs : List (BitVec 4) := [4, 5, 6, 7, 8, 9, 10, 11, 12, 13, 14, 15]

/-- The scalar registers that an engine or system instruction names; an unused field names g0. -/
def engRegs (o : EngOps) : List (BitVec 4) := [o.a, o.b, o.c, o.d, o.e]

/-! ### Vector registers, each base with its group size (R214) -/

/-- The registers of an instruction with a destination, VS1, and VS2 under SRC 0. -/
def elemGroups (o : VecOps) : List (BitVec 5 × Nat) :=
  [(o.vd, 1), (o.vs1, 1)] ++ (if o.src == 0 then [(o.vs2, 1)] else [])

/-- VS1, and VS2 under SRC 0. -/
def sourceGroups (o : VecOps) : List (BitVec 5 × Nat) := [(o.vs1, 1)] ++ (if o.src == 0 then [(o.vs2, 1)] else [])

/-- The third operand of a fused row: VS3, or vd with the 4-byte tail (R220). -/
def thirdReg (o : VecOps) : BitVec 5 := match o.ext with | none => o.vd | some e => e.vs3
def fusedGroups (o : VecOps) : List (BitVec 5 × Nat) := (thirdReg o, 1) :: elemGroups o

/-- The group of one side of VCVT, whose elements are w bits wide where the other side's are v (R224). -/
def cvtK (w v : Nat) : Nat := if v < w then w / v else 1
def cvtGroups (o : VecOps) : List (BitVec 5 × Nat) :=
  [(o.vd, cvtK (typeBits o.x.toNat) (typeBits o.tn)), (o.vs1, cvtK (typeBits o.tn) (typeBits o.x.toNat))]

/-- A widening row writes a pair (R225). -/
def wideGroups (o : VecOps) : List (BitVec 5 × Nat) := (o.vd, 2) :: sourceGroups o

/-- The indices of VPERM are at least 16 bits wide (R232). -/
def permK (o : VecOps) : Nat := if typeBits o.tn < 16 then 16 / typeBits o.tn else 1
def permGroups (o : VecOps) : List (BitVec 5 × Nat) :=
  [(o.vd, 1), (o.vs1, 1), (o.vs2, permK o)] ++ (if o.vs3 != 0 then [(BitVec.ofNat 5 o.vs3, 1)] else [])

def unaryGroups (o : VecOps) : List (BitVec 5 × Nat) := [(o.vd, 1), (o.vs1, 1)]
def destGroups (o : VecOps) : List (BitVec 5 × Nat) := [(o.vd, 1)]
def movsGroups (o : VecOps) : List (BitVec 5 × Nat) := [(if o.x == 0 then o.vs1 else o.vd, 1)]
def setGroups (o : VecOps) : List (BitVec 5 × Nat) := [(o.vs1, 1), (o.vs2, 1)]

/-! ### What an instruction needs -/

def vecNeeds (o : VecOps) (g : List (BitVec 5 × Nat)) : List (BitVec 4) × List (BitVec 5) :=
  (o.gregs, g.flatMap fun x => groupRegs x.1 x.2)

/-- The scalar and the vector registers that an instruction reads or writes, and so waits for (R60). -/
def needs (i : Instr) : List (BitVec 4) × List (BitVec 5) :=
  match i with
  | .nop => ([], [])
  | .addHeadOnly a b => ([a, b], [])
  | .addTl2 o => (o.regs, [])
  | .addTl4 o => (o.regs, [])
  | .subHeadOnly a b => ([a, b], [])
  | .subTl2 o => (o.regs, [])
  | .subTl4 o => (o.regs, [])
  | .andHeadOnly a b => ([a, b], [])
  | .andTl2 o => (o.regs, [])
  | .andTl4 o => (o.regs, [])
  | .orHeadOnly a b => ([a, b], [])
  | .orTl2 o => (o.regs, [])
  | .orTl4 o => (o.regs, [])
  | .xorHeadOnly a b => ([a, b], [])
  | .xorTl2 o => (o.regs, [])
  | .xorTl4 o => (o.regs, [])
  | .shlHeadOnly a b => ([a, b], [])
  | .shlTl2 o => (o.regs, [])
  | .shlTl4 o => (o.regs, [])
  | .shrHeadOnly a b => ([a, b], [])
  | .shrTl2 o => (o.regs, [])
  | .shrTl4 o => (o.regs, [])
  | .sarHeadOnly a b => ([a, b], [])
  | .sarTl2 o => (o.regs, [])
  | .sarTl4 o => (o.regs, [])
  | .rolTl2 o => (o.regs, [])
  | .rolTl4 o => (o.regs, [])
  | .mov a b => ([a, b], [])
  | .mulHeadOnly a b => ([a, b], [])
  | .mulTl2 o => (o.regs, [])
  | .mulTl4 o => (o.regs, [])
  | .mulh a b c _ => ([a, b, c], [])
  | .div a b c _ => ([a, b, c], [])
  | .rem a b c _ => ([a, b, c], [])
  | .minTl2 a b c _ => ([a, b, c], [])
  | .minTl4 a b _ _ => ([a, b], [])
  | .maxTl2 a b c _ => ([a, b, c], [])
  | .maxTl4 a b _ _ => ([a, b], [])
  | .andnTl2 a b c => ([a, b, c], [])
  | .andnTl4 a b _ => ([a, b], [])
  | .clz a b _ => ([a, b], [])
  | .ctz a b _ => ([a, b], [])
  | .popc a b _ => ([a, b], [])
  | .brev a b _ => ([a, b], [])
  | .bswap a b _ => ([a, b], [])
  | .sext a b _ => ([a, b], [])
  | .zext a b _ => ([a, b], [])
  | .liTl2 a _ => ([a], [])
  | .liTl4 a _ => ([a], [])
  | .limm a _ => ([a], [])
  | .addaHeadOnly a b => ([a, b], [])
  | .addaTl2 o => (o.regs, [])
  | .addaTl4 o => (o.regs, [])
  | .tagTl2 a b c => ([a, b, c], [])
  | .tagTl4 a b _ _ => ([a, b], [])
  | .untag a b => ([a, b], [])
  | .tagof a b => ([a, b], [])
  | .eidxTl2 a b c => ([a, b, c], [])
  | .eidxTl4 a b _ => ([a, b], [])
  | .cmp _ b c _ _ => ([b, c], [])
  | .cmpiTl2 _ b _ _ _ => ([b], [])
  | .cmpiTl4 _ b _ _ _ => ([b], [])
  | .plog _ _ _ _ => ([], [])
  | .sel a b c _ _ => ([a, b, c], [])
  | .pmovToScalar a => ([a], [])
  | .pmovFromScalar b => ([b], [])
  | .br _ => ([], [])
  | .bp _ _ _ => ([], [])
  | .bz a _ => ([a], [])
  | .bnz a _ => ([a], [])
  | .call _ => (windowRegs, [])
  | .ret => (windowRegs, [])
  | .callr b => (b :: windowRegs, [])
  | .jmpr b => ([b], [])
  | .loop b _ => ([b], [])
  | .loopi _ _ => ([], [])
  | .lbrk _ _ => ([], [])
  | .flushw => (windowRegs, [])
  | .setws b c => (b :: c :: windowRegs, [])
  | .srd a _ => ([a], [])
  | .swr b _ => ([b], [])
  | .yield _ => ([], [])
  | .vadd o => vecNeeds o (elemGroups o)
  | .vsub o => vecNeeds o (elemGroups o)
  | .vmul o => vecNeeds o (elemGroups o)
  | .vfma o => vecNeeds o (fusedGroups o)
  | .vfms o => vecNeeds o (fusedGroups o)
  | .vfnma o => vecNeeds o (fusedGroups o)
  | .vmin o => vecNeeds o (elemGroups o)
  | .vmax o => vecNeeds o (elemGroups o)
  | .vminn o => vecNeeds o (elemGroups o)
  | .vmaxn o => vecNeeds o (elemGroups o)
  | .vand o => vecNeeds o (elemGroups o)
  | .vor o => vecNeeds o (elemGroups o)
  | .vxor o => vecNeeds o (elemGroups o)
  | .vshl o => vecNeeds o (elemGroups o)
  | .vshr o => vecNeeds o (elemGroups o)
  | .vsar o => vecNeeds o (elemGroups o)
  | .vabs o => vecNeeds o (elemGroups o)
  | .vneg o => vecNeeds o (elemGroups o)
  | .vcmp o => vecNeeds o (sourceGroups o)
  | .vsel o => vecNeeds o (elemGroups o)
  | .mlog o => vecNeeds o []
  | .vpopm o => vecNeeds o []
  | .viota o => vecNeeds o (destGroups o)
  | .vcvt o => vecNeeds o (cvtGroups o)
  | .vwadd o => vecNeeds o (wideGroups o)
  | .vwmul o => vecNeeds o (wideGroups o)
  | .vwmacc o => vecNeeds o (wideGroups o)
  | .vdot4 o => vecNeeds o (elemGroups o)
  | .vrcp o => vecNeeds o (elemGroups o)
  | .vrsq o => vecNeeds o (elemGroups o)
  | .vrcps o => vecNeeds o (elemGroups o)
  | .vrsqs o => vecNeeds o (elemGroups o)
  | .vsqrt o => vecNeeds o (elemGroups o)
  | .vdiv o => vecNeeds o (elemGroups o)
  | .vexp2 o => vecNeeds o (elemGroups o)
  | .vlog2 o => vecNeeds o (elemGroups o)
  | .vtanh o => vecNeeds o (elemGroups o)
  | .vredsum o => vecNeeds o (elemGroups o)
  | .vredmax o => vecNeeds o (elemGroups o)
  | .vredmin o => vecNeeds o (elemGroups o)
  | .vscan o => vecNeeds o (elemGroups o)
  | .vperm o => vecNeeds o (permGroups o)
  | .vslide o => vecNeeds o (unaryGroups o)
  | .vcomp o => vecNeeds o (unaryGroups o)
  | .vbcast o => vecNeeds o (destGroups o)
  | .vmovs o => vecNeeds o (movsGroups o)
  | .vsisx o => vecNeeds o (setGroups o)
  | .vxsum o => vecNeeds o (unaryGroups o)
  | .ld o => ([o.a, dstReg o], [])
  | .st o => ([o.a, dstReg o], [])
  | .ldl o => ([o.a, dstReg o], [])
  | .stl o => ([o.a, dstReg o], [])
  | .vld o => ([o.a], [o.dst])
  | .vst o => ([o.a], [o.dst])
  | .vlds o => ([o.a, strideReg o], [o.dst])
  | .vsts o => ([o.a, strideReg o], [o.dst])
  | .vldt o => ([o.a], [o.dst])
  | .vgath o => ([o.a, boundReg o], [o.dst, indexReg o])
  | .vscat o => ([o.a, boundReg o], [o.dst, indexReg o])
  | .aadd o => ([o.a, dstReg o, valueReg o, compareReg o], [])
  | .aand o => ([o.a, dstReg o, valueReg o, compareReg o], [])
  | .aor o => ([o.a, dstReg o, valueReg o, compareReg o], [])
  | .axor o => ([o.a, dstReg o, valueReg o, compareReg o], [])
  | .amin o => ([o.a, dstReg o, valueReg o, compareReg o], [])
  | .amax o => ([o.a, dstReg o, valueReg o, compareReg o], [])
  | .aswap o => ([o.a, dstReg o, valueReg o, compareReg o], [])
  | .acas o => ([o.a, dstReg o, valueReg o, compareReg o], [])
  | .afadd o => ([o.a, dstReg o, valueReg o, compareReg o], [])
  | .fence o => ([o.a], [])
  | .mwait o => ([o.a, dstReg o], [])
  | .pref o => ([o.a], [])
  | .cflush o => ([o.a], [])
  | .lzero o => ([o.a], [])
  | .bara o => ([o.a, dstReg o], [])
  | .barw o => ([o.a], [])
  | .bar o => ([o.a], [])
  | .barinit o => ([o.a], [])
  | .tdecl o => ([o.a, dstReg o], [])
  | .tfree o => ([o.a, dstReg o], [])
  | .tfwd o => ([o.a, dstReg o], [])
  | .migr o => ([o.a, dstReg o], [])
  | .shape o => (engRegs o, [])
  | .mzero o => (engRegs o, [])
  | .mma o => (engRegs o, [])
  | .mjoint o => (engRegs o, [])
  | .mld o => (engRegs o, [])
  | .mst o => (engRegs o, [])
  | .tstb o => (engRegs o, [])
  | .sload o => (engRegs o, [])
  | .ssort o => (engRegs o, [])
  | .sstore o => (engRegs o, [])
  | .sstat o => (engRegs o, [])
  | .hcopy o => (engRegs o, [])
  | .hcopym o => (engRegs o, [])
  | .hsend o => (engRegs o, [])
  | .hgath o => (engRegs o, [])
  | .bbinit o => (engRegs o, [])
  | .bbwait o => (engRegs o, [])
  | .bbtest o => (engRegs o, [])
  | .launch o => (engRegs o, [])
  | .task o => (engRegs o, [])
  | .fpdecl o => (engRegs o, [])
  | .trap _ => ([], [])
  | .eret _ => ([], [])
  | .exit _ => ([], [])
  | .phintRegisters _ => ([], [])
  | .phintRange o => (engRegs o, [])
  | .tlbinv o => (engRegs o, [])
  | .fack o => (engRegs o, [])
  | .instructionLineFetch _ => ([], [])
  | .barrierWakeup _ => ([], [])
  | .migrationPacketAccept _ => ([], [])
  | .jointStart _ _ => ([], [])
  | .followOnStart _ _ => ([], [])
  | .engineCommandStart _ _ => ([], [])
  | .hodPieceLand _ _ _ => ([], [])
  | .bbwaitTimeout _ => ([], [])
  | .monitorFire _ => ([], [])
  | .mwaitTimeout _ => ([], [])
  | .mwaitPoll _ _ => ([], [])
  | .hubRecordAccept _ => ([], [])
  | .placeLaunch _ => ([], [])
  | .gangReserve _ => ([], [])
  | .launchComplete _ => ([], [])
  | .quadSave _ => ([], [])
  | .saveLateComplete _ _ => ([], [])
  | .lintelRestore _ _ => ([], [])
  | .parkMessage _ => ([], [])
  | .messageReoffer _ => ([], [])
  | .gets _ => ([], [])
  | .getl _ => ([], [])
  | .geto _ => ([], [])
  | .puto _ _ => ([], [])
  | .puts _ _ => ([], [])
  | .invalidation _ _ => ([], [])
  | .recall _ _ => ([], [])
  | .answer _ _ => ([], [])
  | .horizonExpiry _ => ([], [])
  | .leaseExpiry _ _ => ([], [])
  | .loadPerformed _ _ _ _ => ([], [])
  | .storePerformed _ _ _ => ([], [])
  | .engineCommandCompletion _ _ => ([], [])
  | .yieldExpiry _ => ([], [])
  | .breakpointMatch _ => ([], [])
  | .quadWake _ => ([], [])
  | .windowSpillFill _ _ => ([], [])
  | .pageWalk _ _ _ => ([], [])
  | .bayDonation _ _ => ([], [])
  | .debugSessionExpiry _ => ([], [])
  | .bitoTimeout _ _ => ([], [])
  | .agentUnresponsive _ _ => ([], [])
  | .cxlRetrainTimeout _ => ([], [])
  | .heartbeatCrossing => ([], [])
  | .timeCompare _ => ([], [])
  | .dieStatusBeat _ => ([], [])
  | .powerSample _ => ([], [])
  | .throttleLift _ => ([], [])
  | .gangTimerExpiry => ([], [])
  | .drainLeadHold => ([], [])
  | .courseEdge => ([], [])
  | .overlimExpiry => ([], [])
  | .courseBoundary => ([], [])
  | .packageIdleEntry => ([], [])
  | .packageIdleExit => ([], [])
  | .mailboxComplete => ([], [])
  | .powerTripClear => ([], [])
  | .qtailWrite _ _ => ([], [])
  | .qtailAmo _ _ _ _ => ([], [])
  | .budgetExhaustion _ _ => ([], [])
  | .commit _ => ([], [])
  | .cttimeWrite _ => ([], [])
  | .tnsaveWrite _ _ => ([], [])
  | .hostRequest _ _ => ([], [])
  | .birsp _ _ _ => ([], [])
  | .hostSnoop _ _ => ([], [])
  | .dpSnap _ _ => ([], [])
  | .dptEnable _ _ => ([], [])
  | .dptClear _ _ => ([], [])
  | .vlntenantWrite _ _ _ => ([], [])
  | .heartbeatReceive _ => ([], [])
  | .fenceArrival _ => ([], [])
  | .fenceClear _ => ([], [])
  | .powerOn _ => ([], [])
  | .spdm => ([], [])
  | .doeSpdmRequest _ _ => ([], [])
  | .keygen => ([], [])
  | .keyclr => ([], [])
  | .tkeyset => ([], [])
  | .dbgkey => ([], [])
  | .dbgnonce => ([], [])
  | .dbgauth => ([], [])
  | .dbgend => ([], [])
  | .lifecycle => ([], [])
  | .conf => ([], [])
  | .debugHalt _ => ([], [])
  | .debugStep _ => ([], [])
  | .continueAt _ => ([], [])
  | .powerTrip => ([], [])
  | .thermalThrottleTrip _ => ([], [])
  | .thermalShutdown _ => ([], [])
  | .lkctlGo _ => ([], [])
  | .ecclr _ _ _ => ([], [])
  | .structCounterClear => ([], [])
  | .registerWrite _ _ _ _ => ([], [])
  | .privateStateError _ => ([], [])
  | .patrolScrub _ _ _ => ([], [])
  | .flitReplay _ => ([], [])
  | .moduleRetrain _ => ([], [])
  | .cxlLinkDown _ _ => ([], [])
  | .cxlLinkUp _ => ([], [])
  | .watchdogKick => ([], [])
  | .watchdogExpiry _ => ([], [])
  | .powerRemoved => ([], [])
  | .peerLinkLoss _ => ([], [])
  | .peerLinkTrained _ _ => ([], [])
  | .ucieRetrainComplete _ _ => ([], [])
  | .dispatcherUncorrectableError _ => ([], [])
  | .counterResynchronisation => ([], [])
  | .debugPortRequest _ => ([], [])
  | .cxlCacheResponse _ _ _ => ([], [])

/-! ### Ready strands (R59, R60, R79) -/

/-- The strand of a slot waits for nothing, is not halted, and its core runs. -/
def State.canIssue (s : State) (slot : Nat) (st : Strand) : Bool :=
  st.ready && (s.coreAt (coreOf slot)).phase == .running

/-- A head comparator matches at the strand's head: one of device debug, or of a session of its tenant (R347, R348). -/
def State.breaksAt (s : State) (slot : Nat) (st : Strand) : Bool :=
  let breaks := (s.coreAt (coreOf slot)).breaks
  st.halt == .running && (breaks.contains (none, st.pc) || breaks.contains (some (s.tenantOf st), st.pc))

/-- The line of the strand's head, where its fetch buffer holds it. -/
def Strand.lineHeld (st : Strand) : Option Line :=
  match st.fetch with
  | some (a, l) => if a.toNat = st.pc.toNat / 64 * 64 then some l else none
  | none => none

/-- The instruction at the strand's head needs a register that an earlier instruction has not yet written. -/
def State.stalls (s : State) (slot : Nat) (st : Strand) (l : Line) : Bool :=
  match decode (lineCode l ((st.pc.toNat % 64 - 2) / 2)) with
  | .ok i => s.busyG slot (needs i).1 || s.busyV slot (needs i).2
  | .error _ => false

/-- The line of the strand's head as the strand may enter it now: in its fetch buffer, or a legal line of its core's instruction cache or loop
buffer (R60, R165). -/
def State.lineAt (s : State) (slot : Nat) (st : Strand) : Option Line :=
  match st.lineHeld with
  | some l => some l
  | none =>
    match s.physOf (s.ctxOf slot st) (st.pc.toNat / 64 * 64) .fetch with
    | .error _ => none
    | .ok (pa, _) =>
      match if isControl pa then none else s.heldCode (coreOf slot) pa with
      | some l => (match checkLine l with | .ok _ => some l | .error _ => none)
      | none => none

/-- The strand is ready (R60). -/
def State.readyNow (s : State) (slot : Nat) (st : Strand) : Bool :=
  s.canIssue slot st && !s.breaksAt slot st
    && (match s.lineAt slot st with
      | some l => !(isHead l st.pc.toNat) || (s.pending slot).isEmpty || !s.stalls slot st l
      | none => false)

end Sys2Proof.Machine
end

