-- ==== Sys2Proof/Machine/Control.lean ====
section
/-! DEFINITION. Branches, calls and returns, the window stack, zero-overhead loops, special registers and `YIELD`
(spec/08_scalar_control.md R189 to R191, R203 to R212). -/

namespace Sys2Proof.Machine

/-- A branch that is taken or falls through (R203, R208). -/
def State.branch (s : State) (slot : Nat) (st : Strand) (taken : Bool) (i24 : BitVec 24) : State :=
  if taken then s.jump slot st (branchTarget st.pc i24) else s.retire slot st

/-- Unconditional (R203). -/
def execBr (i24 : BitVec 24) (s : State) : Out := s.run [] [] fun slot st => .next (s.branch slot st true i24)

/-- On a predicate (R203). -/
def execBp (p : BitVec 3) (neg : Bool) (i24 : BitVec 24) (s : State) : Out :=
  s.run [] [] fun slot st => .next (s.branch slot st (st.getP p != neg) i24)

/-- On gA = 0 (R203). -/
def execBz (a : BitVec 4) (i24 : BitVec 24) (s : State) : Out :=
  s.run [a] [] fun slot st => .next (s.branch slot st (st.getG a == 0) i24)

/-- On gA ≠ 0 (R203). -/
def execBnz (a : BitVec 4) (i24 : BitVec 24) (s : State) : Out :=
  s.run [a] [] fun slot st => .next (s.branch slot st (st.getG a != 0) i24)

/-- The callee's window (R190). -/
def Strand.pushWindow (st : Strand) (ret : VAddr) : Strand :=
  { st with
    rf := st.rf ++ [st.frame]
    g := #v[st.g[0], st.g[1], st.g[2], st.g[3], st.g[12], st.g[13], st.g[14], ret.setWidth 64, 0, 0, 0, 0, 0, 0, 0, 0]
    wdepth := st.wdepth + 1
    rrec := none }

/-- The caller's window with its frame (R190). -/
def Strand.popWindow (st : Strand) (f : Frame) : Strand :=
  { st with
    g := #v[st.g[0], st.g[1], st.g[2], st.g[3], frameReg f 0, frameReg f 1, frameReg f 2, frameReg f 3, frameReg f 4,
      frameReg f 5, frameReg f 6, frameReg f 7, st.g[4], st.g[5], st.g[6], st.g[7]]
    wdepth := st.wdepth - 1
    rrec := none }

/-- The oldest frame of the register file moved to the window stack (R191). -/
def Strand.spill (st : Strand) : Strand := { st with ls := st.ls ++ st.rf.take 1, rf := st.rf.drop 1 }

/-- The newest frame of the window stack moved to the register file. -/
def Strand.fill (st : Strand) : Strand :=
  { st with rf := st.ls.drop (st.ls.length - 1) ++ st.rf, ls := st.ls.take (st.ls.length - 1) }

/-- call_window of R190. With three frames in the register file, one turn moves a frame (R59), and the next one issues; with 67 frames
held the oldest goes to memory as part of the instruction (R191), so the move takes effect with it. -/
def State.callWindow (s : State) (slot : Nat) (st : Strand) (target : VAddr) : Out :=
  if st.rf.length < 3 then .next (s.jump slot (st.pushWindow st.nextHead) target)
  else if st.ls.length < 64 then .next (s.setStrand slot st.spill)
  else
    match s.frameIo slot st st.wsp.toNat st.ls.head? with
    | .ok s' st' _ =>
      if st.since.isNone then .next (s.setStrand slot { st with since := some 0 })
      else
        let st' := ({ st' with wsp := st'.wsp + 64, ls := st'.ls.drop 1 } : Strand).spill
        .next (s'.jump slot (st'.pushWindow st'.nextHead) target)
    | .wait pa w => .next (s.askPlain slot st pa w)
    | .trap _ _ t => .next (s.trap slot st t)

/-- ret_window of R190. -/
def State.retWindow (s : State) (slot : Nat) (st : Strand) : Out :=
  if st.wdepth = 0 then .next (s.trap slot st (trapOf causeUnderflow 0 0))
  else
    let t : VAddr := st.g[7].setWidth 52
    match st.rf.getLast?, st.ls with
    | some f, _ => .next (s.jump slot ({ st with rf := st.rf.dropLast }.popWindow f) t)
    | none, _ :: _ => .next (s.setStrand slot st.fill)
    | none, [] =>
      match s.frameIo slot st (st.wsp - 64).toNat none with
      | .ok s' st' v => .next (s'.jump slot ({ st' with wsp := st'.wsp - 64 }.popWindow (BitVec.ofNat 512 v)) t)
      | .wait pa w => .next (s.askPlain slot st pa w)
      | .trap _ _ t => .next (s.trap slot st t)

/-- Shifts the window and branches (R190, R203). -/
def execCall (i24 : BitVec 24) (s : State) : Out :=
  s.run windowRegs [] fun slot st => s.callWindow slot st (branchTarget st.pc i24)

/-- Restores the caller's window and returns (R190). -/
def execRet (s : State) : Out := s.run windowRegs [] fun slot st => s.retWindow slot st

/-- Shifts the window and branches to gB[51:0], read before the shift (R203). -/
def execCallr (b : BitVec 4) (s : State) : Out :=
  s.run (b :: windowRegs) [] fun slot st => s.callWindow slot st ((st.getG b).setWidth 52)

/-- pc := gB[51:0] (R203). -/
def execJmpr (b : BitVec 4) (s : State) : Out :=
  s.run [b] [] fun slot st => .next (s.jump slot st ((st.getG b).setWidth 52))

/-- A loop instruction of count c and body length n (R206, R207). -/
def State.loopOp (s : State) (slot : Nat) (st : Strand) (c : Word) (n : Nat) : Out :=
  if c ≠ 0 ∧ 3 ≤ st.loops.length then .next (s.trap slot st (trapOf causeLoopDepth 0 0))
  else
    match s.walkHeads slot st n st.nextHead.toNat with
    | .error t => .next (s.fetchStop slot st t)
    | .ok (fin, after, s) =>
      if c = 0 then .next (s.jump slot st (BitVec.ofNat 52 after))
      else
        let st1 := st.setLc st.loops.length c
        let st1 := { st1 with loops := st1.loops ++ [{ start := st.nextHead, finish := BitVec.ofNat 52 fin }] }
        .next (s.retire slot st1)

/-- Pushes a level with the count in gB (R207) (DEDUCED, log entry 27). -/
def execLoop (b : BitVec 4) (k8 : BitVec 8) (s : State) : Out :=
  s.run [b] [] fun slot st => s.loopOp slot st (st.getG b) (k8.toNat + 1)

/-- Pushes a level with an immediate count (R207). -/
def execLoopi (count : BitVec 16) (n : BitVec 8) (s : State) : Out :=
  s.run [] [] fun slot st => s.loopOp slot st (count.setWidth 64) (n.toNat + 1)

/-- The head after an end head, read from the line that the strand holds or fetches (R166). -/
def State.headAfterAt (s : State) (slot : Nat) (st : Strand) (a : VAddr) : Except FetchStop (Nat × State) :=
  if a = st.pc then .ok (st.nextHead.toNat, s)
  else
    match s.walkHeads slot st 1 a.toNat with
    | .error t => .error t
    | .ok (_, nx, s) => .ok (nx, s)

/-- Leaves the innermost loop where p XOR NEG holds (R208). Where `LBRK` stands at that level's own end head, its successor is
the next head in sequence, and the end test of the outer levels runs (DEDUCED, log entry 27). -/
def execLbrk (p : BitVec 3) (neg : Bool) (s : State) : Out :=
  s.run [] [] fun slot st =>
    match st.loops.getLast? with
    | none => .next (s.retire slot st)
    | some l =>
      if st.getP p == neg then .next (s.retire slot st)
      else
        let st1 := { (st.setLc (st.loops.length - 1) 0) with loops := st.loops.dropLast }
        if l.finish = st.pc then .next (s.retire slot st1)
        else
          match s.headAfterAt slot st l.finish with
          | .error t => .next (s.fetchStop slot st t)
          | .ok (a, s) => .next (s.jump slot st1 (BitVec.ofNat 52 a))

/-- Writes every held frame to memory (R205): at once, when all of them can be written (R212). -/
def execFlushw (s : State) : Out :=
  s.run windowRegs [] fun slot st =>
    match s.flushFrames slot 67 st with
    | .ok s st _ => .next (s.retire slot st)
    | .wait pa w => .next (s.askPlain slot st pa w)
    | .trap s st t => .next ((s.setStrand slot st).trap slot st t)

/-- Flushes the window, then switches the window stack (R205). -/
def execSetws (b c : BitVec 4) (s : State) : Out :=
  s.run (b :: c :: windowRegs) [] fun slot st =>
    if (st.getG b).toNat % 64 ≠ 0 then .next (s.trapHead slot st causeIllegalOperand)
    else
      match s.flushFrames slot 67 st with
      | .ok s st _ =>
        .next (s.retire slot { st with wsp := BitVec.ofNat 64 ((st.getG b).toNat % 2 ^ 52), wdepth := st.getG c })
      | .wait pa w => .next (s.askPlain slot st pa w)
      | .trap s st t => .next ((s.setStrand slot st).trap slot st t)

/-! ### Special registers (R210, R211) -/

/-- Registers marked S. -/
def srPrivileged (k : Nat) : Bool := 0x18 ≤ k && k ≤ 0x1B

/-- K8 names a register. -/
def srExists (k : Nat) : Bool :=
  k ≤ 5 || (8 ≤ k && k ≤ 0x12) || srPrivileged k

/-- Registers that `SWR` may write at the level that reaches them. -/
def srWritable (k : Nat) : Bool := k == 0x0A || k == 0x0F || (0x10 ≤ k && k ≤ 0x12) || srPrivileged k

/-- `sr.fflags` and `sr.lost` wait for the accesses in flight that may set them (R212). -/
def srWaits (k : Nat) : Bool := k == 0x0A || k == 0x0F

/-- `sr.budget` (R58): µJ left before the next event, all ones when BUDGET is 0. -/
def State.budgetLeft (s : State) (st : Strand) : Word :=
  match s.launchOf st.lid with
  | none => BitVec.allOnes 64
  | some l =>
    let b := recBudget l.record
    if b = 0 then BitVec.allOnes 64 else BitVec.ofNat 64 (b - l.energy % b)

/-- The content of a special register (R210). -/
def State.readSr (s : State) (st : Strand) (k : Nat) : Word :=
  match k with
  | 0x00 => BitVec.ofNat 64 st.ordStrand
  | 0x01 => BitVec.ofNat 64 st.ordCore
  | 0x02 => BitVec.ofNat 64 st.ordQuad
  | 0x03 => BitVec.ofNat 64 st.ordDie
  | 0x04 => st.bond
  | 0x05 => BitVec.ofNat 64 (s.tenantOf st)
  | 0x08 => BitVec.ofNat 64 s.time
  | 0x09 => st.status
  | 0x0A => st.fflags.setWidth 64
  | 0x0B => st.shape.setWidth 64
  | 0x0C => st.wsp
  | 0x0D => st.wdepth
  | 0x0E => s.budgetLeft st
  | 0x0F => st.lost.setWidth 64
  | 0x10 => st.getLc 0
  | 0x11 => st.getLc 1
  | 0x12 => st.getLc 2
  | 0x18 => st.tvec
  | 0x19 => st.epc
  | 0x1A => st.cause
  | _ => st.tval

/-- A write of a special register; reserved bits stay zero. -/
def Strand.writeSr (st : Strand) (k : Nat) (v : Word) : Strand :=
  match k with
  | 0x0A => { st with fflags := v.setWidth 6 }
  | 0x0F => { st with lost := v.setWidth 2 }
  | 0x10 => st.setLc 0 v
  | 0x11 => st.setLc 1 v
  | 0x12 => st.setLc 2 v
  | 0x18 => { st with tvec := v }
  | 0x19 => { st with epc := v }
  | 0x1A => { st with cause := v &&& 0xFFF }
  | _ => { st with tval := v }

/-- gA := the special register numbered K8 (R210). -/
def execSrd (a : BitVec 4) (k8 : BitVec 8) (s : State) : Out :=
  s.run [a] [] fun slot st =>
    if !srExists k8.toNat then .next (s.trapHead slot st causeIllegalOperand)
    else if srPrivileged k8.toNat && !st.sRights then .next (s.trapHead slot st causePrivilege)
    else if srWaits k8.toNat && !s.drained slot then .next s
    else .next (s.setWord slot st a (s.readSr st k8.toNat))

/-- The special register numbered K8 := gB (R210). -/
def execSwr (b : BitVec 4) (k8 : BitVec 8) (s : State) : Out :=
  s.run [b] [] fun slot st =>
    if !(srExists k8.toNat && srWritable k8.toNat) then .next (s.trapHead slot st causeIllegalOperand)
    else if srPrivileged k8.toNat && !st.sRights then .next (s.trapHead slot st causePrivilege)
    else if srWaits k8.toNat && !s.drained slot then .next s
    else .next (s.retire slot (st.writeSr k8.toNat (st.getG b)))

/-- A line arrives in the strand's fetch buffer and is checked (R163, R165, R168): an illegal line, or a program counter that
is no head of it, is the illegal-line trap at that address. -/
def execInstructionLineFetch (slot : Nat) (s : State) : Out :=
  match s.strandAt slot with
  | none => .next s
  | some st =>
    let a := st.pc.toNat / 64 * 64
    let held := match st.fetch with | some (x, _) => x.toNat == a | none => false
    if held then .next s
    else
      match s.readLine slot st a with
      | .error t => .next (s.fetchStop slot st t)
      | .ok (l, s) =>
        match checkLine l with
        | .error _ => .next (s.trap slot st (trapOf causeIllegalLine 0 st.pc.toNat))
        | .ok _ =>
          if isHead l st.pc.toNat then .next (s.setStrand slot { st with fetch := some (BitVec.ofNat 52 a, l) })
          else .next (s.trap slot st (trapOf causeIllegalLine 0 st.pc.toNat))

/-- The strand is not ready for 8 × K8 cycles, and until every other strand of the core that was ready has issued once
(R210) (DEDUCED, log entry 28). -/
def execYield (k8 : BitVec 8) (s : State) : Out :=
  s.run [] [] fun slot st =>
    let others := (s.strands.filter fun e => coreOf e.1 == coreOf slot && e.1 != slot && s.readyNow e.1 e.2).map Prod.fst
    let s := s.retire slot st
    match s.strandAt slot with
    | none => .next s
    | some st => .next (s.setStrand slot { st with wait := .yielding (s.time + 8 * k8.toNat) others })

/-- The cycles of a `YIELD` have passed, and the strands that were ready have issued (R210). -/
def execYieldExpiry (slot : Nat) (s : State) : Out :=
  match s.strandAt slot with
  | none => .next s
  | some st =>
    match st.wait with
    | .yielding t others =>
      if others.isEmpty then
        .next { (s.setStrand slot { st with wait := .ready }) with time := max s.time t }
      else .next s
    | _ => .next s

/-- One frame moves between the register file and local store, in a cycle in which no strand of the core is ready (R59, R191): the oldest
of the register file, or the newest of local store. -/
def execWindowSpillFill (slot : Nat) (fill : Bool) (s : State) : Out :=
  match s.strandAt slot with
  | none => .next s
  | some st =>
    if s.strands.any fun e => coreOf e.1 == coreOf slot && s.readyNow e.1 e.2 then .next s
    else if fill then
      if st.rf.length < 3 && !st.ls.isEmpty then .next (s.setStrand slot st.fill) else .next s
    else if !st.rf.isEmpty && st.ls.length < 64 then .next (s.setStrand slot st.spill)
    else .next s

end Sys2Proof.Machine
end

