-- ==== Sys2Proof/Machine/Migrate.lean ====
section
/-! DEFINITION. Migration of strands (spec/02_execution.md R62 to R64; spec/10_memory_sync.md R258; spec/21_faults_execution.md
R377). -/

namespace Sys2Proof.Machine

/-! ### Room on a core (R35) -/

/-- The strands of a core. -/
def State.strandsOf (s : State) (core : Nat) : List (Nat × Strand) := s.strands.filter fun e => coreOf e.1 == core

/-- Packets that have a slot and local store of a core promised to them. -/
def State.promised (s : State) (core : Nat) : Nat := (s.coreAt core).inbox.length

/-- The lowest free slot of a core that is not kept for another strand. -/
def State.freeSlotBut (s : State) (core : Nat) (kept : List Nat) : Option Nat :=
  ((List.range 16).map (16 * core + ·)).find? fun n => (s.strandAt n).isNone && !kept.contains n

/-- The lowest free slot of a core. -/
def State.freeSlot (s : State) (core : Nat) : Option Nat := s.freeSlotBut core []

def State.freeSlots (s : State) (core : Nat) : Nat := 16 - (s.strandsOf core).length

/-- The lowest start of n free units among `total`, given the ranges in use (DESIGN CHOICE, log entry 12). -/
def freeRange (used : List (Nat × Nat)) (total n : Nat) : Option Nat :=
  (List.range (total + 1 - n)).find? fun b => used.all fun u => decide (b + n ≤ u.1) || decide (u.1 + u.2 ≤ b) || u.2 == 0

/-- The vector registers and the local-store units in use on a core. -/
def State.usedV (s : State) (core : Nat) : List (Nat × Nat) := (s.strandsOf core).map fun e => (e.2.vbase, e.2.vcount)
def State.usedL (s : State) (core : Nat) : List (Nat × Nat) := (s.strandsOf core).map fun e => (e.2.lsbase, e.2.lslen)

/-- A strand with the place that packing gives its allocations, and the first free places after it. -/
structure Packed where
  slot : Nat
  old : Strand
  new : Strand
  deriving DecidableEq, Repr

/-- The strands of a core with their allocations packed from the bottom, in the order of their slots. -/
def packAllocations : Nat → Nat → List (Nat × Strand) → List Packed
  | _, _, [] => []
  | v, l, e :: r =>
    { slot := e.1, old := e.2, new := { e.2 with vbase := v, lsbase := l } }
      :: packAllocations (v + e.2.vcount) (l + e.2.lslen) r

/-- A core's allocations packed, so that R35 depends on totals alone; the contents move with them. -/
def State.compact (s : State) (core : Nat) : State :=
  let ps := packAllocations 0 0 (s.strandsOf core)
  let pool := s.pool.filter fun e => e.1 / 64 != core
  let pool := ps.foldl (fun m p => (List.range p.old.vcount).foldl (fun m i =>
    SMap.set 0 m (64 * core + p.new.vbase + i) (SMap.get 0 s.pool (64 * core + p.old.vbase + i))) m) pool
  let mine := s.localMem.filter fun e => e.1 / 2 ^ 18 == core
  let rest := s.localMem.filter fun e => e.1 / 2 ^ 18 != core
  let mem := mine.foldl (fun m e =>
    match ps.find? fun p => decide (4096 * p.old.lsbase ≤ e.1 % 2 ^ 18) && decide (e.1 % 2 ^ 18 < 4096 * (p.old.lsbase + p.old.lslen)) with
    | some p => SMap.set 0 m (2 ^ 18 * core + 4096 * p.new.lsbase + (e.1 % 2 ^ 18 - 4096 * p.old.lsbase)) e.2
    | none => m) rest
  { s with pool := pool, localMem := mem, strands := ps.foldl (fun m p => SMap.put m p.slot p.new) s.strands }

/-! ### Moving -/

/-- A strand may migrate (R62). One that waits in `MWAIT` issues nothing, so none that issues has a monitor armed. -/
def Strand.eligible (st : Strand) : Bool := st.vcount == 0 && st.lslen == 1 && st.loops.isEmpty

/-- A core that may take a migrating strand of a tenant: inside its current bays, neither leaving nor entering, with a free slot and
4 KiB of free local store (R62, R79). Capacity that a die has reserved for a gang head does not keep a migrating strand out
(DESIGN CHOICE, log entry 37). -/
def State.takesMigrant (s : State) (tenant core : Nat) : Bool :=
  s.holder core == some tenant && (s.coreAt core).phase == .running
    && decide (s.promised core < s.freeSlots core)
    && decide (((s.usedL core).map Prod.snd).sum + 1 + s.promised core ≤ 64)

/-- The lowest core of a quad, other than the strand's own, that may take it; also where the quad is the strand's own
(DESIGN CHOICE, log entry 37). -/
def State.migrationTarget (s : State) (tenant own quad : Nat) : Option Nat :=
  if 192 ≤ quad then none
  else ((List.range 4).map (4 * quad + ·)).find? fun c => c != own && s.takesMigrant tenant c

/-- The seven masks as 896 bytes, m1 first (R62). -/
def Strand.maskBytes (st : Strand) : Nat :=
  packElems 1024 ((List.range 7).map fun i => (st.masks.toList.getD (i + 1) 0).toNat)

/-- n bytes of the memory stack written or read as frames of 64 bytes, from `sr.wsp` on. -/
def State.stackWrite (s : State) (slot : Nat) : Nat → Nat → Strand → Nat → FrameResult
  | 0, _, st, _ => .ok s st 0
  | n + 1, off, st, v =>
    match s.stackIo slot st ((st.wsp.toNat + off) % 2 ^ 52) (some (BitVec.ofNat 512 v)) with
    | .ok s st _ => State.stackWrite s slot n (off + 64) st (v / 2 ^ 512)
    | r => r

def State.stackRead (s : State) (slot : Nat) : Nat → Nat → Strand → FrameResult
  | 0, _, st => .ok s st 0
  | n + 1, off, st =>
    match s.stackIo slot st ((st.wsp.toNat + off) % 2 ^ 52) none with
    | .ok s st v =>
      match State.stackRead s slot n (off + 64) st with
      | .ok s st w => .ok s st (v + 2 ^ 512 * w)
      | r => r
    | r => r

/-- Any of m1 to m7 is nonzero. -/
def Strand.masksUsed (st : Strand) : Bool := (st.masks.toList.drop 1).any (· != 0)

/-- The steps of R62 up to the packet: the frames and the masks are written to memory, and the packet travels to the core. A fault leaves
frames that are written (R205), and none of the masks (R303). Until the accesses of the strand and of its core are performed it waits; `dst` is the register of `MIGR`. -/
def State.depart (s : State) (slot : Nat) (st : Strand) (core : Nat) (dst : Option (BitVec 4)) : Out :=
  if !s.drained slot || !s.accessesPerformed (coreOf slot) then .next s
  else
    match s.flushFrames slot 67 st with
    | .wait pa w => .next (s.askPlain slot st pa w)
    | .trap s st t => .next ((s.setStrand slot st).trap slot st t)
    | .ok t u _ =>
      let w := if u.masksUsed then t.stackWrite slot 14 0 u u.maskBytes else .ok t u 0
      match w with
      | .wait pa w => .next (s.askPlain slot st pa w)
      | .trap _ _ x => .next ((t.setStrand slot u).trap slot u x)
      | .ok s st _ =>
        -- `MIGR` resumes at the next head; a moved access is executed again
        let gone := if dst.isSome then st.advance else st
        let p : Packet := { source := slot, strand := { gone with rrec := none, fetch := none }, dst := dst }
        let c := s.coreAt core
        .next (((s.setCore core { c with inbox := c.inbox ++ [p] }).setStrand slot { st with wait := .migrating core }).issued slot)

/-- The slot that a packet left is freed, unless its core has been saved since. -/
def State.freeSource (s : State) (core : Nat) (p : Packet) : State :=
  match s.strandAt p.source with
  | some st =>
    if st.wait == .migrating core && st.lid == p.strand.lid then
      let s := s.dropStrand p.source
      { s with
        strands := s.strands.map fun (e : Nat × Strand) => if coreOf e.1 = coreOf p.source then (e.1, e.2.sawIssue p.source) else e }
    else s
  | none => s

/-- What comes of a packet that a core accepts: no room for it, a wait for a line of its memory stack, or the strand in its slot. -/
inductive Placed where
  | full
  | wait (slot : Nat) (st : Strand) (pa : Nat) (write : Bool)
  | here (s : State)

/-- A packet finds its place on a core: the source slot is freed, and the strand takes a slot of the core (R62), none of those kept for
strands that are restored after it. Written masks are read back; where that read faults, their values are not stated (DESIGN CHOICE, log
entry 14). -/
def State.placePacket (s : State) (core : Nat) (p : Packet) (slots : List Nat) (ranges : List (Nat × Nat)) : Placed :=
  match s.freeSlotBut core slots, freeRange (s.usedL core ++ ranges) 64 1 with
  | some slot, some l =>
    let s := s.freeSource core p
    let st := { p.strand with wait := .ready, lsbase := l, vbase := 0, fetch := none }
    let st := match p.dst with
      | some d => st.setG d 1
      | none => st
    if p.strand.masksUsed then
      match s.stackRead slot 14 0 st with
      | .ok s st v =>
        .here (s.setStrand slot
          { st with masks := Vector.ofFn fun i : Fin 8 => if i.val = 0 then st.masks[0] else BitVec.ofNat 1024 (elemOf v 1024 (i.val - 1)) })
      | .wait pa w => .wait slot st pa w
      | .trap _ _ _ =>
        .here (s.setStrand slot
          { st with masks := Vector.ofFn fun i : Fin 8 => if i.val = 0 then st.masks[0] else Config.freeMask (8 * s.free + i.val) })
    else .here (s.setStrand slot st)
  | _, _ => .full

/-- Packets find their places in the order of their arrival: the state and those without room, or the first wait. -/
def State.placePackets (s : State) (core : Nat) (slots : List Nat) (ranges : List (Nat × Nat)) :
    List Packet → Except (Nat × Strand × Nat × Bool) (State × List Packet)
  | [] => .ok (s, [])
  | p :: r =>
    match s.placePacket core p slots ranges with
    | .wait slot st pa w => .error (slot, st, pa, w)
    | .here s => State.placePackets s core slots ranges r
    | .full => (State.placePackets s core slots ranges r).map fun x => (x.1, p :: x.2)

/-- The target core accepts a context packet and the strand resumes there (R62); in a core that is leaving, the packet stays parked
(R64). -/
def execMigrationPacketAccept (core : Nat) (s : State) : Out :=
  let c := s.coreAt core
  match c.inbox with
  | [] => .next s
  | p :: rest =>
    if c.phase = .running then
      match s.placePacket core p [] [] with
      | .here t => .next (t.setCore core { t.coreAt core with inbox := rest })
      | .wait slot st pa w => .next (s.askPlain slot st pa w)
      | .full => .next s
    else .next s

end Sys2Proof.Machine
end

