-- ==== Sys2Proof/Machine/Access.lean ====
section
/-! DEFINITION. Accesses of strands: judged whole at issue (spec/10_memory_sync.md R239, R240; spec/13_traps_context.md R306), then
performed piece by piece under the ordering rules (spec/06_ordering.md R139 to R154; spec/22_faults_memory.md R241, R387). -/

namespace Sys2Proof.Machine

/-! ### At issue -/

/-- A piece before translation. -/
structure PrePiece where
  elem : Nat
  va : Nat
  bytes : Nat
  val : Nat
  nib : Option Bool
  deriving DecidableEq, Repr

/-- The pieces of one element of n bytes: one when it is aligned, and otherwise its bytes (R139). -/
def elemPieces (elem va n val : Nat) : List PrePiece :=
  if va % n = 0 then [{ elem := elem, va := va % 2 ^ 52, bytes := n, val := val % 2 ^ (8 * n), nib := none }]
  else (List.range n).map fun k =>
    { elem := elem, va := (va + k) % 2 ^ 52, bytes := 1, val := val / 2 ^ (8 * k) % 256, nib := none }

/-- The fault with the lowest address. -/
def lowestFault (l : List (Nat × Trap)) : Option Trap :=
  (l.foldl (fun (b : Option (Nat × Trap)) x => match b with
    | none => some x
    | some y => if x.1 < y.1 then some x else some y) none).map Prod.snd

/-- What the judgement of an access finds. -/
structure Judged where
  pieces : List Piece
  entries : List TlbEntry
  deriving DecidableEq, Repr

/-- Every byte of an access translated and checked, before any is performed (R240): translation faults first, then
physical-address faults, each at its first address. `ctl` says that the instruction may reach the control windows. -/
def State.judge (s : State) (c : Ctx) (r : Right) (ctl : Bool) (ps : List PrePiece) : Except Trap Judged :=
  let write := r == .write || r == .readWrite
  let tr := ps.map fun p => (p, s.translate c p.va r)
  match lowestFault (tr.filterMap fun x => match x.2 with | .error t => some (x.1.va, t) | .ok _ => none) with
  | some t => .error t
  | none =>
    let ph := tr.map fun x =>
      match x.2 with
      | .error _ => (x.1, (none : Option Nat))
      | .ok e =>
        match s.physical c (leafPa e.level e.entry.toNat x.1.va) write with
        | some pa => if isControl pa && !(ctl && (x.1.bytes == 4 || x.1.bytes == 8)) then (x.1, none) else (x.1, some pa)
        | none => (x.1, none)
    match lowestFault (ph.filterMap fun x => match x.2 with | none => some (x.1.va, trapOf causePhysical r.acc x.1.va) | some _ => none) with
    | some t => .error t
    | none =>
      .ok {
        pieces := ph.map fun x =>
          { elem := x.1.elem, pa := x.2.getD 0, bytes := x.1.bytes, val := x.1.val, nib := x.1.nib, done := false, refused := false }
        entries := (tr.filterMap fun x => match x.2 with | .ok e => some e | .error _ => none).dedup }

/-- The translations used are kept by the TLBs. -/
def State.fillAll (s : State) (core : Nat) (es : List TlbEntry) : State := es.foldl (fun s e => s.tlbFill core e) s

/-- The request that an access sends for a line that its quad lacks (R119, R124, R127). -/
def Access.request (a : Access) (whole : Bool) (pa : Nat) : ReqKind :=
  if a.kind.writes then .getO whole
  else if a.lease ≠ 0 ∧ !isHostMem pa then .getL a.lease
  else .getS

/-- The access writes every byte of a line (R241). -/
def Access.coversLine (a : Access) (line : Nat) : Bool :=
  let bytes := a.pieces.flatMap fun p => if lineOf p.pa = line ∧ p.nib = none then (List.range p.bytes).map (p.pa + ·) else []
  decide (bytes.dedup.length = 128)

/-- A store piece belongs to a store of its whole line. -/
def Access.whole (a : Access) (pa : Nat) : Bool := a.kind == .store && a.coversLine (lineOf pa)

/-- A load piece of a class above 0 from a peer's home memory is served by a leased copy (R127). -/
def Access.leasesPeer (a : Access) (pa : Nat) : Bool := a.kind == .load && a.lease != 0 && isPeer pa && pa / 2 ^ 40 % 4 == 0

/-- The data of the quad's leased copy of a peer's line, for a request of the access. -/
def State.peerCopy (s : State) (agent : Nat) (a : Access) (pa : Nat) : Option (BitVec 1024) :=
  match s.copyAt agent (lineOf pa) with
  | some c => if c.serves a.tenant a.key false then c.data else none
  | none => none

/-- A piece lacks its line: the quad holds no copy that serves it, and the home has not answered (R119, R122). -/
def State.lacks (s : State) (agent : Nat) (a : Access) (pa : Nat) : Bool :=
  if a.leasesPeer pa then !s.isFenced pa && (s.peerCopy agent a pa).isNone
  else (isDevice pa || isHostMem pa) && !s.lineReady agent pa a.tenant a.key a.kind.writes

/-- The lines that an access still needs are asked for. -/
def State.askLines (s : State) (core : Nat) (a : Access) : State :=
  let ls := ((a.pieces.filter fun p => !p.done && s.lacks (agentOf core) a p.pa).map fun p => lineOf p.pa).dedup
  ls.foldl (fun s l =>
    s.requestLine (agentOf core) core a.tenant a.key l (a.request (a.whole (128 * l)) (128 * l))) s

/-- The answers that an access has used up: those for the lines on which its last pieces are now done (`a` before, `b` after). -/
def State.useAnswers (s : State) (core : Nat) (a b : Access) : State :=
  if s.homes.served.isEmpty then s
  else
    let left := (b.pieces.filter fun p => !p.done).map fun p => lineOf p.pa
    (((a.pieces.filter fun p => !p.done).map fun p => lineOf p.pa).dedup.filter fun l => !left.contains l).foldl
      (fun s l => s.useAnswer (agentOf core) l a.kind.writes) s

/-- A new access of the strand. -/
def newAccess (s : State) (slot : Nat) (st : Strand) (kind : AccessKind) (t : Nat) (ps : List Piece) (dest : Dest) (o : MemOps) :
    Access :=
  { id := s.ids, slot := slot, kind := kind, t := t, pieces := ps, dest := dest, ord := o.ord, scope := o.scope
    lease := o.lease, tenant := s.tenantOf st, key := s.keyOfAsid (s.asidOf st), lid := st.lid, asid := s.asidOf st, sright := st.sRights, lost := 0 }

/-- The access enters the core's queue; an access of no bytes is complete at once. -/
def State.launchAccess (s : State) (slot : Nat) (a : Access) : State :=
  let s := { s with ids := s.ids + 1 }
  if a.pieces.isEmpty then s else (s.askLines (coreOf slot) a).enqueue (coreOf slot) a

/-- A page of the access is marked for walking and lies in another quad's scratchpad (R62): the quad. -/
def State.walkQuad (_s : State) (slot : Nat) (j : Judged) : Option Nat :=
  if j.entries.any fun e => pteWalk e.entry.toNat then
    j.pieces.findSome? fun p =>
      let q := p.pa / 2 ^ 24 % 256
      if isScratch p.pa && q != agentOf (coreOf slot) then some q else none
  else none

/-- The core to which a load or store moves an eligible strand (R62, R63, R240); one whose packet was refused is performed where it is
(R377). -/
def State.walkTarget (s : State) (slot : Nat) (st : Strand) (kind : AccessKind) (j : Judged) : Option Nat :=
  if !st.eligible || st.since.isSome || !(kind == .load || kind == .store) then none
  else
    match s.walkQuad slot j with
    | some q => s.migrationTarget (s.tenantOf st) (coreOf slot) q
    | none => none

/-- Refused messages that a core's store queue holds: remote stores, by 128-byte pieces (R377, R378). -/
def State.refusedStores (s : State) (core : Nat) : List (Nat × Nat) :=
  ((s.coreAt core).queue.flatMap fun a => (a.pieces.filter (·.refused)).map fun p => (a.id, p.pa / 128)).eraseDups

/-- The store queue holds 128 refused stores, and the access is a remote store (R378). -/
def State.storesRefused (s : State) (core : Nat) (kind : AccessKind) (ps : List Piece) : Bool :=
  kind == .store && (ps.any fun p => isScratch p.pa && p.pa / 2 ^ 24 % 256 != agentOf core)
    && decide (128 ≤ (s.refusedStores core).length)

/-- A judged access issues: its translations are kept, it enters the core's queue, and the strand goes on. `more` changes the
strand once the access has issued. -/
def State.issueJudged (s : State) (slot : Nat) (st : Strand) (o : MemOps) (kind : AccessKind) (ps : List Piece)
    (es : List TlbEntry) (dest : Dest) (more : State → Strand → State × Strand) : Out :=
  if s.storesRefused (coreOf slot) kind ps then .next s
  else
  let s := s.fillAll (coreOf slot) es
  let s := s.launchAccess slot (newAccess s slot st kind o.tn ps dest o)
  let x := more s st
  .next (x.1.retire slot x.2)

/-- An access issues: misalignment has been judged; translation, windows, migration, then the queue and the next head. -/
def State.issueAccess (s : State) (slot : Nat) (st : Strand) (o : MemOps) (kind : AccessKind) (r : Right) (ctl : Bool)
    (ps : List PrePiece) (dest : Dest) (more : State → Strand → State × Strand) : Out :=
  match s.judge (s.ctxOf slot st) r ctl ps with
  | .error t => .next (s.trap slot st t)
  | .ok j =>
    match s.walkTarget slot st kind j with
    | some core => s.depart slot st core none
    | none => s.issueJudged slot st o kind j.pieces j.entries dest more

/-- The misaligned-access trap at an address, with the access kind (R304, R305). -/
def State.misaligned (s : State) (slot : Nat) (st : Strand) (acc va : Nat) : Out :=
  .next (s.trap slot st (trapOf causeMisaligned acc va))

/-! ### When an access may be performed -/

/-- Every piece of an access is performed. -/
def Access.complete (a : Access) : Bool := a.pieces.all (·.done)

/-- The core's earlier acquires, the strand's fences and, for a release, its accesses and those of its core, which happen before, allow the
access to begin (R141, R144, R147, R150). -/
def Access.mayBegin (a : Access) (earlier : List Access) : Bool :=
  (earlier.all fun x => !x.holdsBack a.slot && !(a.kind.writes && x.kind == .fence && x.slot == a.slot))
    && (!a.releases || earlier.all fun x => x.slot != a.slot && !x.kind.touches)

def piecesMeet (p q : Piece) : Bool := decide (p.pa < q.pa + q.bytes) && decide (q.pa < p.pa + p.bytes)

/-- Unperformed pieces of earlier accesses of the core to the same bytes (DESIGN CHOICE, log entry 9). -/
def blockers (earlier : List Access) (p : Piece) : List (Access × Piece) :=
  earlier.flatMap fun x => (x.pieces.filter fun q => !q.done && piecesMeet p q).map fun q => (x, q)

/-- Pieces of one access are performed in their order where they meet (R243, R245). -/
def Access.before (a : Access) (p : Piece) : List Piece :=
  a.pieces.takeWhile fun q => !(q.elem == p.elem && q.pa == p.pa && q.val == p.val && q.nib == p.nib)

/-- The value that the core's store queue gives a load piece: the latest earlier store of the core covers it, and no earlier load of
these bytes is outstanding (R147). A control register is always read at its block (R154). -/
def forwarded (earlier : List Access) (p : Piece) : Option Nat :=
  if isControl p.pa then none else
  match (blockers earlier p).getLast? with
  | some (x, q) =>
    if x.kind == .store && q.nib.isNone && decide (q.pa ≤ p.pa) && decide (p.pa + p.bytes ≤ q.pa + q.bytes)
        && (blockers earlier p).all (fun y => y.1.kind == .store) then
      some (q.val / 2 ^ (8 * (p.pa - q.pa)) % 2 ^ (8 * p.bytes))
    else none
  | none => none

/-- The access context of an access in flight. -/
def Access.ctx (a : Access) (core : Nat) : Ctx :=
  { agent := agentOf core, core := core, tenant := a.tenant, asid := a.asid, lid := a.lid, sright := a.sright, engine := false }

/-- The scratchpad of an address went with its die (R408): what was issued before then and is not yet performed reads a value that the spec does
not state, or writes nothing (DESIGN CHOICE, log entry 22). -/
def State.scratchGone (s : State) (pa : Nat) : Bool := isScratch pa && !s.dieUp (pa / 2 ^ 24 % 256 / 48)

/-- A load piece performed: its value, and whether it was lost; `count` says that it is the first of its access on its line, which
LOSTRD counts once, and `first` that no piece of its access was lost before it, since HOSTDISC counts accesses (DEDUCED, log entry 24). -/
def State.loadPiece (s : State) (core : Nat) (a : Access) (p : Piece) (ext : Option Nat) (count first : Bool) : State × Nat × Bool :=
  if isControl p.pa then
    let ok := if window p.pa = 0xF then a.sright else s.controlAdmits (a.ctx core) p.pa false
    (s, if ok then s.regRead p.pa p.bytes else 0, false)
  else if s.isFenced p.pa then (s, 0, true)
  else if s.scratchGone p.pa then (s, (Config.freeWord (2 ^ 20 * s.free + p.pa % 2 ^ 20)).toNat % 2 ^ (8 * p.bytes), false)
  else if isPeer p.pa then
    (s, match ext with | some v => v | none => (s.readPa p.pa a.key p.bytes).1, false)
  else if isHostMem p.pa && s.sys.portDown.getLsbD (window p.pa - 0xC) then (if first then s.count1 (sysCounter 0x30) else s, 0, true)
  else
    let r := s.readPa p.pa a.key p.bytes
    if r.2 then (if count then s.countLostRead a.tenant a.key p.pa else s, r.1, true) else (s, r.1, false)

/-- A store piece performed at its serialisation point; whether it was discarded, which LOSTWR counts once for an access on a line, and
PEERDISC and HOSTDISC once for an access (R411, R414; DEDUCED, log entry 24). -/
def State.storePiece (s : State) (core : Nat) (a : Access) (p : Piece) (count first : Bool) : State × Bool :=
  if isControl p.pa then
    let ok := if window p.pa = 0xF then a.sright else s.controlAdmits (a.ctx core) p.pa true
    (if ok then s.regWrite (.inr a.tenant) p.pa p.bytes p.val else s, false)
  else if s.isFenced p.pa then (if first then s.count1 (sysCounter 0x28) else s, true)
  else if s.scratchGone p.pa then (s, false)
  else if isHostMem p.pa && s.sys.portDown.getLsbD (window p.pa - 0xC) then (if first then s.count1 (sysCounter 0x30) else s, true)
  else
    let v := match p.nib with
      | none => p.val
      | some hi =>
        let old := (s.readByte p.pa a.key).1.toNat
        if hi then old % 16 + p.val % 16 * 16 else old / 16 * 16 + p.val % 16
    let s := if isPeer p.pa then s.dropCopy (agentOf core) (lineOf p.pa) else s
    let r := (s.touchCopy core (agentOf core) p.pa true).storeAt a.tenant a.key p.pa p.bytes v (a.whole p.pa)
    if r.2 && !count then (r.1.setSys s.sys, true) else r

/-- The new value of an atomic, none for a failed compare, and its flags (R247). -/
def atomicResult (op : AtomicOp) (t old v e : Nat) : Option Nat × FFlags :=
  let w := typeBits t
  let fit (x : Int) : Option Nat × FFlags := (some (wrapInt w x), 0)
  match op with
  | .add => fit (old + v)
  | .and => (some (old &&& v), 0)
  | .or => (some (old ||| v), 0)
  | .xor => (some (old ^^^ v), 0)
  | .min => if intOf v t < intOf old t then (some v, 0) else (some old, 0)
  | .max => if intOf old t < intOf v t then (some v, 0) else (some old, 0)
  | .swap => (some v, 0)
  | .cas => if old = e then (some v, 0) else (none, 0)
  | .fadd =>
    let r := fArith .add (decodeFloat old t) (decodeFloat v t) (.fin false 0 0) t 0 false 0
    (some r.1, r.2)

/-- The piece's place in the pod, host and quad networks lets it be performed now. -/
def State.placeReady (s : State) (core : Nat) (a : Access) (p : Piece) : Bool :=
  s.lineReady (agentOf core) p.pa a.tenant a.key a.kind.writes
    && (!isScratch p.pa || s.scratchGone p.pa || s.quadServes a.tenant (p.pa / 2 ^ 24 % 256) (p.pa % 2 ^ 24) p.bytes (agentOf core == p.pa / 2 ^ 24 % 256)
      (a.kind == .load) (a.kind == .store))
    && !p.refused

/-- The piece may be performed now, the store queue's own values apart. -/
def State.pieceReady (s : State) (core : Nat) (earlier : List Access) (a : Access) (p : Piece) : Bool :=
  (blockers earlier p).isEmpty && ((a.before p).all fun q => q.done || !(a.kind.writes && piecesMeet p q))
    && (!isControl p.pa || earlier.all fun x => x.slot != a.slot || x.pieces.all fun q => !isControl q.pa)
    && s.placeReady core a p

/-! ### The values of a completed load -/

/-- The value of an element from its pieces, in their order. -/
def assemble : List Piece → Nat
  | [] => 0
  | p :: r => p.val % 2 ^ (8 * p.bytes) + 2 ^ (8 * p.bytes) * assemble r

/-- Element e of a vector load of w-bit elements; none when it was not read. -/
def loadedElem (ps : List Piece) (w e : Nat) : Option Nat :=
  if w = 4 then
    ps.findSome? fun p =>
      match p.nib with
      | none => if p.elem = e then some (p.val % 16) else if p.elem + 1 = e then some (p.val / 16 % 16) else none
      | some hi => if p.elem = e then some (if hi then p.val / 16 % 16 else p.val % 16) else none
  else
    let mine := ps.filter fun p => p.elem == e
    if mine.isEmpty then none else some (assemble mine)

/-- Element i of a decoding load (R244): its rounded value and flags. -/
def taggedElem (ps : List Piece) (t fmt blog : Nat) (e : Int) : Nat × FFlags :=
  let v : Num × Bool :=
    if isGroupFmt fmt then
      match ps with
      | [] => (.fin false 0 0, false)
      | h :: d =>
        let w := groupElemBits fmt
        let k := groupIndex blog e * w % 8
        groupDecode h.val (assemble d / 2 ^ k % 2 ^ w) fmt
    else
      let w := plainBits fmt
      let k := if w = 4 then (e * 4 % 8).toNat else 0
      (decodeNum (assemble ps / 2 ^ k % 2 ^ w) (fmt - 1), false)
  let r := roundTo v.1 t 0 false 0
  (r.1, r.2 ||| flagIf v.2 flagNV)

/-- The destination of a completed access is written; its flags and lost bits reach the strand (R241). -/
def State.deliver (s : State) (a : Access) (v : Nat) (f : FFlags) : State :=
  match s.strandAt a.slot with
  | none => s
  | some st =>
    let ends := a.dest == .none && a.lost == 0 && f == 0
    if ends then s
    else
      let st := (st.setLost a.lost).raise f
      match a.dest with
      | .none => s.setStrand a.slot st
      | .scalar r t => s.setStrand a.slot (st.setG r (ext64 v t))
      | .vector vd t =>
        let w := typeBits t
        let old := (s.getV a.slot st vd.toNat).toNat
        let l := (List.range (elemCount t)).map fun i => (loadedElem a.pieces w i).getD (elemOf old w i)
        (s.setV a.slot st vd.toNat (packV w l)).setStrand a.slot (st.touchV vd.toNat)
      | .tagged vd t fmt blog e0 =>
        let w := typeBits t
        let old := (s.getV a.slot st vd.toNat).toNat
        let l := (List.range (elemCount t)).map fun i =>
          let mine := a.pieces.filter fun p => p.elem == i
          if mine.isEmpty then (elemOf old w i, (0 : FFlags)) else taggedElem mine t fmt blog (e0 + i)
        let st := st.raise (l.foldl (fun f x => f ||| x.2) 0)
        (s.setV a.slot st vd.toNat (packV w (l.map Prod.fst))).setStrand a.slot (st.touchV vd.toNat)

/-- An access replaced in its core's queue, or taken out once it is complete, with the fences that then are done. -/
def State.putAccess (s : State) (core : Nat) (a : Access) : State :=
  let c := s.coreAt core
  s.setCore core { c with
    queue := if a.complete then pruneFences [] (c.queue.filter fun x => x.id != a.id)
      else c.queue.map fun x => if x.id = a.id then a else x }

/-- The accesses of a core before the one with an id, and that one. -/
def splitAccess (id : Nat) : List Access → Option (List Access × Access)
  | [] => none
  | x :: r => if x.id = id then some ([], x) else (splitAccess id r).map fun y => (x :: y.1, y.2)

/-- The stamp that an sc access takes when it is performed (R150). -/
def State.stampFor (s : State) (core : Nat) (a : Access) : State :=
  match a.pieces.head? with
  | some p => if a.ord = 4 then s.scStamp core p.pa else s
  | none => s

/-- n bytes taken from a list, little-endian, and the rest. -/
def takeBytes (n : Nat) (l : List Byte) : Option Nat × List Byte :=
  if l.length < n then (none, l) else (some (leOfBytes (l.take n)), l.drop n)

/-- A leased copy of a peer's line arrives, with the bytes that the environment gives (R127): it is kept until its expiry (R124). Answers the
line's data; none where no request for it is on its way. -/
def State.takePeer (s : State) (core : Nat) (a : Access) (pa : Nat) (ext : List Byte) : Option (State × BitVec 1024 × List Byte) :=
  let agent := agentOf core
  let line := lineOf pa
  match (s.reqsAt line).find? fun r => r.agent == agent && r.kind == .getL a.lease with
  | none => none
  | some r =>
    let x := takeBytes 128 ext
    let d : BitVec 1024 := BitVec.ofNat 1024 (match x.1 with | some v => v | none => (s.readPa (128 * line) a.key 128).1)
    let s := s.dropReqs line (· == r)
    let expiry := r.issued + leaseLen a.lease.toNat - 8
    if s.time < expiry then
      let s := s.putCopy agent line core a.tenant a.key (.leased expiry)
      match s.copyAt agent line with
      | some c => some (s.setCopy agent line { c with data := some d }, d, x.2)
      | none => some (s, d, x.2)
    else some (s, d, x.2)

/-- A load piece performed at its place, with what the environment gives for it: the state, the value, whether it was lost, and what is
left; none where its leased line has not arrived. -/
def State.loadHere (s : State) (core : Nat) (a : Access) (p : Piece) (ext : List Byte) (count first : Bool) :
    Option (State × Nat × Bool × List Byte) :=
  let part (d : BitVec 1024) : Nat := d.toNat / 2 ^ (8 * (p.pa % 128)) % 2 ^ (8 * p.bytes)
  if a.leasesPeer p.pa && !s.isFenced p.pa then
    match s.peerCopy (agentOf core) a p.pa with
    | some d => some (s, part d, false, ext)
    | none => (s.takePeer core a p.pa ext).map fun x => (x.1, part x.2.1, false, x.2.2)
  else
    let e := if isPeer p.pa then takeBytes p.bytes ext else (none, ext)
    let x := s.loadPiece core a p e.1 count first
    some (x.1.touchCopy core (agentOf core) p.pa false, x.2.1, x.2.2, e.2)

/-- The enabled load pieces among those named, by their places in the access, are performed, in their order; peer bytes come from the
environment. `n` is the place of the first piece listed, and `a` carries what has been lost so far. -/
def State.performLoads (s : State) (core : Nat) (earlier : List Access) (a : Access) (pick : Nat → Bool) (n : Nat) :
    List Nat → List Piece → List Byte → State × List Piece × BitVec 2
  | _, [], _ => (s, [], a.lost)
  | seen, p :: r, ext =>
    if p.done || !pick n then
      let q := State.performLoads s core earlier a pick (n + 1) seen r ext
      (q.1, p :: q.2.1, q.2.2)
    else
      match forwarded earlier p with
      | some v =>
        let q := State.performLoads s core earlier a pick (n + 1) seen r ext
        (q.1, { p with val := v, done := true } :: q.2.1, q.2.2)
      | none =>
        match if s.pieceReady core earlier a p then s.loadHere core a p ext (!seen.contains (lineOf p.pa)) (!a.lost.getLsbD 0) else none with
        | some x =>
          let a : Access := { a with lost := a.lost ||| (if x.2.2.1 then 1 else 0) }
          let q := State.performLoads x.1 core earlier a pick (n + 1) (lineOf p.pa :: seen) r x.2.2.2
          (q.1, { p with val := x.2.1, done := true } :: q.2.1, q.2.2)
        | none =>
          let q := State.performLoads s core earlier a pick (n + 1) seen r ext
          (q.1, p :: q.2.1, q.2.2)

/-- The enabled store pieces among those named, by their places in the access, are performed, in their order; `a` carries what has been
lost so far. -/
def State.performStores (s : State) (core : Nat) (earlier : List Access) (a : Access) (pick : Nat → Bool) :
    List Piece → List Piece → State × List Piece × BitVec 2
  | done, [] => (s, done, a.lost)
  | done, p :: r =>
    if p.done || !pick done.length || !s.pieceReady core earlier { a with pieces := done ++ p :: r } p then
      State.performStores s core earlier a pick (done ++ [p]) r
    else
      let x := s.storePiece core a p (!(done ++ r).any fun q => q.done && lineOf q.pa == lineOf p.pa) (!a.lost.getLsbD 1)
      State.performStores x.1 core earlier { a with lost := a.lost ||| (if x.2 then 2 else 0) } pick (done ++ [{ p with done := true }]) r

/-- The home has answered for a lost line that a store writes whole, and its horizon has passed (R119, R125). -/
def State.wholeAnswered (s : State) (core : Nat) (a : Access) (line : Nat) : Bool :=
  s.isLost (128 * line) && !s.homeLost (128 * line) && s.answered (agentOf core) line a.tenant a.key true && decide (s.horizonOf line ≤ s.time)

/-- The lost lines that a store writes whole and for which the home has answered are written, each as one (R119, R241). -/
def State.storeWholeLines (s : State) (core : Nat) (earlier : List Access) (a : Access) : State × List Piece :=
  let mine (l : Nat) : List Piece := a.pieces.filter fun p => lineOf p.pa == l
  let ls := ((a.pieces.map fun p => lineOf p.pa).dedup).filter fun l =>
    a.whole (128 * l) && s.wholeAnswered core a l && (mine l).all fun p => !p.done && (blockers earlier p).isEmpty
  let s := (a.pieces.filter fun p => ls.contains (lineOf p.pa)).foldl (fun s p =>
    ((s.storeAt a.tenant a.key p.pa p.bytes p.val true).1)) s
  (ls.foldl (fun s l => s.fillLlc core a.tenant a.key l true) s,
    a.pieces.map fun p => if ls.contains (lineOf p.pa) then { p with done := true } else p)

/-- An atomic performed: its read and write adjacent (R246, R247). On a lost line it returns zero and its write is discarded, whatever it
would have written, and an addition raises no flags (R241; DEDUCED, log entry 24). -/
def State.performAtomic (s : State) (core : Nat) (a : Access) (op : AtomicOp) (v e : Nat) (p : Piece) : State :=
  let lost := s.isLost p.pa || (isDevice p.pa && s.keyCleared a.key) || s.isFenced p.pa
    || (isHostMem p.pa && s.sys.portDown.getLsbD (window p.pa - 0xC))
  let done : Access := { a with pieces := [{ p with done := true }] }
  if lost then
    let s := if s.isLost p.pa && !s.isFenced p.pa then (s.loadPiece core a p none true true).1 else s
    let s := (s.storePiece core a { p with val := 0 } true true).1
    ((s.useAnswers core a done).putAccess core done).deliver { done with lost := 3 } 0 0
  else
    let x := s.loadPiece core a p none true true
    let r := atomicResult op a.t x.2.1 v e
    let s := match r.1 with
      | some n => (x.1.storePiece core a { p with val := n } true true).1
      | none => x.1
    (s.putAccess core done).deliver done x.2.1 r.2

/-- The pieces named, each of them single-copy atomic and performed in no fixed order (R139): all of them for an empty list. -/
def picked (pieces : List Nat) (n : Nat) : Bool := pieces.isEmpty || pieces.contains n

end Sys2Proof.Machine
end

