-- ==== Sys2Proof/Machine/LoadStore.lean ====
section
/-! DEFINITION. Loads, stores, gathers and atomics as they issue (spec/10_memory_sync.md R237 to R247); Access.lean performs
them. -/

namespace Sys2Proof.Machine

/-! ### Shared steps -/

/-- The types of the scalar accesses: 0 to 7. -/
def intType (t : Nat) : Bool := decide (t < 8)

/-- Runs a memory-class instruction: the registers it names, then its order 3 conditions (R237, R306). -/
def State.runMem (s : State) (o : MemOps) (c : MemCheck) (gs : List (BitVec 4)) (vs : List (BitVec 5))
    (other : Strand → Bool) (f : Nat → Strand → Out) : Out :=
  s.run (o.a :: gs) vs fun slot st =>
    if c.ok o && other st then f slot st else .next (s.trapHead slot st causeIllegalOperand)

/-- The first unaligned element of a list, as elements (element, address, bytes, value), where the ordering asks for alignment
(R239): R305 says 'address' without saying which (DEDUCED, log entry 25). -/
def firstUnaligned (must : Bool) (l : List (Nat × Nat × Nat × Nat)) : Option Nat :=
  if must then (l.find? fun x => x.2.1 % x.2.2.1 != 0).map fun x => x.2.1 else none

/-- The pieces of a list of elements. -/
def listPieces (l : List (Nat × Nat × Nat × Nat)) : List PrePiece := l.flatMap fun x => elemPieces x.1 x.2.1 x.2.2.1 x.2.2.2

/-- No change of the strand when the access issues. -/
def asIs (s : State) (st : Strand) : State × Strand := (s, st)

/-! ### Scalar loads and stores (R242) -/

/-- gDST := ext64(memory[ea(gA)], T) (R242). -/
def execLd (o : MemOps) (s : State) : Out :=
  s.runMem o { types := intType, ords := [0, 1, 4], lease := true } [dstReg o] [] (fun _ => true) fun slot st =>
    let n := typeBits o.tn / 8
    let va := effective (st.getG o.a) (o.offset true)
    if o.ord ≠ 0 ∧ va % n ≠ 0 then s.misaligned slot st accRead va
    else s.issueAccess slot st o .load .read true (elemPieces 0 va n 0) (.scalar (dstReg o) o.tn) asIs

/-- memory[ea(gA)] := gDST[w−1:0] (R242). -/
def execSt (o : MemOps) (s : State) : Out :=
  s.runMem o { types := intType, ords := [0, 2, 4], lease := false } [dstReg o] [] (fun _ => true) fun slot st =>
    let n := typeBits o.tn / 8
    let va := effective (st.getG o.a) (o.offset true)
    if o.ord ≠ 0 ∧ va % n ≠ 0 then s.misaligned slot st accWrite va
    else s.issueAccess slot st o .store .write true (elemPieces 0 va n (st.getG (dstReg o)).toNat) .none asIs

/-- Bytes of the strand's private local store, and the place of its offset 0 in the core's (R35, R242): the window stack is the
first unit of 4 KiB. -/
def Strand.localBytes (st : Strand) : Nat := (st.lslen - 1) * 4096
def Strand.localBase (st : Strand) : Nat := (st.lsbase + 1) * 4096

/-- An access to local store waits for what its ordering asks of earlier accesses (R141, R148). -/
def State.localWaits (s : State) (slot : Nat) (o : MemOps) : Bool :=
  o.scope != 0 && (o.ord == 2 || o.ord == 4) && !(s.drained slot && s.accessesPerformed (coreOf slot))

/-- An access to local store is performed at issue, with its serialisation point at the core (R140). -/
def State.localAccess (s : State) (acc : Nat) (o : MemOps) (c : MemCheck) (f : Nat → Strand → Nat → Nat → Out) : Out :=
  s.runMem o c [dstReg o] [] (fun _ => true) fun slot st =>
    let n := typeBits o.tn / 8
    let lo := effective (st.getG o.a) (o.offset true)
    if o.ord ≠ 0 ∧ lo % n ≠ 0 then s.misaligned slot st acc lo
    else if st.localBytes < lo + n then .next (s.trap slot st (trapOf causeLocal acc lo))
    else if s.localWaits slot o then .next s
    else f slot st (st.localBase + lo) n

/-- The stamp of an sc access to local store. -/
def State.localSc (s : State) (slot : Nat) (o : MemOps) : State := if o.ord = 4 then s.localStamp (coreOf slot) else s

/-- gDST := ext64(local[lo], T) (R242). -/
def execLdl (o : MemOps) (s : State) : Out :=
  s.localAccess accRead o { types := intType, ords := [0, 1, 4], lease := false } fun slot st off n =>
    .next ((s.localSc slot o).setWord slot st (dstReg o) (ext64 (s.readLocal (coreOf slot) off n) o.tn))

/-- local[lo] := gDST[w−1:0] (R242). -/
def execStl (o : MemOps) (s : State) : Out :=
  s.localAccess accWrite o { types := intType, ords := [0, 2, 4], lease := false } fun slot st off n =>
    .next (((s.localSc slot o).writeLocal (coreOf slot) off n (st.getG (dstReg o)).toNat).retire slot st)

/-! ### Vector loads and stores (R243) -/

/-- The mask of a vector access: I32[2:0], m0 with the 4-byte tail. -/
def accessMask (o : MemOps) (st : Strand) : Mask := st.getM (BitVec.ofNat 3 (o.hiBits 0 3))

/-- The nibble pieces of an access to packed 4-bit elements: a byte for two active elements, else the active nibble (R243). -/
def nibblePieces (base : Nat) (m : Nat → Bool) (v : Nat → Nat) : List PrePiece :=
  (List.range 512).flatMap fun j =>
    let va := (base + j) % 2 ^ 52
    let lo := v (2 * j) % 16
    let hi := v (2 * j + 1) % 16
    match m (2 * j), m (2 * j + 1) with
    | true, true => [{ elem := 2 * j, va := va, bytes := 1, val := lo + 16 * hi, nib := none }]
    | true, false => [{ elem := 2 * j, va := va, bytes := 1, val := lo, nib := some false }]
    | false, true => [{ elem := 2 * j + 1, va := va, bytes := 1, val := hi, nib := some true }]
    | false, false => []

/-- The active elements of an access with a constant distance of `stride` bytes between elements of n bytes. -/
def strideElems (base : Nat) (stride : Int) (t : Nat) (m : Nat → Bool) (v : Nat → Nat) : List (Nat × Nat × Nat × Nat) :=
  ((List.range (elemCount t)).filter m).map fun i =>
    (i, (((base : Int) + i * stride) % 2 ^ 52).toNat, typeBits t / 8, v i)

/-- A vector access: alignment, then the pieces. -/
def State.vectorAccess (s : State) (slot : Nat) (st : Strand) (o : MemOps) (kind : AccessKind) (r : Right) (stride : Option Int)
    (v : Nat → Nat) (dest : Dest) : Out :=
  let t := o.tn
  let base := effective (st.getG o.a) (o.offset false)
  let m := (accessMask o st).getLsbD
  if typeBits t = 4 then s.issueAccess slot st o kind r false (nibblePieces base m v) dest asIs
  else
    let l := strideElems base (stride.getD (typeBits t / 8)) t m v
    match firstUnaligned (o.ord != 0) l with
    | some va => s.misaligned slot st r.acc va
    | none => s.issueAccess slot st o kind r false (listPieces l) dest asIs

/-- DST is a vector register of the strand. -/
def dstInRange (o : MemOps) (st : Strand) : Bool := decide (o.dst.toNat < st.vcount)

/-- Types of VLDS and VSTS: any but the 4-bit ones. -/
def strideType (t : Nat) : Bool := decide (t < 13)

/-- The elements of vd. -/
def dstElems (s : State) (slot : Nat) (st : Strand) (o : MemOps) : Nat → Nat :=
  elemOf (s.getV slot st o.dst.toNat).toNat (typeBits o.tn)

/-- Contiguous vector load (R243). -/
def execVld (o : MemOps) (s : State) : Out :=
  s.runMem o { types := fun _ => true, ords := [0, 1], lease := true } [] [o.dst] (dstInRange o) fun slot st =>
    s.vectorAccess slot st o .load .read none (fun _ => 0) (.vector o.dst o.tn)

/-- Contiguous vector store (R243). -/
def execVst (o : MemOps) (s : State) : Out :=
  s.runMem o { types := fun _ => true, ords := [0, 2], lease := false } [] [o.dst] (dstInRange o) fun slot st =>
    s.vectorAccess slot st o .store .write none (dstElems s slot st o) .none

/-- Strided vector load (R243). -/
def execVlds (o : MemOps) (s : State) : Out :=
  s.runMem o { types := strideType, ords := [0, 1], lease := true } [strideReg o] [o.dst] (dstInRange o) fun slot st =>
    s.vectorAccess slot st o .load .read (some (st.getG (strideReg o)).toInt) (fun _ => 0) (.vector o.dst o.tn)

/-- Strided vector store (R243). -/
def execVsts (o : MemOps) (s : State) : Out :=
  s.runMem o { types := strideType, ords := [0, 2], lease := false } [strideReg o] [o.dst] (dstInRange o) fun slot st =>
    s.vectorAccess slot st o .store .write (some (st.getG (strideReg o)).toInt) (dstElems s slot st o) .none

/-- The elements in memory that element i of a decoding load needs: for a group format the header and then the byte with the
element (R33, R244). -/
def taggedElems (p : Word) (e0 : Int) (i : Nat) : List (Nat × Nat × Nat × Nat) :=
  let fmt := ptrFmt p
  let a := elementAddr (ptrVa p) fmt (ptrBlog p) (e0 + i)
  if isGroupFmt fmt then
    [(i, (groupBlock (ptrVa p) fmt (ptrBlog p) (e0 + i) % 2 ^ 52).toNat, 4, 0), (i, a, 1, 0)]
  else [(i, a, (plainBits fmt + 7) / 8, 0)]

/-- Decoding load of a tagged array (R244): alignment is tested where FMT names a format, and before the tag (R306). -/
def execVldt (o : MemOps) (s : State) : Out :=
  s.runMem o { types := isFlt, ords := [0, 1], lease := true } [] [o.dst] (dstInRange o) fun slot st =>
    let p := st.getG o.a
    let e0 : Int := signedOf 14 o.off.toNat
    let bad := formatFault p || ptrFmt p == 0
    let named := ptrFmt p != 0 && (decide (ptrFmt p ≤ 16) || isGroupFmt (ptrFmt p))
    let l := ((List.range (elemCount o.tn)).filter (accessMask o st).getLsbD).flatMap (taggedElems p e0)
    match if named then firstUnaligned (o.ord != 0) l else none with
    | some va => s.misaligned slot st accRead va
    | none =>
      if bad then .next (s.trap slot st (trapOf causeFormat 0 p.toNat))
      else s.issueAccess slot st o .load .read false (listPieces l) (.tagged o.dst o.tn (ptrFmt p) (ptrBlog p) e0) asIs

/-! ### Gathers and scatters (R245) -/

def gatherType (t : Nat) : Bool := 4 ≤ t && t ≤ 8
/-- The mask that receives the result. -/
def resultMask (o : MemOps) : BitVec 3 := BitVec.ofNat 3 (o.hiBits 3 3)

/-- DST and VI are vector registers of the strand. -/
def gatherRegs (o : MemOps) (st : Strand) : Bool := dstInRange o st && decide ((indexReg o).toNat < st.vcount)

/-- Element i of the index register. -/
def gatherIndex (s : State) (slot : Nat) (st : Strand) (o : MemOps) (i : Nat) : Nat :=
  elemOf (s.getV slot st (indexReg o).toNat).toNat (typeBits o.tn) i

/-- Lane i makes an access: it is active and its index is below the bound. -/
def gatherLive (s : State) (slot : Nat) (st : Strand) (o : MemOps) (i : Nat) : Bool :=
  (accessMask o st).getLsbD i && decide (gatherIndex s slot st o i < (st.getG (boundReg o)).toNat)

/-- The accesses of the lanes. -/
def gatherElems (s : State) (slot : Nat) (st : Strand) (o : MemOps) (v : Nat → Nat) : List (Nat × Nat × Nat × Nat) :=
  let n := typeBits o.tn / 8
  let base := effective (st.getG o.a) (o.offset false)
  ((List.range (elemCount o.tn)).filter (gatherLive s slot st o)).map fun i =>
    (i, (base + gatherIndex s slot st o i * n) % 2 ^ 52, n, v i)

/-- MR bit i for every lane (R245). -/
def gatherMask (s : State) (slot : Nat) (st : Strand) (o : MemOps) : Nat :=
  packElems 1 ((List.range (elemCount o.tn)).map fun i => (gatherLive s slot st o i).toNat)

/-- Bounded indexed gather (R245): MR and the lanes beyond the bound are written as it issues. -/
def execVgath (o : MemOps) (s : State) : Out :=
  s.runMem o { types := gatherType, ords := [0, 1], lease := true } [boundReg o] [o.dst, indexReg o] (gatherRegs o) fun slot st =>
    let l := gatherElems s slot st o fun _ => 0
    let w := typeBits o.tn
    let vd := (List.range (elemCount o.tn)).map fun i =>
      if (accessMask o st).getLsbD i && !gatherLive s slot st o i then 0 else dstElems s slot st o i
    let mr := gatherMask s slot st o
    match firstUnaligned (o.ord != 0) l with
    | some va => s.misaligned slot st accRead va
    | none =>
      s.issueAccess slot st o .load .read false (listPieces l) (.vector o.dst o.tn) fun s st =>
        (s.setV slot st o.dst.toNat (packV w vd), (st.setMaskLow (resultMask o) (elemCount o.tn) mr).touchV o.dst.toNat)

/-- Bounded indexed scatter (R245). -/
def execVscat (o : MemOps) (s : State) : Out :=
  s.runMem o { types := gatherType, ords := [0, 2], lease := false } [boundReg o] [o.dst, indexReg o] (gatherRegs o) fun slot st =>
    let l := gatherElems s slot st o (dstElems s slot st o)
    let mr := gatherMask s slot st o
    match firstUnaligned (o.ord != 0) l with
    | some va => s.misaligned slot st accWrite va
    | none =>
      s.issueAccess slot st o .store .write false (listPieces l) .none fun s st =>
        (s, st.setMaskLow (resultMask o) (elemCount o.tn) mr)

/-! ### Atomics (R246, R247) -/

/-- Types of the integer atomics, of ASWAP and ACAS, and of AFADD. -/
def atomicType (t : Nat) : Bool := 4 ≤ t && t ≤ 7
def swapAtomicType (t : Nat) : Bool := 4 ≤ t && t ≤ 8
def faddType (t : Nat) : Bool := t == 8 || t == 10

/-- An atomic issues: its operands are read, and its read and write are one access of w bits. -/
def State.atomicAccess (s : State) (op : AtomicOp) (types : Nat → Bool) (o : MemOps) : Out :=
  s.runMem o { types := types, ords := [0, 1, 2, 3, 4], lease := false } [dstReg o, valueReg o, compareReg o] [] (fun _ => true)
    fun slot st =>
      let w := typeBits o.tn
      let va := effective (st.getG o.a) (o.offset false)
      let v := (st.getG (valueReg o)).toNat % 2 ^ w
      let e := (st.getG (compareReg o)).toNat % 2 ^ w
      if va % (w / 8) ≠ 0 then s.misaligned slot st accWrite va
      else s.issueAccess slot st o (.atomic op v e) .readWrite false (elemPieces 0 va (w / 8) 0) (.scalar (dstReg o) o.tn) asIs

/-- (old + v) mod 2^w (R247). -/
def execAadd (o : MemOps) (s : State) : Out := s.atomicAccess .add atomicType o

/-- old AND v (R247). -/
def execAand (o : MemOps) (s : State) : Out := s.atomicAccess .and atomicType o

/-- old OR v (R247). -/
def execAor (o : MemOps) (s : State) : Out := s.atomicAccess .or atomicType o

/-- old XOR v (R247). -/
def execAxor (o : MemOps) (s : State) : Out := s.atomicAccess .xor atomicType o

/-- The lesser (R247). -/
def execAmin (o : MemOps) (s : State) : Out := s.atomicAccess .min atomicType o

/-- The greater (R247). -/
def execAmax (o : MemOps) (s : State) : Out := s.atomicAccess .max atomicType o

/-- Swap (R247). -/
def execAswap (o : MemOps) (s : State) : Out := s.atomicAccess .swap swapAtomicType o

/-- Compare and swap (R247). -/
def execAcas (o : MemOps) (s : State) : Out := s.atomicAccess .cas swapAtomicType o

/-- Floating-point add (R247). -/
def execAfadd (o : MemOps) (s : State) : Out := s.atomicAccess .fadd faddType o

end Sys2Proof.Machine
end

