-- ==== Sys2Proof/Machine/Sync.lean ====
section
/-! DEFINITION. Fences, the monitor wait, prefetch, flush and zero, and the barriers of every level (spec/10_memory_sync.md R248 to
R254; spec/02_execution.md R38 to R43; spec/06_ordering.md R141 to R148). -/

namespace Sys2Proof.Machine

/-! ### Waiting strands -/

/-- A strand begins to wait: its instruction has issued and is not yet complete. -/
def State.sleep (s : State) (slot : Nat) (st : Strand) (w : Wait) : State :=
  (s.setStrand slot { st with wait := w, next := some st.nextHead }).issued slot

/-- A waiting strand's instruction completes and the strand is ready at its next head (R208). Where a supervisor has moved a saved wait to
another head, that head's line is read for the next one. -/
def State.wake (s : State) (slot : Nat) (st : Strand) : State :=
  let st := { st with wait := .ready }
  match st.next with
  | some a => s.setStrand slot (st.advanceTo a)
  | none =>
    -- the strand still waits while the line is on its way
    match s.lineFor slot st (st.pc.toNat / 64 * 64) with
    | .error t => s.fetchStop slot st t
    | .ok (l, s) =>
      match checkLine l with
      | .error _ => s.trap slot st (trapOf causeIllegalLine 0 st.pc.toNat)
      | .ok _ => s.setStrand slot (st.advanceTo (headAfter l st.pc))

/-- Every earlier access of the strand is performed, with those of its core, which happen before (R141, R147). -/
def State.settled (s : State) (slot : Nat) : Bool := s.drained slot && s.accessesPerformed (coreOf slot)

/-! ### Fences (R248) -/

/-- What a fence of a kind at a scope holds back every later access for: nothing at core scope (R148); earlier reads with acquire; with sc
every earlier access, and the stores that happen before. -/
def State.fenceReady (s : State) (slot : Nat) (o : MemOps) : Bool :=
  if o.scope = 0 then true
  else if o.ord = 4 then s.settled slot
  else o.ord == 2 || (s.pending slot).all fun a => !a.kind.reads

/-- A fence with release ordering leaves a mark in the queue that later stores of the strand follow, unless what it orders is performed
already. -/
def State.markFence (s : State) (slot : Nat) (st : Strand) (o : MemOps) : State :=
  if o.scope = 0 || o.ord = 1 || o.ord = 4 || s.settled slot then s
  else ({ s with ids := s.ids + 1 } : State).enqueue (coreOf slot) (newAccess s slot st .fence 0 [] .none o)

/-- Ordering fence (R141, R248): the strand goes on once what holds back every later access is performed; a release holds back only
later stores. -/
def execFence (o : MemOps) (s : State) : Out :=
  s.runMem o { types := (· == 0), ords := [1, 2, 3, 4], lease := false } [] [] (fun _ => true) fun slot st =>
    if s.fenceReady slot o then .next ((s.markFence slot st o).retire slot st) else .next s

/-! ### Monitor wait (R249) -/

/-- The read of a waiting `MWAIT` as an access of its own. -/
def waitAccess (s : State) (slot : Nat) (st : Strand) (pa t : Nat) : Access :=
  { id := 0, slot := slot, kind := .load, t := t
    pieces := [{ elem := 0, pa := pa, bytes := typeBits t / 8, val := 0, nib := none, done := false, refused := false }]
    dest := .none, ord := 0, scope := 0, lease := 0, tenant := s.tenantOf st, key := s.keyOfAsid (s.asidOf st)
    lid := st.lid, asid := s.asidOf st, sright := st.sRights, lost := 0 }

/-- `MWAIT` issues: the monitor is armed and the strand sleeps; its reads are `monitorFire`'s (R249)
(DEDUCED, log entry 28). -/
def execMwait (o : MemOps) (s : State) : Out :=
  s.runMem o { types := intType, ords := [0, 1], lease := false } [dstReg o] [] (fun _ => true) fun slot st =>
    let n := typeBits o.tn / 8
    let va := effective (st.getG o.a) (o.offset false)
    if va % n ≠ 0 then s.misaligned slot st accRead va
    else
      match s.judge (s.ctxOf slot st) .read false (elemPieces 0 va n 0) with
      | .error t => .next (s.trap slot st t)
      | .ok j =>
        let pa := (j.pieces.map (·.pa)).headD 0
        let limit := o.hiBits 0 32
        let s := s.fillAll (coreOf slot) j.entries
        let s := s.askLines (coreOf slot) (waitAccess s slot st pa o.tn)
        .next (s.sleep slot st (.monitor pa ((st.getG (dstReg o)).toNat % 2 ^ (8 * n)) o.tn o.ord o.scope
          (if limit = 0 then none else some (s.time + limit)) (dstReg o) (if isPeer pa then some (s.time + 1024) else none)))

/-- One read of a waiting `MWAIT` (R249): the wait completes when the value differs or its time has passed. It follows earlier
accesses of the core to these bytes, and earlier acquires of the strand; a line that the quad lacks is asked for. -/
def State.monitorRead (s : State) (slot : Nat) (ext : List Byte) : State :=
  match s.strandAt slot with
  | none => s
  | some st =>
    match st.wait with
    | .monitor pa e t _ _ deadline dst _ =>
      let core := coreOf slot
      let n := typeBits t / 8
      let a := waitAccess s slot st pa t
      if (s.coreAt core).phase != .running || s.overlapsQueue core pa n || s.acquirePending slot then s
      else if !s.lineReady (agentOf core) pa a.tenant a.key false then s.askLines core a
      else if isScratch pa && !s.quadServes a.tenant (pa / 2 ^ 24 % 256) (pa % 2 ^ 24) n (pa / 2 ^ 24 % 256 == agentOf core) true false then s
      else
        let x := s.loadPiece core a { elem := 0, pa := pa, bytes := n, val := 0, nib := none, done := false, refused := false }
          (if isPeer pa then (takeBytes n ext).1 else none) true true
        let late := match deadline with | some d => decide (d ≤ s.time) | none => false
        let s := (x.1.touchCopy core (agentOf core) pa false).useAnswer (agentOf core) (lineOf pa) false
        if x.2.1 != e || late then
          s.wake slot ((st.setLost (if x.2.2 then 1 else 0)).setG dst (ext64 x.2.1 t))
        else s
    | _ => s

/-- One read of a waiting `BBWAIT` (R267, R368): it completes when the phase differs or its time has passed. -/
def State.bbWaitRead (s : State) (slot : Nat) : State :=
  match s.strandAt slot with
  | none => s
  | some st =>
    match st.wait with
    | .byteBarrier off ph deadline dst =>
      let a := agentOf (coreOf slot)
      if (s.coreAt (coreOf slot)).phase != .running || s.overlapsQueue (coreOf slot) (spAddr a off) 16
          || !s.quadServes (s.tenantOf st) a off 16 true true false then s
      else
        let r := s.spRead a off 16
        let late := match deadline with | some d => decide (d ≤ s.time) | none => false
        if bbPhase r.1 != ph || late then
          let st := st.setG dst (BitVec.ofNat 64 (r.1 / 2 ^ 64))
          if r.2 then (s.count1 (memCounter (s.tenantOf st) 0x08)).wake slot (st.setLost 1) else s.wake slot st
        else s
    | _ => s

/-- A wait on memory reads again. A peer window has no monitor. -/
def State.waitRead (s : State) (slot : Nat) : State :=
  match s.strandAt slot with
  | some st =>
    match st.wait with
    | .monitor _ _ _ _ _ _ _ none => s.monitorRead slot []
    | .byteBarrier _ _ _ _ => s.bbWaitRead slot
    | _ => s
  | none => s

/-- The monitor of an `MWAIT` or a `BBWAIT` fires, and the wait reads again (R249, R267). -/
def execMonitorFire (slot : Nat) (s : State) : Out := .next (s.waitRead slot)

/-- The timeout of an `MWAIT` passes, and its final read completes it (R249). -/
def execMwaitTimeout (slot : Nat) (s : State) : Out :=
  match s.strandAt slot with
  | some st =>
    match st.wait with
    | .monitor _ _ _ _ _ (some d) _ _ => .next (({ s with time := max s.time d } : State).monitorRead slot [])
    | _ => .next s
  | none => .next s

/-- A wait on a peer window reads again, every 1,024 cycles (R249). -/
def execMwaitPoll (slot : Nat) (ext : List Byte) (s : State) : Out :=
  match s.strandAt slot with
  | some st =>
    match st.wait with
    | .monitor pa e t o sc d dst (some p) =>
      let s := { s with time := max s.time p }
      .next ((s.setStrand slot { st with wait := .monitor pa e t o sc d dst (some (s.time + 1024)) }).monitorRead slot ext)
    | _ => .next s
  | none => .next s

/-! ### Prefetch, flush and zero (R250 to R252) -/

/-- A prefetch hint (R250): a request for the line, or nothing where the address faults, the line is lost or the window drops it. Its address
needs the write right with OWN 1 and the read right with OWN 0 (DESIGN CHOICE, log entry 32). -/
def execPref (o : MemOps) (s : State) : Out :=
  s.runMem o { types := (· == 0), ords := [0], lease := true } [] [] (fun _ => !(o.dst == 1 && o.lease != 0)) fun slot st =>
    let c := s.ctxOf slot st
    let own := o.dst == 1
    match s.physOf c (effective (st.getG o.a) (o.offset true)) (if own then .write else .read) with
    | .error _ => .next (s.retire slot st)
    | .ok (pa, e) =>
      let s := s.tlbFill c.core e
      let key := s.keyOfAsid c.asid
      if !(isDevice pa || isHostMem pa) || s.isLost pa || s.lineReady c.agent pa c.tenant key own then .next (s.retire slot st)
      else
        let kind : ReqKind := if own then .getO false else if o.lease ≠ 0 ∧ isDevice pa then .getL o.lease else .getS
        .next ((s.requestLine c.agent c.core c.tenant key (lineOf pa) kind).retire slot st)

/-- Both instruction lines of a 128-byte line leave a core's instruction cache and loop buffer (R251). -/
def State.dropCode (s : State) (core line : Nat) : State :=
  let c := s.coreAt core
  let s : State := { s with icache := SMap.erase (SMap.erase s.icache (2 ^ 46 * core + 2 * line)) (2 ^ 46 * core + 2 * line + 1) }
  s.setCore core { c with loopBuf := c.loopBuf.filter fun x => x.1 / 2 != line }

/-- A `CFLUSH` of data: the quad's copy is given up, and the flush is in flight until its write-back is performed; of a peer's line the quad
holds leased copies alone, which are dropped (R240, R251). -/
def State.flushData (s : State) (slot : Nat) (st : Strand) (o : MemOps) (p : Piece) : State :=
  if isPeer p.pa then s.dropCopy (agentOf (coreOf slot)) (lineOf p.pa)
  else if !(isDevice p.pa || isHostMem p.pa) then s
  else
  let s := s.evictCopy (agentOf (coreOf slot)) (lineOf p.pa)
  let a := newAccess s slot st .flush 0 [{ p with pa := lineOf p.pa * 128, bytes := 0 }] .none o
  { s with ids := s.ids + 1 }.enqueue (coreOf slot) a

/-- Flushes a data line, its code lines, or both (R251). -/
def execCflush (o : MemOps) (s : State) : Out :=
  s.runMem o { types := (· == 0), ords := [0], lease := false } [] [] (fun _ => true) fun slot st =>
    let c := s.ctxOf slot st
    let va := effective (st.getG o.a) (o.offset true)
    match s.judge c .read false (elemPieces 0 va 1 0) with
    | .error t => .next (s.trap slot st t)
    | .ok j =>
      match j.pieces.head? with
      | none => .next (s.retire slot st)
      | some p =>
        let data := o.dst != 1
        let code := o.dst != 0
        if code && (s.pending slot).any fun a => a.kind.writes then .next s
        else if data && s.overlapsQueue c.core (lineOf p.pa * 128) 128 then .next s
        else
          let s := s.fillAll c.core j.entries
          let s := if data then s.flushData slot st o p else s
          let s := if code then s.dropCode c.core (lineOf p.pa) else s
          .next (s.retire slot st)

/-- The pieces of an `LZERO`: one store of the line, or sixteen of 8 bytes in host and peer memory (R252). -/
def zeroPieces (p : Piece) : List Piece :=
  if isHostMem p.pa || isPeer p.pa then
    (List.range 16).map fun i => { p with elem := i, pa := p.pa + 8 * i, bytes := 8 }
  else [p]

/-- 128 zero bytes written (R252). -/
def execLzero (o : MemOps) (s : State) : Out :=
  s.runMem o { types := (· == 0), ords := [0, 2], lease := false } [] [] (fun _ => true) fun slot st =>
    let va := effective (st.getG o.a) (o.offset true)
    if va % 128 ≠ 0 then s.misaligned slot st accWrite va
    else
      match s.judge (s.ctxOf slot st) .write false (elemPieces 0 va 128 0) with
      | .error t => .next (s.trap slot st t)
      | .ok j => s.issueJudged slot st o .store (j.pieces.flatMap zeroPieces) j.entries .none asIs

/-! ### Barriers (R38 to R43, R253, R254) -/

/-- The number of barriers of a level (R38). -/
def levelCount (level : Nat) : Nat :=
  match level with
  | 0 => 8
  | 1 => 16
  | 2 => 32
  | 3 => 64
  | 4 => 16
  | _ => 0

/-- The instance of a level in which a slot lies. -/
def instanceOf (level slot : Nat) : Nat :=
  match level with
  | 0 => coreOf slot
  | 1 => agentOf (coreOf slot)
  | 2 => dieOf (agentOf (coreOf slot))
  | _ => 0

def barrierKey (level inst index : Nat) : Nat := 2 ^ 24 * level + 2 ^ 6 * inst + index

/-- The barrier that an instruction names. -/
def barrierOf (o : MemOps) (slot : Nat) : Nat := barrierKey o.scope.toNat (instanceOf o.scope.toNat slot) o.off.toNat

def State.barrierAt (s : State) (k : Nat) : Barrier := SMap.get Barrier.reset s.barriers k
def State.setBarrier (s : State) (k : Nat) (b : Barrier) : State := { s with barriers := s.barriers.set Barrier.reset k b }

/-- The barrier trap (R305). -/
def State.barrierTrap (s : State) (slot : Nat) (st : Strand) (o : MemOps) : Out :=
  .next (s.trap slot st (trapOf causeBarrier 0 (o.off.toNat + o.scope.toNat * 2 ^ 16)))

/-- The index lies within the level's range. -/
def barrierIndexOk (o : MemOps) : Bool := decide (o.off.toNat < levelCount o.scope.toNat)

/-- An arrival (R39): the phase in force, and the barrier afterwards. -/
def Barrier.arrive (b : Barrier) : Bool × Barrier :=
  (b.phase, if b.counter + 1 = b.e then { b with counter := 0, phase := !b.phase } else { b with counter := b.counter + 1 })

/-- The flip of a barrier's phase reaches a wait on the old one: it completes, also where the phase flips again before the strand wakes
(R39). -/
def Wait.flip (k : Nat) (old : Bool) : Wait → Wait
  | .barrier j p => if j = k ∧ p = old then .flipped j p else .barrier j p
  | w => w

/-- An arrival is counted; where it flips the phase, the waiters on the old one are released, those that Lintel has saved included (R39,
R254). -/
def State.arriveAt (s : State) (k : Nat) (b : Barrier) : State :=
  let n := b.arrive.2
  let s := s.setBarrier k n
  if n.phase = b.phase then s
  else
    { s with
      strands := s.strands.map fun e => (e.1, { e.2 with wait := e.2.wait.flip k b.phase })
      coursing := { s.coursing with savedCores := s.coursing.savedCores.map fun e =>
        (e.1, { e.2 with strands := e.2.strands.map fun x => (x.1, { x.2 with wait := x.2.wait.flip k b.phase }) }) } }

/-- No live launch claims the barrier, here or on another device. -/
def Barrier.unclaimed (b : Barrier) : Bool := b.claims.isEmpty && b.remote.isEmpty

/-- The claim of another device's launch as the pod root applies it (R41, R253): it creates the joint claim, joins one of its tenant, or is
refused there. -/
def Barrier.joinRemote (b : Barrier) (c : PodClaim) : Barrier :=
  let me := (c.device, c.launch)
  if b.unclaimed then { e := c.e, counter := 0, phase := false, claims := [], tenant := c.tenant, remote := [me] }
  else if b.tenant ≠ c.tenant ∨ (b.e ≠ c.e ∧ b.counter ≠ 0) then b
  else { b with e := c.e, remote := if b.remote.contains me then b.remote else b.remote ++ [me] }

/-- The claims of other devices on a pod barrier that are on their way, lowest pod number first. -/
def State.claimsOn (s : State) (index : Nat) : List PodClaim :=
  (List.range 64).flatMap fun d => s.pod.claims.filter fun c => c.index == index && c.device == d

/-- They are settled. -/
def State.settleClaims (s : State) (index : Nat) (l : List PodClaim) : State :=
  let k := barrierKey 4 0 index
  (s.setBarrier k (l.foldl Barrier.joinRemote (s.barrierAt k))).setPod
    { s.pod with claims := s.pod.claims.filter fun c => c.index != index }

/-- The pod roots settle a claim here against those that other devices make in the same cycle (R41): of the claims that would create one,
those of the lowest pod number's tenant stand. Claims of higher numbers follow this device's. -/
def State.settleBefore (s : State) (o : MemOps) : State :=
  if o.scope != 4 then s
  else
    let l := s.claimsOn o.off.toNat
    let first := l.filter fun c => decide (c.device < s.pod.self.toNat)
    if first.isEmpty then s
    else
      let rest := s.pod.claims.filter fun c => !first.contains c
      (s.settleClaims o.off.toNat first).setPod { s.pod with claims := rest }

/-- A barrier instruction on a barrier that the strand's launch has claimed, once its arrival, if it makes one, may be counted. -/
def State.runBarrier (s : State) (o : MemOps) (gs : List (BitVec 4)) (arrives : Bool) (f : Nat → Strand → Nat → Barrier → Out) : Out :=
  s.runMem o { types := (· == 0), ords := [0], lease := false, anyScope := true } gs [] (fun _ => barrierIndexOk o) fun slot st =>
    let k := barrierOf o slot
    let b := s.barrierAt k
    if !b.claims.contains st.lid then s.barrierTrap slot st o
    else if arrives && o.scope != 0 && !s.settled slot then .next s
    else f slot st k b

/-- Arrives, and gives the phase in force at the arrival (R253). -/
def execBara (o : MemOps) (s : State) : Out :=
  s.runBarrier o [dstReg o] true fun slot st k b =>
    .next ((s.arriveAt k b).setWord slot st (dstReg o) (BitVec.ofNat 64 b.arrive.1.toNat))

/-- Waits until the phase differs from gA[0] (R253); a phase that has already flipped completes at once. -/
def execBarw (o : MemOps) (s : State) : Out :=
  s.runBarrier o [] false fun slot st k b =>
    let ph := (st.getG o.a).getLsbD 0
    if b.phase != ph then .next (s.retire slot st) else .next (s.sleep slot st (.barrier k ph))

/-- Arrives, then waits on the returned phase (R253). -/
def execBar (o : MemOps) (s : State) : Out :=
  s.runBarrier o [] true fun slot st k b =>
    let s := s.arriveAt k b
    if b.arrive.2.phase != b.phase then .next (s.retire slot st) else .next (s.sleep slot st (.barrier k b.phase))

/-- Claims a barrier with an expected count (R40, R41, R253). -/
def execBarinit (o : MemOps) (s : State) : Out :=
  s.runMem o { types := (· == 0), ords := [0], lease := false, anyScope := true } [] []
    (fun st => barrierIndexOk o && decide (1 ≤ (st.getG o.a).toNat) && decide ((st.getG o.a).toNat ≤ 65535)) fun slot st =>
    let s := s.settleBefore o
    let k := barrierOf o slot
    let b := s.barrierAt k
    let e : BitVec 16 := (st.getG o.a).setWidth 16
    let tenant := s.tenantOf st
    let joins := o.scope == 4 && b.tenant == tenant
    if b.unclaimed then
      .next ((s.setBarrier k { e := e, counter := 0, phase := false, claims := [st.lid], tenant := tenant, remote := [] }).retire slot st)
    else if b.claims.contains st.lid || joins then
      if b.e ≠ e ∧ b.counter ≠ 0 then s.barrierTrap slot st o
      else
        let claims := if b.claims.contains st.lid then b.claims else b.claims ++ [st.lid]
        .next ((s.setBarrier k { b with e := e, claims := claims }).retire slot st)
    else s.barrierTrap slot st o

/-- A flip reaches a waiter and wakes it (R43). -/
def State.wakeWaiter (s : State) (slot : Nat) : State :=
  match s.strandAt slot with
  | some st =>
    if (s.coreAt (coreOf slot)).phase != .running then s
    else
      match st.wait with
      | .barrier k ph => if (s.barrierAt k).phase != ph then s.wake slot st else s
      | .flipped _ _ => s.wake slot st
      | _ => s
  | none => s

/-- Another device of the pod takes part in the barrier network: links carry it, and it is not fenced (R333, R412). -/
def State.podReaches (s : State) (device : Nat) : Bool :=
  decide (device < 64) && device != s.pod.self.toNat && s.pod.enable && !s.pod.fenced.getLsbD device

/-- What the barrier network brings: a flip at its waiter (R43), or the part of another device of the pod in the joint claims of R41. A
message of a fenced device is dropped (R412) (DESIGN CHOICE, log entry 36). -/
def execBarrierWakeup (msg : BarrierMsg) (s : State) : Out :=
  match msg with
  | .wake slot => .next (s.wakeWaiter slot)
  | .claim c =>
    if s.podReaches c.device && decide (c.index < 16) && c.e != 0 then
      .next (s.setPod { s.pod with claims := s.pod.claims ++ [c] })
    else .next s
  | .settle index => .next (s.settleClaims index (s.claimsOn index))
  | .arrival device index =>
    let k := barrierKey 4 0 index
    let b := s.barrierAt k
    if s.podReaches device && decide (index < 16) && b.remote.any fun x => x.1 == device then .next (s.arriveAt k b) else .next s
  | .release device launch =>
    if s.podReaches device then
      let free (b : Barrier) : Barrier :=
        let b := { b with remote := b.remote.filter (· != (device, launch)) }
        if b.unclaimed then Barrier.reset else b
      .next { s with barriers := (s.barriers.map fun e => (e.1, free e.2)).filter fun e => e.2 != Barrier.reset }
    else .next s

end Sys2Proof.Machine
end

