-- ==== Sys2Proof/Machine/Tiles.lean ====
section
/-! DEFINITION. Tiles and migration as instructions (spec/05_storage_coherence.md R129 to R133; spec/10_memory_sync.md R255 to
R258; spec/18_prog_directory.md R363). -/

namespace Sys2Proof.Machine

/-- A failure report: bit 63, and the code (R256). -/
def tileFail (code : Nat) : Word := BitVec.ofNat 64 (2 ^ 63 + code)

/-- A translation without an access: the leaf's physical address, or the fault of a load (DEDUCED, log entry 32). -/
def State.justTranslate (s : State) (c : Ctx) (va : Nat) : Except Trap (Nat × TlbEntry) :=
  match s.translate c va .read with
  | .error t => .error t
  | .ok e => .ok (leafPa e.level e.entry.toNat va, e)

/-- The quad whose scratchpad a physical address names. -/
def State.quadNamed (s : State) (c : Ctx) (pa : Nat) : Option Nat :=
  if !isScratch pa then none
  else
    match s.scratchTarget c pa with
    | some p => if p % 2 ^ 48 / 2 ^ 24 < 192 ∧ p % 2 ^ 24 < 2 ^ 22 then some (p / 2 ^ 24 % 256) else none
    | none => none

/-! ### Declaration (R129, R255) -/

def tileRows (o : MemOps) : Nat := o.hiBits 0 8 + 1
def tileRowb (o : MemOps) : Nat := o.hiBits 8 12 + 1
def tileOwn (o : MemOps) : Bool := o.hiBits 20 1 == 1

/-- The shape obeys R129. -/
def tileShapeOk (rows rowb stride : Nat) : Bool := decide (rows * rowb ≤ 65536) && decide (rowb ≤ stride) && decide (stride < 2 ^ 32)

/-- TID of a record (R116). -/
def tidOf (pa index : Nat) : Nat := 2 ^ 8 * sliceOf pa + index

/-- The lowest free record of a slice, of 256 (DESIGN CHOICE, log entry 12: R129 says that one is free, not which is taken). -/
def State.freeTile (s : State) (pa : Nat) : Option Nat :=
  ((List.range 256).map (tidOf pa)).find? fun k => (SMap.find s.homes.tiles k).isNone

/-- A line is bound: no holder is recorded for it, and a line in L stays L (R131, R363). -/
def DirEntry.bind (e : DirEntry) (i tid : Nat) : DirEntry :=
  let e := if e.line i == .L then e else (e.clearLine i .I).sweep
  { e with tb := e.tb ||| (1#4 <<< i), tid := BitVec.ofNat 16 tid }

/-- Every line has a directory way for its region, or is waiting for one (R115). -/
def State.waysFor (s : State) : List Nat → State × Bool
  | [] => (s, true)
  | l :: r =>
    let x := s.dirRoom l
    let y := State.waysFor (x.1.restoreLost l) r
    (y.1, x.2 && y.2)

/-- The copies of these lines at other agents, as (line, agent) (R117). -/
def State.othersOf (s : State) (agent : Nat) (lines : List Nat) : List (Nat × Nat) :=
  lines.flatMap fun l => (s.targets l agent).map fun a => (l, a)

/-- Each other holder of the lines is sent an invalidation, which the line's own place waits for (R120, R129). -/
def State.probeLines (s : State) (agent : Nat) (lines : List Nat) : State :=
  lines.foldl (fun s l =>
    match s.targets l agent, s.reqsAt l with
    | [], _ => s
    | ts, r :: _ => (ts.foldl (fun s a => s.sendProbe l a true) s).setHead l { r with phase := .probing ts.length }
    | _, [] => s) s

/-- The whole-tile operation of a declaration makes its change: every line is bound, and the tile moves to the holder (R129, R131). -/
def State.declareTile (s : State) (tid : Nat) (t : TileRec) (core tenant key : Nat) : State :=
  (t.lines.foldl (fun s l => s.updLine l fun e i => e.bind i tid) s).moveTile tid t t.own core tenant key

/-! ### Operations that strands begin (R131) -/

/-- The operation that the strand has begun at its head. -/
def State.tileOp (s : State) (slot : Nat) (st : Strand) : Option TileOp :=
  match SMap.find s.homes.tileOps slot with
  | some o => if o.lid = st.lid ∧ o.pc = st.pc then some o else none
  | none => none

/-- The strand's operation is over: its places are given up. -/
def State.endTileOp (s : State) (slot : Nat) : State :=
  match SMap.find s.homes.tileOps slot with
  | none => s
  | some o => (s.setHomes { s.homes with tileOps := s.homes.tileOps.erase slot }).dropParts o.no

/-- An operation that has to wait takes its number and its place in every line's list, behind the requests queued there. -/
def State.beginTileOp (s : State) (slot : Nat) (st : Strand) (lines : List Nat) : State :=
  let no := s.homes.arrivals
  let o : TileOp := { no := no, lid := st.lid, pc := st.pc, lines := lines, probed := false }
  let s := (s.endTileOp slot)
  let s := s.setHomes { s.homes with arrivals := no + 1, tileOps := s.homes.tileOps.put slot o }
  lines.foldl (fun s l => s.takePlace l no .part) s

/-- The number by which the strand's operation stands in the lists: its own, or that of the next arrival. -/
def State.opNo (s : State) (slot : Nat) (st : Strand) : Nat :=
  match s.tileOp slot st with
  | some o => o.no
  | none => s.homes.arrivals

/-- The operation waits: it begins, where it has not. -/
def State.waitTileOp (s : State) (slot : Nat) (st : Strand) (lines : List Nat) : State :=
  match s.tileOp slot st with
  | some _ => s
  | none => s.beginTileOp slot st lines

/-- The tile record of a declaration at a physical address. -/
def tileRecord (agent tenant pa rows rowb stride : Nat) (own : Bool) : TileRec :=
  { holder := agent, own := own, present := true, moving := false, tenant := tenant, base := pa, rows := rows, rowb := rowb
    stride := stride, nlines := (tileLines pa rows rowb stride).length }

/-- The declaration's operation: it waits for its turn on every line, for a directory way of each, for the horizons where the tile is to be
owned, and for the answers of the other holders; then it makes its change (R115, R120, R129, R131). -/
def State.runDeclare (s : State) (slot : Nat) (st : Strand) (d : BitVec 4) (pa : Nat) (t : TileRec) (key : Nat) : State :=
  let c := s.ctxOf slot st
  let done (s : State) (x : Word) : State := (s.endTileOp slot).setWord slot st d x
  if s.linesBusy t.lines (s.opNo slot st) then s.waitTileOp slot st t.lines
  else if t.lines.any fun l => (s.dirAt (regionOf l)).tb != 0 then done s (tileFail 3)
  else
    match s.freeTile pa with
    | none => done s (tileFail 4)
    | some tid =>
      let x := s.waysFor t.lines
      if !x.2 || (t.own && decide (s.time < s.tileHorizon t)) then x.1.waitTileOp slot st t.lines
      else if (x.1.othersOf c.agent t.lines).isEmpty then done (x.1.declareTile tid t c.core c.tenant key) (BitVec.ofNat 64 tid)
      else (x.1.waitTileOp slot st t.lines).probeLines c.agent t.lines

/-- Declares a tile (R255): it completes when the whole-tile operation has. -/
def execTdecl (o : MemOps) (s : State) : Out :=
  s.runMem o { types := (· == 0), ords := [0], lease := false } [dstReg o] [] (fun _ => true) fun slot st =>
    let c := s.ctxOf slot st
    let d := dstReg o
    let rows := tileRows o
    let rowb := tileRowb o
    let stride := (st.getG d).toNat
    let va := effective (st.getG o.a) (o.offset false)
    let span := (rows - 1) * stride + rowb - 1
    if !tileShapeOk rows rowb stride then .next (s.setWord slot st d (tileFail 1))
    else
      match s.justTranslate c va with
      | .error t => .next (s.trap slot st t)
      | .ok (pa, e) =>
        match s.justTranslate c ((va + span) % 2 ^ 52) with
        | .error t => .next (s.trap slot st t)
        | .ok (last, e') =>
          let s := s.fillAll c.core [e, e']
          if e ≠ e' ∨ last ≠ pa + span ∨ !isDevice pa ∨ homeDie pa ≠ homeDie last ∨ (s.physical c pa false).isNone
              ∨ (s.physical c last false).isNone then
            .next (s.setWord slot st d (tileFail 2))
          else
            .next (s.runDeclare slot st d pa (tileRecord c.agent c.tenant pa rows rowb stride (tileOwn o)) (s.keyOfAsid c.asid))

/-! ### Freeing and forwarding (R133, R256) -/

/-- The live tile that binds the line of ea(gA), when the strand's quad holds it, and otherwise the failure code. -/
def State.heldTile (s : State) (agent pa : Nat) : Except Nat (Nat × TileRec) :=
  match if isDevice pa then s.tileOf (lineOf pa) else none with
  | none => .error 6
  | some (tid, t) => if t.holder = agent then .ok (tid, t) else .error 5

/-- `TFREE` and `TFWD`: the address is translated, and a tile that the quad holds waits for its turn on every bound line, which it keeps
against later requests (R131, R133). A waiting operation judges the tile again at its turn. -/
def State.runTile (s : State) (o : MemOps) (f : Nat → Strand → State → Nat → TileRec → State) : Out :=
  s.runMem o { types := (· == 0), ords := [0], lease := false } [dstReg o] [] (fun _ => true) fun slot st =>
    let c := s.ctxOf slot st
    match s.justTranslate c (effective (st.getG o.a) (o.offset true)) with
    | .error t => .next (s.trap slot st t)
    | .ok (pa, e) =>
      let s := s.tlbFill c.core e
      match s.heldTile c.agent pa with
      | .error k => .next ((s.endTileOp slot).setWord slot st (dstReg o) (tileFail k))
      | .ok (tid, t) =>
        if s.linesBusy t.lines (s.opNo slot st) then
          .next ((s.waitTileOp slot st t.lines).setTile tid { t with moving := true })
        else .next (f slot st s tid t)

/-- Frees a tile by demoting it (R256), once no owner of another line has to be recalled for it (R118). -/
def execTfree (o : MemOps) (s : State) : Out :=
  s.runTile o fun slot st s tid t =>
    let x := s.demoteTile tid t
    if x.2 then (x.1.endTileOp slot).setWord slot st (dstReg o) 0
    else (x.1.waitTileOp slot st t.lines).setTile tid { t with moving := true }

/-- The quad that `TFWD` names: held whole by the tile's tenant. -/
def State.forwardTarget (s : State) (c : Ctx) (t : TileRec) (va : Nat) : Option Nat :=
  match s.justTranslate c (va % 2 ^ 52) with
  | .error _ => none
  | .ok (pa, _) =>
    match s.quadNamed c pa with
    | some q => if s.holdsQuad t.tenant q then some q else none
    | none => none

/-- Forwards a tile to another quad (R133, R256). -/
def execTfwd (o : MemOps) (s : State) : Out :=
  s.runTile o fun slot st s tid t =>
    let c := s.ctxOf slot st
    match s.forwardTarget c t (st.getG (dstReg o)).toNat with
    | none => (s.endTileOp slot).setWord slot st (dstReg o) (tileFail 7)
    | some q =>
      ((s.moveTile tid { t with holder := q } false (4 * q) c.tenant (s.keyOfAsid c.asid)).endTileOp slot).setWord slot st (dstReg o) 0

/-! ### Migration (R258) -/

/-- Asks to move the strand to the quad whose scratchpad holds ea(gA) (R62, R258). -/
def execMigr (o : MemOps) (s : State) : Out :=
  s.runMem o { types := (· == 0), ords := [0], lease := false } [dstReg o] [] (fun _ => true) fun slot st =>
    let c := s.ctxOf slot st
    match s.justTranslate c (effective (st.getG o.a) (o.offset true)) with
    | .error t => .next (s.trap slot st t)
    | .ok (pa, e) =>
      let target := match s.quadNamed c pa with
        | some q => if st.eligible then s.migrationTarget c.tenant c.core q else none
        | none => none
      match target with
      | some core => (s.tlbFill c.core e).depart slot st core (some (dstReg o))
      | none => .next ((s.tlbFill c.core e).setWord slot st (dstReg o) 0)

end Sys2Proof.Machine
end

