-- ==== Sys2Proof/Machine/Engines.lean ====
section
/-! DEFINITION. The engine instructions as they issue, and the engines at work on the commands of their quad's footprint unit
(spec/11_engines.md R259 to R288; spec/06_ordering.md R155 to R158; spec/02_execution.md R55). -/

namespace Sys2Proof.Machine

/-! ### Checks and issue (R260, R261) -/

/-- An engine instruction: the operand checks of step 1, then the engine-access test of step 2 (R261). -/
def State.runEngine (s : State) (o : EngOps) (ok : Nat → Strand → Bool) (f : Nat → Strand → Out) : Out :=
  s.run (engRegs o) [] fun slot st =>
    if !ok slot st then .next (s.trapHead slot st causeIllegalOperand)
    else if !s.holdsQuad (s.tenantOf st) (agentOf (coreOf slot)) then .next (s.trap slot st (trapOf causeEngine 0 0))
    else f slot st

/-- n bytes at an offset lie in the scratchpad (R260). -/
def spOk (off n : Nat) : Bool := decide (off < 2 ^ 22) && decide (off + n ≤ 2 ^ 22)

/-- Rows of n bytes at a pitch lie in the scratchpad. -/
def rowsOk (off rows pitch n : Nat) : Bool := spOk off ((rows - 1) * pitch + n)

/-- The barrier of a field: none when the field is 0 (R260). -/
def bbField (st : Strand) (d : BitVec 4) : Option Nat := if d = 0 then none else some (st.getG d).toNat

/-- A barrier offset is a multiple of 16 in the scratchpad. -/
def bbOffOk (off : Nat) : Bool := off % 16 == 0 && spOk off 16
def bbOk (st : Strand) (d : BitVec 4) : Bool := match bbField st d with | none => true | some off => bbOffOk off

/-- A command as its strand issues it; the unit gives it its number. The hold is for engine instructions, which `FPDECL` is not (R78, R366). -/
def newCmd (s : State) (slot : Nat) (st : Strand) (engine : Option Engine) (op : CmdOp) (bb : Option Nat) (regions : List Region)
    (ur uw : BitVec 5) (gen : Word) : Cmd :=
  { seq := 0, engine := engine, op := op, lid := st.lid, tenant := s.tenantOf st, asid := s.asidOf st, ordinal := s.ordinalOf st
    sright := st.sRights, bb := bb, regions := regions.filter fun r => r.len != 0 && r.rows != 0, unitsRead := ur, unitsWritten := uw
    state := .queued, gen := gen, after := none, next := 0, flight := [], landed := [], failed := none, jointNo := 0, phases := 0
    held := engine.isSome && s.quadInHold (agentOf (coreOf slot)), started := 0, behind := [], foundAt := 0, indices := [], refused := [] }

/-- Whether the command pushes to another quad. -/
def CmdOp.sends : CmdOp → Bool
  | .hsend _ => true
  | _ => false

/-- A piece of an access meets a region. -/
def Piece.meets (p : Piece) (r : Region) : Bool :=
  r.overlaps { base := p.pa, len := p.bytes, rows := 1, stride := 0, write := false }

/-- An earlier access of the core is performed before the accesses of a command: a store, which the command's reads must see (R155), an
acquire (R141), a load of bytes in the command's footprint (R144), and any access before a gather or a push, whose element reads and whose
writes lie outside its footprint. -/
def Access.precedes (x : Access) (c : Cmd) : Bool :=
  x.kind.writes || x.acquires || c.op.gathers || c.op.sends || c.regions.any fun r => x.pieces.any fun p => p.meets r

/-- The command as the strand of a slot issues it: it follows what its core has in flight. -/
def State.follows (s : State) (slot : Nat) (c : Cmd) : Cmd :=
  { c with behind := ((s.coreAt (coreOf slot)).queue.filter fun x => x.precedes c).map (·.id) }

/-- A joint operation takes the next number of its launch at its member (R55). Two launches on the same four quads number their own
operations: each has its own sequence (DESIGN CHOICE, log entry 37). -/
def QuadState.numberJoint (q : QuadState) (c : Cmd) : QuadState × Cmd :=
  match c.op with
  | .mma o =>
    if o.joint then
      let n := SMap.get 0 q.jointCount c.lid
      ({ q with jointCount := q.jointCount.set 0 c.lid (n + 1) }, { c with jointNo := n })
    else (q, c)
  | _ => (q, c)

/-- A command enters the unit. -/
def QuadState.enter (q : QuadState) (c : Cmd) : QuadState :=
  let x := q.numberJoint c
  { x.1 with cmds := x.1.cmds ++ [{ x.2 with seq := q.nextSeq }], nextSeq := q.nextSeq + 1 }

/-- A unit takes commands while its quad runs, and from an edge on until Lintel has saved them with the quad (R78, R80). -/
def QuadState.takesCmds (q : QuadState) : Bool :=
  match q.phase with
  | .running => true
  | .stopped _ => true
  | _ => false

/-- The issue of n commands waits for room in the unit (R261) (DEDUCED, log entry 28), and on a quad that is saved or waits for its restore
(DEDUCED, log entry 33). -/
def State.issueWaits (s : State) (slot n : Nat) : Bool :=
  let q := s.quadAt (agentOf (coreOf slot))
  decide (64 < q.cmds.length + n) || !q.takesCmds

/-- The commands enter the footprint unit and the strand goes on. -/
def State.issueCmds (s : State) (slot : Nat) (st : Strand) (cs : List Cmd) : Out :=
  if s.issueWaits slot cs.length then .next s
  else
    let a := agentOf (coreOf slot)
    .next ((s.setQuad a ((cs.map (s.follows slot)).foldl QuadState.enter (s.quadAt a))).retire slot st)

/-- Rows in the quad's scratchpad as a region. -/
def spRows (agent off rows pitch len : Nat) (write : Bool) : Region :=
  { base := spAddr agent off, len := len, rows := rows, stride := pitch, write := write }

/-- The generator of a command, seeded by one draw of its strand (R100). -/
def seedGen (u : Nat) : Word := if u = 0 then 1 else BitVec.ofNat 64 u

/-- A draw for a command where its conversion is stochastic. -/
def Strand.seed (st : Strand) (draws : Bool) : Word × Strand :=
  let r := st.draw (if draws then 5 else 0)
  (if draws then seedGen r.1 else 0, r.2)

/-! ### Ashlar (R268 to R275) -/

/-- A grant (R268): M′, N′ and K′ for a request. -/
def grantOf (m n k : Nat) : Nat × Nat × Nat :=
  (min (max m 1) 128, min (max n 1) 128, min (max ((k + 7) / 8 * 8) 8) 8192)

/-- `sr.shape` of a grant. -/
def grantWord (m n k : Nat) : BitVec 32 :=
  let g := grantOf m n k
  BitVec.ofNat 32 (g.1 - 1 + (g.2.1 - 1) * 2 ^ 8 + g.2.2 * 2 ^ 16 + (if g = (m, n, k) then 0 else 1) * 2 ^ 30 + 2 ^ 31)

/-- Requests an Ashlar shape grant (R268). -/
def execShape (o : EngOps) (s : State) : Out :=
  s.run (engRegs o) [] fun slot st =>
    .next (s.retire slot { st with shape := grantWord (st.getG o.a).toNat (st.getG o.b).toNat (st.getG o.c).toNat })

/-- The values of an Ashlar command's registers and fields. -/
def matOpOf (st : Strand) (o : EngOps) (joint : Bool) : MatOp :=
  { a := st.getG o.a, b := st.getG o.b, pitch := st.getG o.c, place := st.getG o.e, x := o.x, i := o.hi.getD 0, shape := st.shape
    joint := joint }

/-- A grant is in force and the placement obeys R269. -/
def MatOp.placeOk (o : MatOp) : Bool :=
  let p := o.place.toNat
  shapeValid o.shape && decide (p < 2 ^ 32) && !o.place.getLsbD 7 && !o.place.getLsbD 15 && decide (o.row0 + shapeM o.shape ≤ 128)
    && decide (o.col0 + shapeN o.shape ≤ 128) && decide (o.em ≤ shapeM o.shape) && decide (o.en ≤ shapeN o.shape)

/-- Formats that go together on a quad of a kind (R271). -/
def matRows (wide : Bool) : List (List Nat) :=
  if wide then [[0x0C, 0x0D, 0x24], [0x0A, 0x0B]] else [[0x0E, 0x23], [0x0F, 0x10], [0x01, 0x02], [0x21, 0x22]]

def pairOk (wide : Bool) (fa fb : Nat) : Bool := (matRows wide).any fun r => r.contains fa && r.contains fb

/-- Bytes of an operand's row of k elements. -/
def operandRow (fmt blog k : Nat) : Nat :=
  if isGroupFmt fmt then k / 2 ^ blog * groupStride fmt blog else (k * typeBits (fmt - 1) + 7) / 8

def MatOp.pitchA (o : MatOp) : Nat := fieldN o.pitch.toNat 0 32
def MatOp.pitchB (o : MatOp) : Nat := fieldN o.pitch.toNat 32 32
def MatOp.rowA (o : MatOp) : Nat := operandRow o.fa o.blog (shapeK o.shape)
def MatOp.rowB (o : MatOp) : Nat := operandRow o.fb o.blog (shapeK o.shape)

/-- The origin of a bank source lies in the bank (R272). -/
def MatOp.originOk (o : MatOp) : Bool :=
  decide (o.a.toNat < 2 ^ 15) && !o.a.getLsbD 7 && decide (fieldN o.a.toNat 0 7 + shapeM o.shape ≤ 128)
    && decide (fieldN o.a.toNat 8 7 + shapeK o.shape ≤ 128)

/-- The operand rules of `MMA` and `MJOINT` on a quad of a kind (R271 to R273). -/
def MatOp.mmaOk (o : MatOp) (wide : Bool) (bond : Word) : Bool :=
  let group := isGroupFmt o.fa || isGroupFmt o.fb
  o.placeOk && pairOk wide o.fa o.fb && decide (o.rnd < 6)
    && (if group then 5 ≤ o.blog && o.blog ≤ 7 && shapeK o.shape % 2 ^ o.blog == 0 else o.blog == 0)
    && (if o.asrc then !isGroupFmt o.fa && o.abank != o.bank && decide (shapeK o.shape ≤ 128) && o.originOk
        else rowsOk o.a.toNat (shapeM o.shape) o.pitchA o.rowA)
    && rowsOk o.b.toNat (shapeN o.shape) o.pitchB o.rowB && (!o.joint || bond != BitVec.allOnes 64)

/-- The footprint of a product (R262). -/
def MatOp.mmaRegions (o : MatOp) (agent : Nat) : List Region :=
  (if o.asrc then [] else [spRows agent o.a.toNat (shapeM o.shape) o.pitchA o.rowA false])
    ++ [spRows agent o.b.toNat (shapeN o.shape) o.pitchB o.rowB false]

def MatOp.mmaReads (o : MatOp) : BitVec 5 := (if o.asrc then bankUnit o.abank else 0) ||| (if o.accum then bankUnit o.bank else 0)

/-- A product's command, with the strand after its draw. -/
def mmaCmd (s : State) (slot : Nat) (st : Strand) (m : MatOp) (bb : Option Nat) : Cmd × Strand :=
  let g := st.seed (m.asrc && m.rnd == 5)
  (newCmd s slot st (some .ashlar) (.mma m) bb (m.mmaRegions (agentOf (coreOf slot))) m.mmaReads (bankUnit m.bank) g.1, g.2)

/-- The quad of a slot is a W-quad (R16). -/
def slotWide (slot : Nat) : Bool := quadWide (agentOf (coreOf slot) % 48)

/-- `MMA` and `MJOINT` issue. -/
def State.issueProduct (s : State) (o : EngOps) (joint : Bool) : Out :=
  s.runEngine o (fun slot st => (matOpOf st o joint).mmaOk (slotWide slot) st.bond && bbOk st o.d) fun slot st =>
    let c := mmaCmd s slot st (matOpOf st o joint) (bbField st o.d)
    s.issueCmds slot c.2 [c.1]

/-- Matrix multiply-accumulate (R272). -/
def execMma (o : EngOps) (s : State) : Out := s.issueProduct o false

/-- A bond-joint matrix operation (R273). -/
def execMjoint (o : EngOps) (s : State) : Out := s.issueProduct o true

/-- Zeroes the placed region of a bank (R274). -/
def execMzero (o : EngOps) (s : State) : Out :=
  s.runEngine o (fun _ st => (matOpOf st o false).placeOk && bbOk st o.d) fun slot st =>
    let m := matOpOf st o false
    s.issueCmds slot st [newCmd s slot st (some .ashlar) (.mzero m) (bbField st o.d) [] 0 (bankUnit m.bank) 0]

/-- Loads accumulator values from scratchpad (R274). -/
def execMld (o : EngOps) (s : State) : Out :=
  let ok (st : Strand) : Bool :=
    let m := matOpOf st o false
    m.placeOk && rowsOk m.a.toNat m.em m.pitchA (4 * m.en) && bbOk st o.d
  s.runEngine o (fun _ st => ok st) fun slot st =>
    let m := matOpOf st o false
    s.issueCmds slot st [newCmd s slot st (some .ashlar) (.mld m) (bbField st o.d)
      [spRows (agentOf (coreOf slot)) m.a.toNat m.em m.pitchA (4 * m.en) false] 0 (bankUnit m.bank) 0]

/-- Stores a bank region and writes a status word (R275). -/
def execMst (o : EngOps) (s : State) : Out :=
  let ok (st : Strand) : Bool :=
    let m := matOpOf st o false
    m.placeOk && decide (m.srnd < 6) && rowsOk m.a.toNat m.em m.pitchA m.rowBytes && m.b.toNat % 4 == 0 && spOk m.b.toNat 4
      && bbOk st o.d
  s.runEngine o (fun _ st => ok st) fun slot st =>
    let m := matOpOf st o false
    let a := agentOf (coreOf slot)
    let g := st.seed (m.srnd == 5)
    s.issueCmds slot g.2 [newCmd s slot st (some .ashlar) (.mst m) (bbField st o.d)
      [spRows a m.a.toNat m.em m.pitchA m.rowBytes true, spRows a m.b.toNat 1 0 4 true] (bankUnit m.bank) 0 g.1]

/-! ### Reads and stores of the quad's own scratchpad by a strand -/

/-- The access to n bytes at a scratchpad offset must wait: an access of the core to these bytes, or an earlier acquire of the strand,
is not yet performed (R141, R147), or the quad waits for its restore (R318). -/
def State.spWaits (s : State) (slot off n : Nat) : Bool :=
  let a := agentOf (coreOf slot)
  s.overlapsQueue (coreOf slot) (spAddr a off) n || s.acquirePending slot
    || !s.quadServes ((s.quadHolder a).getD 64) a off n true true false

/-- n bytes read by a strand, with `sr.lost` and the count where they are lost (R385, R387). -/
def State.spLoad (s : State) (slot : Nat) (st : Strand) (off n : Nat) : Nat × State × Strand :=
  let r := s.spRead (agentOf (coreOf slot)) off n
  if r.2 then (r.1, s.count1 (memCounter (s.tenantOf st) 0x08), st.setLost 1) else (r.1, s, st)

/-- Branches on bits of a tile status word (R276). It uses no grant, so it runs also while VALID is 0 (DEDUCED, log entry 28). -/
def execTstb (o : EngOps) (s : State) : Out :=
  s.runEngine o (fun _ st => (st.getG o.a).toNat % 4 == 0 && spOk (st.getG o.a).toNat 4) fun slot st =>
    let off := (st.getG o.a).toNat
    if s.spWaits slot off 4 then .next s
    else
      let r := s.spLoad slot st off 4
      let any := r.1 % 2 ^ 7 &&& o.x.toNat % 2 ^ 7 != 0 || (o.x.getLsbD 7 && r.1.testBit 31)
      if any != o.x.getLsbD 8 then .next (r.2.1.jump slot r.2.2 (branchTarget st.pc ((o.hi.getD 0).setWidth 24)))
      else .next (r.2.1.retire slot r.2.2)

/-- Initialises a byte barrier (R266). -/
def execBbinit (o : EngOps) (s : State) : Out :=
  let ok (st : Strand) : Bool :=
    bbOffOk (st.getG o.a).toNat && decide (1 ≤ (st.getG o.b).toNat) && decide ((st.getG o.b).toNat < 2 ^ 32)
      && decide (o.x.toNat % 8 < 6)
  s.runEngine o (fun _ st => ok st) fun slot st =>
    let off := (st.getG o.a).toNat
    if s.spWaits slot off 16 || s.fencePending slot then .next s
    else
      let w := s.spWrite (s.tenantOf st) (agentOf (coreOf slot)) off 16 ((st.getG o.b).toNat + o.x.toNat % 8 * 2 ^ 65)
      .next (w.1.retire slot (if w.2 then st.setLost 2 else st))

/-- The upper doubleword of a barrier, as `BBWAIT` and `BBTEST` return it (R267). -/
def bbUpper (b : Nat) : Word := BitVec.ofNat 64 (b / 2 ^ 64)

/-- Tests a byte barrier phase (R267). -/
def execBbtest (o : EngOps) (s : State) : Out :=
  s.runEngine o (fun _ st => bbOffOk (st.getG o.a).toNat) fun slot st =>
    let off := (st.getG o.a).toNat
    if s.spWaits slot off 16 then .next s
    else
      let r := s.spLoad slot st off 16
      let st := r.2.2.setP (o.x.setWidth 3) (bbPhase r.1 != (st.getG o.b).getLsbD 0)
      .next (r.2.1.setWord slot st o.d (bbUpper r.1))

/-- Waits for a byte barrier phase change (R267): the monitor is armed, and a phase that has already changed completes at once. -/
def execBbwait (o : EngOps) (s : State) : Out :=
  s.runEngine o (fun _ st => bbOffOk (st.getG o.a).toNat) fun slot st =>
    let off := (st.getG o.a).toNat
    let ph := (st.getG o.b).getLsbD 0
    let limit := (o.hi.getD 0).toNat
    if s.spWaits slot off 16 then .next s
    else
      let r := s.spLoad slot st off 16
      if bbPhase r.1 != ph then .next (r.2.1.setWord slot r.2.2 o.d (bbUpper r.1))
      else .next (s.sleep slot st (.byteBarrier off ph (if limit = 0 then none else some (s.time + limit)) o.d))

/-- The timeout of a `BBWAIT` passes: it reads the barrier and completes (R267). -/
def execBbwaitTimeout (slot : Nat) (s : State) : Out :=
  match s.strandAt slot with
  | some st =>
    match st.wait with
    | .byteBarrier _ _ (some d) _ => .next (({ s with time := max s.time d } : State).bbWaitRead slot)
    | _ => .next s
  | none => .next s

/-! ### Sett (R277 to R280) -/

/-- Loads cells into Sett (R278). -/
def execSload (o : EngOps) (s : State) : Out :=
  let ok (st : Strand) : Bool :=
    decide ((st.getG o.b).toNat ≤ 16384) && spOk (st.getG o.a).toNat (8 * (st.getG o.b).toNat) && bbOk st o.d
  s.runEngine o (fun _ st => ok st) fun slot st =>
    let src := (st.getG o.a).toNat
    let n := (st.getG o.b).toNat
    s.issueCmds slot st [newCmd s slot st (some .sett) (.sload src n) (bbField st o.d)
      [spRows (agentOf (coreOf slot)) src 1 0 (8 * n) false] 0 settUnit 0]

/-- Runs sort phases on Sett (R279). -/
def execSsort (o : EngOps) (s : State) : Out :=
  s.runEngine o (fun _ st => bbOk st o.d) fun slot st =>
    s.issueCmds slot st [newCmd s slot st (some .sett)
      (.ssort (o.x.toNat % 16) (o.x.getLsbD 4) (o.x.getLsbD 5) (fieldN o.x.toNat 6 4)) (bbField st o.d) [] settUnit settUnit 0]

/-- Reads Sett cells out to scratchpad (R280). -/
def execSstore (o : EngOps) (s : State) : Out :=
  let ok (st : Strand) : Bool :=
    let n := (st.getG o.b).toNat
    decide (n ≤ 16384) && spOk (st.getG o.a).toNat (8 * n) && (o.c == 0 || spOk (st.getG o.c).toNat (2 * n)) && bbOk st o.d
  s.runEngine o (fun _ st => ok st) fun slot st =>
    let dst := (st.getG o.a).toNat
    let n := (st.getG o.b).toNat
    let pos := (st.getG o.c).toNat
    let a := agentOf (coreOf slot)
    let rs := spRows a dst 1 0 (8 * n) true :: (if o.c = 0 then [] else [spRows a pos 1 0 (2 * n) true])
    s.issueCmds slot st [newCmd s slot st (some .sett) (.sstore dst n pos (o.c != 0) (o.x.getLsbD 0)) (bbField st o.d) rs settUnit 0 0]

/-- Waits for the Sett commands that the unit accepted before it, then reads the Sett state, BUSY included (R277): the number of the
unit's next command at its first turn is kept while it waits. -/
def execSstat (o : EngOps) (s : State) : Out :=
  s.runEngine o (fun _ _ => true) fun slot st =>
    let q := s.quadAt (agentOf (coreOf slot))
    let n := st.since.getD q.nextSeq
    if q.cmds.any fun c => c.engine == some .sett && decide (c.seq < n) then .next (s.setStrand slot { st with since := some n })
    else .next (s.setWord slot st o.d (BitVec.ofNat 64 (q.sett.word (q.cmds.any fun c => c.engine == some .sett))))

/-! ### Hod (R281 to R288) -/

/-- A plain load of n aligned bytes inside one page that an instruction reads at issue (R261): translated and checked under R240,
and performed as a plain load of the strand. -/
def State.loadBlock (s : State) (slot : Nat) (st : Strand) (va n : Nat) : FrameResult :=
  let c := s.ctxOf slot st
  match s.physOf c (va % 2 ^ 52) .read with
  | .error t => .trap s st t
  | .ok (pa, e) =>
    if isControl pa then .trap s st (trapOf causePhysical accRead (va % 2 ^ 52))
    else if !s.plainReady slot c (s.keyOfAsid c.asid) pa n false then .wait pa false
    else
      let s := (s.tlbFill c.core e).touchCopy c.core c.agent pa false
      let x := s.readCounted c.tenant (s.keyOfAsid c.asid) pa n
      .ok (x.1.useAnswer c.agent (lineOf pa) false) (if x.2.2 then st.setLost 1 else st) x.2.1

/-- k blocks of n bytes from an address up, each inside one page, with the addresses already judged. -/
def State.readBlocks (s : State) (slot : Nat) (st : Strand) (n : Nat) : Nat → Nat → FrameResult
  | 0, _ => .ok s st 0
  | k + 1, va =>
    match s.loadBlock slot st va n with
    | .ok s st v =>
      match State.readBlocks s slot st n k (va + n) with
      | .ok s st w => .ok s st (v + 2 ^ (8 * n) * w)
      | r => r
    | r => r

/-- The first fault of a list of addresses: translation faults of all of them precede the physical-address checks (R240, R306). -/
def State.blocksFault (s : State) (c : Ctx) (vas : List Nat) : Option Trap :=
  match vas.findSome? fun v => (match s.translate c v .read with | .error t => some t | .ok _ => none) with
  | some t => some t
  | none => vas.findSome? fun v =>
      match s.physOf c v .read with
      | .error t => some t
      | .ok (pa, _) => if isControl pa then some (trapOf causePhysical accRead v) else none

/-- k blocks of n bytes from an address up. -/
def State.loadBlocks (s : State) (slot : Nat) (st : Strand) (n k va : Nat) : FrameResult :=
  match s.blocksFault (s.ctxOf slot st) ((List.range k).map fun i => (va + i * n) % 2 ^ 52) with
  | some t => .trap s st t
  | none => s.readBlocks slot st n k va

/-- Pages of 64 KiB that rows of n bytes touch; a block of 512 MiB is judged by its parts of that size (DESIGN CHOICE, log entry 28). -/
def pagesOf (rows : List Nat) (n : Nat) : List Nat :=
  (rows.flatMap fun v => (List.range ((v + n - 1) / 2 ^ 16 + 1 - v / 2 ^ 16)).map fun i => (v / 2 ^ 16 + i) % 2 ^ 36).dedup

/-- The physical address of a page's first byte as a footprint uses it, where a valid leaf maps it. -/
def State.pageBase (s : State) (c : Ctx) (page : Nat) : Option Nat :=
  match s.translate c (page * 2 ^ 16) .any with
  | .error _ => none
  | .ok e =>
    let pa := leafPa e.level e.entry.toNat (page * 2 ^ 16)
    if isScratch pa then s.scratchTarget c pa else some pa

/-- The entry for which the walk of one of the pages waits (R134): the instruction that names them waits with it. -/
def State.heldPage (s : State) (c : Ctx) (pages : List Nat) : Option Nat :=
  if s.homes.dir.isEmpty then none
  else pages.findSome? fun p =>
    match s.translate c (p * 2 ^ 16) .any with
    | .error t => if t.code = heldWalk then some t.tval else none
    | .ok _ => none

/-- The region of rows of n bytes at a list of virtual addresses (R56, R262): where they lie in one page, what `exact` gives from the
page's physical address and the lowest row, and otherwise the enclosing interval of the pages touched. -/
def State.rowsRegion (s : State) (c : Ctx) (starts : List Nat) (len : Nat) (write : Bool) (exact : Nat → Region) : List Region :=
  match pagesOf starts len with
  | [] => []
  | [p] =>
    match s.pageBase c p with
    | none => []
    | some b => [exact (b + starts.foldl min (starts.headD 0) % 2 ^ 16)]
  | ps =>
    match ps.filterMap (s.pageBase c) with
    | [] => []
    | b :: r =>
      let lo := r.foldl min b
      let hi := r.foldl max b
      [{ base := lo, len := hi + 2 ^ 16 - lo, rows := 1, stride := 0, write := write }]

/-- The starts of rows at virtual addresses `va + r × stride`. -/
def rowStarts (va rows : Nat) (stride : Int) : List Nat := (List.range rows).map fun r => (((va : Int) + r * stride) % 2 ^ 52).toNat

/-- The region of such rows. -/
def State.spanRegion (s : State) (c : Ctx) (va rows : Nat) (stride : Int) (len : Nat) (write : Bool) : List Region :=
  s.rowsRegion c (rowStarts va rows stride) len write
    fun lo => { base := lo, len := len, rows := rows, stride := stride.natAbs, write := write }

/-- The starts of the rows of a three-dimensional span. -/
def spanStarts (va yn zn : Nat) (sy sz : Int) : List Nat :=
  (List.range zn).flatMap fun z => (List.range yn).map fun y => (((va : Int) + z * sz + y * sy) % 2 ^ 52).toNat

/-- The region of a three-dimensional span: rows where one of the two dimensions is 1, else the enclosing interval. -/
def State.spanOf (s : State) (c : Ctx) (va yn zn : Nat) (sy sz : Int) (len : Nat) (write : Bool) : List Region :=
  if zn = 1 then s.spanRegion c va yn sy len write
  else if yn = 1 then s.spanRegion c va zn sz len write
  else
    let starts := spanStarts va yn zn sy sz
    let extent := starts.foldl max 0 - starts.foldl min (starts.headD 0) + len
    s.rowsRegion c starts len write fun lo => { base := lo, len := extent, rows := 1, stride := 0, write := write }

/-- Bytes of a source row of a copy. -/
def sourceRow (d : Nat) : Nat :=
  if dscDec d then
    let p := dscSrc d
    if isGroupFmt (ptrFmt p) then (dscXn d + 2 ^ ptrBlog p - 1) / 2 ^ ptrBlog p * groupStride (ptrFmt p) (ptrBlog p)
    else (dscXn d * plainBits (ptrFmt p) + 7) / 8
  else dscXn d

/-- The footprint of a copy or push (R262): an `HSEND` writes nothing in the issuing quad. -/
def State.copyRegions (s : State) (c : Ctx) (d : Nat) (send : Bool) : List Region :=
  s.spanOf c (ptrVa (dscSrc d)) (dscYn d) (dscZn d) (dscSy d) (dscSz d) (sourceRow d) false
    ++ (if send then [] else s.spanOf c (dscDst d) (dscYn d) (dscZn d) (dscDy d) (dscDz d) (rowLen false d) true)

/-- The footprint of a gather: the index list and the destination. -/
def State.gatherRegions (s : State) (c : Ctx) (d : Nat) : List Region :=
  s.spanOf c (dscIdx d) 1 1 0 0 (dscYn d * (typeBits (dscDt d) / 8)) false
    ++ s.spanOf c (dscDst d) 1 1 0 0 (dscYn d * dscXn d) true

/-- The pages that a copy names, and those that a gather does. -/
def copyPages (d : Nat) : List Nat :=
  pagesOf (spanStarts (ptrVa (dscSrc d)) (dscYn d) (dscZn d) (dscSy d) (dscSz d)) (sourceRow d)
    ++ pagesOf (spanStarts (dscDst d) (dscYn d) (dscZn d) (dscDy d) (dscDz d)) (rowLen false d)
def gatherPages (d : Nat) : List Nat :=
  pagesOf [dscIdx d] (dscYn d * (typeBits (dscDt d) / 8)) ++ pagesOf [dscDst d] (dscYn d * dscXn d)

/-- Descriptor fields within their limits (R281). -/
def copyDescOk (d : Nat) : Bool :=
  fieldN d 328 184 == 0 && dscXn d != 0 && dscYn d != 0 && dscZn d != 0 && (!dscDec d || (8 ≤ dscDt d && dscDt d ≤ 12))

def gatherDescOk (d : Nat) : Bool :=
  fieldN d 328 184 == 0 && 1 ≤ dscXn d && decide (dscXn d ≤ 4096) && dscYn d != 0 && dscZn d == 1 && !dscDec d
    && (dscDt d == 5 || dscDt d == 7)

/-- The destination of a push lies on the issuing quad's own scratchpad (R284). -/
def State.sendsHome (s : State) (c : Ctx) (d : Nat) : Bool :=
  match s.translate c (dscDst d) .write with
  | .error _ => false
  | .ok e => s.quadNamed c (leafPa e.level e.entry.toNat (dscDst d)) == some c.agent

/-- Format faults of a descriptor with DEC 1. -/
def copyFormatBad (d : Nat) : Bool := dscDec d && (formatFault (dscSrc d) || ptrFmt (dscSrc d) == 0)

/-- Step 3 of R261: the descriptor of n blocks is read and checked, then its follow-on block (`next`), then `f` issues. A trap has none
of the instruction's effects. `ok` judges the descriptor alone, `home` with its translation. -/
def State.runHod (s : State) (o : EngOps) (blocks : Nat) (ok : Nat → Bool) (pages : Nat → List Nat) (home : State → Nat → Strand → Nat → Bool)
    (next : Nat → Strand → Nat → Bool) (f : State → Nat → Strand → Nat → Out) : Out :=
  s.runEngine o (fun _ st => bbOk st o.d) fun slot st =>
    let va := ptrVa (st.getG o.a)
    if va % 64 ≠ 0 then s.misaligned slot st accRead va
    else
      match s.loadBlocks slot st 64 blocks va with
      | .wait pa w => .next (s.askPlain slot st pa w)
      | .trap _ _ t => .next (s.trap slot st t)
      | .ok s' st' d =>
        let held := if ok d then s.heldPage (s.ctxOf slot st) (pages d) else none
        if let some p := held then .next (s.recallLines [lineOf p]).1
        else if !ok d || home s' slot st' d then .next (s.trapHead slot st causeIllegalOperand)
        else if copyFormatBad d then .next (s.trap slot st (trapOf causeFormat 0 (dscSrc d).toNat))
        else if !next slot st' d then .next (s.trapHead slot st causeIllegalOperand)
        else f s' slot st' d

/-- Strided copy, with optional decode (R282). -/
def execHcopy (o : EngOps) (s : State) : Out :=
  s.runHod o 1 copyDescOk copyPages (fun _ _ _ _ => false) (fun _ _ _ => true) fun s slot st d =>
    s.issueCmds slot st [newCmd s slot st (some .hod) (.hcopy d) (bbField st o.d) (s.copyRegions (s.ctxOf slot st) d false) 0 0 0]

/-- The matrix instruction of a follow-on block (R283). -/
def followOp (st : Strand) (d : Nat) : MatOp :=
  { a := BitVec.ofNat 64 (fieldN d 512 64), b := BitVec.ofNat 64 (fieldN d 576 64), pitch := BitVec.ofNat 64 (fieldN d 640 64)
    place := BitVec.ofNat 64 (fieldN d 704 64), x := BitVec.ofNat 16 (fieldN d 768 16), i := BitVec.ofNat 32 (fieldN d 784 32)
    shape := st.shape, joint := fieldN d 816 1 == 1 }

/-- MBB: none for all ones. -/
def followBarrier (d : Nat) : Option Nat := if fieldN d 832 32 = 2 ^ 32 - 1 then none else some (fieldN d 832 32)

/-- The follow-on block obeys its rules (R261, R271, R283). -/
def followOk (slot : Nat) (st : Strand) (d : Nat) : Bool :=
  let m := followOp st d
  fieldN d 817 15 == 0 && fieldN d 864 160 == 0 && m.x &&& ~~~0x3F == 0 && m.i &&& ~~~0xFFFFF == 0
    && (match followBarrier d with | none => true | some off => bbOffOk off) && m.mmaOk (slotWide slot) st.bond

/-- A copy with a matrix follow-on, entered together (R283). -/
def execHcopym (o : EngOps) (s : State) : Out :=
  s.runHod o 2 (fun d => copyDescOk (d % 2 ^ 512)) (fun d => copyPages (d % 2 ^ 512)) (fun _ _ _ _ => false) followOk fun s slot st d =>
    let copy := newCmd s slot st (some .hod) (.hcopy (d % 2 ^ 512)) (bbField st o.d)
      (s.copyRegions (s.ctxOf slot st) (d % 2 ^ 512) false) 0 0 0
    let f := mmaCmd s slot st (followOp st d) (followBarrier d)
    s.issueCmds slot f.2 [copy, { f.1 with after := some (s.quadAt (agentOf (coreOf slot))).nextSeq }]

/-- Pushes scratchpad data to another quad (R284). -/
def execHsend (o : EngOps) (s : State) : Out :=
  s.runHod o 1 (fun d => copyDescOk d && !dscDec d) copyPages (fun s slot st d => s.sendsHome (s.ctxOf slot st) d) (fun _ _ _ => true)
    fun s slot st d =>
    s.issueCmds slot st [newCmd s slot st (some .hod) (.hsend d) (bbField st o.d) (s.copyRegions (s.ctxOf slot st) d true) 0 0 0]

/-- Indexed gather (R285). -/
def execHgath (o : EngOps) (s : State) : Out :=
  s.runHod o 1 gatherDescOk gatherPages (fun _ _ _ _ => false) (fun _ _ _ => true) fun s slot st d =>
    s.issueCmds slot st [newCmd s slot st (some .hod) (.hgath d) (bbField st o.d) (s.gatherRegions (s.ctxOf slot st) d) 0 0 0]

/-! ### The engines at work (R263) -/

/-- An engine of a quad runs no command. -/
def QuadState.engineFree (q : QuadState) (e : Engine) : Bool := !q.cmds.any fun c => c.engine == some e && c.state == .running

/-- A joint operation. -/
def CmdOp.isJoint : CmdOp → Bool
  | .mma o => o.joint
  | _ => false

/-- A command may start as far as its quad and its unit decide: it entered outside a hold (R78), and no edge has passed (R366). -/
def QuadState.mayStart (q : QuadState) (c : Cmd) : Bool :=
  c.state == .queued && !c.held && q.phase == .running && q.released c

/-- An access of a core of the quad is not yet performed; a refused store may wait in what is saved of its core (R378). -/
def State.accessOut (s : State) (a id : Nat) : Bool :=
  ((List.range 4).any fun k => (s.coreAt (4 * a + k)).queue.any fun x => x.id == id)
    || s.coursing.savedCores.any fun e => e.1 % 768 / 4 == a && e.2.refused.any fun x => x.id == id

/-- A command may start: also the accesses before its issue that it follows are performed (R144, R155). -/
def State.cmdReady (s : State) (a : Nat) (c : Cmd) : Bool :=
  (s.quadAt a).mayStart c && c.behind.all fun id => !s.accessOut a id

/-- A command that its engine could run now: a joint one once all four members could (R273). -/
def State.startable (s : State) (a : Nat) (c : Cmd) : Bool :=
  match c.op with
  | .mma o =>
    if o.joint then
      match s.jointMembers (a / 48) (bondOf (a % 48)) c.lid c.jointNo with
      | some l => l.all fun x => s.cmdReady x.1 x.2.1
      | none => false
    else s.cmdReady a c
  | _ => s.cmdReady a c

/-- PRIO of a command's launch as R58 has it now. -/
def State.cmdPrio (s : State) (c : Cmd) : Nat := ((s.launchOf c.lid).map (·.prio)).getD 0

/-- Of two commands of a quad the engine takes x before y: first by the priority of their launches (R58), then the older (R263)
(DEDUCED, log entry 28). -/
def State.goesBefore (s : State) (x y : Cmd) : Bool :=
  decide (s.cmdPrio x < s.cmdPrio y) || (s.cmdPrio x == s.cmdPrio y && decide (x.seq < y.seq))

/-- No other command that the engine could run goes before this one; `joint` leaves out other joint ones. -/
def State.isNextCmd (s : State) (a : Nat) (c : Cmd) (joint : Bool) : Bool :=
  (s.quadAt a).cmds.all fun x =>
    x.seq == c.seq || x.engine != c.engine || (joint && x.op.isJoint) || !s.goesBefore x c || !s.startable a x

/-- What `SSORT` finds as it starts (R279): an engine fault, or the options latched and the phase at which its run ends; a run that an edge stopped keeps
its end (R367). A run that starts amid a phase counts the rest of it as one of its phases (DESIGN CHOICE, log entry 31). -/
def State.startSort (s : State) (a : Nat) (c : Cmd) (t : Nat) (desc canz : Bool) (nph : Nat) : State :=
  let q := s.quadAt a
  let x := q.sett
  if !x.loaded || (x.latched && !(x.t == t && x.desc == desc && x.canz == canz)) then s.retireFaulted a c 0x20
  else
    let x := if x.latched then x else { x with latched := true, t := t, desc := desc, canz := canz }
    (s.setQuad a { q with sett := x }).updCmd a c.seq fun c =>
      { c with
        state := .running, started := s.time
        phases := if c.phases ≠ 0 then c.phases else if nph = 0 then 15 else min 15 (x.phase + nph) }

/-- A command starts. -/
def State.startCmd (s : State) (a : Nat) (c : Cmd) : State :=
  match c.op with
  | .ssort t desc canz nph => s.startSort a c t desc canz nph
  | _ =>
    -- a copy all of whose pieces had issued when an edge stopped it has nothing left to do
    if c.engine == some .hod && (c.op.piece c.next).isNone then s.dropCmd a c.seq
    else s.updCmd a c.seq fun c => { c with state := .running, started := s.time, after := none }

/-- An engine starts the oldest command that its footprint unit has released, launches of higher priority first (R58, R263). -/
def execEngineCommandStart (agent : Nat) (engine : Engine) (s : State) : Out :=
  let q := s.quadAt agent
  if !q.engineFree engine then .next s
  else
    match q.cmds.find? fun c => c.engine == some engine && s.startable agent c && s.isNextCmd agent c false with
    | some c => if c.after.isNone && !c.op.isJoint then .next (s.startCmd agent c) else .next s
    | none => .next s

/-- A follow-on starts once its copy has landed and its own dependences are met (R283). -/
def execFollowOnStart (agent seq : Nat) (s : State) : Out :=
  let q := s.quadAt agent
  match q.cmdOf seq with
  | some c =>
    if c.after.isSome && !c.op.isJoint && q.engineFree .ashlar && s.startable agent c && s.isNextCmd agent c false then
      .next (s.startCmd agent c)
    else .next s
  | none => .next s

/-- A joint operation may start at a member: no other command goes before it there. -/
def State.memberReady (s : State) (x : Nat × Cmd × MatOp) : Bool :=
  s.cmdReady x.1 x.2.1 && (s.quadAt x.1).engineFree .ashlar && s.isNextCmd x.1 x.2.1 true

/-- The members of a joint operation agree (R273). -/
def membersAgree (l : List (Nat × Cmd × MatOp)) : Bool :=
  match l with
  | [] => true
  | x :: _ => l.all fun y => x.2.2.agrees y.2.2

/-- The priority of a joint operation's launch, as R58 has it now. -/
def State.jointPrio (s : State) (l : List (Nat × Cmd × MatOp)) : Nat := match l with | [] => 8 | x :: _ => s.cmdPrio x.2.1

/-- Of joint operations in the order of member 0's unit, the first of those of the highest priority (R58, R263): between two launches of one
priority that order decides (DESIGN CHOICE, log entry 28). -/
def State.firstJoint (s : State) (ls : List (List (Nat × Cmd × MatOp))) : Option (List (Nat × Cmd × MatOp)) :=
  ls.foldl (fun b l => match b with
    | none => some l
    | some x => if s.jointPrio l < s.jointPrio x then some l else b) none

/-- Members that disagree take an engine fault as soon as all four have issued (R273, R379); of the others a joint operation starts once
all four members have been released. -/
def execJointStart (die bond : Nat) (s : State) : Out :=
  match (s.jointSets die bond).find? fun l => !membersAgree l with
  | some l => .next (l.foldl (fun s y => s.retireFaulted y.1 y.2.1 0x21) s)
  | none =>
    match s.firstJoint ((s.jointSets die bond).filter fun l => l.all s.memberReady) with
    | some l => .next (l.foldl (fun s y => s.updCmd y.1 y.2.1.seq fun c => { c with state := .running, started := s.time, after := none }) s)
    | none => .next s

/-- The destination quad of a piece takes messages of the tenant (R81). -/
def State.dstOpen (s : State) (a tenant pa : Nat) : Bool :=
  !isScratch pa || pa / 2 ^ 24 % 256 == a || s.quadOpen tenant (pa / 2 ^ 24 % 256)

/-- Piece p has ended, landed or not. -/
def Cmd.ended (c : Cmd) (p : Nat) (fault : Option (Nat × Nat × Nat)) (now : Nat) : Cmd :=
  let c := c.issueTo p
  let c := { c with flight := c.flight.filter (· != p) }
  match fault with
  | none => ({ c with landed := c.landed ++ [p] }).prune
  | some f =>
    match c.failed with
    | some g => if p < g.1 then { c with failed := some (p, f), foundAt := now } else c
    | none => { c with failed := some (p, f), foundAt := now }

/-- The state of a quad lets its running commands go on: they run on after its edge until they end or are stopped (R80). -/
def QuadState.runsOn (q : QuadState) : Bool := match q.phase with | .running => true | .stopped _ => true | _ => false

/-- A piece whose destination lies at a fenced device is discarded and counted (R411). -/
def State.countFenced (s : State) (a : Nat) (c : Cmd) (p : HodPiece) : State :=
  match s.translate (cmdCtx a c) ((rowDst c.op.gathers c.op.desc p.row + p.first) % 2 ^ 52) .write with
  | .ok e =>
    if s.isFenced (leafPa e.level e.entry.toNat (rowDst c.op.gathers c.op.desc p.row + p.first)) then s.count1 (sysCounter 0x28) else s
  | .error _ => s

/-- A Hod piece completes: its bytes land, or it faults and holds the command (R287, R388). -/
def execHodPieceLand (agent seq piece : Nat) (s : State) : Out :=
  let q := s.quadAt agent
  match q.cmdOf seq with
  | none => .next s
  | some c =>
    match c.op.piece piece with
    | none => .next s
    | some p =>
      if c.state != .running || c.engine != some .hod || !q.runsOn || !c.mayLand piece || c.refused.contains piece then .next s
      else
        match s.pieceData agent c p, s.pieceDst agent c p with
        | .error f, _ =>
          if f.1 = heldWalk then .next (s.recallLines [lineOf f.2.2]).1
          else .next (s.settleHod agent (c.ended piece (some f) s.time))
        | _, .error f =>
          if f.1 = heldWalk then .next (s.recallLines [lineOf f.2.2]).1
          else .next ((s.countFenced agent c p).settleHod agent (c.ended piece (some f) s.time))
        | .ok d, .ok pa =>
          if !s.dstOpen agent c.tenant pa then .next s
          else if !s.pieceLines agent c p pa d.index then .next (s.askPiece agent c p pa d.index)
          else
            let s := s.landPiece agent c p pa d
            match (s.quadAt agent).cmdOf seq with
            | some c => .next (s.settleHod agent (c.ended piece none s.time))
            | none => .next s

/-- Elements written by an Ashlar command, in counted bytes (R265). -/
def MatOp.counted (o : MatOp) : Nat := 4 * o.em * o.en

/-- A joint operation completes at its four members (R273). -/
def State.finishJoint (s : State) (a : Nat) (c : Cmd) : State :=
  match s.jointMembers (a / 48) (bondOf (a % 48)) c.lid c.jointNo with
  | none => s
  | some l =>
    if l.all fun x => x.2.1.state == .running then
      l.foldl (fun s x => (s.bbLandOf x.1 x.2.1 x.2.2.counted 0 false false).dropCmd x.1 x.2.1.seq)
        (s.runJoint l (match c.op with | .mma o => o.allChunks | _ => 0))
    else s

/-- A sort's run completes: its remaining steps, one a cycle from its start (R279). -/
def State.finishSort (s : State) (a : Nat) (c : Cmd) : State :=
  let q := s.quadAt a
  let n := stepsLeft q.sett c.phases
  let s := { s with time := max s.time (c.started + n) }
  let r := settSteps c.phases n q.sett (s.settArray a)
  (s.setSettArray a r.2).setQuad a { s.quadAt a with sett := r.1 }

/-- A running command other than a Hod's finishes: its effect, its counted bytes, and its release (R263, R265). It performs its reads in this
step, though R157 lets each be performed at any time since the issue (DESIGN CHOICE, log entry 31). -/
def State.finishCmd (s : State) (a : Nat) (c : Cmd) : State :=
  let land (s : State) (n : Nat) : State := (s.bbLandOf a c n 0 false false).dropCmd a c.seq
  match c.op with
  | .mzero o => land (s.runMzero a o) o.counted
  | .mma o => if o.joint then s.finishJoint a c else land (s.runMma a c.tenant o c.gen o.allChunks) o.counted
  | .mld o => land (s.runMld a c.tenant o) o.counted
  | .mst o => (s.runMst a c o).dropCmd a c.seq
  | .sload src n => land (s.runSload a c.tenant src n) 131072
  | .ssort _ _ _ _ => land (s.finishSort a c) 131072
  | .sstore dst n pos hasPos raw => (s.runSstore a c dst n pos hasPos raw).dropCmd a c.seq
  | .marker => land s 4
  | _ => s

/-- An Ashlar, Sett, `MST` or marker command finishes and lands its counted bytes (R265); a marker does once the unit has released it
(R294). -/
def execEngineCommandCompletion (agent seq : Nat) (s : State) : Out :=
  let q := s.quadAt agent
  match q.cmdOf seq with
  | none => .next s
  | some c =>
    let may := if c.op == .marker then s.cmdReady agent c else c.state == .running && c.engine != some .hod && q.runsOn
    if may then .next (s.finishCmd agent c) else .next s

end Sys2Proof.Machine
end

