-- ==== Sys2Proof/Machine/System.lean ====
section
/-! DEFINITION. The launch, task and system instructions (spec/12_system.md R288 to R302). -/

namespace Sys2Proof.Machine

/-! ### Posting (R289, R290) -/

/-- A failure report: bit 63 and a code. -/
def failWord (code : Nat) : Word := BitVec.ofNat 64 (2 ^ 63 + code)

/-- A 64-byte record read at issue (R289): `ok` is the operand check of the instruction. The post is a release: what the strand and its core did before
is performed before it (R154, R291). -/
def State.runRecord (s : State) (o : EngOps) (ok : Strand → Bool) (f : State → Nat → Strand → Nat → Out) : Out :=
  s.run (engRegs o) [] fun slot st =>
    let va := ptrVa (st.getG o.a)
    if !ok st then .next (s.trapHead slot st causeIllegalOperand)
    else if va % 64 ≠ 0 then s.misaligned slot st accRead va
    else if !s.settled slot then .next s
    else
      match s.loadBlock slot st va 64 with
      | .wait pa w => .next (s.askPlain slot st pa w)
      | .trap _ _ t => .next (s.trap slot st t)
      | .ok s st r => f s slot st r

/-- The post of R289: the result, and the queue and ring afterwards. A ring entry whose address faults is not written (DESIGN CHOICE, log entry 20). -/
def State.post (s : State) (n tenant r : Nat) (sright : Bool) : Word × State :=
  let q := s.queueAt n
  let i := q.tail
  if !q.enable then (failWord 1, s)
  else if q.tenant.toNat ≠ tenant then (failWord 2, s)
  else if (i - q.head).toNat = 2 ^ q.logn.toNat then (failWord 3, s)
  else
    let s := (s.hubWrite q.tenant.toNat q.asid.toNat (q.base.toNat + i.toNat % 2 ^ q.logn.toNat * 64) 64 r).getD s
    let q := { q with tail := i + 1, uposted := if sright then q.uposted else q.uposted ++ [i.toNat] }
    (i.setWidth 64, s.setQueue n q)

/-- Posts a record to a launch queue (R289). -/
def execLaunch (o : EngOps) (s : State) : Out :=
  s.runRecord o (fun st => decide ((st.getG o.b).toNat < 64)) fun s slot st r =>
    let x := s.post (st.getG o.b).toNat (s.tenantOf st) r st.sRights
    .next (x.2.setWord slot st o.d x.1)

/-- Launches and tasks in the hub's pending pool (R50). -/
def State.poolSize (s : State) : Nat := (s.hub.launches.filter fun l => l.state == .pending).length + s.hub.tasks.length

/-- The posting launch of a task: its queue number and its priority. -/
def State.taskPost (s : State) (st : Strand) (r : Nat) : TaskPost :=
  let l := s.launchOf st.lid
  { record := r, lid := st.lid, asid := s.asidOf st, tenant := s.tenantOf st, queue := (l.map (·.queue)).getD 0
    sright := st.sRights, tvec := st.tvec, prio := max (recPrio r) ((l.map (·.prio)).getD 0) }

/-- Posts a task record into the pending pool (R290). -/
def execTask (o : EngOps) (s : State) : Out :=
  s.runRecord o (fun _ => true) fun s slot st r =>
    if 512 ≤ s.poolSize then
      .next ((s.count1 (execCounter (s.tenantOf st) 0x20)).setWord slot st o.d (failWord 3))
    else .next ((s.setHub { s.hub with tasks := s.hub.tasks ++ [s.taskPost st r] }).setWord slot st o.d 0)

/-! ### Footprint markers (R292, R294) -/

/-- The fields of a footprint descriptor (R292). -/
def ftBase (d : Nat) : Nat := fieldN d 0 52
def ftLen (d : Nat) : Nat := fieldN d 64 32
def ftRows (d : Nat) : Nat := fieldN d 96 16
def ftStride (d : Nat) : Nat := fieldN d 128 32
def ftWrite (d : Nat) : Bool := fieldN d 160 1 == 1

/-- A descriptor that is not malformed (R292). -/
def ftOk (d : Nat) : Bool :=
  ftLen d != 0 && ftRows d != 0 && (ftRows d == 1 || decide (ftLen d ≤ ftStride d))
    && decide (ftBase d + (ftRows d - 1) * ftStride d + ftLen d - 1 < 2 ^ 52) && fieldN d 112 16 == 0 && fieldN d 161 95 == 0

/-- The descriptors of an array of n, as numbers. -/
def ftArray (v n : Nat) : List Nat := (List.range n).map fun i => v / 2 ^ (256 * i) % 2 ^ 256

/-- A footprint region by virtual address (R293). -/
def ftRegion (d : Nat) : Region := { base := ftBase d, len := ftLen d, rows := ftRows d, stride := ftStride d, write := ftWrite d }

/-- The page fault of a region whose bytes do not all translate (R294). -/
def State.ftFault (s : State) (c : Ctx) (d : Nat) : Option Trap :=
  (List.range (ftRows d)).findSome? fun r =>
    s.firstFault c .any (fun _ _ => false) (ftLen d / 2 ^ 16 + 2) (ftBase d + r * ftStride d) (ftLen d)

/-- Enters a footprint marker (R294). -/
def execFpdecl (o : EngOps) (s : State) : Out :=
  s.runEngine o (fun _ st => 1 ≤ (st.getG o.b).toNat && (st.getG o.b).toNat ≤ 8 && bbOk st o.d) fun slot st =>
    let va := ptrVa (st.getG o.a)
    let n := (st.getG o.b).toNat
    if va % 32 ≠ 0 then s.misaligned slot st accRead va
    else
      match s.loadBlocks slot st 32 n va with
      | .wait pa w => .next (s.askPlain slot st pa w)
      | .trap _ _ t => .next (s.trap slot st t)
      | .ok s' st' v =>
        let ds := ftArray v n
        let c := s.ctxOf slot st
        if !ds.all ftOk then .next (s.trapHead slot st causeIllegalOperand)
        else
          match lowestFault ((ds.filterMap (s.ftFault c)).map fun t => (if t.code = heldWalk then 0 else t.tval, t)) with
          | some t => .next (s.trap slot st t)
          | none =>
            let rs := ds.flatMap fun d => s.spanRegion c (ftBase d) (ftRows d) (ftStride d) (ftLen d) (ftWrite d)
            s'.issueCmds slot st' [newCmd s slot st none .marker (bbField st o.d) rs 0 0 0]

/-! ### Traps and the end of a strand (R295 to R297) -/

/-- A software trap (R295): the instruction completes, its end test included, and then the trap is taken. -/
def execTrap (o : EngOps) (s : State) : Out :=
  s.run [] [] fun slot st =>
    .next (s.takeTrap slot st.advance (trapOf causeSoftware 0 o.x.toNat) st.advance.pc)

/-- Returns from a handler (R296). -/
def execEret (_ : EngOps) (s : State) : Out :=
  s.run [] [] fun slot st =>
    if !st.sRights then .next (s.trapHead slot st causePrivilege)
    else if !st.inh then .next (s.trapHead slot st causeIllegalOperand)
    else .next (s.trapReturn slot st)

/-- Ends the strand, once every earlier access is performed (R297). -/
def execExit (o : EngOps) (s : State) : Out :=
  s.run [] [] fun slot st =>
    if s.drained slot then .next (s.endStrand slot st (o.x.toNat % 256)) else .next s

/-! ### The liveness hint (R299, R300) -/

/-- Sets the register liveness record (R299). -/
def execPhintRegisters (o : EngOps) (s : State) : Out :=
  s.run [] [] fun slot st =>
    let vm := o.hi.getD 0
    if vm.toNat / 2 ^ st.vcount ≠ 0 then .next (s.trapHead slot st causeIllegalOperand)
    else .next (s.retire slot { st with rrec := some (o.x, vm) })

/-- n destination bytes from an address lie in the offsets lo to hi − 1 of the quad's scratchpad; page by page. -/
def State.rowInside (s : State) (c : Ctx) (lo hi : Nat) : Nat → Nat → Nat → Bool
  | 0, _, n => n == 0
  | fuel + 1, va, n =>
    if n = 0 then true
    else
      match s.physOf c va .write with
      | .error _ => false
      | .ok (pa, _) =>
        let k := min n (pageLeft va)
        isScratch pa && pa / 2 ^ 24 % 256 == c.agent && decide (lo ≤ pa % 2 ^ 24) && decide (pa % 2 ^ 24 + k ≤ hi)
          && State.rowInside s c lo hi fuel ((va + k) % 2 ^ 52) (n - k)

/-- Every destination byte of a staging descriptor lies inside the range (R300). -/
def State.stageInside (s : State) (c : Ctx) (lo hi d : Nat) : Bool :=
  (List.range (rowCount false d)).all fun r => s.rowInside c lo hi (rowLen false d / 2 ^ 16 + 2) (rowDst false d r) (rowLen false d)

/-- A slot of the quad's scratchpad record set, or emptied. -/
def State.setPhint (s : State) (slot n : Nat) (e : Option PhintSlot) : State :=
  let a := agentOf (coreOf slot)
  let q := s.quadAt a
  s.setQuad a { q with phint := match e with | some e => q.phint.put n e | none => SMap.erase q.phint n }

/-- Sets a scratchpad live or staged range (R300). An empty staged range reads no descriptor (DESIGN CHOICE, log entry 25). -/
def execPhintRange (o : EngOps) (s : State) : Out :=
  let ro := o.x.getLsbD 3
  let ok (st : Strand) : Bool :=
    (st.getG o.a).toNat % 128 == 0 && (st.getG o.b).toNat % 128 == 0 && decide ((st.getG o.a).toNat + (st.getG o.b).toNat ≤ 2 ^ 22)
      && (ro || o.c == 0)
  s.runEngine o (fun _ st => ok st) fun slot st =>
    let lo := (st.getG o.a).toNat
    let n := (st.getG o.b).toNat
    let k := o.x.toNat % 8
    if n = 0 then .next ((s.setPhint slot k none).retire slot st)
    else if !ro then .next ((s.setPhint slot k (some { offset := lo, len := n, ro := false, desc := 0, asid := 0, lid := 0, ord := 0, sright := false })).retire slot st)
    else
      let va := ptrVa (st.getG o.c)
      if va % 64 ≠ 0 then s.misaligned slot st accRead va
      else
        match s.loadBlock slot st va 64 with
        | .wait pa w => .next (s.askPlain slot st pa w)
        | .trap _ _ t => .next (s.trap slot st t)
        | .ok s' st' d =>
          if !(copyDescOk d && s.stageInside (s.ctxOf slot st) lo (lo + n) d) then .next (s.trapHead slot st causeIllegalOperand)
          else if copyFormatBad d then .next (s.trap slot st (trapOf causeFormat 0 (dscSrc d).toNat))
          else .next ((s'.setPhint slot k (some { offset := lo, len := n, ro := true, desc := d, asid := s.asidOf st, lid := st.lid, ord := s.ordinalOf st, sright := st.sRights })).retire slot st')

/-! ### Translations and stopped jobs (R301, R302) -/

/-- Every translation of an address space that matches is dropped; `va` none for all. -/
def State.dropTlb (s : State) (asid : Nat) (va : Option Nat) : State :=
  let stays (e : TlbEntry) : Bool := !(e.asid == asid && (match va with | some v => e.covers asid v | none => true))
  let sweep (m : SMap (List TlbEntry)) : SMap (List TlbEntry) :=
    (m.map fun x => (x.1, x.2.filter stays)).filter fun x => !x.2.isEmpty
  { s with utlb := sweep s.utlb, qtlb := sweep s.qtlb }

/-- An access of some core in the address space is not yet performed: also one of a strand that has ended, and a refused store that
Lintel has saved. Pieces of engine commands translate as they are performed. -/
def State.asidBusy (s : State) (asid : Nat) : Bool :=
  (s.cores.any fun e => e.2.queue.any fun a => a.asid == asid)
    || s.coursing.savedCores.any fun e => e.2.refused.any fun a => a.asid == asid

/-- Invalidates translations of the strand's ASID (R301), once every access translated with one is performed. -/
def execTlbinv (o : EngOps) (s : State) : Out :=
  s.run (engRegs o) [] fun slot st =>
    if !st.sRights then .next (s.trapHead slot st causePrivilege)
    else if !s.settled slot || s.asidBusy (s.asidOf st) then .next s
    else
      let va := if o.x.getLsbD 0 then none else some (ptrVa (st.getG o.a))
      .next ((s.dropTlb (s.asidOf st) va).retire slot st)

/-- A stopped command of a tenant that carries JOB. -/
def Cmd.isJob (c : Cmd) (tenant job : Nat) : Bool :=
  c.tenant == tenant && (match c.state with | .stopped j _ _ => j == job | _ => false)

/-- The quad and the stopped job, among the commands that the quads hold. -/
def State.findJob (s : State) (tenant job : Nat) : Option (Nat × Cmd) :=
  s.quads.findSome? fun e => (e.2.cmds.find? fun c => c.isJob tenant job).map fun c => (e.1, c)

/-- The quad with which the job is saved (R80). -/
def State.savedJob (s : State) (tenant job : Nat) : Option Nat :=
  (s.coursing.savedQuads.find? fun e => e.2.cmds.any fun c => c.isJob tenant job).map fun e => e.1 % 192

/-- The effect of `FACK` on a job (R302). -/
def State.ackJob (s : State) (a : Nat) (c : Cmd) (abandon : Bool) : State :=
  if abandon then (s.count1 (execCounter c.tenant 0x38)).abandon a c
  else
    match c.engine with
    | some .hod => s.updCmd a c.seq Cmd.continueHod
    | _ => (match c.op.bank with | some b => s.raiseBank a b lostFlag | none => s).dropCmd a c.seq

/-- Lintel has saved the quad, or is about to restore it: a job there is acknowledged once it is restored or no longer held
(DEDUCED, log entry 25). -/
def State.quadAway (s : State) (a : Nat) : Bool :=
  match (s.quadAt a).phase with
  | .running => false
  | .stopped _ => false
  | _ => true

/-- Continues or abandons a stopped job (R302) (DEDUCED, log entry 25). -/
def execFack (o : EngOps) (s : State) : Out :=
  s.run (engRegs o) [] fun slot st =>
    let job := (st.getG o.a).toNat
    if 2 ^ 32 ≤ job then .next (s.trapHead slot st causeIllegalOperand)
    else if !st.sRights then .next (s.trapHead slot st causePrivilege)
    else
      let tenant := s.tenantOf st
      match s.findJob tenant job with
      | some (a, c) =>
        if !s.holdsQuad tenant a then .next (s.setWord slot st o.d (failWord 2))
        else if s.quadAway a then .next s
        else .next ((s.ackJob a c (o.x.getLsbD 0)).setWord slot st o.d 0)
      | none =>
        match s.savedJob tenant job with
        | some a => if s.holdsQuad tenant a && s.quadAway a then .next s else .next (s.setWord slot st o.d (failWord 2))
        | none => .next (s.setWord slot st o.d (failWord 1))

end Sys2Proof.Machine
end

