-- ==== Sys2Proof/Machine/Hub.lean ====
section
/-! DEFINITION. The hub's work on launches and tasks: acceptance and rejection, placement, gangs, dependences, completion, the
energy budget, and the power states that it moves (spec/02_execution.md R35 to R37, R44 to R58; spec/12_system.md R290 to R293,
R298; spec/13_traps_context.md R319; spec/15_trust_debug_power.md R350). -/

namespace Sys2Proof.Machine

/-! ### Where a shape fits (R35, R52, R54) -/

/-- The cores of a quad that satisfy a test. -/
def goodCores (ok : Nat → Bool) (a : Nat) : List Nat := ((List.range 4).map (4 * a + ·)).filter ok

/-- The quads of a die, of one kind, with CPQ such cores. -/
def goodQuads (ok : Nat → Bool) (cpq : Nat) (wide : Bool) (d : Nat) : List Nat :=
  ((List.range 48).filter fun q => quadWide q == wide && decide (cpq ≤ (goodCores ok (48 * d + q)).length)).map (48 * d + ·)

/-- QPD quads of one kind on a die, the lowest that serve (DESIGN CHOICE, log entry 12); whole bonds with BOND. -/
def pickKind (ok : Nat → Bool) (r : Nat) (wide : Bool) (d : Nat) : Option (List Nat) :=
  let good := goodQuads ok (recCpq r) wide d
  if recBond r then
    let bonds := (List.range 12).filter fun b => (bondAgents d b).all good.contains
    if recQpd r / 4 ≤ bonds.length then some ((bonds.take (recQpd r / 4)).flatMap (bondAgents d)) else none
  else if recQpd r ≤ good.length then some (good.take (recQpd r)) else none

/-- The quads of a die for a record: KIND 2 takes N-quads where they serve (R54) (DESIGN CHOICE, log entry 12). -/
def pickQuads (ok : Nat → Bool) (r d : Nat) : Option (List Nat) :=
  match recKind r with
  | 0 => pickKind ok r false d
  | 1 => pickKind ok r true d
  | _ => (pickKind ok r false d).or (pickKind ok r true d)

/-- A core can hold SPC strands of a launch: it is inside the tenant's bays, runs or waits for its restore, and has the room of R35; slots and
local store promised to arriving strands count as used. -/
def State.coreHolds (s : State) (l : Launch) (core : Nat) : Bool :=
  let spc := recSpc l.record
  s.holder core == some l.tenant && ((s.coreAt core).phase == .running || (s.coreAt core).phase == .awaiting)
    && decide (((s.usedV core).map Prod.snd).sum + spc * vregCount (recVreg l.record) ≤ 64)
    && decide (((s.usedL core).map Prod.snd).sum + s.promised core + spc * (1 + recLocal l.record) ≤ 64)
    && decide (spc + s.promised core ≤ s.freeSlots core)

/-- A core can take SPC strands of a launch now: it can hold them, and it runs. -/
def State.coreTakes (s : State) (l : Launch) (core : Nat) : Bool :=
  s.coreHolds l core && (s.coreAt core).phase == .running && !(s.quadAt (agentOf core)).asleep && !s.power.idle

/-- The quads on which a die can hold a launch now (R52). -/
def State.dieHolds (s : State) (l : Launch) (d : Nat) : Option (List Nat) := pickQuads (s.coreTakes l) l.record d

/-! ### The checks of a record (R46) -/

/-- ENTRY is a head address with bits [63:52] zero. -/
def entryOk (r : Nat) : Bool := decide (recEntry r < 2 ^ 52) && recEntry r % 2 == 0 && recEntry r % 64 != 0

/-- KIND, the counts and BOND of a SHAPE word are in range (R45). -/
def shapeOk (r : Nat) : Bool :=
  let q := recQpd r
  decide (recKind r < 3) && decide (1 ≤ recSpc r) && decide (recSpc r ≤ 16) && decide (1 ≤ recCpq r) && decide (recCpq r ≤ 4)
    && decide (1 ≤ q) && decide (q ≤ if recKind r = 0 then 32 else 16)
    && decide (1 ≤ recMinDie r) && decide (recMinDie r ≤ 4) && decide (recMinDie r ≤ recMaxDie r) && decide (recMaxDie r ≤ 4)
    && !(recBond r && q % 4 != 0)

/-- The allocations fit one core (R35). -/
def allocationOk (r : Nat) : Bool :=
  decide (recSpc r * vregCount (recVreg r) ≤ 64) && decide (recSpc r * (1 + recLocal r) ≤ 64)

/-- The "Record" check of R46; `sup` says that SUP may be 1. -/
def recordOk (r : Nat) (sup : Bool) : Bool :=
  decide (recFcount r ≤ 8) && decide (12 ≤ recStklog r) && decide (recStklog r ≤ 24) && recStack r % 2 ^ recStklog r == 0
    && recComp r % 64 == 0 && fieldN r 224 32 == 0 && fieldN r 140 3 == 0 && fieldN r 158 2 == 0 && fieldN r 175 1 == 0
    && fieldN r 185 7 == 0 && (sup || !recSup r)

/-- The descriptors of a record, none when one is malformed or cannot be read, or FOOT is misaligned (R46, R292). -/
def State.footOf (s : State) (tenant asid r : Nat) : Option (List Nat) :=
  if recFcount r != 0 && recFoot r % 32 != 0 then none
  else
    (List.range (recFcount r)).mapM fun i =>
      match s.hubRead tenant asid (recFoot r + 32 * i) 32 with
      | some d => if ftOk d then some d else none
      | none => none

/-- The hub can read a record's descriptors now, and otherwise asks for their lines. -/
def State.footReadable (s : State) (tenant asid r : Nat) : Bool :=
  (List.range (min 8 (recFcount r))).all fun i => s.hubReadable tenant asid (recFoot r + 32 * i) 32
def State.askFoot (s : State) (tenant asid r : Nat) : State :=
  (List.range (min 8 (recFcount r))).foldl (fun s i => s.hubAsk tenant asid (recFoot r + 32 * i) 32) s

/-- A die that is not lost can hold the shape in a course, its cores all free (R46, R408). -/
def State.shapeFits (s : State) (c : CourseRef) (tenant r d : Nat) : Bool :=
  s.dieUp d && (pickQuads (fun k => coverIn s.coursing.table c k == some tenant) r d).isSome

/-- Some course of the current frame gives the tenant bays that could hold MINDIE dies of the shape (R46). -/
def State.placeable (s : State) (tenant r : Nat) : Bool :=
  let courses := if s.coursing.enable then (List.range s.coursing.activeN.toNat).map (.entry s.coursing.active ·) else [.default]
  courses.any fun c => decide (recMinDie r ≤ ((List.range 4).filter (s.shapeFits c tenant r)).length)

/-- The ASID is live and belongs to the tenant (R319). -/
def State.asidLive (s : State) (asid tenant : Nat) : Bool :=
  asidValid (s.asidEntry asid) && asidTenant (s.asidEntry asid) == tenant

/-- The first failing check of R46, in the order of its table, with the reason code of R298. -/
def State.recordFault (s : State) (r asid tenant : Nat) (sup : Bool) : Option Nat :=
  if !entryOk r then some 1
  else if recTenant r ≠ tenant then some 2
  else if !shapeOk r then some 3
  else if !allocationOk r then some 4
  else if !(recordOk r sup && s.asidLive asid tenant) then some 5
  else if (s.footOf tenant asid r).isNone then some 6
  else if !s.placeable tenant r then some 7
  else none

/-! ### Completion records (R298) -/

/-- The record of a rejected launch or task. -/
def rejectedRecord (reason r : Nat) : Nat := 2 + reason * 2 ^ 8 + recUser r * 2 ^ 64

/-- `sr.time` at which the last strand of a launch on the surviving dies ended, when a die was lost at a time (R298). -/
def State.lastEnded (s : State) (l : Launch) (lost : Nat) : Nat :=
  let l := (l.ended.filter fun e => s.dieUp e.1).map Prod.snd
  if l.isEmpty then lost else l.foldl max 0

/-- The record of a launch or task that completes at a time. -/
def Launch.completion (l : Launch) (time : Nat) : Nat :=
  (if l.dieLost.isSome then 3 else 1) + l.xcode.toNat * 2 ^ 16 + l.dies.length % 8 * 2 ^ 24 + l.prio % 8 * 2 ^ 27
    + l.faults.toNat * 2 ^ 30 + l.abandoned.toNat * 2 ^ 31 + l.lostSeen.toNat * 2 ^ 32 + min l.events 0xFFFF * 2 ^ 48
    + recUser l.record * 2 ^ 64 + l.tstart % 2 ^ 64 * 2 ^ 128 + min l.energy (2 ^ 32 - 1) * 2 ^ 192
    + time % 2 ^ 64 * 2 ^ 256

/-- The hub writes 64 bytes that may lie in two pages: both parts or none. -/
def State.hubWriteRecord (s : State) (tenant asid va v : Nat) : Option State :=
  let va := va % 2 ^ 52
  let k := min 64 (pageLeft va)
  match s.hubPa tenant asid (va + k) .write with
  | none => if k = 64 then s.hubWrite tenant asid va 64 v else none
  | some _ =>
    match s.hubWrite tenant asid va k v with
    | none => none
    | some s => if k = 64 then some s else s.hubWrite tenant asid (va + k) (64 - k) (v / 2 ^ (8 * k))

/-- A completion record is written; where its write faults it is dropped, and counted in COMPDROP or HOSTDISC (R57, R414).
Answers whether it was dropped. -/
def State.writeCompletion (s : State) (tenant asid comp v : Nat) : Bool × State :=
  match s.hubWriteRecord tenant asid comp v with
  | some s => (false, s)
  | none =>
    (true, if s.hubPortDown tenant asid comp .write then s.countHostDisc tenant asid comp
      else s.count1 (execCounter tenant 0x18))

/-- A record is rejected (R46): REJECT and REJECTS count it, its completion record says why, and a COMP that faults sets
COMPFAULT. -/
def State.reject (s : State) (r asid tenant : Nat) (queue : Option Nat) (reason : Nat) : State :=
  let s := s.count1 (execCounter tenant 0x10)
  let x := s.writeCompletion tenant asid (recComp r) (rejectedRecord reason r)
  match queue with
  | none => x.2
  | some n =>
    let q := x.2.queueAt n
    x.2.setQueue n { q with
      rejects := BitVec.ofNat 16 (min (q.rejects.toNat + 1) 0xFFFF), compfault := q.compfault || x.1 }

/-! ### Acceptance (R46, R48, R50) -/

/-- The pool may have become empty: the hub notes since when (R350). -/
def State.notePool (s : State) : State := if s.poolSize = 0 then s.setHub { s.hub with emptySince := s.time } else s

/-- A record as the hub takes it in. -/
structure Incoming where
  record : Nat
  asid : Nat
  tenant : Nat
  queue : Nat
  poster : Option Nat
  /-- SUP may be 1. -/
  sup : Bool
  priv : Bool
  tvec : Word
  prio : Nat
  deriving DecidableEq, Repr

/-- The reads of a record's descriptors are counted where they meet lost data (R387), if the checks come to them. -/
def State.countFoot (s : State) (x : Incoming) (fault : Option Nat) : State :=
  if fault.getD 8 < 6 || (recFcount x.record != 0 && recFoot x.record % 32 != 0) then s
  else (List.range (recFcount x.record)).foldl (fun s i => s.hubCount x.tenant x.asid (recFoot x.record + 32 * i) 32) s

/-- The record is checked, and rejected or entered into the pool. -/
def State.take (s : State) (x : Incoming) : State :=
  let fault := s.recordFault x.record x.asid x.tenant x.sup
  let s := s.countFoot x fault
  match fault with
  | some reason => (s.reject x.record x.asid x.tenant (if x.poster.isSome then none else some x.queue) reason).notePool
  | none =>
    let n := s.nextId
    let l : Launch :=
      { lid := n.1, record := x.record, asid := x.asid, tenant := x.tenant, prio := x.prio, priv := x.priv, tvec := x.tvec
        queue := x.queue, poster := x.poster, state := .pending
        regions := ((s.footOf x.tenant x.asid x.record).getD []).map ftRegion
        reserved := [], reservedAt := none, dies := [], xcode := 0, faults := false, abandoned := false, lostSeen := false
        dieLost := none, ended := [], events := 0, energy := 0, tstart := 0 }
    n.2.setHub { n.2.hub with launches := n.2.hub.launches ++ [l] }

/-- HEAD passes a ring entry. -/
def Queue.pass (q : Queue) : Queue := { q with head := q.head + 1, uposted := q.uposted.filter (· != q.head.toNat) }

/-- The hub reads the next record of a queue (R48): an entry that cannot be read is dropped with RINGFAULT, and a ring in the
window of a port that is down holds HEAD (R414). -/
def State.acceptFromQueue (s : State) (n : Nat) : State :=
  let q := s.queueAt n
  let tenant := q.tenant.toNat
  let asid := q.asid.toNat
  let va := q.base.toNat + q.head.toNat % 2 ^ q.logn.toNat * 64
  if !q.enable || q.head == q.tail || decide (512 ≤ s.poolSize) || s.hubPortDown tenant asid va .read then s
  else
    if !s.hubReadable tenant asid va 64 then s.hubAsk tenant asid va 64
    else
    match s.hubRead tenant asid va 64 with
    | none =>
      (s.setQueue n { q.pass with ringfault := true, rejects := BitVec.ofNat 16 (min (q.rejects.toNat + 1) 0xFFFF) }).count1
        (execCounter tenant 0x10)
    | some r =>
      if !s.footReadable tenant asid r then s.askFoot tenant asid r
      else
      let user := q.uposted.contains q.head.toNat
      ((s.hubCount tenant asid va 64).setQueue n q.pass).take
        { record := r, asid := asid, tenant := tenant, queue := n, poster := none, sup := false, priv := q.priv && !user
          tvec := q.tvec.setWidth 64, prio := recPrio r }

/-- The hub takes the oldest posted task (R290). -/
def State.acceptTask (s : State) : State :=
  match s.hub.tasks with
  | [] => s
  | t :: rest =>
    if !s.footReadable t.tenant t.asid t.record then s.askFoot t.tenant t.asid t.record
    else
    (s.setHub { s.hub with tasks := rest }).take
      { record := t.record, asid := t.asid, tenant := t.tenant, queue := t.queue, poster := some t.lid, sup := t.sright
        priv := t.sright && recSup t.record, tvec := t.tvec, prio := t.prio }

/-- The hub reads a posted record, checks it, and accepts or rejects it (R46): from a queue, or a task for a source of 64 and
above. -/
def execHubRecordAccept (source : Nat) (s : State) : Out :=
  .next (if source < 64 then s.acceptFromQueue source else s.acceptTask)

/-- Pending launches are checked again for "Unplaceable" (R46, R408). -/
def State.recheckPending (s : State) : State :=
  let out := s.hub.launches.filter fun l => l.state == .pending && !s.placeable l.tenant l.record
  let s := s.setHub { s.hub with launches := s.hub.launches.filter fun l => !out.any fun x => x.lid == l.lid }
  out.foldl (fun s l => (s.reject l.record l.asid l.tenant (if l.poster.isSome then none else some l.queue) 7).notePool) s

/-! ### Dependences and eligibility (R51, R56, R293) -/

/-- The chain of posters above an item. -/
def State.posters (s : State) : Nat → Option Nat → List Nat
  | 0, _ => []
  | _, none => []
  | fuel + 1, some p => p :: State.posters s fuel ((s.launchOf p).bind (·.poster))

/-- A later item waits for an earlier one of its tenant (R56): under different ASIDs any write makes them overlap (R293). -/
def Launch.waitsFor (l x : Launch) : Bool :=
  if l.asid = x.asid then regionsConflict l.regions x.regions else (l.regions ++ x.regions).any (·.write)

/-- The footprint dependences of an item are met (R56). -/
def State.dependencesMet (s : State) (l : Launch) : Bool :=
  let above := s.posters (s.hub.launches.length + 1) l.poster
  s.hub.launches.all fun x => !(decide (x.lid < l.lid) && x.tenant == l.tenant && !above.contains x.lid && l.waitsFor x)

/-- The launch is eligible on a die (R51). -/
def State.eligibleOn (s : State) (l : Launch) (d : Nat) : Bool :=
  l.state == .pending && (List.range 192).any (fun k => s.holder (192 * d + k) == some l.tenant) && !s.dieInHold l.tenant d
    && s.dependencesMet l

/-- The order of R51: lower PRIO, then earlier acceptance; numbers are given in the order of acceptance. -/
def Launch.first (l x : Launch) : Bool := decide (l.prio < x.prio) || (l.prio == x.prio && decide (l.lid ≤ x.lid))

/-- The first launch of a list in the order of R51. -/
def firstLaunch : List Launch → Option Launch
  | [] => none
  | l :: r =>
    match firstLaunch r with
    | none => some l
    | some x => if l.first x then some l else some x

/-- The launch is eligible on some die. -/
def State.eligible (s : State) (l : Launch) : Bool := (List.range 4).any (s.eligibleOn l)

/-- The gang head (R53): the launch for which dies reserve, else the first eligible launch that needs more than one die. -/
def State.gangHead (s : State) : Option Launch :=
  match s.hub.gang.bind s.launchOf with
  | some l => if s.eligible l then some l else none
  | none => firstLaunch (s.hub.launches.filter fun l => decide (1 < recMinDie l.record) && s.eligible l)

/-- The hub's view of the gang brought up to date: reservations lapse on dies where the gang head is no longer eligible or no
longer fits, and all of them when it stops being eligible. -/
def State.refreshGang (s : State) : State :=
  match s.hub.gang with
  | none => s
  | some g =>
    match s.launchOf g with
    | none => s.setHub { s.hub with gang := none }
    | some l =>
      let kept := l.reserved.filter fun d => s.eligibleOn l d && (s.dieHolds l d).isSome
      let s := s.updLaunch g fun l =>
        { l with reserved := kept, reservedAt := if kept.length < recMinDie l.record then none else l.reservedAt }
      if s.eligible l then s else s.setHub { s.hub with gang := none }

/-- The die has reserved capacity for the gang head. -/
def State.dieReserved (s : State) (d : Nat) : Bool :=
  match s.hub.gang.bind s.launchOf with
  | some l => l.reserved.contains d
  | none => false

/-- The first launch eligible on a die that it can hold (R51 to R53); of those that need more than one die, only the gang head. -/
def State.firstOn (s : State) (d : Nat) : Option Launch :=
  if s.dieReserved d || !s.dieUp d then none
  else
    let head := (s.gangHead).map (·.lid)
    firstLaunch (s.hub.launches.filter fun l =>
      (recMinDie l.record == 1 || head == some l.lid) && s.eligibleOn l d && (s.dieHolds l d).isSome)

/-! ### Placement (R36, R53, R100) -/

/-- G at placement (R100). -/
def placedGen (arg o : Nat) : Word :=
  let g := BitVec.ofNat 64 arg ^^^ BitVec.ofNat 64 (o * 0x9E3779B97F4A7C15)
  if g = 0 then 1 else g

/-- One strand's place: its core and its ordinals. -/
structure Seat where
  core : Nat
  die : Nat
  quad : Nat
  ordCore : Nat
  strand : Nat
  deriving DecidableEq, Repr

/-- A strand as it starts (R36). -/
def startStrand (l : Launch) (dies : Nat) (x : Seat) (vbase lsbase : Nat) : Strand :=
  let r := l.record
  let o := ((x.die * recQpd r + x.quad) * recCpq r + x.ordCore) * recSpc r + x.strand
  let g : List Word :=
    [0, BitVec.ofNat 64 (recStack r + (o + 1) * 2 ^ recStklog r), BitVec.ofNat 64 o
    , BitVec.ofNat 64 (dies * recQpd r * recCpq r * recSpc r), BitVec.ofNat 64 (recArg r)]
  { lid := l.lid, pc := BitVec.ofNat 52 (recEntry r), g := Vector.ofFn fun i : Fin 16 => g.getD i.val 0, pw := 0
    masks := Vector.replicate 8 0, vbase := vbase, vcount := vregCount (recVreg r), lsbase := lsbase, lslen := 1 + recLocal r
    rf := [], ls := [], loops := [], lc := Vector.replicate 3 0, fflags := 0, lost := 0
    wsp := BitVec.ofNat 64 (recStack r + o * 2 ^ recStklog r), wdepth := 0, shape := 0, tvec := l.tvec, epc := 0, cause := 0
    tval := 0, priv := l.priv, inh := false, gen := placedGen (recArg r) o, ordDie := x.die, ordQuad := x.quad
    ordCore := x.ordCore, ordStrand := x.strand
    bond := if recBond r then BitVec.ofNat 64 (x.quad / 4) else BitVec.allOnes 64
    wait := .ready, rrec := none, since := none, next := none, fetch := none, halt := .running }

/-- The strand takes the lowest free slot of its core (DESIGN CHOICE, log entry 12), with zeroed vector registers (R36). -/
def State.seat (s : State) (l : Launch) (dies : Nat) (x : Seat) : State :=
  let v := vregCount (recVreg l.record)
  let n := 1 + recLocal l.record
  let s :=
    if (freeRange (s.usedV x.core) 64 v).isSome && (freeRange (s.usedL x.core) 64 n).isSome then s else s.compact x.core
  match s.freeSlot x.core, freeRange (s.usedV x.core) 64 v, freeRange (s.usedL x.core) 64 n with
  | some slot, some vb, some lb =>
    let s := { s with
      pool := s.pool.filter fun e => !(decide (64 * x.core + vb ≤ e.1) && decide (e.1 < 64 * x.core + vb + v)) }
    s.setStrand slot (startStrand l dies x vb lb)
  | _, _, _ => s

/-- The seats of a launch, given the quads of each die placed, in the order of the global ordinal. -/
def State.seats (s : State) (l : Launch) (dies : List (Nat × List Nat)) : List Seat :=
  let r := l.record
  (List.range dies.length).flatMap fun di =>
    let quads := (dies.getD di (0, [])).2
    (List.range quads.length).flatMap fun qi =>
      let cores := (goodCores (s.coreTakes l) (quads.getD qi 0)).take (recCpq r)
      (List.range cores.length).flatMap fun ci =>
        (List.range (recSpc r)).map fun k => { core := cores.getD ci 0, die := di, quad := qi, ordCore := ci, strand := k }

/-- The launch starts on dies: all its strands are released in one hub cycle (R53). -/
def State.startLaunch (s : State) (l : Launch) (dies : List Nat) : State :=
  let placed := dies.filterMap fun d => (s.dieHolds l d).map fun qs => (d, qs)
  let seats := s.seats l placed
  let s := seats.foldl (fun s x => s.seat l placed.length x) s
  let s := s.updLaunch l.lid fun l => { l with
    state := .placed, dies := placed, tstart := s.time, reserved := [], reservedAt := none }
  (if s.hub.gang = some l.lid then s.setHub { s.hub with gang := none } else s).notePool

/-- A die takes the first eligible launch that it can hold (R51); a launch with MINDIE 1 is taken in the same cycle by every
other die for which it is the first, up to MAXDIE dies, the lower numbers first (R53). The gang head only reserves. -/
def execPlaceLaunch (die : Nat) (s : State) : Out :=
  let s := s.refreshGang
  match if die < 4 then s.firstOn die else none with
  | none => .next s
  | some l =>
    if recMinDie l.record ≠ 1 then .next s
    else
      let others := (List.range 4).filter fun d => d != die && (s.firstOn d).map (·.lid) == some l.lid
      let dies := die :: others.take (recMaxDie l.record - 1)
      .next (s.startLaunch l ((List.range 4).filter dies.contains))

/-- A die reserves capacity for the gang head (R53), which starts when MAXDIE dies have reserved. -/
def execGangReserve (die : Nat) (s : State) : Out :=
  let s := s.refreshGang
  match if die < 4 then s.firstOn die else none with
  | none => .next s
  | some l =>
    if recMinDie l.record = 1 then .next s
    else
      let reserved := (List.range 4).filter fun d => d == die || l.reserved.contains d
      let full := recMinDie l.record ≤ reserved.length
      let at_ := if full then some (l.reservedAt.getD s.time) else none
      let s := (s.setHub { s.hub with gang := some l.lid }).updLaunch l.lid fun l =>
        { l with reserved := reserved, reservedAt := at_ }
      .next (if recMaxDie l.record ≤ reserved.length then s.startLaunch l reserved else s)

/-- 3,200 cycles after the MINDIE-th reservation the gang starts (R53) (DEDUCED, log entry 32). -/
def execGangTimerExpiry (s : State) : Out :=
  let s := s.refreshGang
  match s.hub.gang.bind s.launchOf with
  | none => .next s
  | some l =>
    match l.reservedAt with
    | none => .next s
    | some t => .next (({ s with time := max s.time (t + 3200) } : State).startLaunch l l.reserved)

/-! ### Completion (R57) -/

/-- A store of a launch is not yet performed; of strands ended from outside some may be left (R375), and the completion record, a
release, follows them (R57, R141). -/
def State.storesLeft (s : State) (lid : Nat) : Bool :=
  (s.cores.any fun e => e.2.queue.any fun a => a.lid == lid && a.kind.writes)
    || s.coursing.savedCores.any fun e => e.2.refused.any fun a => a.lid == lid && a.kind.writes

/-- A placed launch has nothing left: no strand, travelling and saved ones included, no store, no engine command and no task. -/
def State.finished (s : State) (l : Launch) : Bool :=
  !s.storesLeft l.lid && (s.cores.all fun e => e.2.inbox.all fun p => p.strand.lid != l.lid) && l.state == .placed && (s.strands.all fun e => e.2.lid != l.lid) && (s.coursing.savedCores.all fun e => e.2.strands.all fun x => x.2.lid != l.lid)
    && (s.coursing.savedCores.all fun e => e.2.packets.all fun p => p.strand.lid != l.lid)
    && (s.cmdsOf l.lid).isEmpty && (s.coursing.savedQuads.all fun e => e.2.cmds.all fun c => c.lid != l.lid)
    && (s.hub.tasks.all fun t => t.lid != l.lid) && (s.hub.launches.all fun x => x.poster != some l.lid)

/-- The claims of a launch end: a barrier that nobody claims any more is free (R40, R41). -/
def State.freeClaims (s : State) (lid : Nat) : State :=
  let free (m : SMap Barrier) : SMap Barrier :=
    (m.map fun e => (e.1, { e.2 with claims := e.2.claims.filter (· != lid) })).filter fun e => !e.2.unclaimed
  let s := { s with barriers := free s.barriers }
  s.setCoursing { s.coursing with
    savedCores := s.coursing.savedCores.map fun e => (e.1, { e.2 with barriers := free e.2.barriers })
    savedQuads := s.coursing.savedQuads.map fun e => (e.1, { e.2 with barriers := free e.2.barriers }) }

/-- The lines at which a completion record lies and where a write of the home still waits for its turn. -/
def State.recordPending (s : State) (tenant asid comp : Nat) : List Nat :=
  ([comp, comp + 63].filterMap fun va => (s.hubPa tenant asid (va % 2 ^ 52) .write).map lineOf).dedup.filter fun l => s.homePending (128 * l) 128

/-- A launch whose record is written is gone: its claims end, and the numbers of its joint operations (R40, R55, R57). -/
def State.forgetLaunch (s : State) (lid : Nat) : State :=
  let s := s.freeClaims lid
  let s := { s with
    quads := (s.quads.map fun (e : Nat × QuadState) => (e.1, { e.2 with jointCount := SMap.erase e.2.jointCount lid })).filter
      fun e => e.2 != QuadState.reset }
  s.setHub { s.hub with launches := s.hub.launches.filter fun x => x.lid != lid }

/-- The last completion condition holds and the completion record is written (R57); items that wait on the launch under R56 start once the
write has been performed (R291). -/
def execLaunchComplete (lid : Nat) (s : State) : Out :=
  match s.launchOf lid with
  | none => .next s
  | some l =>
    match l.state with
    | .written lines => .next (if lines.any fun x => s.homePending (128 * x) 128 then s else s.forgetLaunch lid)
    | _ =>
      if !s.finished l then .next s
      else
        let s := (s.writeCompletion l.tenant l.asid (recComp l.record)
          (l.completion (match l.dieLost with | some t => s.lastEnded l t | none => s.time))).2
        let lines := s.recordPending l.tenant l.asid (recComp l.record)
        .next (if lines.isEmpty then s.forgetLaunch lid else s.updLaunch lid fun l => { l with state := .written lines })

/-! ### Energy (R58) -/

/-- The meter of a launch reaches a total: each multiple of BUDGET crossed raises PRIO and counts an event (R58). -/
def execBudgetExhaustion (lid energy : Nat) (s : State) : Out :=
  match s.launchOf lid with
  | none => .next s
  | some l =>
    if energy ≤ l.energy then .next s
    else
      let b := recBudget l.record
      let n := if b = 0 then 0 else energy / b - l.energy / b
      .next (s.updLaunch lid fun l => { l with energy := energy, events := l.events + n, prio := min 7 (l.prio + n) })

/-! ### Package idle and quad sleep (R350) -/

/-- No course of the frame has a valid bay; the default course covers every core. -/
def State.noBays (s : State) : Bool :=
  s.coursing.enable && (List.range s.coursing.activeN.toNat).all fun c => (courseBays s.coursing.table s.coursing.active c).isEmpty

/-- After 1 ms with an empty pool, the compute dies power-gate (R350), unless a power trip is pending, which keeps the package in P1 (R417). -/
def execPackageIdleEntry (s : State) : Out :=
  if s.power.pidle && !s.power.idle && !s.power.tripPending && s.noBays && s.poolSize == 0 then
    let s : State := { s with time := max s.time (s.hub.emptySince + usCycles 1000) }
    .next (s.setPower { s.power with idle := true, readyAt := none })
  else .next s

/-- A QTAIL write or a commit has woken the compute dies, which are ready 32,000 cycles later (R350). -/
def execPackageIdleExit (s : State) : Out :=
  match s.power.readyAt with
  | none => .next s
  | some t =>
    let s : State := { s with time := max s.time t }
    .next (s.setPower { s.power with idle := false, readyAt := none })

/-- A sleeping quad wakes: 3,200 cycles from the edge at which the hub begins to wake it (R350). -/
def execQuadWake (agent : Nat) (s : State) : Out :=
  let q := s.quadAt agent
  match q.wakeAt with
  | none => .next s
  | some t =>
    let s : State := { s with time := max s.time t }
    .next (s.setQuad agent { q with asleep := false, wakeAt := none })

end Sys2Proof.Machine
end

