-- ==== Sys2Proof/Machine/Lintel.lean ====
section
/-! DEFINITION. Lintel: what is saved of a core and of a quad, where it lies in the tenant's save area, the scrub, and the restore
(spec/13_traps_context.md R313 to R318; spec/03_coursing.md R79 to R83, R87; spec/12_system.md R299, R300; spec/02_execution.md R62;
spec/21_faults_execution.md R377, R378). -/

namespace Sys2Proof.Machine

/-! ### Access to the save area (R313) -/

/-- The addresses that a save area may have (R28). -/
def State.lintelReaches (s : State) (pa n : Nat) : Bool := s.decodes pa && s.decodes (pa + n - 1) && !isControl pa

/-- n bytes written by Lintel under the tenant's key; at an address that does not decode nothing is written (R28). -/
def State.lintelPut (s : State) (tenant pa n v : Nat) : State :=
  if !s.lintelReaches pa n then s
  else s.homeWrite tenant (s.keyOfTenant tenant) pa n v (pa % 128 == 0 && n == 128)

/-- k whole lines written from an aligned address. -/
def State.lintelLines (s : State) (tenant pa : Nat) : Nat → Nat → State
  | 0, _ => s
  | k + 1, v => State.lintelLines (s.lintelPut tenant pa 128 v) tenant (pa + 128) k (v / 2 ^ 1024)

/-- n bytes read by Lintel; none at an address that does not decode (R28). -/
def State.lintelGet (s : State) (tenant pa n : Nat) : Nat :=
  if !s.lintelReaches pa n then 0 else (s.readPa pa (s.keyOfTenant tenant) n).1

/-- The entries of a map at n keys from k, by their offsets. -/
def slice {α : Type} (m : SMap α) (k n : Nat) : List (Nat × α) :=
  (m.filter fun e => decide (k ≤ e.1) && decide (e.1 < k + n)).map fun e => (e.1 - k, e.2)

/-- Memory with n bytes from an address replaced by those listed by offset, and zero elsewhere. -/
def Memory.replace (m : Memory) (a n : Nat) (l : List (Nat × Byte)) : Memory :=
  l.foldl (fun m e => if e.1 < n then m.write (a + e.1) e.2 else m)
    (m.filter fun c => !(decide (a ≤ c.1) && decide (c.1 < a + n)))

/-- Lines of a range that a home write has to wait for: others hold them, or a request or a live horizon is before it. -/
def State.busyLines (s : State) (lo hi : Nat) : List Nat :=
  -- a set's live floor stands for lines that nothing else names (R125)
  let floored := if s.homes.floors.any fun e => decide (s.time < e.2) then
      ((List.range (hi - lo)).map (lo + ·)).filter fun x => isDevice (128 * x) && decide (s.time < s.horizonOf x) else []
  let known := (s.homes.dir.flatMap fun e => (List.range 4).map (4 * e.1 + ·)) ++ s.homes.reqs.map Prod.fst
    ++ s.homes.ingress.map Prod.fst ++ s.homes.horizons.map Prod.fst ++ (s.copies.map fun e => e.1 % 2 ^ 45) ++ floored
  (known.filter fun x => decide (lo ≤ x) && decide (x < hi) && !s.homeQuiet x true).eraseDups

/-- n bytes, in whole lines from an aligned address, written by Lintel: those listed by offset, and zeros. Each line is written as
`homeWrite` does. -/
def State.lintelBlock (s : State) (tenant pa n : Nat) (l : List (Nat × Byte)) : State :=
  let lo := pa / 128
  let hi := (pa + n) / 128
  let key := s.keyOfTenant tenant
  if !s.lintelReaches pa n then s
  else if s.homeLost pa then s.count1 (memCounter tenant 0x10)
  else if isDevice pa && s.keyCleared key then s.count1 (memCounter tenant 0x28)
  else
    let later := s.busyLines lo hi
    let now (x : Nat) : Bool := decide (lo ≤ x) && decide (x < hi) && !later.contains x
    let gone := s.homes.lost.filter now
    let s := s.setHomes { s.homes with lost := s.homes.lost.filter fun x => !gone.contains x }
    let free (s : State) (x : Nat) : State := if isDevice (128 * x) then s.updLine x fun e i => e.clearLine i .I else s
    let s := gone.foldl (fun s x => (free s x).logEvent (128 * x) 0 10 0 0) s
    let s :=
      if isDevice pa && !(s.keyNow key == (0, 0) && s.homes.lineKeys.isEmpty) then
        s.setHomes { s.homes with
          lineKeys := ((List.range (hi - lo)).filter fun i => now (lo + i)).foldl
            (fun m i => SMap.set (0, 0) m (lo + i) (s.keyNow key)) s.homes.lineKeys }
      else s
    let kept := s.mem.filter fun c => later.contains (c.1 / 128)
    let mem := (s.mem.replace pa n (l.filter fun e => now ((pa + e.1) / 128)))
    let s := { s with mem := kept.foldl (fun m c => m.write c.1 c.2) mem }
    later.foldl (fun s x =>
      let v := ((l.filter fun e => (pa + e.1) / 128 == x).map fun e => e.2.toNat * 2 ^ (8 * (pa + e.1 - 128 * x))).sum
      s.homeWriteLine { pa := 128 * x, bytes := 128, val := v, tenant := tenant, key := key, whole := true }) s

/-- Lintel can read a save area: its writes there have been performed, and no host holds a line of it in O; what a host holds is asked
for. -/
def State.areaReady (s : State) (base n : Nat) : Bool := !s.homePending base n && (s.hostOwned base n).isEmpty
def State.askArea (s : State) (base n : Nat) : State := (s.recallLines (s.hostOwned base n)).1

/-- The bytes of n, in whole lines, that Lintel reads, by offset; unlisted ones are zero. -/
def State.lintelFetch (s : State) (tenant pa n : Nat) : List (Nat × Byte) :=
  let key := s.keyOfTenant tenant
  if s.homeLost pa || (isDevice pa && s.keyCleared key) || !s.lintelReaches pa n then []
  else
    let lo := pa / 128
    let hi := (pa + n) / 128
    let other := if isDevice pa && !(s.keyNow key == (0, 0) && s.homes.lineKeys.isEmpty) then
        ((List.range (hi - lo)).map (lo + ·)).filter fun x => s.lineKey x != s.keyNow key
      else []
    (slice s.mem pa n).filter (fun e => !s.homes.lost.contains ((pa + e.1) / 128) && !other.contains ((pa + e.1) / 128))
      ++ (other.filter fun x => !s.homes.lost.contains x).flatMap fun x =>
        (List.range 128).map fun i => (128 * x + i - pa, (s.readByte (128 * x + i) key).1)

/-! ### The records (R314, R316, R378, R62) -/

/-- A list of values at byte offsets as one number. -/
def recordOf (l : List (Nat × Nat)) : Nat := (l.map fun e => e.2 * 2 ^ (8 * e.1)).sum

/-- A barrier's doubleword (R314). -/
def Barrier.word (b : Barrier) : Nat :=
  b.e.toNat + b.counter.toNat * 2 ^ 16 + b.phase.toNat * 2 ^ 32 + (b.e != 0).toNat * 2 ^ 33

/-- WAIT of the state word (R316); a strand that yields is saved ready. -/
def Wait.code : Wait → Nat
  | .barrier _ _ => 1
  | .flipped _ _ => 1
  | .byteBarrier _ _ _ _ => 2
  | .monitor _ _ _ _ _ _ _ _ => 3
  | _ => 0

/-- The three doublewords of the wait: address or offset, expected value, cycles of timeout left. -/
def Wait.words (w : Wait) (time : Nat) : Nat × Nat × Nat :=
  let left (d : Option Nat) : Nat := (d.map (· - time)).getD 0
  match w with
  | .barrier k p => (k, p.toNat, 0)
  | .flipped k p => (k, p.toNat, 0)
  | .byteBarrier o p d _ => (o, p.toNat, left d)
  | .monitor pa e _ _ _ d _ _ => (pa, e, left d)
  | _ => (0, 0, 0)

/-- The code of a number of vector registers (R45). -/
def vregCode (n : Nat) : Nat := if n = 0 then 0 else if n = 8 then 1 else if n = 16 then 2 else 3

/-- The state word (R316). -/
def Strand.stateWord (st : Strand) : Nat :=
  1 + st.wait.code * 2 + st.priv.toNat * 2 ^ 3 + st.inh.toNat * 2 ^ 4 + st.loops.length * 2 ^ 5 + st.rf.length * 2 ^ 7
    + st.vbase * 2 ^ 9 + vregCode st.vcount * 2 ^ 15 + st.lsbase * 2 ^ 17 + st.lslen * 2 ^ 23 + st.rrec.isSome.toNat * 2 ^ 30

/-- A scalar or vector register that the record marks dead (R299). -/
def Strand.deadG (st : Strand) (i : Nat) : Bool := match st.rrec with | some r => i != 0 && !r.1.getLsbD i | none => false
def Strand.deadV (st : Strand) (i : Nat) : Bool := match st.rrec with | some r => !r.2.getLsbD i | none => false

/-- A strand record (R316); `old` is what the record held before, which dead registers keep. -/
def Strand.record (st : Strand) (time comp old : Nat) : Nat :=
  let w := st.wait.words time
  let r := st.rrec.getD (0, 0)
  let loops := st.loops.flatMap fun l => [l.start.toNat, l.finish.toNat]
  let words : List (Nat × Nat) :=
    [(0x000, st.stateWord), (0x008, st.pc.toNat), (0x010, (st.pw ||| 1).toNat), (0x018, st.gen.toNat)
    , (0x020, st.fflags.toNat), (0x028, st.lost.toNat), (0x030, st.wsp.toNat), (0x038, st.wdepth.toNat)
    , (0x040, st.shape.toNat), (0x048, st.tvec.toNat), (0x050, st.epc.toNat), (0x058, st.cause.toNat), (0x060, st.tval.toNat)
    , (0x0B0, w.1), (0x0B8, w.2.1), (0x0C0, w.2.2), (0x0C8, r.1.toNat), (0x0D0, r.2.toNat)
    , (0x0D8, st.ordDie + st.ordQuad * 2 ^ 8 + st.ordCore * 2 ^ 16 + st.ordStrand * 2 ^ 24), (0x0E0, comp)]
  let lcs := (List.range 3).map fun i => (0x068 + 8 * i, (st.getLc i).toNat)
  let lps := (List.range loops.length).map fun i => (0x080 + 8 * i, loops.getD i 0)
  let gs := (List.range 16).map fun i =>
    (0x100 + 8 * i, if st.deadG i then fieldN old (8 * (0x100 + 8 * i)) 64 else (st.getG (BitVec.ofNat 4 i)).toNat)
  let fs := (List.range st.rf.length).map fun i => (0x180 + 64 * i, (st.rf.getD i 0).toNat)
  let ms := (List.range 8).map fun i => (0x240 + 128 * i, (st.getM (BitVec.ofNat 3 i)).toNat)
  recordOf (words ++ lcs ++ lps ++ gs ++ fs ++ ms)

/-- The doubleword at an offset of a record. -/
def recW (r off : Nat) : Nat := fieldN r (8 * off) 64

/-- The wait of a restored strand: the record says which kind, where and how long; what it cannot hold is as it was saved, and a wait whose
kind a supervisor has changed is a plain one of 8 bytes that returns no value (DESIGN CHOICE, log entry 33). -/
def SavedStrand.restoreWait (v : SavedStrand) (r time : Nat) : Wait :=
  let addr := recW r 0xB0
  let e := recW r 0xB8
  let dl (d : Option Nat) : Option Nat := if recW r 0xC0 = 0 ∧ d = none then none else some (v.at_ + recW r 0xC0)
  let watch (t : Nat) (o sc : BitVec 3) (d : Option Nat) (dst : BitVec 4) : Wait :=
    .monitor (addr % 2 ^ 52) (e % 2 ^ typeBits t) t o sc (dl d) dst (if isPeer (addr % 2 ^ 52) then some (time + 1024) else none)
  match fieldN r 1 2, v.wait with
  | 0, _ => .ready
  | 1, .flipped k p => if k = addr ∧ p = (e % 2 == 1) then .flipped k p else .barrier addr (e % 2 == 1)
  | 1, _ => .barrier addr (e % 2 == 1)
  | 2, .byteBarrier _ _ d dst => .byteBarrier (addr % 2 ^ 22 / 16 * 16) (e % 2 == 1) (dl d) dst
  | 2, _ => .byteBarrier (addr % 2 ^ 22 / 16 * 16) (e % 2 == 1) (dl none) 0
  | _, .monitor _ _ t o sc d dst _ => watch t o sc d dst
  | _, _ => watch 6 0 0 none 0

/-- A strand from its record, without the frames in local store. -/
def SavedStrand.strand (v : SavedStrand) (r time : Nat) (bonded : Bool) : Strand :=
  let rrec : Option (BitVec 16 × BitVec 32) :=
    if fieldN r 30 1 = 1 then some (BitVec.ofNat 16 (recW r 0xC8), BitVec.ofNat 32 (recW r 0xD0)) else none
  let live (i : Nat) : Bool := match rrec with | some m => m.1.getLsbD i | none => true
  let ords := recW r 0xD8
  let quad := fieldN ords 8 8
  { lid := v.lid, pc := BitVec.ofNat 52 (recW r 8)
    g := Vector.ofFn fun i : Fin 16 => if i.val != 0 && live i.val then BitVec.ofNat 64 (recW r (0x100 + 8 * i.val)) else 0
    pw := BitVec.ofNat 8 (recW r 0x10)
    masks := Vector.ofFn fun i : Fin 8 => BitVec.ofNat 1024 (fieldN r (8 * (0x240 + 128 * i.val)) 1024)
    vbase := fieldN r 9 6, vcount := vregCount (fieldN r 15 2), lsbase := fieldN r 17 6, lslen := fieldN r 23 7
    rf := (List.range (fieldN r 7 2)).map fun i => BitVec.ofNat 512 (fieldN r (8 * (0x180 + 64 * i)) 512)
    ls := []
    loops := (List.range (fieldN r 5 2)).map fun i =>
      { start := BitVec.ofNat 52 (recW r (0x80 + 16 * i)), finish := BitVec.ofNat 52 (recW r (0x88 + 16 * i)) }
    lc := Vector.ofFn fun i : Fin 3 => BitVec.ofNat 64 (recW r (0x68 + 8 * i.val))
    fflags := BitVec.ofNat _ (recW r 0x20), lost := BitVec.ofNat 2 (recW r 0x28), wsp := BitVec.ofNat 64 (recW r 0x30)
    wdepth := BitVec.ofNat 64 (recW r 0x38), shape := BitVec.ofNat 32 (recW r 0x40), tvec := BitVec.ofNat 64 (recW r 0x48)
    epc := BitVec.ofNat 64 (recW r 0x50), cause := BitVec.ofNat 64 (recW r 0x58 % 2 ^ 12), tval := BitVec.ofNat 64 (recW r 0x60)
    priv := fieldN r 3 1 == 1, inh := fieldN r 4 1 == 1, gen := BitVec.ofNat 64 (recW r 0x18)
    ordDie := fieldN ords 0 8, ordQuad := quad, ordCore := fieldN ords 16 8, ordStrand := fieldN ords 24 8
    bond := if bonded then BitVec.ofNat 64 (quad / 4) else BitVec.allOnes 64
    wait := v.restoreWait r time, rrec := rrec, since := none
    next := match v.next with | some (a, n) => if a.toNat = recW r 8 % 2 ^ 52 then some n else none | none => none
    fetch := none, halt := v.halt }

/-- The 256 bytes of a migration context packet (R62). -/
def Packet.bytes (p : Packet) (comp : Nat) : Nat :=
  let st := p.strand
  let gs := (List.range 15).map fun i => (8 * i, (st.getG (BitVec.ofNat 4 (i + 1))).toNat)
  let misc := (st.pw ||| 1).toNat + (st.status.toNat % 16) * 2 ^ 8 + st.fflags.toNat * 2 ^ 12 + st.lost.toNat * 2 ^ 18
    + st.ordDie * 2 ^ 20 + st.ordQuad * 2 ^ 22 + st.ordCore * 2 ^ 27 + st.ordStrand * 2 ^ 29 + st.masksUsed.toNat * 2 ^ 33
  recordOf (gs ++
    [(0x78, st.pc.toNat), (0x80, misc), (0x88, st.gen.toNat), (0x90, st.wsp.toNat), (0x98, st.wdepth.toNat)
    , (0xA0, st.shape.toNat), (0xA8, st.tvec.toNat), (0xB0, st.epc.toNat), (0xB8, st.cause.toNat), (0xC0, st.tval.toNat)
    , (0xC8, (st.getLc 0).toNat), (0xD0, (st.getLc 1).toNat), (0xD8, (st.getLc 2).toNat), (0xE0, st.bond.toNat)
    , (0xE8, comp), (0xF0, st.lid)])

/-- The refused messages of an access: the 128-byte blocks of its refused pieces. -/
def Access.refusedBlocks (a : Access) : List Nat := ((a.pieces.filter (·.refused)).map fun p => p.pa / 128).eraseDups

/-- The half bytes that an access's pieces write in one block: the lower half of the byte at place i by 2i, its upper half by 2i + 1. Of
pieces that write the same half the last one's stands. -/
def Access.blockHalves (a : Access) (block : Nat) : SMap Nat :=
  (a.pieces.filter fun p => !p.done && p.pa / 128 == block).foldl (fun m p =>
    let at_ := 2 * (p.pa % 128)
    match p.nib with
    | some hi => m.put (at_ + hi.toNat) (p.val % 16)
    | none => (List.range (2 * p.bytes)).foldl (fun m i => m.put (at_ + i) (p.val / 16 ^ i % 16)) m) []

/-- The bytes of a block by their place in it, and the bytes of which only one half is written, `true` for the upper. -/
def blockBytes (h : SMap Nat) : List (Nat × Byte) :=
  ((h.map fun e => e.1 / 2).dedup).map fun i => (i, BitVec.ofNat 8 (SMap.get 0 h (2 * i) + 16 * SMap.get 0 h (2 * i + 1)))
def blockParts (h : SMap Nat) : List (Nat × Bool) :=
  (h.filter fun e => (SMap.find h (if e.1 % 2 = 0 then e.1 + 1 else e.1 - 1)).isNone).map fun e => (e.1 / 2, e.1 % 2 == 1)

/-- The 160-byte record of a refused store (R378). -/
def Access.refusedRecord (a : Access) (block : Nat) : Nat :=
  let bs := blockBytes (a.blockHalves block)
  recordOf ([(0, 128 * block), (8, (bs.map fun e => 2 ^ e.1).sum), (24, a.slot % 16)] ++ bs.map fun e => (32 + e.1, e.2.toNat))

/-! ### A core (R79, R315, R317, R378) -/

def SavedCore.none_ : SavedCore := { strands := [], packets := [], refused := [], barriers := [] }
def State.savedCore (s : State) (tenant core : Nat) : Option SavedCore := SMap.find s.coursing.savedCores (768 * tenant + core)

/-- The slot number of a packet whose strand's source core has been saved: no slot waits for its acceptance. -/
def noSource : Nat := 12288

/-- At the edge of its source core a packet in flight stays with its target core (R64): the strand is in the packet alone. -/
def State.detach (s : State) (source : Nat) : State :=
  let gone (p : Packet) : Packet := if p.source = source then { p with source := noSource } else p
  let s := { s with cores := s.cores.map fun (e : Nat × CoreState) => (e.1, { e.2 with inbox := e.2.inbox.map gone }) }
  s.setCoursing { s.coursing with
    savedCores := s.coursing.savedCores.map fun e => (e.1, { e.2 with packets := e.2.packets.map gone }) }

/-- Every store of the core's queue is performed, parked or refused, and no other access is under way (R79, R378). -/
def State.coreSettled (s : State) (core : Nat) : Bool :=
  (s.coreAt core).queue.all fun a => a.kind == .fence || (a.kind == .store && a.pieces.all fun p => p.done || p.refused)

/-- The core barriers of a core, and the quad barriers of a quad, by index. -/
def State.barriersOf (s : State) (level inst : Nat) : SMap Barrier := slice s.barriers (barrierKey level inst 0) 64

/-- One strand is saved: its record, its live vector registers, and its local store with the frames it holds there. -/
def State.saveStrand (s : State) (tenant core slot : Nat) (st : Strand) : State :=
  let base := s.coreArea tenant core
  let at_ := base + 0x1000 + slot % 16 * 4096
  let s := s.lintelLines tenant at_ 32 (st.record s.time (s.compOf st.lid) (s.lintelGet tenant at_ 4096))
  let s := (List.range st.vcount).foldl (fun s i =>
    if st.deadV i then s else s.lintelLines tenant (base + 0x11000 + (st.vbase + i) * 512) 4 (s.getV slot st i).toNat) s
  let local_ := slice s.localMem (2 ^ 18 * core + 4096 * st.lsbase) (4096 * st.lslen)
  let frames := (List.range st.ls.length).flatMap fun i =>
    (List.range 64).map fun k => (64 * i + k, BitVec.ofNat 8 ((st.ls.getD i 0).toNat / 2 ^ (8 * k)))
  s.lintelBlock tenant (base + 0x20000 + 4096 * st.lsbase) (4096 * st.lslen) (local_ ++ frames)

/-- A core is saved for the outgoing tenant. -/
def State.saveCore (s : State) (tenant core : Nat) : State :=
  let base := s.coreArea tenant core
  let leaves (st : Strand) : Bool := match st.wait with | .migrating _ => true | _ => false
  let mine := (s.strandsOf core).filter fun e => !leaves e.2
  let s := ((s.strandsOf core).filter fun e => leaves e.2).foldl (fun s e => s.detach e.1) s
  let c := s.coreAt core
  let bars := s.barriersOf 0 core
  let blocks := c.queue.flatMap fun a => a.refusedBlocks.map fun b => (a, b)
  let s := s.lintelPut tenant base 64 (recordOf (bars.map fun e => (8 * e.1, e.2.word)))
  let s := s.lintelPut tenant (base + 0x40) 16 (c.inbox.length + blocks.length * 2 ^ 64)
  let s := mine.foldl (fun s e => s.saveStrand tenant core e.1 e.2) s
  let s := (List.range c.inbox.length).foldl (fun s i =>
    match c.inbox[i]? with
    | some p => s.lintelLines tenant (base + 0x19000 + 256 * i) 2 (p.bytes (s.compOf p.strand.lid))
    | none => s) s
  let s := (List.range blocks.length).foldl (fun s i =>
    match blocks[i]? with
    | some x => s.lintelPut tenant (base + 0x1B000 + 160 * i) 160 (x.1.refusedRecord x.2)
    | none => s) s
  let v : SavedCore :=
    { strands := mine.map fun e =>
        let kept : SavedStrand :=
          { lid := e.2.lid, wait := e.2.wait, halt := e.2.halt, frames := e.2.ls.length, at_ := s.time
            next := match e.2.next with | some n => some (e.2.pc, n) | none => none }
        (e.1, kept)
      packets := c.inbox, refused := c.queue, barriers := bars }
  s.setCoursing { s.coursing with savedCores := s.coursing.savedCores.put (768 * tenant + core) v }

/-- A core that its holder may take next, or that stays empty; past the edge at which the holder leaves again nothing is restored there (R79,
R86). -/
def State.enterCore (s : State) (core : Nat) : State :=
  s.setCore core { s.coreAt core with
    phase := if (s.holder core).isNone then .running else if s.coursing.edged && s.coreChanges core then .passed else .awaiting }

/-- A core's scrub (R87): registers, local store, loop buffer, instruction cache, L1, micro-TLB, core barriers, inbox and store queue. -/
def State.scrubCore (s : State) (core : Nat) : State :=
  let s := { s with
    strands := s.strands.filter fun e => coreOf e.1 != core
    pool := s.pool.filter fun e => e.1 / 64 != core
    localMem := s.localMem.filter fun e => e.1 / 2 ^ 18 != core
    icache := s.icache.filter fun e => e.1 / 2 ^ 46 != core
    utlb := s.utlb.erase core
    barriers := s.barriers.filter fun e => e.1 / 2 ^ 6 != barrierKey 0 core 0 / 2 ^ 6
    copies := s.copies.map fun (e : Nat × L2Copy) =>
      if e.1 / 2 ^ 45 = agentOf core then
        (e.1, { e.2 with
          presence := e.2.presence &&& ~~~(1#4 <<< (core % 4))
          modified := if e.2.modified = some (core % 4) then none else e.2.modified })
      else e }
  let s := s.setCore core { s.coreAt core with queue := [], inbox := [], loopBuf := [], late := false }
  s.enterCore core

/-- A stopped core is saved once it can be; past its boundary, or donated, it is scrubbed at once (R79, R82, R86). -/
def State.finishCore (s : State) (core : Nat) : State :=
  match (s.coreAt core).phase with
  | .stopped t =>
    if !s.coreSettled core then s
    else
      let s := s.saveCore t core
      if s.holder core == some t && !(s.coreAt core).late then s.setCore core { s.coreAt core with phase := .saved t }
      else s.scrubCore core
  | _ => s

/-! ### A quad (R80, R314, R317, R300, R385) -/

/-- No job runs on the quad, no store of its cores to its scratchpad is under way, and no atomic or flush of any core (R80). -/
def State.quadSettled (s : State) (a : Nat) : Bool :=
  let here (p : Piece) : Bool := isScratch p.pa && p.pa / 2 ^ 24 % 256 == a && !p.done && !p.refused
  (s.quadAt a).cmds.all (fun c => c.state != .running)
    && s.cores.all fun e => e.2.queue.all fun x =>
      (x.kind == .load || (x.kind == .store && agentOf e.1 != a)) || x.pieces.all fun p => !here p

/-- The live ranges of the scratchpad record, or all of the scratchpad when there is none (R300). -/
def liveRanges (m : SMap PhintSlot) : List (Nat × Nat) :=
  if m.isEmpty then [(0, 2 ^ 22)] else (m.filter fun e => !e.2.ro).map fun e => (e.2.offset, e.2.len)

/-- The 128 bytes of slot s of the record in the quad area. -/
def PhintSlot.bytes (e : PhintSlot) : Nat := recordOf [(0, e.offset), (8, e.len), (16, e.ro.toNat), (64, e.desc)]

/-- A parked message's doubleword and its data (R314). -/
def InboxEntry.word (e : InboxEntry) : Nat := e.offset + (e.bb.getD (2 ^ 32 - 1)) * 2 ^ 32
def InboxEntry.bytes (e : InboxEntry) : Nat := recordOf (e.data.map fun x => (x.1 % 128, x.2.toNat))

/-- The parked messages of a quad written into its area. -/
def State.putInbox (s : State) (tenant a : Nat) (l : List InboxEntry) : State :=
  let base := s.quadArea tenant a
  let s := s.lintelPut tenant (base + 0x18) 8 l.length
  (List.range l.length).foldl (fun s i =>
    match l[i]? with
    | some e => (s.lintelPut tenant (base + 0x8000 + 8 * i) 8 e.word).lintelLines tenant (base + 0x80000 + 128 * i) 1 e.bytes
    | none => s) s

/-- The bytes of a command record: an internal format, so free values (R314, DESIGN CHOICE, log entry 15). -/
def State.putCmds (s : State) (tenant a n : Nat) : State :=
  (List.range (2 * n)).foldl (fun s i =>
    s.lintelLines tenant (s.quadArea tenant a + 0x10000 + 128 * i) 1
      (recordOf ((List.range 16).map fun k => (8 * k, (Config.freeWord (2 ^ 20 * s.free + 2 ^ 12 * a + 16 * i + k)).toNat)))) s

/-- A quad is saved for the outgoing tenant. -/
def State.saveQuad (s : State) (tenant a : Nat) : State :=
  let base := s.quadArea tenant a
  let q := s.quadAt a
  let sp := spAddr a 0
  let bars := s.barriersOf 1 a
  let flags := (List.range 4).map fun b => (b, (q.bankFlags.toList.getD b 0).toNat)
  let s := s.lintelPut tenant base 0x28
    (recordOf [(0, q.sett.word false), (8, recordOf flags), (0x10, (q.phint.map fun e => 2 ^ e.1).sum), (0x20, q.sett.lostLatch.toNat)])
  let s := s.putInbox tenant a q.inbox
  let s := s.lintelPut tenant (base + 0x40) 128 (recordOf (bars.map fun e => (8 * e.1, e.2.word)))
  let s := q.phint.foldl (fun s e => s.lintelLines tenant (base + 0x100 + 128 * e.1) 1 e.2.bytes) s
  let lost := (s.homes.lost.filter fun x => decide (sp / 128 ≤ x) && decide (x < sp / 128 + 32768)).map (· - sp / 128)
  let s := s.lintelLines tenant (base + 0x14000) 32 (lost.map fun p => 2 ^ p).sum
  let s := s.putCmds tenant a q.cmds.length
  let accs := (slice s.acc (2 ^ 16 * a) (2 ^ 16)).flatMap fun e =>
    (List.range 4).map fun k => (4 * e.1 + k, BitVec.ofNat 8 (e.2.toNat / 2 ^ (8 * k)))
  let s := s.lintelBlock tenant (base + 0x20000) 0x40000 accs
  let cells := slice s.sett (2 ^ 14 * a) (2 ^ 14)
  let s := s.lintelBlock tenant (base + 0x60000) 0x20000
    (cells.flatMap fun e => (List.range 8).map fun k => (8 * e.1 + k, BitVec.ofNat 8 (e.2.bits.toNat / 2 ^ (8 * k))))
  let s := (liveRanges q.phint).foldl (fun s r =>
    s.lintelBlock tenant (base + 0x90000 + r.1) r.2 ((slice s.mem (sp + r.1) r.2).filter fun e =>
      !s.homes.lost.contains ((sp + r.1 + e.1) / 128))) s
  let v : SavedQuad := { cmds := q.cmds, inbox := q.inbox, phint := q.phint, cells := cells, barriers := bars, ended := [] }
  s.setCoursing { s.coursing with savedQuads := s.coursing.savedQuads.put (192 * tenant + a) v }

/-- Every line in the ways of a quad's L2 that an outgoing tenant may fill and the incoming one may not is written back and invalidated
(R87), whoever filled it. -/
def State.scrubWays (s : State) (a leaving : Nat) : State :=
  if leaving = 0 then s
  else ((s.copies.filter fun e => e.1 / 2 ^ 45 == a && leaving.testBit e.2.way).map fun e => e.1 % 2 ^ 45).foldl
    (fun s l => s.evictCopy a l) s

/-- The L2 ways that the tenant of a core may fill in the course in force (R86, R87): those of the owner of its bay, donated or not; all
of them in the default course, and none where no bay covers the core. -/
def State.fillWays (s : State) (core : Nat) : Nat :=
  match s.courseNow with
  | .default => 0xFFFF
  | .entry copy c =>
    match coverIn s.coursing.table s.courseNow core with
    | some t => fieldN (courseShare s.coursing.table copy c t) 0 16
    | none => 0

/-- A quad that its holder takes next, or that stays empty; past the edge at which the holder leaves again nothing is restored there (R80,
R86). -/
def State.enterQuad (s : State) (a : Nat) : State :=
  s.setQuad a { s.quadAt a with
    phase := if (s.quadHolder a).isNone then .running else if s.coursing.edged && s.quadChanges a then .passed else .awaiting }

/-- A quad's scrub (R87): scratchpad and lost map, accumulators, Sett array, quad barriers, inbox and footprint unit. -/
def State.scrubQuad (s : State) (a : Nat) : State :=
  let sp := spAddr a 0
  let s := { s with
    mem := s.mem.replace sp (2 ^ 22) []
    acc := s.acc.filter fun e => e.1 / 2 ^ 16 != a
    sett := s.sett.filter fun e => e.1 / 2 ^ 14 != a
    barriers := s.barriers.filter fun e => e.1 / 2 ^ 6 != barrierKey 1 a 0 / 2 ^ 6 }
  let s := s.setHomes { s.homes with lost := s.homes.lost.filter fun x => !(decide (sp / 128 ≤ x) && decide (x < sp / 128 + 32768)) }
  let s := s.setQuad a { s.quadAt a with
    bankFlags := Vector.replicate 4 0, sett := SettState.reset, cmds := [], inbox := [], phint := [], late := false }
  s.enterQuad a

/-- A stopped quad is saved once it can be; past its boundary, or donated, it is scrubbed at once. -/
def State.finishQuad (s : State) (a : Nat) : State :=
  match (s.quadAt a).phase with
  | .stopped t =>
    if !s.quadSettled a then s
    else
      let s := s.saveQuad t a
      if s.quadHolder a == some t && !(s.quadAt a).late then s.setQuad a { s.quadAt a with phase := .saved t }
      else s.scrubQuad a
  | _ => s

/-! ### Restore (R318) -/

/-- A fault record of Lintel, with its code and the value of R305. -/
def State.lintelRecord (s : State) (tenant code vaddr comp ord : Nat) : State :=
  (s.faultWrite tenant s.time
    { vaddr := vaddr, offset := 0, map := 0, comp := comp, code := code, source := 4, stopped := false, acc := 0, aux := 0
      ord := ord }).2

/-- A parked message is applied to the scratchpad, and counts at its barrier (R81). -/
def State.applyParked (s : State) (tenant a : Nat) (e : InboxEntry) : State :=
  let block := e.offset / 128 * 128
  let byte (s : State) (x : Nat × Byte) : Nat :=
    match e.halves.find? fun h => h.1 == x.1 with
    | none => x.2.toNat
    | some h =>
      let old := (s.readByte (spAddr a x.1) 0).1.toNat
      if h.2 then old % 16 + x.2.toNat / 16 * 16 else old / 16 * 16 + x.2.toNat % 16
  -- every byte of the piece is written whole
  let whole := e.halves.isEmpty && (List.range 128).all fun i => e.data.any fun x => x.1 == block + i
  let gone := s.isLost (spAddr a block) && !whole
  let s :=
    if gone then (s.storePa tenant 0 (spAddr a block) 1 0 false).1
    else
      let s := if whole && s.isLost (spAddr a block) then (s.storePa tenant 0 (spAddr a block) 128 0 true).1 else s
      e.data.foldl (fun s x => (s.storePa tenant 0 (spAddr a x.1) 1 (byte s x) false).1) s
  s.bbLand tenant a e.bb e.count (e.cond ||| (if gone && e.bb.isSome then lostFlag else 0)) false false

/-- The copy that fills a staged range, as a command of its issuer (R300). -/
def PhintSlot.cmd (p : PhintSlot) (tenant : Nat) : Cmd :=
  { seq := 0, engine := some .hod, op := .hcopy p.desc, lid := p.lid, tenant := tenant, asid := p.asid, ordinal := p.ord
    sright := p.sright, bb := none, regions := [], unitsRead := 0, unitsWritten := 0, state := .running, gen := 1, after := none
    next := 0, flight := [], landed := [], failed := none, jointNo := 0, phases := 0, held := false, started := 0, behind := []
    foundAt := 0, indices := [], refused := [] }

/-- The pieces of a staged copy land in turn; the first fault ends it with its address. -/
def State.stage (s : State) (a : Nat) (c : Cmd) : Nat → Nat → Except Nat State
  | 0, _ => .ok s
  | fuel + 1, n =>
    match c.op.piece n with
    | none => .ok s
    | some p =>
      match s.pieceData a c p, s.pieceDst a c p with
      | .error f, _ => .error f.2.2
      | _, .error f => .error f.2.2
      | .ok d, .ok pa =>
        let s := if s.keyCleared (s.keyOfAsid c.asid) then
            (if d.cond &&& lostFlag = 0 then s else s.count1 (memCounter c.tenant 0x28))
          else s.countLost c.tenant d.cond
        State.stage (s.storePa c.tenant (s.keyOfAsid c.asid) pa p.len d.val (p.len == 128)).1 a c fuel (n + 1)

/-- The lines that the staged ranges of a record read, tables included. -/
def State.stagedLines (s : State) (tenant a : Nat) (m : SMap PhintSlot) : List Nat :=
  (m.filter fun e => e.2.ro).flatMap fun e =>
    let c := e.2.cmd tenant
    (List.range (e.2.len + rowCount false e.2.desc + 1)).flatMap fun n =>
      match c.op.piece n with
      | some p => s.sourceLines a c p none ++ (match s.pieceDst a c p with
          | .error f => if f.1 = heldWalk then [lineOf f.2.2] else []
          | .ok _ => [])
      | none => []

/-- Every staged range of the record is filled, or left zero with a record of code 0x25 (R300, R318). -/
def State.restage (s : State) (tenant a : Nat) (m : SMap PhintSlot) : State :=
  (m.filter fun e => e.2.ro).foldl (fun s e =>
    let c := e.2.cmd tenant
    match s.stage a c (e.2.len + rowCount false e.2.desc + 1) 0 with
    | .ok s => s
    | .error va =>
      (({ s with mem := s.mem.replace (spAddr a e.2.offset) e.2.len [] } : State).lintelRecord tenant 0x25 va
        (s.compOf e.2.lid) e.2.ord).count1 (execCounter tenant 0x60)) s

/-- The SETT fields of a saved `SSTAT` word (R277). -/
def settOfWord (w : Nat) (latch : Bool) : SettState :=
  { phase := fieldN w 0 4, step := fieldN w 4 7, loaded := fieldN w 11 1 == 1, t := fieldN w 12 4, desc := fieldN w 16 1 == 1
    canz := fieldN w 17 1 == 1, latched := fieldN w 18 1 == 1, count := fieldN w 19 15, lostLatch := latch }

/-- A quad is restored for the tenant that holds it (R318); from an area that went with its home die it restores as zero (R410). -/
def State.restoreQuad (s : State) (tenant a : Nat) : State :=
  match s.savedQuad tenant a with
  | none => s.setQuad a { s.quadAt a with phase := .running }
  | some v =>
    let base := s.quadArea tenant a
    let gone := s.homeLost base
    let v := if gone then SavedQuad.none_ else v
    let s := if gone then s.lintelRecord tenant 0x26 (quadAreaOff a) 0 0 else s
    let sp := spAddr a 0
    let s := (liveRanges v.phint).foldl (fun s r =>
      { s with mem := s.mem.replace (sp + r.1) r.2 (s.lintelFetch tenant (base + 0x90000 + r.1) r.2) }) s
    let map := s.lintelGet tenant (base + 0x14000) 4096
    let lost := ((List.range 32768).filter map.testBit).map (sp / 128 + ·)
    let s := s.setHomes { s.homes with lost := (s.homes.lost ++ lost).eraseDups }
    let s := s.restage tenant a v.phint
    let s := s.setQuad a { s.quadAt a with phint := v.phint }
    let s := v.inbox.foldl (fun s e => s.applyParked tenant a e) s
    let words := s.lintelFetch tenant (base + 0x20000) 0x40000
    let acc := words.foldl (fun m e =>
      let k := 2 ^ 16 * a + e.1 / 4
      SMap.set (0 : BitVec 32) m k (SMap.get 0 m k ||| BitVec.ofNat 32 (e.2.toNat * 2 ^ (8 * (e.1 % 4))))) s.acc
    let sett := v.cells.foldl (fun m e => SMap.set SettCell.reset m (2 ^ 14 * a + e.1) e.2) s.sett
    let bars := v.barriers.foldl (fun m e => SMap.set Barrier.reset m (barrierKey 1 a e.1) e.2) s.barriers
    let h := s.lintelGet tenant base 0x28
    let q := s.quadAt a
    let s := { s with acc := acc, sett := sett, barriers := bars }
    let s := s.setQuad a { q with
      phase := .running
      bankFlags := Vector.ofFn fun i : Fin 4 => BitVec.ofNat 7 (recW h 8 / 2 ^ (8 * i.val))
      sett := settOfWord (recW h 0) (recW h 0x20 % 2 == 1)
      cmds := v.cmds.map (fun c => { c with held := false }) ++ q.cmds }
    let s := v.ended.foldl (fun s c => (if c.engine.isNone then s else s.bbLandOf a c 0 0 true false).leaveLost a c) s
    s.setCoursing { s.coursing with savedQuads := s.coursing.savedQuads.erase (192 * tenant + a) }

/-- The launch that COMP of a saved record names: the strand's own, or, where a supervisor has changed COMP, a placed launch of the tenant
with that COMP (DEDUCED, log entry 33). -/
def State.lidOfComp (s : State) (tenant lid comp : Nat) : Nat :=
  if s.compOf lid = comp then lid
  else match s.hub.launches.find? fun l => l.tenant == tenant && l.state == .placed && recComp l.record == comp with
    | some l => l.lid
    | none => lid

/-- A strand record at an offset of a core area fails its check: the strand counts as exited (R318, R376). -/
def State.failRecord (s : State) (tenant core off lid ord : Nat) : State :=
  let s := s.updLaunch lid fun l => { l with xcode := l.xcode ||| 0x80, ended := l.ended.put (core / 192) s.time }
  (s.lintelRecord tenant 0x26 (coreAreaOff core + off) (s.compOf lid) ord).count1 (execCounter tenant 0x68)

/-- A strand record is restored, or fails its check: an allocation that is not free, or a program counter that is no head address
(R318). -/
def State.restoreStrand (s : State) (tenant core slot : Nat) (v : SavedStrand) : State :=
  let base := s.coreArea tenant core
  let off := 0x1000 + slot % 16 * 4096
  let r := s.lintelGet tenant (base + off) 4096
  let v := { v with lid := s.lidOfComp tenant v.lid (recW r 0xE0) }
  let bonded := match s.launchOf v.lid with | some l => recBond l.record | none => false
  let st := v.strand r s.time bonded
  let free (used : List (Nat × Nat)) (b n : Nat) : Bool := used.all fun u => decide (b + n ≤ u.1) || decide (u.1 + u.2 ≤ b) || u.2 == 0 || n == 0
  let ok := fieldN r 0 1 == 1 && decide (st.vbase + st.vcount ≤ 64) && decide (st.lsbase + st.lslen ≤ 64) && decide (1 ≤ st.lslen)
    && free (s.usedV core) st.vbase st.vcount && free (s.usedL core) st.lsbase st.lslen && (s.strandAt slot).isNone
    && decide (recW r 8 < 2 ^ 52) && recW r 8 % 2 == 0 && recW r 8 % 64 != 0
  if !ok then s.failRecord tenant core off v.lid (s.ordinalOf st)
  else
    let bytes := s.lintelFetch tenant (base + 0x20000 + 4096 * st.lsbase) (4096 * st.lslen)
    let window := bytes.filter fun e => e.1 < 64 * v.frames
    let frame (i : Nat) : Frame := BitVec.ofNat 512 ((window.filter fun e => e.1 / 64 == i).map fun e => e.2.toNat * 2 ^ (8 * (e.1 % 64))).sum
    let st := { st with ls := (List.range v.frames).map frame }
    let localMem := (bytes.filter fun e => 64 * v.frames ≤ e.1).foldl (fun m e =>
      SMap.set 0 m (2 ^ 18 * core + 4096 * st.lsbase + e.1) e.2) s.localMem
    let s := { s with localMem := localMem }
    let s := (List.range st.vcount).foldl (fun s i =>
      if st.deadV i then s
      else s.setV slot st i (BitVec.ofNat _ (s.lintelGet tenant (base + 0x11000 + (st.vbase + i) * 512) 512))) s
    s.setStrand slot st

/-- The allocations of local store that the saved strands of a core will take. -/
def State.recordedL (s : State) (tenant core : Nat) (v : SavedCore) : List (Nat × Nat) :=
  v.strands.map fun e =>
    let r := s.lintelGet tenant (s.coreArea tenant core + 0x1000 + e.1 % 16 * 4096) 8
    (fieldN r 17 6, fieldN r 23 7)

/-- The packets of a core area that went with its home die fail their check as its strand records do, and no refused store and no barrier is
left (R410). -/
def State.dropPackets (s : State) (tenant core : Nat) (ps : List Packet) : State :=
  (List.range ps.length).foldl (fun s i =>
    match ps[i]? with
    | some p => (s.freeSource core p).failRecord tenant core (0x19000 + 256 * i) p.strand.lid (s.ordinalOf p.strand)
    | none => s) s

/-- A core is restored for the tenant that holds it (R318): the parked packets and the refused stores, then the barriers, then the
strands, whose waits read again at once (R83, R368); packets take slots and local store that no saved strand takes. Where a packet's masks
wait for a line, all of it waits. -/
def State.restoreCore (s : State) (tenant core : Nat) : State :=
  match s.savedCore tenant core with
  | none => s.setCore core { s.coreAt core with phase := .running }
  | some v =>
    let c := s.coreAt core
    let gone := s.homeLost (s.coreArea tenant core)
    let t := if gone then s.dropPackets tenant core v.packets else s
    let v : SavedCore := if gone then { v with packets := [], refused := [], barriers := [] } else v
    let t := t.setCore core { c with phase := .running, inbox := [], queue := [] }
    match t.placePackets core (v.strands.map Prod.fst) (s.recordedL tenant core v) v.packets with
    | .error w => s.askPlain w.1 w.2.1 w.2.2.1 w.2.2.2
    | .ok (s, left) =>
      let again (a : Access) : Access := { a with pieces := a.pieces.map fun p => { p with refused := false } }
      let s := s.setCore core { s.coreAt core with inbox := left ++ c.inbox, queue := v.refused.map again ++ c.queue }
      let s := s.setCoursing { s.coursing with savedCores := s.coursing.savedCores.erase (768 * tenant + core) }
      let bars := v.barriers.foldl (fun m e => SMap.set Barrier.reset m (barrierKey 0 core e.1) e.2) s.barriers
      let s := { s with barriers := bars }
      let s := v.strands.foldl (fun s e => s.restoreStrand tenant core e.1 e.2) s
      v.strands.foldl (fun s e => s.waitRead e.1) s

end Sys2Proof.Machine
end

