-- ==== Sys2Proof/Machine/Coursing.lean ====
section
/-! DEFINITION. The course in force and its events: hold, edge, overrun stop, boundary, late saves, restores, parked and refused
messages, and donations (spec/03_coursing.md R69 to R87; spec/17_prog_softmax.md to 20_prog_topk.md R366 to R368; 21_faults_execution.md R376,
R377). -/

namespace Sys2Proof.Machine

/-! ### The hold and the edge (R78 to R80) -/

/-- At the edge minus DRAINLEAD the outgoing tenant enters the hold (R78). -/
def execDrainLeadHold (s : State) : Out :=
  match s.holdTime with
  | none => .next s
  | some t =>
    if s.coursing.held then .next s
    else .next (({ s with time := max s.time t } : State).setCoursing { s.coursing with held := true })

/-- The sort that runs on a quad stops at its next step boundary and waits in the unit (R80, R367). -/
def State.stopSorts (s : State) (a : Nat) : State :=
  ((s.quadAt a).cmds.filter fun c => c.state == .running && (match c.op with | .ssort _ _ _ _ => true | _ => false)).foldl
    (fun s c => (s.advanceSort a c).updCmd a c.seq fun x => { x with state := .queued }) s

/-- A core that runs is stopped for its tenant; one that still waits for its restore is not restored any more. -/
def State.stopCore (s : State) (core tenant : Nat) : State :=
  match (s.coreAt core).phase with
  | .running => s.setCore core { s.coreAt core with phase := .stopped tenant }
  | .awaiting => s.setCore core { s.coreAt core with phase := .passed }
  | _ => s

/-- A quad that runs is stopped for its tenant; one that still waits for its restore is not restored any more. -/
def State.stopQuad (s : State) (a tenant : Nat) : State :=
  match (s.quadAt a).phase with
  | .running => (s.stopSorts a).setQuad a { (s.stopSorts a).quadAt a with phase := .stopped tenant }
  | .awaiting => s.setQuad a { s.quadAt a with phase := .passed }
  | _ => s

/-- Every stopped core that can be saved is saved. -/
def State.finishCores (s : State) : State := s.cores.foldl (fun s e => s.finishCore e.1) s
def State.finishQuads (s : State) : State := s.quads.foldl (fun s e => s.finishQuad e.1) s

/-- The course covers a core of the quad with a valid bay. -/
def quadCovered (t : SMap Byte) (r : CourseRef) (a : Nat) : Bool := (List.range 4).any fun k => (coverIn t r (4 * a + k)).isSome

/-- The edge (R77, R79): cores and quads that change hands are stopped, and sleeping quads that the next course covers begin to
wake (R350). -/
def State.edge (s : State) (t : Nat) : State :=
  let cores := (List.range 768).filter s.coreChanges
  let quads := (List.range 192).filter s.quadChanges
  let s := { s with time := max s.time t }
  let s := cores.foldl (fun s c => match s.holder c with | some n => s.stopCore c n | none => s) s
  let s := quads.foldl (fun s a => match s.quadHolder a with | some n => s.stopQuad a n | none => s) s
  let next := s.nextCourse
  let s := (s.quads.filter fun e => e.2.asleep && quadCovered s.coursing.table next e.1).foldl
    (fun s e => s.setQuad e.1 { s.quadAt e.1 with wakeAt := some (t + 3200) }) s
  s.setCoursing { s.coursing with held := true, edged := true }

/-- At the edge, cores that change hands are stopped and Lintel saving begins (R79): each is saved as soon as its accesses under way
are performed, parked or refused (DEDUCED, log entry 33). -/
def execCourseEdge (s : State) : Out :=
  match s.edgeTime with
  | none => .next s.finishCores
  | some t => .next ((if s.coursing.edged then s else s.edge t).finishCores)

/-- Once its engine jobs have stopped, Lintel saves a quad that changes hands (R80). -/
def execQuadSave (agent : Nat) (s : State) : Out := .next (s.finishQuad agent)

/-! ### The overrun stop (R84) -/

/-- OVERRUNS and OVERRUN count a stopped job. -/
def State.countOverrun (s : State) (tenant : Nat) : State :=
  let k := s.coursing
  (s.setCoursing { k with overruns := BitVec.ofNat 16 (min (k.overruns.toNat + 1) 0xFFFF) }).count1 (execCounter tenant 0x48)

/-- A job that runs past the limit is stopped: a Hod command issues no further piece and stops, once its pieces in flight have ended, at
the first not yet issued (R287); an Ashlar command at a K-chunk; a Sett command never (R367). -/
def State.overrunJob (s : State) (a : Nat) (c : Cmd) : State :=
  match c.engine with
  | some .hod =>
    -- a refused piece is one that has not issued
    let n := c.refused.foldl min c.next
    let stop : Cmd := { c with failed := some (n, 0x23, 0, 0), foundAt := s.time }
    let c := match c.failed with
      | some f => if n < f.1 then stop else c
      | none => stop
    (s.settleHod a { c with flight := c.flight.filter fun p => !c.refused.contains p, refused := [] }).countOverrun c.tenant
  | some .ashlar => (s.stopAshlar a c 0x23).countOverrun c.tenant
  | _ => s

/-- Every job still running on a stopped quad is stopped. -/
def State.overrun (s : State) (t : Nat) : State :=
  let s := { s with time := max s.time t }
  let jobs := s.quads.flatMap fun e =>
    match e.2.phase with
    | .stopped _ => (e.2.cmds.filter fun c => c.state == .running).map fun c => (e.1, c.seq)
    | _ => []
  let s := jobs.foldl (fun s x => match (s.quadAt x.1).cmdOf x.2 with | some c => s.overrunJob x.1 c | none => s) s
  s.setCoursing { s.coursing with overlimDone := true }

/-- `sr.time` of the overrun stop of the course in force. -/
def State.overrunTime (s : State) : Option Nat := s.edgeTime.map (· + usCycles s.coursing.overlimNow.toNat)

/-- Jobs still running at edge + OVERLIM are stopped (R84). -/
def execOverlimExpiry (s : State) : Out :=
  match s.overrunTime with
  | some t => if s.coursing.edged && !s.coursing.overlimDone then .next (s.overrun t) else .next s
  | none => .next s

/-! ### The boundary (R69, R70, R72, R82, R83, R87) -/

/-- A save that passes its boundary is counted and reported (R82, R376); CTERR counts cores (DEDUCED, log entry 33). -/
def State.lateSave (s : State) (tenant : Nat) (core : Bool) : State :=
  let s := (s.lintelRecord tenant 0x24 0 0 0).count1 (execCounter tenant 0x50)
  let k := s.coursing
  if core then s.setCoursing { k with savelate := BitVec.ofNat 16 (min (k.savelate.toNat + 1) 0xFFFF) } else s

/-- The saves of a core and of a quad that pass their boundary now; one that has passed an earlier one is counted already. -/
def State.lateCore (s : State) (core : Nat) : State :=
  let c := s.coreAt core
  match c.phase with
  | .stopped n => if c.late then s else (s.setCore core { c with late := true }).lateSave n true
  | _ => s
def State.lateQuad (s : State) (a : Nat) : State :=
  let q := s.quadAt a
  match q.phase with
  | .stopped n => if q.late then s else (s.setQuad a { q with late := true }).lateSave n false
  | _ => s

/-- The next course, or course 0 of the next frame, begins at a boundary. -/
def Coursing.begin (k : Coursing) (last : Bool) (t : Nat) : Coursing :=
  let frame := { k with course := 0, frames := k.frames + 1, fstart := BitVec.ofNat 64 t, skipFrame := false }
  let k :=
    if !k.enable then { frame with enable := true, active := !k.active, activeN := k.pendingN, pending := false, firstCommit := none }
    else if !last then { k with course := k.course + 1 }
    else if k.pending && !k.skipFrame then { frame with active := !k.active, activeN := k.pendingN, pending := false }
    else frame
  { k with
    began := t, held := false, edged := false, overlimDone := false, donations := [], idleSince := []
    drainleadNow := k.drainlead, overlimNow := k.overlim }

/-- What happens at a boundary once the course has changed: a core or quad that has changed hands is scrubbed if it is saved, waits
for its late save if not, and otherwise waits for the restore of its new holder. -/
def State.turnCore (s : State) (core : Nat) : State :=
  match (s.coreAt core).phase with
  | .saved _ => s.scrubCore core
  | .passed => s.scrubCore core
  | .stopped _ => s
  | _ => s.enterCore core
def State.turnQuad (s : State) (a : Nat) : State :=
  match (s.quadAt a).phase with
  | .saved _ => s.scrubQuad a
  | .passed => s.scrubQuad a
  | .stopped _ => s
  | _ => s.enterQuad a

/-- The boundary of the course in force. -/
def State.turn (s : State) (t : Nat) : State :=
  let s := { s with time := max s.time t }
  let s := s.finishCores.finishQuads
  let cores := (List.range 768).filter s.coreChanges
  let quads := (List.range 192).filter s.quadChanges
  let s := ((s.cores.map Prod.fst).foldl State.lateCore s)
  let s := ((s.quads.map Prod.fst).foldl State.lateQuad s)
  let ways := cores.map fun c => (c, s.fillWays c)
  let fresh := !s.coursing.enable || (s.lastCourse && s.coursing.pending && !s.coursing.skipFrame)
  let s := s.setCoursing (s.coursing.begin s.lastCourse t)
  -- L2 ways that an outgoing tenant may fill and the incoming one may not (R87)
  let s := ways.foldl (fun s x => s.scrubWays (agentOf x.1) (x.2 &&& (0xFFFF - s.fillWays x.1))) s
  let s := quads.foldl State.turnQuad s
  let s := cores.foldl State.turnCore s
  (if fresh then s.recheckPending else s).sleepQuads

/-- The next course begins, a pending copy takes effect, and scrub and restore start (R69, R83). -/
def execCourseBoundary (s : State) : Out :=
  match s.boundary with
  | none => .next s
  | some t =>
    let s := match s.edgeTime with | some e => if s.coursing.edged then s else s.edge e | none => s
    let s := match s.overrunTime with | some o => if s.coursing.overlimDone then s else s.overrun o | none => s
    .next (s.turn t)

/-- A save that passed the boundary finishes and the scrub follows (R82). -/
def execSaveLateComplete (isQuad : Bool) (n : Nat) (s : State) : Out :=
  .next (if isQuad then s.finishQuad n else s.finishCore n).sleepQuads

/-- Lintel restores the incoming tenant's state in order (R318), a core after its quad (R81, R82); a quad that wakes is waited for
(R350). -/
def execLintelRestore (isQuad : Bool) (n : Nat) (s : State) : Out :=
  let asleep := (s.quadAt (if isQuad then n else agentOf n)).asleep || s.power.idle
  if asleep then .next s
  else if isQuad then
    match s.quadHolder n with
    | some t =>
      let staged := (s.stagedLines t n (((s.savedQuad t n).map (·.phint)).getD [])).filter fun l => !s.homeQuiet l false
      if (s.quadAt n).phase != .awaiting then .next s
      else if !s.areaReady (s.quadArea t n) 0x500000 then .next (s.askArea (s.quadArea t n) 0x500000)
      else if !staged.isEmpty then .next (staged.foldl (fun s l => s.askHome l t (s.keyOfTenant t) 0) s)
      else .next (s.restoreQuad t n)
    | none => .next s
  else
    match s.holder n with
    | some t =>
      if !((s.coreAt n).phase == .awaiting && (s.quadAt (agentOf n)).phase == .running) then .next s
      else if !s.areaReady (s.coreArea t n) 0x60000 then .next (s.askArea (s.coreArea t n) 0x60000)
      else .next (s.restoreCore t n)
    | none => .next s

/-! ### Parked and refused messages (R81, R377) -/

/-- The inbox that parks messages of a tenant for a quad, none when the quad takes them or no save of the tenant is there: the
quad's own until it is saved, and then the saved one. -/
def State.inboxOf (s : State) (tenant q : Nat) : Option (List InboxEntry) :=
  if s.quadOpen tenant q then none
  else
    match (s.quadAt q).phase with
    | .stopped t => if t == tenant then some (s.quadAt q).inbox else (s.savedQuad tenant q).map (·.inbox)
    | _ => (s.savedQuad tenant q).map (·.inbox)

/-- A message parked behind those of its inbox (R81). -/
def State.park (s : State) (tenant q : Nat) (e : InboxEntry) : State :=
  let own := match (s.quadAt q).phase with | .stopped t => t == tenant | _ => false
  if own then s.setQuad q { s.quadAt q with inbox := (s.quadAt q).inbox ++ [e] }
  else
    match s.savedQuad tenant q with
    | none => s
    | some v =>
      let v := { v with inbox := v.inbox ++ [e] }
      (s.setCoursing { s.coursing with savedQuads := s.coursing.savedQuads.put (192 * tenant + q) v }).putInbox tenant q v.inbox

/-- A refused message is counted for its sender's tenant (R376). -/
def State.countRefused (s : State) (tenant : Nat) : State := s.count1 (execCounter tenant 0x58)

/-- A store that has come to a quad that does not take it: its block is parked, or refused when the inbox is full; a core whose queue holds 128
refused stores sends no other (R378). -/
def State.parkStore (s : State) (core id : Nat) : State :=
  match splitAccess id (s.coreAt core).queue with
  | none => s
  | some (earlier, a) =>
    if a.kind != .store || !a.mayBegin earlier then s
    else
      match a.pieces.find? fun p => !p.done && !p.refused && isScratch p.pa && p.pa / 2 ^ 24 % 256 != agentOf core with
      | none => s
      | some p =>
        let q := p.pa / 2 ^ 24 % 256
        match s.inboxOf a.tenant q with
        | none => s
        | some l =>
          let block := p.pa / 128
          let mine (x : Piece) : Bool := !x.done && x.pa / 128 == block
          if !(a.pieces.all fun x => !mine x || (blockers earlier x).isEmpty) then s
          else if 512 ≤ l.length then
            if 128 ≤ (s.refusedStores core).length then s
            else
              let s := s.putAccess core { a with
                pieces := a.pieces.map fun x => if mine x then { x with refused := true, again := true } else x }
              -- one that has been offered again does not count again (R372)
              if p.again then s else s.countRefused a.tenant
          else
            let base := p.pa % 2 ^ 24 / 128 * 128
            let h := a.blockHalves block
            let e : InboxEntry :=
              { offset := base, data := (blockBytes h).map fun x => (base + x.1, x.2)
                halves := (blockParts h).map fun x => (base + x.1, x.2)
                bb := none, count := 0, cond := 0 }
            let b : Access := { a with pieces := a.pieces.map fun x => if mine x then { x with done := true } else x }
            let s := (s.park a.tenant q e).putAccess core b
            if b.complete then (s.stampFor core b).deliver b 0 0 else s

/-- A piece of an `HSEND` that has come to a quad that does not take it: it is parked, and so lands (R159), or is refused. -/
def State.parkPiece (s : State) (agent seq piece : Nat) : State :=
  let q := s.quadAt agent
  match q.cmdOf seq with
  | none => s
  | some c =>
    match c.op.piece piece with
    | none => s
    | some p =>
      if c.state != .running || !q.runsOn || !c.mayLand piece || c.refused.contains piece then s
      else
        match s.pieceData agent c p, s.pieceDst agent c p with
        | .ok d, .ok pa =>
          let target := pa / 2 ^ 24 % 256
          match if isScratch pa && target != agent then s.inboxOf c.tenant target else none with
          | none => s
          | some l =>
            if 512 ≤ l.length then
              let s := s.updCmd agent seq fun x =>
                { x.issueTo piece with refused := x.refused ++ [piece], again := if x.again.contains piece then x.again else x.again ++ [piece] }
              if c.again.contains piece then s else s.countRefused c.tenant
            else
              let off := pa % 2 ^ 24
              let e : InboxEntry :=
                { offset := off / 128 * 128
                  data := (List.range p.len).map fun i => (off + i, BitVec.ofNat 8 (d.val / 2 ^ (8 * i)))
                  halves := [], bb := c.bb, count := p.len, cond := d.cond }
              (s.park c.tenant target e).settleHod agent (c.ended piece none s.time)
        | _, _ => s

/-- A packet beyond the 32 that a leaving core parks is refused: the strand is back in its slot, a `MIGR` reports that it has not moved, and a
load or store is performed where it is (R64, R377). -/
def State.refusePacket (s : State) (core : Nat) : State :=
  let c := s.coreAt core
  match c.inbox.getLast? with
  | none => s
  | some p =>
    if c.phase == .running || c.inbox.length ≤ 32 then s
    else
      let s := s.setCore core { c with inbox := c.inbox.dropLast }
      match s.strandAt p.source with
      | none => s
      | some st =>
        let st := { st with wait := .ready }
        let st := match p.dst with | some d => (st.setG d 0).advance | none => { st with since := some 1 }
        (s.setStrand p.source st).countRefused (s.tenantOf st)

/-- A message to an outgoing core or quad is parked, or is refused when the inbox is full (R81). -/
def execParkMessage (msg : MsgRef) (s : State) : Out :=
  .next (match msg with
    | .store core id => s.parkStore core id
    | .piece agent seq piece => s.parkPiece agent seq piece
    | .packet core => s.refusePacket core)

/-- A refused message is offered again after the destination's restore (R377). -/
def execMessageReoffer (msg : MsgRef) (s : State) : Out :=
  match msg with
  | .store core id =>
    match splitAccess id (s.coreAt core).queue with
    | none => .next s
    | some (_, a) =>
      let again (p : Piece) : Piece :=
        if p.refused && s.quadOpen a.tenant (p.pa / 2 ^ 24 % 256) then { p with refused := false } else p
      .next (s.putAccess core { a with pieces := a.pieces.map again })
  | .piece agent seq piece =>
    match (s.quadAt agent).cmdOf seq with
    | none => .next s
    | some c =>
      let open_ := match c.op.piece piece with
        | some p => (match s.pieceDst agent c p with | .ok pa => s.quadOpen c.tenant (pa / 2 ^ 24 % 256) | .error _ => false)
        | none => false
      .next (if open_ then s.updCmd agent seq fun x => { x with refused := x.refused.filter (· != piece) } else s)
  | .packet _ => .next s

/-! ### Donation (R85, R86) -/

/-- The bay is idle now (R85): saved strands and commands of the tenant, and strands in parked packets, count where they will be restored. -/
def State.bayIdle (s : State) (die bay tenant : Nat) : Bool :=
  let k := s.coursing
  let inBay (core : Nat) : Bool := core / 192 == die && bayCovers k.table k.active k.course.toNat bay core
  let waits (w : Wait) : Bool :=
    match w with
    | .barrier _ _ => true
    | .flipped _ _ => true
    | .byteBarrier _ _ _ _ => true
    | .monitor _ _ _ _ _ _ _ _ => true
    | _ => false
  let inQuad (a : Nat) : Bool := (List.range 4).any fun c => inBay (4 * a + c)
  let rests (c : Cmd) : Bool := match c.state with | .stopped _ _ _ => true | _ => false
  (s.strands.all fun e => !inBay (coreOf e.1) || waits e.2.wait)
    && (s.cores.all fun e => !inBay e.1 || e.2.inbox.isEmpty)
    && (k.savedCores.all fun e => !(e.1 / 768 == tenant && inBay (e.1 % 768))
      || ((e.2.strands.all fun x => waits x.2.wait) && e.2.packets.isEmpty))
    && (s.quads.all fun e => !inQuad e.1 || e.2.cmds.all fun c => c.tenant != tenant || rests c)
    && (k.savedQuads.all fun e => !(e.1 / 192 == tenant && inQuad (e.1 % 192)) || e.2.cmds.all rests)
    && s.hub.launches.all fun l => !(l.tenant == tenant && s.eligibleOn l die
      && (pickQuads (fun c => inBay c && s.coreHolds l c) l.record die).isSome)

/-- The bays that are still idle, with the time since which they are (R85): a cycle in which one is not ends its run. -/
def State.idleBays (s : State) : SMap Nat :=
  let k := s.coursing
  k.idleSince.filter fun e =>
    s.bayIdle (e.1 / 8) (e.1 % 8) (courseBay k.table k.active k.course.toNat (e.1 / 8) (e.1 % 8)).tenant

/-- The bay is donated: its cores have an edge at once, and so has each quad whose holder changes. -/
def State.donate (s : State) (die bay owner donee : Nat) : State :=
  let k := s.coursing
  let cores := (List.range 192).map (192 * die + ·)
  let quads := (List.range 48).map (48 * die + ·)
  let mine := cores.filter fun c => bayCovers k.table k.active k.course.toNat bay c && s.holder c == some owner
  let before := quads.map fun a => (a, s.quadHolder a)
  let s := s.setCoursing { k with
    donations := k.donations ++ [{ die := die, bay := bay, owner := owner, donee := donee }]
    donated := BitVec.ofNat 16 (min (k.donated.toNat + 1) 0xFFFF), idleSince := k.idleSince.erase (8 * die + bay) }
  let s := mine.foldl (fun s c =>
    if (s.coreAt c).phase == .running then s.stopCore c owner else s) s
  let s := before.foldl (fun s x =>
    if s.quadHolder x.1 == x.2 then s
    else
      match x.2, (s.quadAt x.1).phase with
      | some t, .running => s.stopQuad x.1 t
      | some _, .awaiting => s.enterQuad x.1
      | some _, _ => s
      -- a late save goes on (R82)
      | none, .stopped _ => s
      | none, _ => s.enterQuad x.1) s
  s.finishCores.finishQuads

/-- A bay idle for IDLE × 160 cycles is donated with an immediate edge (R86): the first time that the bay is seen idle is noted, and any
issue on a core, and any cycle in which it is not idle, ends the run. -/
def execBayDonation (die bay : Nat) (s : State) : Out :=
  let k := s.coursing
  let b := courseBay k.table k.active k.course.toNat die bay
  let r := courseShare k.table k.active k.course.toNat b.tenant
  let given := k.donations.any fun d => d.die == die && d.bay == bay
  if !(k.enable && !k.edged && decide (die < 4) && decide (bay < 8) && b.valid && shareDonate r && !given && s.dieUp die
      && s.bayIdle die bay b.tenant) then .next s
  else
    match SMap.find k.idleSince (8 * die + bay) with
    | none => .next (s.setCoursing { k with idleSince := k.idleSince.put (8 * die + bay) s.time })
    | some t =>
      let s : State := { s with time := max s.time (t + shareIdle r * 160) }
      .next (s.donate die bay b.tenant (shareDonee r))

end Sys2Proof.Machine
end

