-- ==== Sys2Proof/Machine/Debug.lean ====
section
/-! DEFINITION. The debug ports: halting, stepping, breakpoints and the release comparator, and what `ovq` reads and writes within
its rights (spec/15_trust_debug_power.md R347, R348; spec/20_prog_topk.md R370; spec/23_faults_system.md R418). -/

namespace Sys2Proof.Machine

/-! ### Rights (R347) -/

/-- Device debug is open. -/
def State.deviceDebug (s : State) : Bool := s.keystone.sessions.any fun (x : Session) => x.tenant.isNone && decide (s.time ≤ x.notAfter)

/-- Tenant debug of a tenant is open. -/
def State.tenantDebug (s : State) (t : Nat) : Bool :=
  s.keystone.sessions.any fun (x : Session) => x.tenant == some t && decide (s.time ≤ x.notAfter)

/-- The session of a tenant, or of the device when none, is open. -/
def State.sessionOpen (s : State) (t : Option Nat) : Bool := match t with | none => s.deviceDebug | some t => s.tenantDebug t

/-- Some session is open. -/
def State.someDebug (s : State) : Bool := s.deviceDebug || (List.range 64).any s.tenantDebug

/-- The port reaches the strands of a tenant. -/
def State.reaches (s : State) (t : Nat) : Bool := s.deviceDebug || s.tenantDebug t

/-- A refused request has no effect and is counted in DBGDENY (R418). -/
def State.deny (s : State) : State := s.count1 (sysCounter 0x38)

/-- The key of the debug port among the replies. -/
def debugReply : Nat := 300

/-- The value that the port returns. -/
def State.answerPort (s : State) (v : Nat) : State := { s with replies := s.replies.put debugReply (BitVec.ofNat 64 v) }

/-- A request about the strand in a slot, within the rights of R347. -/
def State.onStrand (s : State) (slot : Nat) (f : Strand → State) : State :=
  match s.strandAt slot with
  | none => if s.someDebug then s else s.deny
  | some st => if s.reaches (s.tenantOf st) then f st else s.deny

/-! ### Halting (R348) -/

/-- The port halts a strand. -/
def execDebugHalt (slot : Nat) (s : State) : Out :=
  .next (s.onStrand slot fun st => s.setStrand slot { st with halt := .halted })

/-- A halted strand is released for one instruction. -/
def execDebugStep (slot : Nat) (s : State) : Out :=
  .next (s.onStrand slot fun st =>
    if st.halt = .halted then s.setStrand slot { st with halt := .stepping } else s)

/-- A head comparator matches: the strand halts before the head, with no trap and no register changed
(DEDUCED, log entry 34). -/
def execBreakpointMatch (slot : Nat) (s : State) : Out :=
  match s.strandAt slot with
  | none => .next s
  | some st =>
    if s.breaksAt slot st then .next (s.setStrand slot { st with halt := .halted }) else .next s

/-- A halt released by the comparator (DEDUCED, log entry 34). -/
def Halt.release : Halt → Halt
  | .halted => .released
  | h => h

def SavedCore.release (c : SavedCore) : SavedCore :=
  { c with strands := c.strands.map fun x => (x.1, { x.2 with halt := x.2.halt.release }) }

/-- The strands that a session has halted run on; a saved one from its restore (R370). -/
def State.release (s : State) (session : Option Nat) : State :=
  let mine (t : Nat) : Bool := session.isNone || session == some t
  let saved := s.coursing.savedCores.map fun (e : Nat × SavedCore) => if mine (e.1 / 768) then (e.1, e.2.release) else e
  { s with
    strands := s.strands.map fun e => if mine (s.tenantOf e.2) then (e.1, { e.2 with halt := e.2.halt.release }) else e
    coursing := { s.coursing with savedCores := saved } }

/-- The comparators whose time has come release their strands, once. -/
def State.fireReleases (s : State) : State :=
  let l := s.keystone.releases
  if l.isEmpty then s
  else (l.filter fun x => decide (x.2 ≤ s.time)).foldl (fun s x => s.release x.1)
    (s.setKeystone { s.keystone with releases := l.filter fun x => !decide (x.2 ≤ s.time) })

/-- `continue at t` (R370): t is written to the release comparator, and the strands that the session has halted run on in the cycle in which
`sr.time` equals t, or at once if t has passed (DEDUCED, log entry 34). -/
def execContinueAt (c : Release) (s : State) : Out :=
  if !s.sessionOpen c.session then .next s.deny
  else
    let k := s.keystone
    .next (s.setKeystone { k with releases := (k.releases.filter fun x => x.1 != c.session) ++ [(c.session, c.at_)] }).fireReleases

/-! ### Requests (R347) -/

/-- 64 bits of a number from bit 64 × i, and the number with them replaced. -/
def part64 (x i : Nat) : Nat := fieldN x (64 * i) 64
def setPart64 (x i v : Nat) : Nat := setField x (64 * i) 64 v

/-- Memory through an address space of a tenant under debug: the address, where its mappings reach it
(DEDUCED, log entry 34). -/
def State.debugPa (s : State) (asid va : Nat) (r : Right) : Option (Nat × Nat) :=
  let t := asidTenant (s.asidEntry asid)
  if s.tenantDebug t then
    match s.hubPa t asid va r with
    | some pa => if isControl pa then none else some (t, pa)
    | none => none
  else none

/-- A request about a quad: device debug, or a tenant that holds it whole. -/
def State.reachesQuad (s : State) (a : Nat) : Bool :=
  s.deviceDebug || (match s.quadHolder a with | some t => s.tenantDebug t | none => false)

/-- A tenant under debug whose state of a quad Lintel has saved (R370); the lowest where there are several (DESIGN CHOICE, log entry 34). -/
def State.savedUnderDebug (s : State) (a : Nat) : Option (Nat × SavedQuad) :=
  ((List.range 64).filter s.tenantDebug).findSome? fun t => (s.savedQuad t a).map fun q => (t, q)

/-- The i-th Sett command of a footprint unit, as the port names it: 1 `SLOAD`, 2 `SSORT`, 3 `SSTORE`, and 0 where there is none. -/
def settCmdCode (l : List Cmd) (i : Nat) : Nat :=
  match (l.filter fun c => c.engine == some .sett)[i]? with
  | some c => (match c.op with | .sload _ _ => 1 | .ssort _ _ _ _ => 2 | _ => 3)
  | none => 0

/-- The key bits, or the position, of a cell. -/
def SettCell.part (c : SettCell) (position : Bool) : Nat := if position then c.pos else c.bits.toNat

/-- n bytes of memory as the home answers them. A line that a holder has first to give back is asked for, and the port answers when the request
is made again (DESIGN CHOICE, log entry 34). -/
def State.debugRead (s : State) (pa n tenant key : Nat) : State :=
  if s.homeReadable pa n then s.answerPort (s.readPa pa key n).1 else s.askHome (lineOf pa) tenant key 0

/-- The state of Sett in a quad: that of the quad's holder, or, where a tenant's is saved, from its save area under its key (R370). -/
def State.debugSett (s : State) (a off n : Nat) (saved : SavedQuad → Option Nat) (live : State → Nat) : State :=
  match s.savedUnderDebug a with
  | some (t, q) =>
    match saved q with
    | some v => s.answerPort v
    | none => s.debugRead (s.quadArea t a + off) n t (s.keyOfTenant t)
  | none => if s.reachesQuad a then s.answerPort (live s) else s.deny

/-- An access of device debug to n bytes at a physical address, as an access to registers or to memory (R24). -/
def physicalOk (pa n : Nat) : Bool :=
  (n == 1 || n == 2 || n == 4 || n == 8) && pa % n == 0 && (!isControl pa || n == 4 || n == 8)

/-- A request at a debug port. -/
def State.debugPort (s : State) (r : DebugReq) : State :=
  match r with
  | .readScalar slot r => s.onStrand slot fun st => s.answerPort (st.getG r).toNat
  | .writeScalar slot r v => s.onStrand slot fun st => s.setStrand slot { st.setG r v with rrec := st.rrec }
  | .readPc slot => s.onStrand slot fun st => s.answerPort st.pc.toNat
  | .writePc slot v => s.onStrand slot fun st => s.setStrand slot (st.setPc v)
  | .readSpecial slot k => s.onStrand slot fun st =>
      if srExists k.toNat then s.answerPort (s.readSr st k.toNat).toNat else s
  | .writeSpecial slot k v => s.onStrand slot fun st =>
      if srWritable k.toNat then s.setStrand slot (st.writeSr k.toNat v) else s
  | .readPredicates slot => s.onStrand slot fun st => s.answerPort (st.pw ||| 1).toNat
  | .writePredicates slot v => s.onStrand slot fun st => s.setStrand slot { st with pw := v }
  | .readMask slot m i => s.onStrand slot fun st => s.answerPort (part64 (st.getM m).toNat i)
  | .writeMask slot m i v => s.onStrand slot fun st =>
      s.setStrand slot (st.setM m (BitVec.ofNat 1024 (setPart64 (st.getM m).toNat (i % 16) v.toNat)))
  | .readVector slot r i => s.onStrand slot fun st =>
      if r.toNat < st.vcount then s.answerPort (part64 (s.getV slot st r.toNat).toNat (i % 64)) else s
  | .writeVector slot r i v => s.onStrand slot fun st =>
      if r.toNat < st.vcount then
        s.setV slot st r.toNat (BitVec.ofNat 4096 (setPart64 (s.getV slot st r.toNat).toNat (i % 64) v.toNat))
      else s
  | .readMemory asid va =>
    match s.debugPa asid va .read with
    | some (t, pa) => s.debugRead pa 1 t (s.keyOfAsid asid)
    | none => s.deny
  | .writeMemory asid va v =>
    match s.debugPa asid va .write with
    | some (t, pa) => s.homeWrite t (s.keyOfAsid asid) pa 1 v.toNat false
    | none => s.deny
  | .readPhysical pa n =>
    if !s.deviceDebug then s.deny
    else if !s.decodes pa || !physicalOk pa n then s
    else if isControl pa then s.answerPort (s.regRead pa n)
    else s.debugRead pa n 0 0
  | .writePhysical pa n v =>
    if !s.deviceDebug then s.deny
    else if !s.decodes pa || !physicalOk pa n then s
    else if isControl pa then (if partyWrites .firmware pa then s.regWrite (.inl .firmware) pa n v.toNat else s)
    else s.homeWrite 0 0 pa n v.toNat false
  | .readSlice off => if s.deviceDebug then s.answerPort (s.regRead (0xA200000000000 + off % 2 ^ 20 / 8 * 8) 8) else s.deny
  | .writeSlice off v =>
    if s.deviceDebug then s.regWrite (.inl .firmware) (0xA200000000000 + off % 2 ^ 20 / 8 * 8) 8 v.toNat else s.deny
  | .readCourse off => if s.someDebug then s.answerPort (s.regRead (0xA000000000000 + off % 2 ^ 24 / 8 * 8) 8) else s.deny
  | .writeCourse off v =>
    if s.deviceDebug then s.regWrite (.inl .firmware) (0xA000000000000 + off % 2 ^ 24 / 8 * 8) 8 v.toNat else s.deny
  | .setBreak t core a =>
    let c := s.coreAt core
    if !s.sessionOpen t then s.deny
    else if c.breaks.length < 4 && !c.breaks.contains (t, a) then s.setCore core { c with breaks := c.breaks ++ [(t, a)] }
    else s
  | .deleteBreaks t core =>
    let c := s.coreAt core
    if s.sessionOpen t then s.setCore core { c with breaks := c.breaks.filter fun b => b.1 != t } else s.deny
  | .readAcc a bank row col =>
    if s.reachesQuad a then s.answerPort (s.getAcc a (bank % 4) (row % 128) (col % 128)) else s.deny
  | .readBankFlags a bank =>
    if s.reachesQuad a then s.answerPort ((s.quadAt a).bankFlags.toList.getD (bank % 4) 0).toNat else s.deny
  | .readSettCmd a i => s.debugSett a 0 0 (fun q => some (settCmdCode q.cmds i)) fun s => settCmdCode (s.quadAt a).cmds i
  | .readSettState a => s.debugSett a 0 8 (fun _ => none) fun s => (s.quadAt a).sett.word false
  | .readSettCell a cell position =>
    let i := cell % 16384
    s.debugSett a (0x60000 + 8 * i) 8 (fun q => if position then some ((SMap.get SettCell.reset q.cells i).part true) else none)
      fun s => (s.getCell a i).part position
  | .readTile tid i =>
    match SMap.find s.homes.tiles tid with
    | some t => if s.reaches t.tenant then s.answerPort (part64 t.bits (i % 4)) else s.deny
    | none => if s.deviceDebug then s.answerPort 0 else s.deny
  | .readBarrier level inst index =>
    let b := s.barrierAt (barrierKey level inst index)
    if s.deviceDebug || (b.e != 0 && s.tenantDebug b.tenant) then
      s.answerPort (b.e.toNat + b.counter.toNat * 2 ^ 16 + b.phase.toNat * 2 ^ 32 + (b.e != 0).toNat * 2 ^ 33)
    else s.deny
  | .readDirectory region i =>
    if s.deviceDebug then
      let e := s.dirAt region
      s.answerPort (if e = DirEntry.reset ∧ s.busyBits region = 0 then 0 else part64 (e.bits (s.busyBits region)) (i % 2))
    else s.deny

/-- A request arrives at a debug port. -/
def execDebugPortRequest (r : DebugReq) (s : State) : Out := .next (s.debugPort r)

end Sys2Proof.Machine
end

