-- ==== Sys2Proof/Machine/HostPort.lean ====
section
/-! DEFINITION. The CXL host ports: the host's requests to device memory and its answers, device copies of host memory, timeouts and
link loss; and the harts' tenant register (spec/05_storage_coherence.md R134, R135; spec/14_host_peer.md R325 to R330;
spec/22_faults_memory.md R396, R397; spec/23_faults_system.md R414). -/

namespace Sys2Proof.Machine

/-- The directory agent of a host port (R23, R134). -/
def portAgent (port : Nat) : Nat := 200 + port

/-- The device address of a host physical address in a port's HDM range (R325). -/
def State.hdmPa (s : State) (port hpa : Nat) : Option Nat :=
  let base := SMap.get 0 s.hub.hdmBase port
  let o := hpa - base
  if hpa < base ∨ 6 * 2 ^ 37 ≤ o then none else some (o / 2 ^ 37 * 2 ^ 48 + o % 2 ^ 37)

/-- The port's link is in L0, which it never is while the hub is not released (R416), and the port is not lost. -/
def State.portUp (s : State) (port : Nat) : Bool :=
  decide (port < 2) && !s.sys.portDown.getLsbD port && (SMap.find s.sys.linkDown port).isNone && !s.power.off

/-- A host's read through a BAR: aligned, of 4 or 8 bytes, of the first 16 MiB of control block 1 or of the mailbox; any other completes as
an unsupported request (R326). -/
def State.barRead (s : State) (port : Nat) (mailbox : Bool) (off n : Nat) : State :=
  let ok := (n == 4 || n == 8) && off % n == 0 && decide (off < if mailbox then 2 ^ 16 else 2 ^ 24)
  s.tell (96 + port) (if ok then .value (s.regRead ((if mailbox then 0xF000000000000 else 0xA100000000000) + off) n) else .unsupported)

/-- The host programs a window of its port's firmware filter (R345). -/
def State.setWindow (s : State) (port w : Nat) (f : Nat × Nat → Nat × Nat) : State :=
  if w < 2 then
    let k := 2 * port + w
    s.setHub { s.hub with fwwin := s.hub.fwwin.set (0, 0) k (f (SMap.get (0, 0) s.hub.fwwin k)) }
  else s

/-- A host request to a home die held in reset: a read gets zeros and a write is discarded, as of lost data, which counts for tenant 0 (R387,
R416). -/
def State.heldHome (s : State) (port : Nat) (r : HostReq) : State :=
  match r with
  | .read _ => (s.count1 (memCounter 0 0x08)).tell (96 + port) (.value 0)
  | .own _ => (s.count1 (memCounter 0 0x08)).tell (96 + port) (.value 0)
  | .writeBack _ _ => s.count1 (memCounter 0 0x10)
  | _ => s

/-- A host CXL request to device memory (R134, R325): it queues at the home as agent 200 or 201; without the link it waits. While BIFAIL is 1
a read gets zeros and a write is discarded (R396). -/
def execHostRequest (port : Nat) (r : HostReq) (s : State) : Out :=
  if !s.portUp port then .next s
  else
    let at_ (hpa : Nat) (f : Nat → State) : Out :=
      match s.hdmPa port (hpa / 128 * 128) with
      | none => .next s
      | some pa => .next (if s.homeState (window pa) == .held then s.heldHome port r else f pa)
    let ask (pa : Nat) (k : ReqKind) : State :=
      s.appendReq (lineOf pa) (newReq s (portAgent port) 784 0 (s.keyOfTenant 0) k)
    let read (pa : Nat) (k : ReqKind) : State :=
      if s.sys.bifail.getLsbD port then s.tell (96 + port) (.value 0) else ask pa k
    match r with
    | .configWrite .hdmBase v => .next (s.setHub { s.hub with hdmBase := s.hub.hdmBase.set 0 port v })
    | .configWrite (.windowBase w) v => .next (s.setWindow port w fun x => (v, x.2))
    | .configWrite (.windowSize w) v => .next (s.setWindow port w fun x => (x.1, v))
    | .filterCount => .next (s.tell (96 + port) (.value (SMap.get 0 s.hub.fwdropped port)))
    | .read h => at_ h fun pa => read pa .getS
    | .own h => at_ h fun pa => read pa (.getO false)
    | .writeBack h d => at_ h fun pa => if s.sys.bifail.getLsbD port || d.length ≠ 128 then s else ask pa (.hostPut d)
    | .evict h => at_ h fun pa => ask pa .putS
    | .barRead mailbox off n => .next (s.barRead port mailbox off n)

/-- The host's BIRsp is counted as an answer (R134), with the data of a line that it had modified: its own, or those of a write-back of the host's
that the snoop has crossed (R121). -/
def execBirsp (port line : Nat) (data : List Byte) (s : State) : Out :=
  let a := portAgent port
  match if port < 2 then s.probeOf a line else none with
  | none => .next s
  | some p =>
    let put := ((s.reqsAt line) ++ ((s.homes.ingress.filter fun x => x.1 == line).map Prod.snd)).find? (Request.isPutO a)
    let d := match put with | some { kind := .hostPut d, .. } => d | _ => data
    let s := (s.dropProbe a line).dropReqs line (Request.isPutO a)
    let s := if p.invalidate then s.dropCopy a line else s.cleanCopy a line
    let s :=
      if d.length = 128 && !s.isLost (128 * line) && !s.sys.bifail.getLsbD port then
        ((s.storeAt 0 (s.keyOfTenant 0) (128 * line) 128 (leOfBytes d) false).1).fillLlc 784 0 (s.keyOfTenant 0) line true
      else s
    .next ((s.trace line a 8 0).countAnswer line)

/-- A probe of a port is resolved as a timeout (R396): the answer counts as received, what the host held is removed or lost, KIND 8 is
logged, and BIFAIL is set. -/
def State.hostSilent (s : State) (port line : Nat) : State :=
  let a := portAgent port
  let s := ((s.dropProbe a line).loseAgent a).logEvent (128 * line) 0 8 a 0
  (s.setSys { s.sys with bifail := s.sys.bifail ||| (1#2 <<< port) }).countAnswer line

/-- A back-invalidation times out and BIFAIL is set (R396). -/
def execBitoTimeout (port line : Nat) (s : State) : Out :=
  match if port < 2 then s.probeOf (portAgent port) line else none with
  | none => .next s
  | some p =>
    let s := { s with time := max s.time (p.sent + usCycles (s.sys.bito.toList.getD port 0).toNat) }
    .next (s.hostSilent port line)

/-! ### Host memory in device caches (R135) -/

/-- The hub answers a host snoop on host memory for the quads and clusters (R135). -/
def execHostSnoop (line : Nat) (inv : Bool) (s : State) : Out :=
  if !isHostMem (128 * line) || s.sys.portDown.getLsbD (window (128 * line) - 0xC) then .next s
  else
    let e := s.snoopAt line
    if inv then .next ((s.dropAllCopies line).setSnoop line SnoopEntry.reset)
    else .next ((e.agents.foldl (fun s a => s.cleanCopy a line) s).setSnoop line { e with owned := false, older := 0 })

/-- The snoop filter's entry once the host has answered; the host's own value is that of memory when ownership comes (R397). -/
def SnoopEntry.answered (e : SnoopEntry) (m : Memory) (pa : Nat) (owned : Bool) : SnoopEntry :=
  if owned && !e.owned then { e with owned := true, older := BitVec.ofNat 1024 (m.readLe pa 128) } else e

/-- The host answers the hub's request for a line of its memory: the line holds the data that the host gives, and the waiting request
is granted (R135). -/
def execCxlCacheResponse (line : Nat) (owned : Bool) (data : List Byte) (s : State) : Out :=
  let pa := 128 * line
  if !isHostMem pa || !s.portUp (window pa - 0xC) then .next s
  else
    match s.reqsAt line with
    | [] => .next s
    | r :: _ =>
      let e := s.snoopAt line
      let fresh : State := if data.length = 128 && !e.owned then { s with mem := s.mem.writeBytes pa data } else s
      match r.kind with
      | .putO => .next s
      | .putS => .next s
      | k =>
        if k.takes && !owned then .next s
        else .next ((fresh.setSnoop line (e.answered fresh.mem pa (owned && k.takes))).grantHost r line)

/-! ### Link loss (R414) -/

/-- A line of host memory that the device owns has been modified there. -/
def State.hostModified (s : State) (line : Nat) (e : SnoopEntry) : Bool :=
  e.owned && (s.mem.readLe (128 * line) 128 != e.older.toNat
    || e.agents.any fun a => match s.copyAt a line with | some c => c.modified.isSome | none => false)

/-- Record writes of the hub to lines of a window that still wait are dropped, and counted in HOSTDISC (R414). -/
def State.dropHostWrites (s : State) (here : Nat → Bool) : State :=
  let asked := (s.homes.reqs.flatMap fun e => e.2.map fun r => (e.1, r)) ++ s.homes.ingress
  let n := (asked.filter fun x => here x.1 && (match x.2.kind with | .homeWrite w => decide (0 < w.bytes) | _ => false)).length
  let s := (List.range n).foldl (fun s _ => s.count1 (sysCounter 0x30)) s
  s.setHomes { s.homes with reqs := s.homes.reqs.filter fun e => !here e.1, ingress := s.homes.ingress.filter fun x => !here x.1 }

/-- The port is lost (R414); of a modified copy of its memory the host's older value stands, which is logged (R397). -/
def State.losePort (s : State) (port : Nat) : State :=
  let s := s.setSys { s.sys with
    portDown := s.sys.portDown ||| (1#2 <<< port), linkDown := s.sys.linkDown.put port 0
    bifail := s.sys.bifail ||| (1#2 <<< port) }
  let s := s.logSystem 14 0 port
  let s := (s.homes.probes.filter fun p => p.agent == portAgent port).foldl (fun s p => s.hostSilent port p.line) s
  let here (line : Nat) : Bool := window (128 * line) == 0xC + port
  let s := (s.hub.snoop.filter fun e => here e.1).foldl (fun s e =>
    let modified := s.hostModified e.1 e.2
    let s := (s.dropAllCopies e.1).setSnoop e.1 SnoopEntry.reset
    if modified then ({ s with mem := s.mem.writeLe (128 * e.1) 128 e.2.older.toNat } : State).logEvent (128 * e.1) 0 2 0 0 else s) s
  s.dropHostWrites here

/-- A port's link leaves L0 and its requests wait; a surprise link down loses the port (R414). -/
def execCxlLinkDown (port : Nat) (surprise : Bool) (s : State) : Out :=
  if 2 ≤ port then .next s
  else if surprise then .next (if SMap.find s.sys.linkDown port = some 0 then s else s.losePort port)
  else if (SMap.find s.sys.linkDown port).isSome then .next s
  else .next (s.setSys { s.sys with linkDown := s.sys.linkDown.put port (s.time + 1) })

/-- After 100 ms without L0 the port is lost (R414). -/
def execCxlRetrainTimeout (port : Nat) (s : State) : Out :=
  match SMap.find s.sys.linkDown port with
  | some (t + 1) => .next (({ s with time := max s.time (t + 160000000) } : State).losePort port)
  | _ => .next s

/-- The link returns to L0, and KIND 14, SUB 1 is logged for a port that was lost (R414). -/
def execCxlLinkUp (port : Nat) (s : State) : Out :=
  match SMap.find s.sys.linkDown port with
  | none => .next s
  | some t =>
    let s := s.setSys { s.sys with linkDown := s.sys.linkDown.erase port }
    .next (if t = 0 then s.logSystem 14 1 port else s)

/-- A write of the hart tenant CSR (R330): the hart's operations that stand before it keep the tenant that they had; from a mode other than M it
raises an illegal-instruction exception of the hart. -/
def execVlntenantWrite (hart : Nat) (mMode : Bool) (v : BitVec 6) (s : State) : Out :=
  if 16 ≤ hart then .next s
  else if !mMode then .next (s.tell hart .illegal)
  else
    let old := (SMap.get (0 : BitVec 6) s.hub.vlntenant hart).toNat
    let ops := (SMap.get [] s.hub.ops hart).map fun (x : PartyOp) => { x with bound := some (x.bound.getD old) }
    .next (s.setHub { s.hub with vlntenant := s.hub.vlntenant.set 0 hart v, ops := s.hub.ops.set [] hart ops })

end Sys2Proof.Machine
end

