-- ==== Sys2Proof/Machine/Keystone.lean ====
section
/-! DEFINITION. Keystone: the mailbox commands, measurement and attestation, memory-encryption keys, debug tokens and sessions,
lifecycle and confidentiality, and power-on (spec/15_trust_debug_power.md R337 to R346, R349, R353, R354;
spec/23_faults_system.md R416). A command's row runs the latched command and leaves its reply; MAILBOX_COMPLETE finishes it.
The layout of the arguments, which the manual does not give, is that of DESIGN CHOICE, log entry 18. -/

namespace Sys2Proof.Machine

/-! ### The mailbox (R340, R341) -/

/-- A byte string at an offset of the mailbox buffer's arguments, which begin at 0x100. -/
def Keystone.args (k : Keystone) (off n : Nat) : List Byte := (List.range n).map fun i => SMap.get (0 : Byte) k.buf (0x100 + off + i)
def Keystone.arg (k : Keystone) (off n : Nat) : Nat := leOfBytes (k.args off n)

/-- The reply of a command that has run: RESULT, RLEN and the reply bytes. -/
def Keystone.reply (k : Keystone) (result : Nat) (data : List Byte) : Keystone :=
  let data := data.take 65280
  { k with
    ready := true, result := BitVec.ofNat 8 result, rlen := BitVec.ofNat 16 data.length
    buf := data.zipIdx.foldl (fun b e => b.set 0 (0x100 + e.2) e.1) k.buf }

def State.mbReply (s : State) (result : Nat) (data : List Byte) : State := s.setKeystone (s.keystone.reply result data)

/-- Who may issue a command (the last column of R341). -/
inductive Issuer where
  | any
  /-- F level and the hypervisor. -/
  | manager
  /-- The hypervisor, a host, and an S strand for its own tenant; none is no tenant. -/
  | debugger (tenant : Option Nat)
  deriving DecidableEq, Repr

def Issuer.admits (i : Issuer) (who : Option (Party ⊕ Nat)) : Bool :=
  match i, who with
  | .any, some _ => true
  | .manager, some (.inl .firmware) => true
  | .manager, some (.inl .hypervisor) => true
  | .debugger _, some (.inl .hypervisor) => true
  | .debugger _, some (.inl (.host _)) => true
  | .debugger t, some (.inr x) => t == some x
  | _, _ => false

/-- The latched command runs when it is the one of the row: RESULT 3 when its requester may not issue it, 4 when its arguments are
shorter than it needs, and its effect otherwise. -/
def State.runCommand (s : State) (code need : Nat) (who : Keystone → Issuer) (f : Keystone → State) : Out :=
  let k := s.keystone
  if !k.busy || k.ready || k.code.toNat != code then .next s
  else if !(who k).admits k.requester then .next (s.mbReply 3 [])
  else if k.len.toNat < need then .next (s.mbReply 4 [])
  else .next (f k)

def knownCommand (c : Nat) : Bool := [0x01, 0x10, 0x11, 0x12, 0x13, 0x20, 0x21, 0x22, 0x30, 0x31].contains c

/-! ### Measurements and SPDM (R338, R339) -/

/-- What block 5 measures: lifecycle, confidentiality, debug level and the tenants under debug. -/
def Keystone.levelBytes (k : Keystone) : List Byte :=
  let life : Byte := match k.lifecycle with | .isOpen => 0 | .locked => 1 | .decommissioned => 2
  let level : Byte := if k.sessions.isEmpty then 0 else if k.sessions.any fun (x : Session) => x.tenant.isNone then 2 else 1
  [life, if k.conf then 1 else 0, level] ++ k.sessions.map fun (x : Session) => BitVec.ofNat 8 (x.tenant.getD 64)

/-- Block 5 is recomputed at every change of debug level. -/
def Keystone.remeasure (k : Keystone) : Keystone := { k with meas := k.meas.put 5 (Config.shake256 k.levelBytes) }

/-- The chain of certificate slot 0, which ends in the device identity key. -/
def spdmChain : List Byte := (Config.issuerKeys ++ [Config.identityKey]).flatMap Config.certificate

/-- The device identity key exists, from the locked lifecycle on (R353). -/
def Keystone.hasIdentity (k : Keystone) : Bool := k.lifecycle != .isOpen

/-- What the responder answers at one use (R339). CHALLENGE is answered in the locked lifecycle alone, and measurements in every one (R354);
only the locked lifecycle has the seed with which to sign (R353) (DEDUCED, log entry 11). -/
def Keystone.spdmAnswer (k : Keystone) (use : Nat) (bytes : List Byte) (q : SpdmRequest) : SpdmReply :=
  let locked := k.lifecycle == .locked
  match q with
  | .getVersion => .version 1 2
  | .getCapabilities => .capabilities k.hasIdentity locked true false false false
  | .negotiateAlgorithms => .algorithms .slhDsaShake256s .sha3_512
  | .getDigests => .digests (if k.hasIdentity then [(0, Config.sha3_512 spdmChain)] else [])
  | .getCertificate slot off n =>
    if slot = 0 ∧ k.hasIdentity then .certificate ((spdmChain.drop off).take n) (spdmChain.length - (off + n)) else .refused
  | .challenge slot =>
    if slot = 0 ∧ locked then
      let h := Config.sha3_512 spdmChain
      .challengeAuth h (Config.identitySignature use bytes [h])
    else .refused
  | .getMeasurements blocks signed =>
    let l := (blocks.filter fun i => decide (1 ≤ i) && decide (i ≤ 5)).map fun i => (i, SMap.get (0 : BitVec 512) k.meas i)
    .measurements l (if signed && locked then some (Config.identitySignature use bytes (l.map Prod.snd)) else none)
  | .keyExchange => .refused
  | .secured => .refused
  | .mutualAuth => .refused
  | .other => .refused

/-- The reply to one request (log entry 11). -/
def Keystone.spdm (k : Keystone) (use : Nat) (request : List Byte) : List Byte :=
  Config.spdmFormat use request (k.spdmAnswer use request (Config.spdmParse request))

/-- Mailbox command 0x01 (R339). -/
def execSpdm (s : State) : Out :=
  s.runCommand 0x01 0 (fun _ => .any) fun k => s.mbReply 0 (k.spdm s.free (k.args 0 k.len.toNat))

/-- A request of a port's DOE mailbox is served, or waits behind the command that Keystone runs (R339). -/
def execDoeSpdmRequest (port : Nat) (request : List Byte) (s : State) : Out :=
  let k := s.keystone
  if 2 ≤ port || !s.portUp port then .next s
  else if k.busy then .next (s.setKeystone { k with doeWaiting := k.doeWaiting ++ [(port, request)] })
  else .next (s.setKeystone { k with doeReply := k.doeReply.put port (k.spdm s.free request) })

/-- The DOE requests that have waited are served one at a time, in arrival order (R339). -/
def Keystone.serveDoe (k : Keystone) (use : Nat) : Keystone :=
  { k with
    doeReply := k.doeWaiting.foldl (fun m x => m.put x.1 (k.spdm use x.2)) k.doeReply
    doeWaiting := [] }

/-- The command has run, or its code is unknown (RESULT 1): BUSY is cleared and DONE set (R340), and DOE requests that waited are served. -/
def execMailboxComplete (s : State) : Out :=
  let k := s.keystone
  let s := if k.busy && !k.ready && !knownCommand k.code.toNat then s.mbReply 1 [] else s
  let k := s.keystone
  if k.busy && k.ready then
    .next (s.setKeystone { k.serveDoe s.free with busy := false, ready := false, done := true })
  else .next s

/-! ### Keys (R342 to R344) -/

/-- A live ASID entry or a TKEY entry names a key index. -/
def State.keyNamed (s : State) (k : Nat) : Bool :=
  let base := s.hub.atbase.toNat
  let rows := s.mem.filter fun c => decide (base ≤ c.1) && decide (c.1 < base + 16 * 2 ^ 16) && (c.1 - base) % 16 == 0
  (rows.any fun c => asidValid (s.asidEntry ((c.1 - base) / 16)) && asidKey (s.asidEntry ((c.1 - base) / 16)) == k)
    || (List.range 64).any fun t => (SMap.get (0 : BitVec 11) s.keystone.tkey t).toNat == k

/-- Every cached copy that carries a key index is recalled to its home, under the old key (DEDUCED, log entry 34). -/
def State.recallKey (s : State) (k : Nat) : State :=
  let held := s.setHomes { s.homes with llc := s.homes.llc.filter fun e => e.2.key != k }
  (s.copies.filter fun e => e.2.key == k).foldl (fun s e =>
    let a := e.1 / 2 ^ 45
    let line := e.1 % 2 ^ 45
    match s.tileOf line with
    | some (tid, t) => (if t.holder = a then s.evictTile tid t e.2.tenant e.2.key else s).dropCopy a line
    | none =>
      let s := s.dropCopy a line
      if !isDevice (128 * line) then s
      else if (s.dirAt (regionOf line)).ownerOf (line % 4) = some a then s.updLine line fun e i => e.clearLine i .I
      else if (s.dirAt (regionOf line)).line (line % 4) == .S then s.updLine line fun e i => e.unshare a i
      else s) held

/-- A slot's key replaced, or cleared. -/
def State.replaceKey (s : State) (k : Nat) (fill : Bool) : State :=
  let s := s.recallKey k
  let x := SMap.get KeySlot.reset s.keystone.keys k
  s.setKeystone { s.keystone with
    keys := s.keystone.keys.set KeySlot.reset k { gen := x.gen + 1, filled := fill, cleared := !fill } }

/-- KEYGEN and KEYCLR: RESULT 3 while an entry names the index. -/
def State.keyCommand (s : State) (k : Keystone) (fill : Bool) : State :=
  let i := k.arg 0 2
  if 2048 ≤ i then s.mbReply 4 []
  else if s.keyNamed i then s.mbReply 3 []
  else (s.replaceKey i fill).mbReply 0 []

/-- KEYGEN (R344), refused in the decommissioned lifecycle (R354). -/
def execKeygen (s : State) : Out :=
  s.runCommand 0x10 2 (fun _ => .manager) fun k =>
    if k.lifecycle = .decommissioned then s.mbReply 3 [] else s.keyCommand k true

/-- KEYCLR (R344). -/
def execKeyclr (s : State) : Out := s.runCommand 0x11 2 (fun _ => .manager) fun k => s.keyCommand k false

/-- TKEYSET: requests issued after the reply carry the index (R344). -/
def execTkeyset (s : State) : Out :=
  s.runCommand 0x12 3 (fun _ => .manager) fun k =>
    let t := k.arg 0 1
    let i := k.arg 1 2
    if 64 ≤ t || 2048 ≤ i then s.mbReply 4 []
    else (s.setKeystone { k with tkey := k.tkey.set 0 t (BitVec.ofNat 11 i) }).mbReply 0 []

/-! ### Debug sessions (R341, R346, R349) -/

/-- DBGKEY: the public key of a tenant's tokens. -/
def execDbgkey (s : State) : Out :=
  s.runCommand 0x13 65 (fun _ => .manager) fun k =>
    let t := k.arg 0 1
    if 64 ≤ t then s.mbReply 4 [] else (s.setKeystone { k with dbgKeys := k.dbgKeys.put t (k.args 1 64) }).mbReply 0 []

/-- DBGNONCE: a fresh nonce of 32 bytes, and the earlier one is void. -/
def execDbgnonce (s : State) : Out :=
  s.runCommand 0x20 0 (fun _ => .any) fun k =>
    let nonce := (List.range 4).flatMap fun i => bytesOfLe 8 (Config.freeWord (2 ^ 20 * s.free + i)).toNat
    (s.setKeystone { k with nonce := some nonce }).mbReply 0 nonce

/-- The halted strands of a tenant, or of every tenant, run again, the saved ones too, and their head comparators are free. -/
def State.resumeHalted (s : State) (tenant : Option Nat) : State :=
  let mine (st : Strand) : Bool := tenant.isNone || tenant == some (s.tenantOf st)
  let cores := (s.cores.map fun (e : Nat × CoreState) =>
    (e.1, { e.2 with breaks := e.2.breaks.filter fun b => b.1 != tenant })).filter fun e => e.2 != CoreState.reset
  { s with
    strands := s.strands.map fun e => if mine e.2 then (e.1, { e.2 with halt := .running }) else e
    cores := cores
    coursing := { s.coursing with savedCores := s.coursing.savedCores.map fun e =>
      if tenant.isNone || tenant == some (e.1 / 768) then
        (e.1, { e.2 with strands := e.2.strands.map fun x => (x.1, { x.2 with halt := .running }) })
      else e } }

/-- A session ends (R346) (DEDUCED, log entry 34). -/
def State.endSession (s : State) (tenant : Option Nat) : State :=
  if s.keystone.sessions.any fun (x : Session) => x.tenant == tenant then
    let k := s.keystone
    (s.setKeystone { k with
      sessions := k.sessions.filter fun (x : Session) => x.tenant != tenant
      releases := k.releases.filter fun x => x.1 != tenant }.remeasure).resumeHalted tenant
  else s

/-- A session opens, in the place of an earlier one of that tenant. -/
def State.openSession (s : State) (x : Session) : State :=
  let k := s.keystone
  s.setKeystone { k with sessions := (k.sessions.filter fun (y : Session) => y.tenant != x.tenant) ++ [x] }.remeasure

/-- A die held in reset at boot is logged once the hub runs (R416). -/
def State.holdDie (s : State) (d : Nat) : State :=
  let y := s.sys
  if h : d < 4 then (s.setSys { y with cdie := y.cdie.set d .held h }).logSystem 12 2 d
  else if h : d - 4 < 6 then (s.setSys { y with hdie := y.hdie.set (d - 4) .held h }).logSystem 12 2 d
  else s

/-- A die, in TTRIP order, is held in reset (R416). -/
def State.dieHeld (s : State) (d : Nat) : Bool :=
  if d < 4 then s.sys.cdie.toList[d]? == some .held else s.sys.hdie.toList[d - 4]? == some .held

/-- Memory when every cache of the module is lost without write-back: of a line of host memory that the module has modified the host's older
value stands (R397). -/
def State.unwritten (s : State) : Memory :=
  s.hub.snoop.foldl (fun m e => if e.2.owned then m.writeLe (128 * e.1) 128 e.2.older.toNat else m) s.mem

/-- What a reset of the compute dies, home dies and hub without write-back leaves (R349): memory but for the scratchpads, the error
log, the counters and the system page, Keystone, a power trip that is pending (R417) and the trained CXL links. -/
def State.resetDies (s : State) : State :=
  { State.reset with
    time := s.time
    mem := s.unwritten.filter fun c => !isScratch c.1
    homes := { Homes.reset with lineKeys := s.homes.lineKeys }
    hub := { Hub.reset with hdmBase := s.hub.hdmBase, fwwin := s.hub.fwwin, fwdropped := s.hub.fwdropped, emptySince := s.time }
    coursing := { Coursing.reset with began := s.time }
    keystone := s.keystone
    sys := { s.sys with
      retraining := [], missedBeats := [], mcuHeld := false, alarm := false, skews := [], modDown := 0, modFails := []
      cdie := Vector.replicate 4 .running, hdie := Vector.replicate 6 .running }
    power := { Power.reset with dieDuty := s.power.dieDuty, tripPending := s.power.tripPending, duty := s.power.duty }
    agenda := s.agenda, cur := s.cur, eventTurn := s.eventTurn, free := s.free, ids := s.ids, replies := s.replies }

/-- Entry to device debug (R349): every key slot and TKEY is cleared, the dies are reset, and confidentiality is off until the next
package reset; the dies are released again, but for those whose images, unchanged since they were last measured, fail their check again
(DEDUCED, log entry 34), and the entry is logged (R418). -/
def State.enterDeviceDebug (s : State) (notAfter : Nat) : State :=
  let k := s.keystone
  let held := (List.range 10).filter s.dieHeld
  let gen (i : Nat) : KeySlot := { gen := (SMap.get KeySlot.reset k.keys i).gen + 1, filled := false, cleared := true }
  let s := s.setKeystone { k with
    keys := (List.range 2048).map fun i => (i, gen i)
    tkey := [], conf := false, sessions := [], releases := [] }
  held.foldl State.holdDie ((s.resetDies.openSession { tenant := none, notAfter := notAfter }).logSystem 15 3 0)

/-- The fields of a debug token (R346). -/
def tokenLevel (t : List Byte) : Nat := fieldN (leOfBytes (t.take 8)) 0 8
def tokenTenant (t : List Byte) : Nat := fieldN (leOfBytes (t.take 8)) 16 6
def tokenDevid (t : List Byte) : List Byte := (t.drop 8).take 32
def tokenNonce (t : List Byte) : List Byte := (t.drop 40).take 32
def tokenNotAfter (t : List Byte) : Nat := leOfBytes ((t.drop 72).take 8)
def tokenSig (t : List Byte) : List Byte := t.drop 80

/-- The first 32 bytes of the digest of the device identity public key. -/
def deviceId : List Byte := bytesOfLe 32 (Config.shake256 Config.identityKey).toNat

/-- The signature that the lifecycle asks for (R354): none for tenant debug in the open lifecycle, and none for device debug
outside the locked one. -/
def Keystone.signed (k : Keystone) (t : List Byte) : Bool :=
  let check (key : List Byte) : Bool := Config.signatureValid key (t.take 80) (tokenSig t) && tokenDevid t == deviceId
  if tokenLevel t = 1 then
    k.lifecycle == .isOpen || (match SMap.find k.dbgKeys (tokenTenant t) with | some key => check key | none => false)
  else k.lifecycle != .locked || check Config.vendorRoot

/-- In the open lifecycle the hypervisor alone opens tenant debug (R354) (DEDUCED, log entry 34). -/
def Keystone.mayOpen (k : Keystone) (t : List Byte) : Bool :=
  !(k.lifecycle == .isOpen && tokenLevel t == 1) || k.requester == some (.inl .hypervisor)

/-- DBGAUTH: the nonce serves this token and no other. -/
def execDbgauth (s : State) : Out :=
  let tok (k : Keystone) : List Byte := k.args 0 29872
  s.runCommand 0x21 29872 (fun k => .debugger (if tokenLevel (tok k) = 1 then some (tokenTenant (tok k)) else none)) fun k =>
    let t := tok k
    let s := s.setKeystone { k with nonce := none }
    if tokenLevel t ≠ 1 ∧ tokenLevel t ≠ 2 then s.mbReply 4 []
    else if !k.mayOpen t then s.mbReply 3 []
    else if k.nonce ≠ some (tokenNonce t) ∨ k.signed t = false then s.mbReply 2 []
    else if tokenLevel t = 1 then
      (s.openSession { tenant := some (tokenTenant t), notAfter := tokenNotAfter t }).mbReply 0 []
    else (s.enterDeviceDebug (tokenNotAfter t)).mbReply 0 []

/-- DBGEND: the tenant's session ends and its halted strands resume. -/
def execDbgend (s : State) : Out :=
  s.runCommand 0x22 1 (fun k => .debugger (some (k.arg 0 1))) fun k =>
    if 64 ≤ k.arg 0 1 then s.mbReply 4 [] else (s.endSession (some (k.arg 0 1))).mbReply 0 []

/-- `sr.time` passes NOTAFTER and the session ends (R346): that of a tenant, or of device debug for 64. A step of its strands is completed
first (R418). -/
def execDebugSessionExpiry (tenant : Nat) (s : State) : Out :=
  let t := if tenant < 64 then some tenant else none
  let stepping := s.strands.any fun e => e.2.halt == .stepping && (t.isNone || t == some (s.tenantOf e.2))
  match s.keystone.sessions.find? fun (x : Session) => x.tenant == t with
  | some x => if stepping then .next s else .next ({ s with time := max s.time (x.notAfter + 1) }.endSession t)
  | none => .next s

/-! ### Lifecycle and confidentiality (R353, R354) -/

/-- LIFECYCLE moves one way: open to locked at once, locked to decommissioned at the next package reset, with CONF 0. -/
def execLifecycle (s : State) : Out :=
  s.runCommand 0x30 1 (fun _ => .manager) fun k =>
    let target := k.arg 0 1
    if 2 < target then s.mbReply 4 []
    else if target = 1 && k.lifecycle == .isOpen then (s.setKeystone { k with lifecycle := .locked }).mbReply 0 []
    else if target = 2 && k.lifecycle == .locked then
      (s.setKeystone { k with decommission := true, confNext := false }).mbReply 0 []
    else s.mbReply 3 []

/-- CONF takes effect at the next package reset; CONF 1 is for the locked lifecycle. -/
def execConf (s : State) : Out :=
  s.runCommand 0x31 1 (fun _ => .manager) fun k =>
    match k.arg 0 1 with
    | 0 => (s.setKeystone { k with confNext := false }).mbReply 0 []
    | 1 =>
      if k.lifecycle = .locked ∧ k.decommission = false then (s.setKeystone { k with confNext := true }).mbReply 0 []
      else s.mbReply 3 []
    | _ => s.mbReply 4 []

/-! ### Off and on (R337, R350, R355, R416, R417) -/

/-- The module goes off: nothing is kept but Keystone's fuses and nonvolatile store, the cause among it
(DESIGN CHOICE, log entry 19). -/
def State.powerDown (s : State) (cause : Nat) : State :=
  let k := s.keystone
  { State.reset with
    time := s.time
    mem := s.unwritten.filter fun c => isHostMem c.1
    keystone := { Keystone.reset with
      lifecycle := k.lifecycle, decommission := k.decommission, confNext := k.confNext, shutcause := BitVec.ofNat 8 cause }
    power := { Power.reset with off := true }
    agenda := s.agenda, cur := s.cur, eventTurn := s.eventTurn, free := s.free, ids := s.ids, replies := s.replies }

/-- Module power is removed (R350). -/
def execPowerRemoved (s : State) : Out := if s.power.off then .next s else .next (s.powerDown 0)

/-- The image of a die, in TTRIP order (0 to 3 compute, 4 to 9 home, 10 hub, 11 Keystone), and the measurement block of it (R338). -/
def imageBlock (d : Nat) : Nat := if d = 11 then 0 else if d = 10 then 1 else if 4 ≤ d then 2 else 3

/-- The image that a die presents at boot: the vendor's, unless `images` names another. -/
def imageOf (images : Images) (d : Nat) : List Byte :=
  match images.find? fun x => x.1 == d with
  | some x => x.2
  | none => Config.image (imageBlock d)

/-- The checks of R337 on the image that a die presents: its signature, and its digest against the signed manifest. -/
def imagePasses (images : Images) (d : Nat) : Bool :=
  let x := imageOf images d
  Config.signatureValid Config.vendorRoot x (Config.imageSignature (imageBlock d))
    && Config.shake256 x == Config.manifestDigest (imageBlock d)

/-- The measurement blocks once the images of the dies listed have been measured in their order: of each block the digest of the first
image that failed, and else of the last (R338, R416) (DESIGN CHOICE, log entry 19). -/
def measureImages (images : Images) (order : List Nat) (m : SMap (BitVec 512)) : SMap (BitVec 512) :=
  (List.range 4).foldl (fun m b =>
    let ds := order.filter fun d => imageBlock d == b
    match (match ds.find? fun d => !imagePasses images d with | some d => some d | none => ds.getLast?) with
    | some d => m.put (b + 1) (Config.shake256 (imageOf images d))
    | none => m) m

/-- The order of R337: Keystone, the hub, home dies h0 to h5, compute dies c0 to c3. -/
def bootOrder : List Nat := [11, 10, 4, 5, 6, 7, 8, 9, 0, 1, 2, 3]

/-- Power-on (R337): Keystone checks the images in order and releases the dies whose checks succeed; a failing Keystone or hub releases
none (R416). The lifecycle and CONF that were pending take effect (DESIGN CHOICE, log entry 19). -/
def execPowerOn (images : Images) (s : State) : Out :=
  if !s.power.off then .next s
  else
    let k := s.keystone
    let order := if !imagePasses images 11 then [11] else if !imagePasses images 10 then [11, 10] else bootOrder
    let k := { k with
      lifecycle := if k.decommission then .decommissioned else k.lifecycle
      decommission := false, conf := k.confNext, meas := measureImages images order k.meas }
    let s := s.setKeystone k.remeasure
    if order.length < 12 then .next s
    else
      let s := { s with time := 0 }
      let s := s.setPower { s.power with off := false }
      let s := s.setHub { s.hub with emptySince := 0 }
      .next ((order.drop 2).foldl (fun s d => if imagePasses images d then s else s.holdDie d) s)

end Sys2Proof.Machine
end

