-- ==== Sys2Proof/Machine/Errors.lean ====
section
/-! DEFINITION. Hardware errors: private state, patrol and structure errors, the UCIe modules, the loss of dies, the time base, the
watchdog, and the page-table walkers (spec/13_traps_context.md R320, R323; spec/22_faults_memory.md R383 to R402;
spec/23_faults_system.md R405 to R410, R415). -/

namespace Sys2Proof.Machine

/-! ### Page-table walks -/

/-- A walker walks the table on a TLB miss of a quad, once no host holds what it reads (R134); only a successful translation is held (R320,
R323). -/
def execPageWalk (agent asid va : Nat) (s : State) : Out :=
  let held := SMap.get [] s.qtlb agent
  if held.any fun e => e.covers asid va then .next s
  else
    match if (s.walkHeld asid va).isSome then .error .invalid else s.walk asid va with
    | .ok (l, e) =>
      let t : TlbEntry := { asid := asid, level := l, page := va / 2 ^ pageBits l, entry := BitVec.ofNat 64 e }
      .next { s with qtlb := s.qtlb.set [] agent (t :: held) }
    | .error _ => .next (match s.walkHeld asid va with | some p => (s.recallLines [lineOf p]).1 | none => s)

/-! ### Private state (R386) -/

/-- An event of private state: its counters and its log record. -/
def State.countPrivate (s : State) (struct agent tenant : Nat) : State :=
  ((s.count1 (memCounter tenant 0x20)).count1 (structCounter struct 1)).logEvent 0 struct 4 agent tenant

/-- An error in a register of the strand in a slot. -/
def State.strandError (s : State) (slot : Nat) (f : State → Strand → State) : State :=
  match s.strandAt slot with
  | none => s
  | some st => (f s st).countPrivate 10 (agentOf (coreOf slot)) (s.tenantOf st)

/-- Frame i of a window stack in local store lies in a piece: 64 bytes each, from the strand's first unit. -/
def Strand.clearFrames (st : Strand) (piece : Nat) : Strand :=
  { st with ls := st.ls.zipIdx.map fun e => if (4096 * st.lsbase + 64 * e.2) / 128 = piece then 0 else e.1 }

/-- The strand's allocation of local store covers a piece. -/
def Strand.coversPiece (st : Strand) (piece : Nat) : Bool :=
  decide (4096 * st.lsbase ≤ 128 * piece) && decide (128 * piece < 4096 * (st.lsbase + st.lslen))

/-- A 128-byte piece of local store is zeroed, and the strand whose range covers it is flagged. -/
def State.localError (s : State) (core piece : Nat) : State :=
  let base := 2 ^ 18 * core + 128 * piece
  let s := { s with localMem := s.localMem.filter fun e => !(decide (base ≤ e.1) && decide (e.1 < base + 128)) }
  match s.strands.find? fun e => coreOf e.1 == core && e.2.coversPiece piece with
  | some (slot, st) => (s.setStrand slot ((st.clearFrames piece).setLost 1)).countPrivate 9 (agentOf core) (s.tenantOf st)
  | none => s.countPrivate 9 (agentOf core) ((s.holder core).getD 0)

/-- An error in private state zeroes it and flags the owner; an error in the program counter or a special register ends the strand. -/
def execPrivateStateError (target : PrivateTarget) (s : State) : Out :=
  match target with
  | .scalar slot r => .next (s.strandError slot fun s st => s.setStrand slot ({ (st.setG r 0).setLost 1 with rrec := st.rrec }))
  | .vector slot r => .next (s.strandError slot fun s st =>
      (if r.toNat < st.vcount then s.setV slot st r.toNat 0 else s).setStrand slot (st.setLost 1))
  | .predicates slot => .next (s.strandError slot fun s st => s.setStrand slot ({ st with pw := 0 }.setLost 1))
  | .mask slot m => .next (s.strandError slot fun s st => s.setStrand slot ((st.setM m 0).setLost 1))
  | .loopCounter slot n => .next (s.strandError slot fun s st => s.setStrand slot ((st.setLc n 0).setLost 1))
  | .special slot => .next (s.strandError slot fun s st => s.endStrand slot st 0x80)
  | .localStore core piece => .next (if core < 768 ∧ piece < 2048 then s.localError core piece else s)
  | .accumulator a bank row col =>
    if a < 192 ∧ bank < 4 ∧ row < 128 ∧ col < 128 then
      .next (((s.setAcc a bank row col 0).raiseBank a bank lostFlag).countPrivate 11 a ((s.quadHolder a).getD 0))
    else .next s
  | .settCell a cell =>
    if a < 192 ∧ cell < 16384 then
      let q := s.quadAt a
      let c := s.getCell a cell
      let s := { s with sett := s.sett.set SettCell.reset (settKey a cell) { c with pad := true, bits := 0 } }
      .next ((s.setQuad a { q with sett := { q.sett with lostLatch := true } }).countPrivate 12 a ((s.quadHolder a).getD 0))
    else .next s

/-! ### Errors found in the structures (R383 to R402) -/

/-- A corrected error: it changes no value, it counts for the tenant whose request read the data (R399), and every 256th of a structure is
logged with KIND 0 (R401) (DEDUCED, log entry 21). -/
def State.corrected (s : State) (struct pa agent : Nat) (finder : Option Nat) : State :=
  let s := s.count1 (structCounter struct 0)
  let s := match finder with | some t => s.count1 (memCounter t 0) | none => s
  if (s.counterAt (structCounter struct 0)).count.toNat % 256 = 0 then s.logEvent pa struct 0 agent (finder.getD 0) else s

/-- A copy dropped and fetched again. -/
def State.refetched (s : State) (struct pa agent : Nat) : State := (s.count1 (structCounter struct 1)).logEvent pa struct 1 agent 0

/-- The horizon and stamp set of a line repaired (R393): the floors bound every horizon and stamp that the set may have held. -/
def State.repairHorizons (s : State) (line : Nat) : State :=
  let k := horizonSetOf line
  let slice := sliceOf (128 * line)
  let stamp := ((s.homes.stamps.filter fun e => decide (e.1 < 2 ^ 45) && sliceOf (128 * e.1) == slice).map fun e => e.2.toNat).foldl max 0
  let s := s.setHomes { s.homes with
    floors := s.homes.floors.set 0 k (s.time + 8192)
    stamps := s.homes.stamps.set 0 (2 ^ 47 + k) (BitVec.ofNat 64 stamp) }
  s.count1 (structCounter 3 1)

/-- A quad copy of a line cannot be corrected (R383): a clean one is dropped and refetched, an owned one loses the line, and of host
memory the older value stands (R397). -/
def State.copyError (s : State) (struct line agent : Nat) (finder : Option Nat) : State :=
  if isHostMem (128 * line) then
    let e := s.snoopAt line
    if s.hostModified line e then
      let s := { s with mem := s.mem.writeLe (128 * line) 128 e.older.toNat }
      (((s.dropAllCopies line).setSnoop line SnoopEntry.reset).count1 (structCounter struct 1)).logEvent (128 * line) struct 2
        (e.agents.headD 0) 0
    else (s.dropAllCopies line).refetched struct (128 * line) agent
  else
    let owner := match s.tileOf line with
      | some (_, t) => if t.own && t.present then some t.holder else none
      | none => (s.dirAt (regionOf line)).ownerOf (line % 4)
    match owner with
    | some a => s.loseLine line struct a finder
    | none => (s.dropAllCopies line).refetched struct (128 * line) agent

/-- A scratchpad piece becomes lost (R385), with KIND 3. -/
def State.losePiece (s : State) (pa agent : Nat) (finder : Option Nat) : State :=
  let line := lineOf pa
  let s := s.setHomes { s.homes with lost := if s.homes.lost.contains line then s.homes.lost else line :: s.homes.lost }
  let s := { s with mem := s.mem.writeLe (128 * line) 128 0 }
  let s := match finder with | some t => s.count1 (memCounter t 0x18) | none => s
  (s.count1 (structCounter 8 1)).logEvent (128 * line) 8 3 agent (finder.getD 0)

/-- An uncorrectable error in a structure at an address (R383). -/
def State.uncorrectable (s : State) (struct pa agent : Nat) (finder : Option Nat) : State :=
  let line := lineOf pa
  match struct with
  | 0 => if isDevice pa && !s.isLost pa then s.loseLine line 0 agent finder else s
  | 1 =>
    if !isDevice pa || s.isLost pa then s
    else
      match SMap.find s.homes.llc line with
      | none => s
      | some c =>
        if c.modified then s.loseLine line 1 agent finder
        else (s.setHomes { s.homes with llc := s.homes.llc.erase line }).refetched 1 pa agent
  | 2 => if isDevice pa then s.repairDirectory (regionOf line) else s
  | 3 => if isDevice pa then s.repairHorizons line else s
  | 4 =>
    match s.tileOf line with
    | some (tid, _) => (s.dissolve tid).count1 (structCounter 4 1)
    | none => s
  | 5 => s.copyError 5 line agent finder
  | 6 => s.copyError 6 line agent finder
  | 7 => ({ s with
      icache := s.icache.filter fun e => e.1 % 2 ^ 46 != pa / 64
      cores := (s.cores.map fun (e : Nat × CoreState) =>
        (e.1, { e.2 with loopBuf := e.2.loopBuf.filter (·.1 != pa / 64) })).filter fun e => e.2 != CoreState.reset } : State).refetched 7 pa agent
  | 8 => if isScratch pa then s.losePiece pa agent finder else s
  | 13 =>
    let keep (e : TlbEntry) : Bool := pteOut e.entry.toNat / 2 ^ (pageBits e.level - 16) != pa / 2 ^ pageBits e.level
    { s with
      utlb := (s.utlb.map fun (e : Nat × List TlbEntry) => (e.1, e.2.filter keep)).filter fun e => !e.2.isEmpty
      qtlb := (s.qtlb.map fun (e : Nat × List TlbEntry) => (e.1, e.2.filter keep)).filter fun e => !e.2.isEmpty }.count1 (structCounter 13 1)
  | 14 =>
    -- the hub recalls the line, writing back, and rebuilds the entry empty (R397)
    if isHostMem pa then ((s.dropAllCopies line).setSnoop line SnoopEntry.reset).count1 (structCounter 14 1) else s
  | _ => s

/-- A read of a structure finds an error: patrol, or the request of a tenant that reads there, corrects what can be corrected and marks lost
what cannot (R383, R402). -/
def execPatrolScrub (struct : BitVec 4) (pa : Nat) (check : Check) (s : State) : Out :=
  let finder := check.finder.filter (· < 64)
  .next (if check.uncorrectable then s.uncorrectable struct.toNat pa check.agent finder else s.corrected struct.toNat pa check.agent finder)

/-! ### UCIe modules (R403, R405, R406) -/

/-- The number of a module at its other end. -/
def otherEnd (m : Nat) : Nat :=
  if m < 64 then
    let d := m / 16
    let i := m % 16
    if i < 12 then 76 + 8 * (i / 2) + 2 * d + i % 2
    else if i < 14 then 124 + 2 * d + (i - 12)
    else if i = 14 then 16 * ((d + 1) % 4) + 15
    else 16 * ((d + 3) % 4) + 14
  else if m < 76 then m + 68
  else if m < 124 then 16 * ((m - 76) % 8 / 2) + 2 * ((m - 76) / 8) + (m - 76) % 2
  else if m < 132 then 16 * ((m - 124) / 2) + 12 + (m - 124) % 2
  else m - 68

/-- The number by which the model holds a module: the lower of its two. -/
def moduleOf (m : Nat) : Nat := min m (otherEnd m)

def State.moduleDown (s : State) (m : Nat) : Bool := s.sys.modDown.getLsbD m

/-- The modules of a compute die to the hub and to the home dies, by pairs; of a home die likewise. -/
def computePairs (d : Nat) : List (List Nat) := (List.range 7).map fun p => [16 * d + 2 * p, 16 * d + 2 * p + 1]
def homeModules (h : Nat) : List Nat := [64 + 2 * h, 65 + 2 * h] ++ (List.range 8).map fun i => 76 + 8 * h + i

/-- A CRC error replays a flit: only timing changes (R405). -/
def execFlitReplay (_ : Nat) (s : State) : Out := .next s

/-- A module whose retry fails retrains: each end counts it, and KIND 11, SUB 0 is logged (R405). -/
def execModuleRetrain (m : Nat) (s : State) : Out :=
  let k := moduleOf m
  if 144 ≤ m || s.moduleDown m || s.sys.retraining.contains k then .next s
  else
    let s := s.setSys { s.sys with retraining := k :: s.sys.retraining }
    .next (((s.count1 (sysCounter (0x100 + 8 * m))).count1 (sysCounter (0x100 + 8 * otherEnd m))).logSystem 11 0 m)

/-! ### Loss of a compute die (R407 to R409) -/

/-- Landings in flight from the die: whether each has landed is not architectural (R408)
(DESIGN CHOICE, log entry 22). -/
def State.landInFlight (s : State) (d : Nat) : State :=
  let quads := s.quads.filter fun e => dieOf e.1 == d
  let s := (quads.flatMap fun e => e.2.cmds.flatMap fun c => c.flight.map fun p => (e.1, c.seq, p)).foldl (fun s x =>
    if Config.inFlightLanded x.1 (2 ^ 20 * x.2.1 + x.2.2) then
      match execHodPieceLand x.1 x.2.1 x.2.2 s with | .next s' => s' | _ => s
    else s) s
  let cores := s.cores.filter fun (e : Nat × CoreState) => e.1 / 192 == d
  (cores.flatMap fun e => (e.2.queue.filter fun a => a.kind == .store).flatMap fun a => a.pieces.map fun p => (e.1, a, p)).foldl
    (fun s x =>
      if !x.2.2.done && !isControl x.2.2.pa && Config.inFlightLanded (1000 + x.1) x.2.1.id then (s.storePiece x.1 x.2.1 x.2.2 true true).1 else s) s

/-- The launches that have a strand, a saved strand or an uncompleted engine command on a die. -/
def State.launchesOn (s : State) (d : Nat) : List Nat :=
  let live := (s.strands.filter fun e => dieOf (agentOf (coreOf e.1)) == d).map fun e => e.2.lid
  let moving := (s.cores.filter fun e => e.1 / 192 == d).flatMap fun (e : Nat × CoreState) => e.2.inbox.map fun p => p.strand.lid
  let saved := (s.coursing.savedCores.filter fun e => e.1 % 768 / 192 == d).flatMap fun (e : Nat × SavedCore) =>
    (e.2.strands.map fun x => x.2.lid) ++ e.2.packets.map fun p => p.strand.lid
  let cmds := (s.quads.filter fun e => dieOf e.1 == d).flatMap fun (e : Nat × QuadState) => e.2.cmds.map (·.lid)
  let savedCmds := (s.coursing.savedQuads.filter fun e => e.1 % 192 / 48 == d).flatMap fun (e : Nat × SavedQuad) => e.2.cmds.map (·.lid)
  (live ++ moving ++ saved ++ cmds ++ savedCmds).dedup

/-- Everything that the die held is gone, and what Lintel saved from it is never restored. -/
def State.forgetDie (s : State) (d : Nat) : State :=
  { s with
    strands := s.strands.filter fun e => dieOf (agentOf (coreOf e.1)) != d
    cores := s.cores.filter fun e => e.1 / 192 != d
    quads := s.quads.filter fun e => dieOf e.1 != d
    pool := s.pool.filter fun e => e.1 / 64 / 192 != d
    localMem := s.localMem.filter fun e => e.1 / 2 ^ 18 / 192 != d
    icache := s.icache.filter fun e => e.1 / 2 ^ 46 / 192 != d
    utlb := s.utlb.filter fun e => e.1 / 192 != d
    qtlb := s.qtlb.filter fun e => dieOf e.1 != d
    acc := s.acc.filter fun e => dieOf (e.1 / 2 ^ 16) != d
    sett := s.sett.filter fun e => dieOf (e.1 / 2 ^ 14) != d
    coursing := { s.coursing with
      savedCores := s.coursing.savedCores.filter fun e => e.1 % 768 / 192 != d
      savedQuads := s.coursing.savedQuads.filter fun e => e.1 % 192 / 48 != d } }

/-- A compute die is lost (R407, R408). -/
def State.loseCompute (s : State) (d : Nat) : State :=
  if h : d < 4 then
    if !s.dieUp d then s
    else
      let t := s.time
      let s := s.landInFlight d
      let s := (s.setSys { s.sys with cdie := s.sys.cdie.set d .lost h }).logSystem 12 0 d
      let s := ((List.range 48).map (48 * d + ·)).foldl (fun s a => s.dropAgent a 0) s
      let s := (s.launchesOn d).foldl (fun s lid =>
        (s.updLaunch lid fun l => { l with dieLost := some (l.dieLost.getD t), xcode := l.xcode ||| 0x80 }).killLaunch lid) s
      ((s.forgetDie d).recheckPending).refreshGang
  else s

/-! ### Loss of a home die (R410) -/

/-- A request that a lost home die held is answered as for a lost line (R387, R410): a host's read with zeros, and a write is discarded. -/
def State.answerGone (s : State) (line : Nat) (r : Request) : State :=
  match r.kind with
  | .getS => s.tellHost r.agent line
  | .getO _ => s.tellHost r.agent line
  | .homeWrite w => s.count1 (memCounter w.tenant 0x10)
  | .hostPut _ => s.count1 (memCounter 0 0x10)
  | _ => s

/-- A home die is lost: its window reads as lost, copies of the range are dropped, and its tiles are dissolved. -/
def State.loseHome (s : State) (h : Nat) : State :=
  if hh : h < 6 then
    let here (line : Nat) : Bool := window (128 * line) == h
    match s.homeState h with
    | .lost => s
    | .held => s
    | _ =>
      let s := s.setSys { s.sys with hdie := s.sys.hdie.set h .lost hh }
      let s := s.logSystem 12 1 (4 + h)
      let s := (s.homes.tiles.filter fun e => window e.2.base == h).foldl (fun s e =>
        let s := if e.2.present && e.2.own then e.2.lines.foldl (fun s l => s.loseLine l 4 e.2.holder none) s else s
        (s.unbind e.1 e.2).logEvent e.2.base 4 6 e.2.holder 0) s
      let owned := (s.homes.dir.filter fun e => window (512 * e.1) == h).flatMap fun e =>
        (List.range 4).filterMap fun i => (e.2.ownerOf i).map fun a => (4 * e.1 + i, a)
      let s := owned.foldl (fun s x => s.loseLine x.1 5 x.2 none) s
      let m := s.homes
      let asked := ((m.reqs.flatMap fun e => e.2.map fun r => (e.1, r)) ++ m.ingress).filter fun e => here e.1
      let s := s.setHomes { m with
        dir := m.dir.filter fun e => window (512 * e.1) != h
        reqs := m.reqs.filter fun e => !here e.1
        probes := m.probes.filter fun p => !here p.line
        answers := m.answers.filter fun p => !here p.line
        ingress := m.ingress.filter fun e => !here e.1
        served := m.served.filter fun e => !here e.line
        llc := m.llc.filter fun e => !here e.1 }
      let s := asked.foldl (fun s x => s.answerGone x.1 x.2) s
      { s with copies := s.copies.filter fun e => !here (e.1 % 2 ^ 45) }
  else s

/-- A die in TTRIP order is lost. -/
def State.loseDie (s : State) (d : Nat) : State := if d < 4 then s.loseCompute d else s.loseHome (d - 4)

/-- A die runs, degraded or not. -/
def State.dieRuns (s : State) (d : Nat) : Bool :=
  if d < 4 then s.dieUp d
  else match s.homeState (d - 4) with | .running => true | .degraded => true | _ => false

/-- A die with a pair, or a home die with a module to the hub, out of service is degraded; with none left it is lost (R406, R407,
R410). -/
def State.judgeLinks (s : State) : State :=
  let s := (List.range 4).foldl (fun (s : State) d =>
    let down := (computePairs d).map fun p => p.all s.moduleDown
    if h : d < 4 then
      if down.all id then s.loseCompute d
      else if down.any id && s.dieUp d then s.setSys { s.sys with cdie := s.sys.cdie.set d .degraded h }
      else s
    else s) s
  (List.range 6).foldl (fun (s : State) h =>
    if hh : h < 6 then
      if (homeModules h).all s.moduleDown then s.loseHome h
      else if (s.moduleDown (64 + 2 * h) || s.moduleDown (65 + 2 * h)) && s.dieRuns (4 + h) then
        s.setSys { s.sys with hdie := s.sys.hdie.set h .degraded hh }
      else s
    else s) s

/-- A retraining module takes its traffic again, or has failed once more; after three failures in a row it is out of service until
package reset (R405). -/
def execUcieRetrainComplete (m : Nat) (good : Bool) (s : State) : Out :=
  let k := moduleOf m
  if !s.sys.retraining.contains k then .next s
  else
    let y : Sys := { s.sys with retraining := s.sys.retraining.filter (· != k) }
    let n : Nat := SMap.get 0 y.modFails k + 1
    if good then .next (s.setSys { y with modFails := y.modFails.erase k })
    else if n < 3 then .next (s.setSys { y with modFails := y.modFails.put k n })
    else
      let down := y.modDown ||| (1#144 <<< m) ||| (1#144 <<< otherEnd m)
      .next ((s.setSys { y with modFails := y.modFails.erase k, modDown := down }).logSystem 11 1 m).judgeLinks

/-- Every 16,000 cycles the hub exchanges beats with the dies; a die that misses four in a row is lost (R407). -/
def execDieStatusBeat (answered : List Nat) (s : State) : Out :=
  let n := s.sys.beats + 1
  let s := { s with time := max s.time (16000 * n) }
  let s := s.setSys { s.sys with beats := n }
  .next ((List.range 10).foldl (fun (s : State) d =>
    if !s.dieRuns d then s
    else
      let m := if answered.contains d then 0 else SMap.get 0 s.sys.missedBeats d + 1
      let s := s.setSys { s.sys with missedBeats := s.sys.missedBeats.set 0 d m }
      if m = 4 then s.loseDie d else s) s)

/-- An uncorrectable error strikes a compute die's dispatcher or barrier network (R407). -/
def execDispatcherUncorrectableError (die : Nat) (s : State) : Out := .next (s.loseCompute die)

/-! ### Time base and watchdog (R394, R415) -/

/-- Every 1,600 cycles the hub compares the dies' counters with its own; the differences are given. A difference of more than 4
cycles raises the lease timing alarm, which stands until the counters are resynchronised
(DESIGN CHOICE, log entry 23). -/
def execTimeCompare (skews : List Int) (s : State) : Out :=
  let n := s.sys.compares + 1
  let s := { s with time := max s.time (1600 * n) }
  let far := (0 :: skews).any fun x => (0 :: skews).any fun y => decide (4 < x - y)
  let y := { s.sys with compares := n, skews := skews.zipIdx.filterMap fun e => if e.1 = 0 then none else some (e.2, e.1) }
  if far && !y.alarm then
    .next (((s.setSys { y with alarm := true }).count1 (structCounter 15 1)).logEvent 0 15 9 0 0)
  else .next (s.setSys y)

/-- The counters are resynchronised: the alarm ends. -/
def execCounterResynchronisation (s : State) : Out := .next (s.setSys { s.sys with alarm := false, skews := [] })

/-- Firmware writes Keystone's watchdog. -/
def execWatchdogKick (s : State) : Out := .next (if s.sys.mcuHeld then s else s.setSys { s.sys with wdogAt := s.time })

/-- After 160,000,000 cycles without a write the management core is reset; it is released when its image passes its check (R415). -/
def execWatchdogExpiry (images : Images) (s : State) : Out :=
  if s.sys.mcuHeld then .next s
  else
    let s := { s with time := max s.time (s.sys.wdogAt + 160000000) }
    let s := s.setSys { s.sys with mcuHeld := !imagePasses images 10, wdogAt := s.time }
    .next ((s.count1 (sysCounter 0x20)).logSystem 15 0 0)

end Sys2Proof.Machine
end

