-- ==== Sys2Proof/Machine/Perform.lean ====
section
/-! DEFINITION. The rows that perform accesses: those of strands, out of the queue of their core, and those of the harts, peers and Hods
outside the compute dies (spec/06_ordering.md R139 to R151; spec/14_host_peer.md R328 to R331; spec/01_organisation.md R27). -/

namespace Sys2Proof.Machine

/-! ### Parties outside the compute dies -/

/-- The line of an operation is there: in the party's cache, or free at the home for a party without one; a scratchpad serves the tenant. -/
def State.partyReady (s : State) (p : Nat) (op : PartyOp) : Bool :=
  let tenant := s.partyTenant p op
  if isDevice op.pa || isHostMem op.pa then
    if hasAgent p then s.lineReady (agentOf (partyCore p)) op.pa tenant (s.partyKey p op) op.kind.writes
    else s.homeQuiet (lineOf op.pa) op.kind.writes
  else if isScratch op.pa then
    s.quadServes tenant (op.pa / 2 ^ 24 % 256) (op.pa % 2 ^ 24) op.bytes false (!op.kind.writes) (match op.kind with | .store _ => true | _ => false)
  else s.carried op.pa

/-- The line that an operation lacks is asked for (R136): by the party's agent, or at the home. -/
def State.partyAsk (s : State) (p : Nat) (op : PartyOp) : State :=
  let tenant := s.partyTenant p op
  let key := s.partyKey p op
  if !(isDevice op.pa || isHostMem op.pa) then s
  else if hasAgent p then
    s.askLine (partyCore p) (agentOf (partyCore p)) tenant key op.pa (if op.kind.writes then .getO false else .getS)
  else if op.kind.writes then
    let w : HomeStore := { pa := op.pa, bytes := 0, val := 0, tenant := tenant, key := key, whole := false }
    if s.anyReq (lineOf op.pa) fun r => r.kind == .homeWrite w then s else s.homeWriteLine w
  else s.askHome (lineOf op.pa) tenant key op.lease

/-- The value that an operation reads; lost data is zero and is counted for the tenant (R387). -/
def State.partyRead (s : State) (p : Nat) (op : PartyOp) (ext : List Byte) : State × Nat :=
  let tenant := s.partyTenant p op
  let key := s.partyKey p op
  if isControl op.pa then (s, s.regRead op.pa op.bytes)
  else if isPeer op.pa then (s, match (takeBytes op.bytes ext).1 with | some v => v | none => (s.readPa op.pa key op.bytes).1)
  else
    let r := s.readPa op.pa key op.bytes
    let s := if r.2 then s.countLostRead tenant key op.pa else s
    ((s.touchCopy (partyCore p) (agentOf (partyCore p)) op.pa false), r.1)

/-- Bytes written by an operation of a party with a cache, at a scratchpad or at a register. -/
def State.partyWrite (s : State) (p : Nat) (op : PartyOp) (v : Nat) : State :=
  let tenant := s.partyTenant p op
  if isControl op.pa then
    let who : Party := if isFirmware p then .firmware else if op.mode.high then .hypervisor else .hart p
    if partyWrites who op.pa then s.regWrite (.inl who) op.pa op.bytes v else s
  else if hasAgent p then
    (((s.touchCopy (partyCore p) (agentOf (partyCore p)) op.pa true).storeAt tenant (s.partyKey p op) op.pa op.bytes v (op.bytes == 128)).1)
  else s.homeWrite tenant (s.partyKey p op) op.pa op.bytes v (op.bytes == 128)

/-- The hart's reservations end. -/
def State.endReservation (s : State) (p : Nat) : State :=
  let a := agentOf (partyCore p)
  { s with copies := s.copies.map fun e => if e.1 / 2 ^ 45 = a then (e.1, { e.2 with reserved := e.2.reserved &&& ~~~(1#4 <<< (p % 4)) }) else e }

/-- The hart holds a reservation on a line, while its cluster holds the line (R329). -/
def State.reserves (s : State) (p line : Nat) : Bool :=
  match s.copyAt (agentOf (partyCore p)) line with
  | some c => c.reserved.getLsbD (p % 4)
  | none => false

/-- The hart reserves the line of its load. -/
def State.reserve (s : State) (p line : Nat) : State :=
  let a := agentOf (partyCore p)
  let s := s.endReservation p
  match s.copyAt a line with
  | some c => s.setCopy a line { c with reserved := c.reserved ||| (1#4 <<< (p % 4)) }
  | none => s

/-- A hart's acquire-release AMO takes its stamp from its cluster's clock (R150). -/
def State.partyStamp (s : State) (p : Nat) (op : PartyOp) : State :=
  if isHart p && op.aq && op.rl then
    let c := p / 4
    let ts := s.nextStamp (SMap.get (0 : Word) s.hub.clocks c) op.pa
    (s.setHub { s.hub with clocks := s.hub.clocks.set 0 c ts }).setHomes { s.homes with stamps := s.homes.stamps.set 0 (stampKey op.pa) ts }
  else s

/-- An operation of a party performed at its place. -/
def State.partyPerform (s : State) (p : Nat) (op : PartyOp) (ext : List Byte) : State × Nat :=
  match op.kind with
  | .load => s.partyRead p op ext
  | .fetch => s.partyRead p op ext
  | .store v => (s.partyWrite p op v, 0)
  | .amo k t v e =>
    let x := s.partyRead p op []
    let s := match (atomicResult k t x.2 (v % 2 ^ (8 * op.bytes)) (e % 2 ^ (8 * op.bytes))).1 with
      | some n => x.1.partyWrite p op n
      | none => x.1
    (s.partyStamp p op, x.2)
  | .reserve =>
    let x := s.partyRead p op []
    (x.1.reserve p (lineOf op.pa), x.2)
  | .conditional v => if s.reserves p (lineOf op.pa) then ((s.partyWrite p op v).endReservation p, 0) else (s.endReservation p, 1)
  | .fence _ _ _ _ => (s, 0)
  | .time => (s, s.time)
  | .tenant => (s, s.partyTenant p op)

/-- An operation of a party that its own order lets go on (R151): the access fault of one that the map does not allow (R329), the value of
the party's own store, or the access itself once its line is there. A store at the home is performed in its turn there. -/
def State.partyGo (s : State) (p : Nat) (earlier : List PartyOp) (op : PartyOp) (ext : List Byte) : State :=
  if op.kind.isCsr then s.partyDone p op.id (if op.kind == .tenant && op.mode != .m then .illegal else .value (s.partyPerform p op ext).2)
  else if !s.partyMay p op then s.partyDone p op.id (.fault op.kind.acc)
  else if isFirmware p && isHostMem op.pa && !s.windowed op then (s.dropFirmware op).partyDone p op.id (.value 0)
  else
    match partyForward earlier op with
    | some v => s.partyDone p op.id (.value v)
    | none =>
      let fails := match op.kind with | .conditional _ => !s.reserves p (lineOf op.pa) | _ => false
      let posted := match op.kind with | .store _ => !hasAgent p && !isScratch op.pa | _ => false
      if !(meeting earlier op).isEmpty then s
      else if fails || posted || s.partyReady p op then
        let x := s.partyPerform p op ext
        (x.1.useAnswer (agentOf (partyCore p)) (lineOf op.pa) op.kind.writes).partyDone p op.id (.value x.2)
      else s.partyAsk p op

/-- A row performs an operation of a party: STORE_PERFORMED those that write, LOAD_PERFORMED the others. A management core held in reset
does nothing (R415); a peer's waits while ENABLE is 0 (R333), and a fenced device's are not accepted (R413) (DEDUCED, log entry 22). -/
def State.partyStep (s : State) (p id : Nat) (write : Bool) (ext : List Byte) : State :=
  if p == 93 && s.sys.mcuHeld then s
  else if isPeerParty p && s.pod.fenced.getLsbD (p - 16) then s.dropOps p
  else if isPeerParty p && !s.pod.enable then s
  else match splitOp id (s.opsOf p) with
  | none => s
  | some (earlier, op) =>
    if op.kind.isFence || op.kind.writes != write || !mayFollow earlier op then s else s.partyGo p earlier op ext

/-! ### The rows -/

/-- The data of a load returns and is fixed, piece by piece; once whole it is written to the destination (R141). Lines that the quad
lacks are asked for. A core number of 768 and above stands for a party outside the compute dies. -/
def execLoadPerformed (core id : Nat) (pieces : List Nat) (ext : List Byte) (s : State) : Out :=
  if 768 ≤ core then .next (s.partyStep (partyOfCore core) id false ext)
  else match splitAccess id (s.coreAt core).queue with
  | none => .next s
  | some (earlier, a) =>
    if a.kind != .load || !a.mayBegin earlier then .next s
    else
      let r := s.performLoads core earlier a (picked pieces) 0 ((a.pieces.filter (·.done)).map fun p => lineOf p.pa) a.pieces ext
      let b : Access := { a with pieces := r.2.1, lost := r.2.2 }
      let s := ((r.1.useAnswers core a b).askLines core b).putAccess core b
      if b.complete then .next ((s.stampFor core b).deliver b (assemble b.pieces) 0) else .next s

/-- A store leaves the store queue and is performed at its serialisation point, piece by piece; an atomic is performed whole; a flush
completes when its write-back is performed (R140, R147, R251). -/
def execStorePerformed (core id : Nat) (pieces : List Nat) (s : State) : Out :=
  if 768 ≤ core then .next (s.partyStep (partyOfCore core) id true [])
  else match splitAccess id (s.coreAt core).queue with
  | none => .next s
  | some (earlier, a) =>
    if !a.mayBegin earlier then .next s
    else
      match a.kind with
      | .load => .next s
      | .fence => .next s
      | .store =>
        let w := s.storeWholeLines core earlier a
        let r := w.1.performStores core earlier { a with pieces := w.2 } (picked pieces) [] w.2
        let b : Access := { a with pieces := r.2.1, lost := r.2.2 }
        let s := ((r.1.useAnswers core a b).askLines core b).putAccess core b
        if b.complete then .next ((s.stampFor core b).deliver b 0 0) else .next s
      | .atomic op v e =>
        match a.pieces with
        | [p] =>
          if s.pieceReady core earlier a p then .next ((s.performAtomic core a op v e p).stampFor core a)
          else .next (s.askLines core a)
        | _ => .next s
      | .flush =>
        let out := a.pieces.any fun p => s.anyReq (lineOf p.pa) (Request.isPutO (agentOf core))
        if out then .next s else .next (s.putAccess core { a with pieces := [] })


end Sys2Proof.Machine
end

