-- ==== Sys2Proof/Machine/PodLinks.lean ====
section
/-! DEFINITION. The peer links of the pod: training, heartbeats, fences (spec/14_host_peer.md R332 to R336; spec/23_faults_system.md
R411 to R413). -/

namespace Sys2Proof.Machine

/-- A device leaves the pod barrier network (R412): its claims and those on their way are gone; a barrier that no other launch claims is
free, and of any other E stands, so that a phase that needs the device never flips. -/
def State.leaveBarriers (s : State) (device : Nat) : State :=
  let free (b : Barrier) : Barrier :=
    if b.remote.any fun x => x.1 == device then
      let b := { b with remote := b.remote.filter fun x => x.1 != device }
      if b.unclaimed then Barrier.reset else b
    else b
  { s.setPod { s.pod with claims := s.pod.claims.filter fun c => c.device != device } with
    barriers := (s.barriers.map fun e => (e.1, free e.2)).filter fun e => e.2 != Barrier.reset }

/-- A device is fenced here, and KIND 13, SUB 0 is logged (R335, R404): what it has asked for is not accepted, and the pod barriers exclude
it (R412, R413). -/
def State.fence (s : State) (device : Nat) : State :=
  if 64 ≤ device ∨ s.pod.fenced.getLsbD device then s
  else
    let s := (s.setPod { s.pod with fenced := s.pod.fenced ||| (1#64 <<< device) }).logSystem 13 0 device
    (s.dropOps (16 + device)).leaveBarriers device

/-- A link's beat is found missing at a crossing (R334, R335): at the third in a row its peer is silent, and is fenced. -/
def State.missBeat (s : State) (link : Nat) : State :=
  let n := (SMap.get (0 : BitVec 8) s.pod.missed link).toNat
  let s := s.setPod { s.pod with missed := s.pod.missed.set 0 link (BitVec.ofNat 8 (min (n + 1) 255)) }
  if n + 1 = 3 then
    (s.setPod { s.pod with silent := s.pod.silent ||| (1#8 <<< link) }).fence (SMap.get (0 : BitVec 6) s.pod.peer link).toNat
  else s

/-- At each 160,000-cycle crossing, heartbeats are sent and MISSED is counted (R334); a link that has once been trained counts a
beat missed while it retrains (R336). -/
def execHeartbeatCrossing (s : State) : Out :=
  let n := s.sys.crossings + 1
  let s := { s with time := max s.time (160000 * n) }
  let s := s.setSys { s.sys with crossings := n }
  if !s.pod.enable then .next s
  else
    let late := (List.range 8).filter fun l => (SMap.find s.pod.peer l).isSome && !s.pod.beat.getLsbD l
    let s := late.foldl State.missBeat s
    .next (s.setPod { s.pod with beat := 0 })

/-- A beat from the far end of a trained link resets MISSED (R334). -/
def execHeartbeatReceive (link : Nat) (s : State) : Out :=
  if s.pod.enable && decide (link < 8) && s.pod.up.getLsbD link then
    .next (s.setPod { s.pod with
      missed := s.pod.missed.set 0 link 0, silent := s.pod.silent &&& ~~~(1#8 <<< link), beat := s.pod.beat ||| (1#8 <<< link) })
  else .next s

/-- A fence broadcast arrives and its device is fenced here (R335). -/
def execFenceArrival (device : Nat) (s : State) : Out := .next (s.fence device)

/-- Clearing a FENCED bit ends the fence for this device (R413). -/
def execFenceClear (device : Nat) (s : State) : Out := .next (s.unfence (if device < 64 then 1#64 <<< device else 0))

/-- A peer link stops being trained and stops carrying beats (R336). -/
def execPeerLinkLoss (link : Nat) (s : State) : Out :=
  .next (if link < 8 then s.setPod { s.pod with up := s.pod.up &&& ~~~(1#8 <<< link) } else s)

/-- A peer link completes training, sets UP and records PEER (R333). -/
def execPeerLinkTrained (link peer : Nat) (s : State) : Out :=
  .next (if link < 8 then
    s.setPod { s.pod with up := s.pod.up ||| (1#8 <<< link), peer := s.pod.peer.put link (BitVec.ofNat 6 peer) } else s)

end Sys2Proof.Machine
end

