-- ==== Sys2Proof/Machine/Power.lean ====
section
/-! DEFINITION. Power and heat: the comparators, throttling, and the thermal shutdown (spec/15_trust_debug_power.md R345, R350 to
R352; spec/23_faults_system.md R417). Dies are numbered in TTRIP order: 0 to 3 compute, 4 to 9 home, 10 hub, 11 Keystone. -/

namespace Sys2Proof.Machine

/-- P1 (R350). -/
def Power.throttled (p : Power) : Bool := p.capen || p.tripPending

/-- The cap that R352 applies: CAPW, and no more than 2,600 W while a trip is pending (R417). -/
def Power.cap (p : Power) : Nat := if p.tripPending then min 2600 p.capw.toNat else p.capw.toNat

/-- A power sample in P1 (R352): the duty falls by 1/16 above the cap, down to 4/16, and rises below it. -/
def execPowerSample (watts : Nat) (s : State) : Out :=
  let p := s.power
  if !p.throttled then .next s
  else if p.cap < watts then .next (s.setPower { p with duty := max 4 (p.duty - 1) })
  else if watts < p.cap then .next (s.setPower { p with duty := min 16 (p.duty + 1) })
  else .next s

/-- The 1 ms average exceeds 2,900 W (R345): PTRIP is set, the trip stands pending, and KIND 15, SUB 2 is logged (R417). The package enters P1,
out of package idle too (DEDUCED, log entry 19). -/
def execPowerTrip (s : State) : Out :=
  .next ((s.setPower { s.power with ptrip := true, tripPending := true, idle := false, readyAt := none }).logSystem 15 2 0)

/-- After 10 ms below the cap the pending trip ends (R417). -/
def execPowerTripClear (s : State) : Out :=
  let p := s.power
  if p.tripPending then .next (s.setPower { p with tripPending := false, duty := if p.capen then p.duty else 16 })
  else .next s

/-- A die at 105 °C throttles to 4/16, with TTRIP set and KIND 15, SUB 1 logged (R345, R417). -/
def execThermalThrottleTrip (die : Nat) (s : State) : Out :=
  if die < 12 then
    .next ((s.setPower { s.power with
      ttrip := s.power.ttrip ||| (1#12 <<< die), dieDuty := s.power.dieDuty.put die 4 }).logSystem 15 1 die)
  else .next s

/-- A 115 °C trip turns the module off with no write-back; SHUTCAUSE records the die (R417). -/
def execThermalShutdown (die : Nat) (s : State) : Out :=
  if die < 12 && !s.power.off then .next (s.powerDown (1 + 16 * die)) else .next s

/-- A die's duty rises by 1/16 after 1 ms below 100 °C, up to the level that R352 allows (R417). -/
def execThrottleLift (die : Nat) (s : State) : Out :=
  match SMap.find s.power.dieDuty die with
  | none => .next s
  | some n =>
    .next (s.setPower { s.power with
      dieDuty := if s.power.duty ≤ n + 1 then s.power.dieDuty.erase die else s.power.dieDuty.put die (n + 1) })

end Sys2Proof.Machine
end

