-- ==== Sys2Proof/Machine/Scalar.lean ====
section
/-! DEFINITION. The scalar, address and compare instructions (spec/08_scalar_control.md R193 to R202), one meaning each over
the operations of Operands.lean. -/

namespace Sys2Proof.Machine

/-- Major 0x00: no effect (spec/07_encoding.md R170). -/
def execNop (s : State) : Out := s.run [] [] fun slot st => .next (s.retire slot st)

/-- The head-only form: gA := op(gA, gB) as s64 (R193). -/
def headOnly (op : Word → Word → Nat → Int) (a b : BitVec 4) (s : State) : Out :=
  s.run [a, b] [] fun slot st => .next (s.setResult slot st a (twoSource op (st.getG a) (st.getG b) 6 false))

/-- The form with a 2-byte tail: gA := op(gB, second). -/
def formTl2 (op : Word → Word → Nat → Int) (o : TwoSrc2) (s : State) : Out :=
  s.run o.regs [] fun slot st =>
    .next (s.setResult slot st o.a (twoSource op (st.getG o.b) (o.second st) (tyCode o.ty) o.sat))

/-- The form with a 4-byte tail: gA := op(gB, sign_extend(I24)). -/
def formTl4 (op : Word → Word → Nat → Int) (o : TwoSrc4) (s : State) : Out :=
  s.run o.regs [] fun slot st =>
    .next (s.setResult slot st o.a (twoSource op (st.getG o.b) o.second (tyCode o.ty) o.sat))

/-- x + y (R193). -/
def execAddHeadOnly (a b : BitVec 4) (s : State) : Out := headOnly opAdd a b s

/-- x + y (R193). -/
def execAddTl2 (o : TwoSrc2) (s : State) : Out := formTl2 opAdd o s

/-- x + y (R193). -/
def execAddTl4 (o : TwoSrc4) (s : State) : Out := formTl4 opAdd o s

/-- x − y (R193). -/
def execSubHeadOnly (a b : BitVec 4) (s : State) : Out := headOnly opSub a b s

/-- x − y (R193). -/
def execSubTl2 (o : TwoSrc2) (s : State) : Out := formTl2 opSub o s

/-- x − y (R193). -/
def execSubTl4 (o : TwoSrc4) (s : State) : Out := formTl4 opSub o s

/-- first AND second (R193). -/
def execAndHeadOnly (a b : BitVec 4) (s : State) : Out := headOnly opAnd a b s

/-- first AND second (R193). -/
def execAndTl2 (o : TwoSrc2) (s : State) : Out := formTl2 opAnd o s

/-- first AND second (R193). -/
def execAndTl4 (o : TwoSrc4) (s : State) : Out := formTl4 opAnd o s

/-- first OR second (R193). -/
def execOrHeadOnly (a b : BitVec 4) (s : State) : Out := headOnly opOr a b s

/-- first OR second (R193). -/
def execOrTl2 (o : TwoSrc2) (s : State) : Out := formTl2 opOr o s

/-- first OR second (R193). -/
def execOrTl4 (o : TwoSrc4) (s : State) : Out := formTl4 opOr o s

/-- first XOR second (R193). -/
def execXorHeadOnly (a b : BitVec 4) (s : State) : Out := headOnly opXor a b s

/-- first XOR second (R193). -/
def execXorTl2 (o : TwoSrc2) (s : State) : Out := formTl2 opXor o s

/-- first XOR second (R193). -/
def execXorTl4 (o : TwoSrc4) (s : State) : Out := formTl4 opXor o s

/-- x × 2^s (R193). -/
def execShlHeadOnly (a b : BitVec 4) (s : State) : Out := headOnly opShl a b s

/-- x × 2^s (R193). -/
def execShlTl2 (o : TwoSrc2) (s : State) : Out := formTl2 opShl o s

/-- x × 2^s (R193). -/
def execShlTl4 (o : TwoSrc4) (s : State) : Out := formTl4 opShl o s

/-- ⌊first / 2^s⌋ unsigned (R193). -/
def execShrHeadOnly (a b : BitVec 4) (s : State) : Out := headOnly opShr a b s

/-- ⌊first / 2^s⌋ unsigned (R193). -/
def execShrTl2 (o : TwoSrc2) (s : State) : Out := formTl2 opShr o s

/-- ⌊first / 2^s⌋ unsigned (R193). -/
def execShrTl4 (o : TwoSrc4) (s : State) : Out := formTl4 opShr o s

/-- ⌊first / 2^s⌋ signed (R193). -/
def execSarHeadOnly (a b : BitVec 4) (s : State) : Out := headOnly opSar a b s

/-- ⌊first / 2^s⌋ signed (R193). -/
def execSarTl2 (o : TwoSrc2) (s : State) : Out := formTl2 opSar o s

/-- ⌊first / 2^s⌋ signed (R193). -/
def execSarTl4 (o : TwoSrc4) (s : State) : Out := formTl4 opSar o s

/-- first rotated left by s (R193). -/
def execRolTl2 (o : TwoSrc2) (s : State) : Out := formTl2 opRol o s

/-- first rotated left by s (R193). -/
def execRolTl4 (o : TwoSrc4) (s : State) : Out := formTl4 opRol o s

/-- x × y (R193). -/
def execMulHeadOnly (a b : BitVec 4) (s : State) : Out := headOnly opMul a b s

/-- x × y (R193). -/
def execMulTl2 (o : TwoSrc2) (s : State) : Out := formTl2 opMul o s

/-- x × y (R193). -/
def execMulTl4 (o : TwoSrc4) (s : State) : Out := formTl4 opMul o s

/-- A three-register operation of R194. -/
def threeReg (op : Word → Word → Nat → Word × FFlags) (a b c : BitVec 4) (ty : BitVec 2) (s : State) : Out :=
  s.run [a, b, c] [] fun slot st => .next (s.setResult slot st a (op (st.getG b) (st.getG c) (tyCode ty)))

/-- MULH of R194. -/
def execMulh (a b c : BitVec 4) (ty : BitVec 2) (s : State) : Out := threeReg opMulh a b c ty s

/-- DIV of R194. -/
def execDiv (a b c : BitVec 4) (ty : BitVec 2) (s : State) : Out := threeReg opDiv a b c ty s

/-- REM of R194. -/
def execRem (a b c : BitVec 4) (ty : BitVec 2) (s : State) : Out := threeReg opRem a b c ty s

/-- MIN of gB and gC (R195). -/
def execMinTl2 (a b c : BitVec 4) (ty : BitVec 2) (s : State) : Out :=
  threeReg (fun x y t => twoSource opMin x y t false) a b c ty s

/-- MIN of gB and sign_extend(I24) (R195). -/
def execMinTl4 (a b : BitVec 4) (ty : BitVec 2) (i24 : BitVec 24) (s : State) : Out :=
  s.run [a, b] [] fun slot st =>
    .next (s.setResult slot st a (twoSource opMin (st.getG b) (i24.signExtend 64) (tyCode ty) false))

/-- MAX of gB and gC (R195). -/
def execMaxTl2 (a b c : BitVec 4) (ty : BitVec 2) (s : State) : Out :=
  threeReg (fun x y t => twoSource opMax x y t false) a b c ty s

/-- MAX of gB and sign_extend(I24) (R195). -/
def execMaxTl4 (a b : BitVec 4) (ty : BitVec 2) (i24 : BitVec 24) (s : State) : Out :=
  s.run [a, b] [] fun slot st =>
    .next (s.setResult slot st a (twoSource opMax (st.getG b) (i24.signExtend 64) (tyCode ty) false))

/-- gB AND NOT gC (R195). -/
def execAndnTl2 (a b c : BitVec 4) (s : State) : Out :=
  s.run [a, b, c] [] fun slot st => .next (s.setWord slot st a (st.getG b &&& ~~~(st.getG c)))

/-- gB AND NOT sign_extend(I24) (R195). -/
def execAndnTl4 (a b : BitVec 4) (i24 : BitVec 24) (s : State) : Out :=
  s.run [a, b] [] fun slot st => .next (s.setWord slot st a (st.getG b &&& ~~~(i24.signExtend 64)))

/-- A bit operation of R196 on the low w bits of gB; a type outside the instruction's list is an illegal operand. -/
def bitOp (accepts : BitVec 4 → Bool) (f : Nat → Nat → Word) (a b t : BitVec 4) (s : State) : Out :=
  s.run [a, b] [] fun slot st =>
    if accepts t then .next (s.setWord slot st a (f (typeBits t.toNat) (st.getG b).toNat))
    else .next (s.trapHead slot st causeIllegalOperand)

/-- Leading zero bits (R196). -/
def execClz (a b t : BitVec 4) (s : State) : Out := bitOp bitType (fun w x => BitVec.ofNat 64 (leadingZeros w x)) a b t s

/-- Trailing zero bits (R196). -/
def execCtz (a b t : BitVec 4) (s : State) : Out := bitOp bitType (fun w x => BitVec.ofNat 64 (trailingZeros w x)) a b t s

/-- Set bits (R196). -/
def execPopc (a b t : BitVec 4) (s : State) : Out := bitOp bitType (fun w x => BitVec.ofNat 64 (popCount w x)) a b t s

/-- Bits reversed, then ext64 (R196). -/
def execBrev (a b t : BitVec 4) (s : State) : Out := bitOp bitType (fun w x => ext64 (reverseDigits 1 w x) t.toNat) a b t s

/-- Bytes reversed, then ext64 (R196). -/
def execBswap (a b t : BitVec 4) (s : State) : Out :=
  bitOp swapType (fun w x => ext64 (reverseDigits 8 (w / 8) x) t.toNat) a b t s

/-- SEXT and ZEXT of R196: an n outside 1 to 64 is an illegal operand. -/
def extendOp (f : Nat → Nat → Word) (a b : BitVec 4) (n : BitVec 8) (s : State) : Out :=
  s.run [a, b] [] fun slot st =>
    if 1 ≤ n.toNat ∧ n.toNat ≤ 64 then .next (s.setWord slot st a (f n.toNat (st.getG b).toNat))
    else .next (s.trapHead slot st causeIllegalOperand)

/-- gA := sign_extend(gB[n−1:0], n) (R196). -/
def execSext (a b : BitVec 4) (n : BitVec 8) (s : State) : Out :=
  extendOp (fun n x => BitVec.ofInt 64 (signedOf n x)) a b n s

/-- gA := gB[n−1:0] zero-extended (R196). -/
def execZext (a b : BitVec 4) (n : BitVec 8) (s : State) : Out :=
  extendOp (fun n x => BitVec.ofNat 64 (x % 2 ^ n)) a b n s

/-- gA := gB (R197). -/
def execMov (a b : BitVec 4) (s : State) : Out := s.run [a, b] [] fun slot st => .next (s.setWord slot st a (st.getG b))

/-- gA := sign_extend(K8) (R197). -/
def execLiTl2 (a : BitVec 4) (k8 : BitVec 8) (s : State) : Out :=
  s.run [a] [] fun slot st => .next (s.setWord slot st a (k8.signExtend 64))

/-- gA := sign_extend(I24) (R197). -/
def execLiTl4 (a : BitVec 4) (i24 : BitVec 24) (s : State) : Out :=
  s.run [a] [] fun slot st => .next (s.setWord slot st a (i24.signExtend 64))

/-- gA := the literal (R197). -/
def execLimm (a : BitVec 4) (lit : Word) (s : State) : Out :=
  s.run [a] [] fun slot st => .next (s.setWord slot st a lit)

/-- Address addition of gB to gA (R198). -/
def execAddaHeadOnly (a b : BitVec 4) (s : State) : Out :=
  s.run [a, b] [] fun slot st => .next (s.setWord slot st a (opAdda (st.getG a) (st.getG b)))

/-- Address addition of a register or K8 (R198). -/
def execAddaTl2 (o : TwoSrc2) (s : State) : Out :=
  s.run o.regs [] fun slot st => .next (s.setWord slot st o.a (opAdda (st.getG o.b) (o.second st)))

/-- Address addition of I24 (R198). -/
def execAddaTl4 (o : TwoSrc4) (s : State) : Out :=
  s.run o.regs [] fun slot st => .next (s.setWord slot st o.a (opAdda (st.getG o.b) o.second))

/-- A pointer with the tag bits [63:54] given and bits [53:52] zero (R199). -/
def withTag (tag : Nat) (p : Word) : Word := BitVec.ofNat 64 (tag * 2 ^ 54 + p.toNat % 2 ^ 52)

/-- The tag of gB from gC[63:54] (R199). -/
def execTagTl2 (a b c : BitVec 4) (s : State) : Out :=
  s.run [a, b, c] [] fun slot st => .next (s.setWord slot st a (withTag ((st.getG c).toNat / 2 ^ 54) (st.getG b)))

/-- The tag of gB from FMT and BLOG (R199). -/
def execTagTl4 (a b : BitVec 4) (fmt : BitVec 6) (blog : BitVec 4) (s : State) : Out :=
  s.run [a, b] [] fun slot st => .next (s.setWord slot st a (withTag (fmt.toNat * 16 + blog.toNat) (st.getG b)))

/-- gA := gB[51:0] (R199). -/
def execUntag (a b : BitVec 4) (s : State) : Out :=
  s.run [a, b] [] fun slot st => .next (s.setWord slot st a (BitVec.ofNat 64 (ptrVa (st.getG b))))

/-- gA := FMT and BLOG in bits [9:0] (R199). -/
def execTagof (a b : BitVec 4) (s : State) : Out :=
  s.run [a, b] [] fun slot st =>
    .next (s.setWord slot st a (BitVec.ofNat 64 (ptrFmt (st.getG b) * 16 + ptrBlog (st.getG b))))

/-- eidx of R200, with the format fault of R31 on a bad tag. -/
def eidxOp (s : State) (slot : Nat) (st : Strand) (a : BitVec 4) (p : Word) (e : Int) : Out :=
  if formatFault p then .next (s.trap slot st (trapOf causeFormat 0 p.toNat)) else .next (s.setWord slot st a (eidx p e))

/-- The address of the element whose index is in gC (R200). -/
def execEidxTl2 (a b c : BitVec 4) (s : State) : Out :=
  s.run [a, b, c] [] fun slot st => eidxOp s slot st a (st.getG b) (st.getG c).toInt

/-- The address of the element whose index is an immediate (R200). -/
def execEidxTl4 (a b : BitVec 4) (i24 : BitVec 24) (s : State) : Out :=
  s.run [a, b] [] fun slot st => eidxOp s slot st a (st.getG b) i24.toInt

/-- pd := cond(x, y) of R201; a type of 8 to 15 is an illegal operand. -/
def compareOp (s : State) (slot : Nat) (st : Strand) (p : BitVec 3) (x y : Word) (t : BitVec 4) (cc : BitVec 3) : Out :=
  if t.toNat < 8 then .next (s.retire slot (st.setP p (condHolds x.toNat y.toNat t.toNat cc.toNat).1))
  else .next (s.trapHead slot st causeIllegalOperand)

/-- Compare with a register (R201). -/
def execCmp (p : BitVec 3) (b c t : BitVec 4) (cc : BitVec 3) (s : State) : Out :=
  s.run [b, c] [] fun slot st => compareOp s slot st p (st.getG b) (st.getG c) t cc

/-- Compare with K8 (R201). -/
def execCmpiTl2 (p : BitVec 3) (b t : BitVec 4) (cc : BitVec 3) (k8 : BitVec 8) (s : State) : Out :=
  s.run [b] [] fun slot st => compareOp s slot st p (st.getG b) (k8.signExtend 64) t cc

/-- Compare with I24 (R201). -/
def execCmpiTl4 (p : BitVec 3) (b t : BitVec 4) (cc : BitVec 3) (i24 : BitVec 24) (s : State) : Out :=
  s.run [b] [] fun slot st => compareOp s slot st p (st.getG b) (i24.signExtend 64) t cc

/-- pd := LUT[(pa << 1) OR pb] (R202). -/
def execPlog (pd pa pb : BitVec 3) (lut : BitVec 4) (s : State) : Out :=
  s.run [] [] fun slot st =>
    .next (s.retire slot (st.setP pd (lut.getLsbD (2 * (st.getP pa).toNat + (st.getP pb).toNat))))

/-- gA := gB if (pk XOR NEG), else gC (R202). -/
def execSel (a b c : BitVec 4) (p : BitVec 3) (neg : Bool) (s : State) : Out :=
  s.run [a, b, c] [] fun slot st =>
    .next (s.setWord slot st a (if st.getP p != neg then st.getG b else st.getG c))

/-- The predicate word: bit i is pi, and bit 0 reads 1 (R202). -/
def Strand.predicates (st : Strand) : BitVec 8 := st.pw ||| 1

/-- gA := the predicate word (R202). -/
def execPmovToScalar (a : BitVec 4) (s : State) : Out :=
  s.run [a] [] fun slot st => .next (s.setWord slot st a (st.predicates.setWidth 64))

/-- pi := gB[i] for i from 1 to 7 (R202). -/
def execPmovFromScalar (b : BitVec 4) (s : State) : Out :=
  s.run [b] [] fun slot st => .next (s.retire slot { st with pw := (st.getG b).setWidth 8 &&& 0xFE })

end Sys2Proof.Machine
end

