-- ==== Sys2Proof/Machine/Transcend.lean ====
section
/-! DEFINITION. The functions of VEXP2, VLOG2 and VTANH (spec/09_vector.md R229), correctly rounded: the exact value lies
strictly between two neighbours on a grid of 2^−320, and the half-way sticky value stands for it (DEDUCED, log entry 13). -/

namespace Sys2Proof.Machine

/-- Fixed point: 2^320 units to one. -/
def fxOne : Nat := 2 ^ 320

/-- Σ z^(2i+1) / (2i+1) for `fuel` terms from term `k`, where `zp` is z^k in fixed point and z = num / den. -/
def atanhSum (num den : Nat) : Nat → Nat → Nat → Nat
  | 0, _, _ => 0
  | fuel + 1, k, zp => zp / k + atanhSum num den fuel (k + 2) (zp * (num * num) / (den * den))

/-- ln(m / d) in fixed point for d ≤ m ≤ 2d: twice the inverse hyperbolic tangent of (m − d) / (m + d). -/
def fxLn (m d : Nat) : Nat :=
  2 * atanhSum (m - d) (m + d) 120 1 (fxOne * (m - d) / (m + d))

/-- ln 2 in fixed point. -/
def fxLn2 : Nat := fxLn 2 1

/-- Σ x^i / i! for `fuel` terms from term i, where `t` is the term before it. -/
def expSum (x : Nat) : Nat → Nat → Nat → Nat
  | 0, _, _ => 0
  | fuel + 1, i, t => t + expSum x fuel (i + 1) (t * x / fxOne / i)

/-- e^x in fixed point for 0 ≤ x < 1. -/
def fxExp (x : Nat) : Nat := expSum x 90 1 fxOne

/-- A positive value that lies strictly between n and n + 1 units of 2^(e): n and a half stands for it. -/
def between (neg : Bool) (n : Nat) (e : Int) : Num := .fin neg (2 * n + 1) (e - 1)

/-- 2^x of R229. -/
def fExp2 (x : Num) (t mode : Nat) (sat : Bool) (u : Nat) : Nat × FFlags :=
  match x with
  | .nan _ _ _ => nanResult t (flagIf x.isSignalling flagNV)
  | .inf s => roundTo (if s then .fin false 0 0 else .inf false) t mode sat u
  | .fin s m e =>
    -- beyond 2,000 the result over- or underflows every format alike
    let near (k : Int) : Int := max (-2000) (min 2000 k)
    if m = 0 ∨ 0 ≤ e ∨ m % 2 ^ (-e).toNat = 0 then
      let k : Nat := if 0 ≤ e then m * 2 ^ e.toNat else m / 2 ^ (-e).toNat
      roundTo (.fin false 1 (near (if s then -(k : Int) else k))) t mode sat u
    else
      -- x = n + f with 0 < f < 1, f = r / 2^sh
      let sh := (-e).toNat
      let n0 : Int := (m / 2 ^ sh : Nat)
      let r0 := m % 2 ^ sh
      let n : Int := if s then -n0 - 1 else n0
      let r := if s then 2 ^ sh - r0 else r0
      let y := fxExp (fxLn2 * r / 2 ^ sh)
      roundTo (between false y (near n - 320)) t mode sat u

/-- log2 x of R229. -/
def fLog2 (x : Num) (t mode : Nat) (sat : Bool) (u : Nat) : Nat × FFlags :=
  match x with
  | .nan _ _ _ => nanResult t (flagIf x.isSignalling flagNV)
  | .inf s => if s then nanResult t flagNV else roundTo (.inf false) t mode sat u
  | .fin s m e =>
    if m = 0 then ((roundTo (.inf true) t mode sat u).1, (roundTo (.inf true) t mode sat u).2 ||| flagDZ)
    else if s then nanResult t flagNV
    else
      let l := m.log2
      let k : Int := (l : Int) + e
      if m = 2 ^ l then roundTo (Num.ofInt k) t mode sat u
      else
        -- k + log2(m / 2^l), 0 < log2(m / 2^l) < 1
        let f := fxLn m (2 ^ l) * fxOne / fxLn2
        let v : Int := k * fxOne + f
        if 0 ≤ v then roundTo (between false v.toNat (-320)) t mode sat u
        else roundTo (between true (-v - 1).toNat (-320)) t mode sat u

/-- tanh x of R229. -/
def fTanh (x : Num) (t mode : Nat) (sat : Bool) (u : Nat) : Nat × FFlags :=
  match x with
  | .nan _ _ _ => nanResult t (flagIf x.isSignalling flagNV)
  | .inf s => roundTo (.fin s 1 0) t mode sat u
  | .fin s m e =>
    if m = 0 then roundTo (.fin s 0 0) t mode sat u
    else
      let k : Int := (m.log2 : Int) + e
      -- just below x where x is small, just below 1 where x is large
      if k < -60 then roundTo (.fin s (m * 2 ^ 100 - 1) (e - 100)) t mode sat u
      else if 6 ≤ k then roundTo (.fin s (2 ^ 300 - 1) (-300)) t mode sat u
      else
        let a2 := if 0 ≤ e + 1 then m * 2 ^ (e + 1).toNat * fxOne else m * fxOne / 2 ^ (-(e + 1)).toNat
        let n := a2 / fxLn2
        let y := fxExp (a2 % fxLn2) * 2 ^ n
        roundTo (between s ((y - fxOne) * fxOne / (y + fxOne)) (-320)) t mode sat u

end Sys2Proof.Machine
end

