-- ==== Sys2Proof/Machine/Vector.lean ====
section
/-! DEFINITION. The vector and special-function instructions (spec/09_vector.md R213 to R236), one meaning each over the
vector frame of Operands.lean. -/

namespace Sys2Proof.Machine

/-- Accepted types of two classes. -/
def isIntFlt (t : Nat) : Bool := isInt t || isFlt t

/-- The checks of an instruction of that shape. -/
def elemCheck (types : Nat → Bool) (src : List Nat) (o : VecOps) : VecCheck :=
  { types := types, src := src, groups := elemGroups o, noRsr := false, other := true }

/-- Elements of VS1. -/
def firstElems (s : State) (slot : Nat) (st : Strand) (o : VecOps) : Nat → Nat :=
  elemOf (s.getV slot st o.vs1.toNat).toNat (typeBits o.tn)

/-- One element of an arithmetic row of R220: exact integers fitted once, or f_arith. -/
def arithElem (fop : FOp) (iop : Int → Int → Int → Int) (o : VecOps) (a b c u : Nat) : Nat × FFlags :=
  let t := o.tn
  if isInt t then fitInt (iop (intOf a t) (intOf b t) (intOf c t)) t o.sat
  else fArith fop (decodeFloat a t) (decodeFloat b t) (decodeFloat c t) t o.rnd o.sat u

/-- A two-operand arithmetic row. -/
def arith2 (fop : FOp) (iop : Int → Int → Int → Int) (types : Nat → Bool) (src : List Nat) (o : VecOps) (s : State) : Out :=
  s.runV o (elemCheck types src o) fun slot st =>
    s.elementwise slot st o fun i u =>
      arithElem fop iop o (firstElems s slot st o i) (secondElems s slot st o i) 0 u

/-- x + y (R220). -/
def execVadd (o : VecOps) (s : State) : Out := arith2 .add (fun x y _ => x + y) isIntFlt [0, 1, 2] o s

/-- x − y (R220). -/
def execVsub (o : VecOps) (s : State) : Out := arith2 .sub (fun x y _ => x - y) isIntFlt [0, 1, 2] o s

/-- x × y (R220). -/
def execVmul (o : VecOps) (s : State) : Out := arith2 .mul (fun x y _ => x * y) isIntFlt [0, 1, 2] o s

/-- A fused row: c is element i of VS3, or of vd with the 4-byte tail (R220). -/
def arith3 (fop : FOp) (iop : Int → Int → Int → Int) (o : VecOps) (s : State) : Out :=
  let c := { elemCheck isIntFlt [0, 1] o with groups := fusedGroups o }
  s.runV o c fun slot st =>
    s.elementwise slot st o fun i u =>
      arithElem fop iop o (firstElems s slot st o i) (secondElems s slot st o i)
        (elemOf (s.getV slot st (thirdReg o).toNat).toNat (typeBits o.tn) i) u

/-- x × y + c (R220). -/
def execVfma (o : VecOps) (s : State) : Out := arith3 .fma (fun x y c => x * y + c) o s

/-- x × y − c (R220). -/
def execVfms (o : VecOps) (s : State) : Out := arith3 .fms (fun x y c => x * y - c) o s

/-- −(x × y) + c (R220). -/
def execVfnma (o : VecOps) (s : State) : Out := arith3 .fnma (fun x y c => -(x * y) + c) o s

/-- An elementwise row given on the bits of its operands. -/
def bitsRow (types : Nat → Bool) (src : List Nat) (f : Nat → Nat → Nat × FFlags) (o : VecOps) (s : State) : Out :=
  s.runV o (elemCheck types src o) fun slot st =>
    s.elementwise slot st o fun i _ => f (firstElems s slot st o i) (secondElems s slot st o i)

/-- The lesser (R221). -/
def execVmin (o : VecOps) (s : State) : Out := bitsRow isIntFlt [0, 1, 2] (fun a b => minMax a b o.tn false false) o s

/-- The greater (R221). -/
def execVmax (o : VecOps) (s : State) : Out := bitsRow isIntFlt [0, 1, 2] (fun a b => minMax a b o.tn true false) o s

/-- The lesser, preferring a number to a quiet NaN (R221). -/
def execVminn (o : VecOps) (s : State) : Out := bitsRow isIntFlt [0, 1, 2] (fun a b => minMax a b o.tn false true) o s

/-- The greater, preferring a number to a quiet NaN (R221). -/
def execVmaxn (o : VecOps) (s : State) : Out := bitsRow isIntFlt [0, 1, 2] (fun a b => minMax a b o.tn true true) o s

/-- ANY of R216. -/
def anyType (_ : Nat) : Bool := true

/-- Bitwise AND (R220). -/
def execVand (o : VecOps) (s : State) : Out := bitsRow anyType [0, 1, 2] (fun a b => (a &&& b, 0)) o s

/-- Bitwise OR (R220). -/
def execVor (o : VecOps) (s : State) : Out := bitsRow anyType [0, 1, 2] (fun a b => (a ||| b, 0)) o s

/-- Bitwise XOR (R220). -/
def execVxor (o : VecOps) (s : State) : Out := bitsRow anyType [0, 1, 2] (fun a b => (a ^^^ b, 0)) o s

/-- As SHL, with s = b[log2 w − 1:0] (R220). -/
def execVshl (o : VecOps) (s : State) : Out :=
  bitsRow isInt [0, 1, 2] (fun a b => fitInt (intOf a o.tn * 2 ^ (b % typeBits o.tn)) o.tn o.sat) o s

/-- As SHR (R220). -/
def execVshr (o : VecOps) (s : State) : Out :=
  bitsRow isInt [0, 1, 2] (fun a b => (a / 2 ^ (b % typeBits o.tn), 0)) o s

/-- As SAR (R220). -/
def execVsar (o : VecOps) (s : State) : Out :=
  bitsRow isInt [0, 1, 2]
    (fun a b => (wrapInt (typeBits o.tn) (signedOf (typeBits o.tn) a / 2 ^ (b % typeBits o.tn)), 0)) o s

/-- The absolute value; the sign bit cleared on FLT (R222). -/
def execVabs (o : VecOps) (s : State) : Out :=
  bitsRow isIntFlt [0]
    (fun a _ =>
      if isInt o.tn then fitInt (intOf a o.tn).natAbs o.tn o.sat else (a % 2 ^ (typeBits o.tn - 1), 0)) o s

/-- The negation; the sign bit inverted on FLT (R222). -/
def execVneg (o : VecOps) (s : State) : Out :=
  bitsRow isIntFlt [0]
    (fun a _ =>
      if isInt o.tn then fitInt (-intOf a o.tn) o.tn o.sat else (a ^^^ 2 ^ (typeBits o.tn - 1), 0)) o s

/-- The lowest three bits of a field that names a mask. -/
def maskNo (r : BitVec 5) : BitVec 3 := r.setWidth 3

/-- Bit i of mask md := cond(x, b) (R222). -/
def execVcmp (o : VecOps) (s : State) : Out :=
  let cc := o.x.toNat
  let c : VecCheck :=
    { types := isIntFlt, src := [0, 1, 2], groups := sourceGroups o, noRsr := false
      other := !(isInt o.tn && 8 ≤ cc) && !(isFlt o.tn && (cc == 6 || cc == 7)) }
  s.runV o c fun slot st =>
    let old := (st.getM (maskNo o.vd)).toNat
    let n := elemCount o.tn
    let r := frameElems 0 (st.getM o.m).getLsbD (elemOf old 1)
      (fun i _ =>
        let h := condHolds (firstElems s slot st o i) (secondElems s slot st o i) o.tn cc
        (h.1.toNat, h.2)) n 0 st.gen
    .next (s.retire slot ((st.setMaskLow (maskNo o.vd) n (packElems 1 r.1)).raise r.2.1))

/-- Element i of VS1 where bit i of M is 1, else b (R222). -/
def execVsel (o : VecOps) (s : State) : Out :=
  s.runV o (elemCheck anyType [0, 1, 2] o) fun slot st =>
    let m := st.getM o.m
    let l := (List.range (elemCount o.tn)).map fun i =>
      if m.getLsbD i then firstElems s slot st o i else secondElems s slot st o i
    .next ((s.setV slot st o.vd.toNat (packV (typeBits o.tn) l)).retire slot (st.touchV o.vd.toNat))

/-- md := LUT[(ma << 1) OR mb] for each of the 1,024 bits (R223). -/
def execMlog (o : VecOps) (s : State) : Out :=
  s.runV o { types := anyType, src := [0], groups := [], noRsr := false, other := true } fun slot st =>
    let a := st.getM (maskNo o.vs1)
    let b := st.getM (maskNo o.vs2)
    let pick (k : Nat) (m : Mask) : Mask := if o.x.getLsbD k then m else 0
    let v := pick 0 (~~~a &&& ~~~b) ||| pick 1 (~~~a &&& b) ||| pick 2 (a &&& ~~~b) ||| pick 3 (a &&& b)
    .next (s.retire slot (st.setM (maskNo o.vd) v))

/-- gA := the number of i < n with ma bit i AND M bit i (R223). -/
def execVpopm (o : VecOps) (s : State) : Out :=
  s.runV o { types := anyType, src := [0], groups := [], noRsr := false, other := true } fun slot st =>
    let v := (st.getM (maskNo o.vs1) &&& st.getM o.m).toNat
    .next (s.setWord slot st o.a (BitVec.ofNat 64 (popCount (elemCount o.tn) v)))

/-- Running counts of set bits: element i is the number of set bits below i. -/
def prefixCounts : Nat → Nat → Nat → List Nat
  | 0, _, _ => []
  | n + 1, m, k => k :: prefixCounts n (m / 2) (k + m % 2)

/-- Active element i := the number of j < i with ma bit j set (R223). -/
def execViota (o : VecOps) (s : State) : Out :=
  s.runV o { types := isInt, src := [0], groups := destGroups o, noRsr := false, other := true } fun slot st =>
    let c := prefixCounts (elemCount o.tn) (st.getM (maskNo o.vs1)).toNat 0
    s.elementwise slot st o fun i _ => (c.getD i 0 % 2 ^ typeBits o.tn, 0)

/-- An instruction whose destination is a group of kd registers of width wd: `f i u` is the result of active element i. -/
def State.groupwise (s : State) (slot : Nat) (st : Strand) (o : VecOps) (kd wd n : Nat)
    (f : Nat → Nat → Nat × FFlags) : Out :=
  let d := o.vd.toNat
  let r := frameElems o.rnd (st.getM o.m).getLsbD (groupElem s slot st d kd wd) f n 0 st.gen
  let st := ({ st with gen := r.2.2 }.raise r.2.1).touchGroup d kd
  .next ((setGroup s slot st d kd wd r.1).retire slot st)

/-- VCVT of R224: the destination type is X. -/
def execVcvt (o : VecOps) (s : State) : Out :=
  let t := o.tn
  let dt := o.x.toNat
  let ws := typeBits t
  let wd := typeBits dt
  let ks := cvtK ws wd
  let kd := cvtK wd ws
  let c : VecCheck :=
    { types := anyType, src := [0, 1], groups := cvtGroups o, noRsr := false
      other := decide (ks ≤ 8) && decide (kd ≤ 8) }
  s.runV o c fun slot st =>
    let scale := if o.src == 1 then some ((st.getG o.b).toNat % 2 ^ 32) else none
    s.groupwise slot st o kd wd (4096 / min ws wd) fun i u =>
      convertElem (groupElem s slot st o.vs1.toNat ks ws i) t dt o.rnd o.sat scale u

/-- Types of VWADD, VWMUL and VWMACC, and their result type (R225). -/
def wideType (t : Nat) : Bool := decide (t < 6) || t == 9 || t == 10
def wideResult (t : Nat) : Nat := if t < 6 then t + 2 else 8

/-- A widening row: the pair vd receives the results, and is read as c. -/
def wideRow (fop : FOp) (iop : Int → Int → Int → Int) (o : VecOps) (s : State) : Out :=
  let t := o.tn
  let r := wideResult t
  let w := typeBits r
  let c : VecCheck :=
    { types := wideType, src := [0, 1, 2], groups := wideGroups o, noRsr := false, other := true }
  s.runV o c fun slot st =>
    s.groupwise slot st o 2 w (elemCount t) fun i u =>
      let a := firstElems s slot st o i
      let b := secondElems s slot st o i
      let acc := groupElem s slot st o.vd.toNat 2 w i
      if isInt t then fitInt (iop (intOf a t) (intOf b t) (intOf acc r)) r o.sat
      else fArith fop (decodeFloat a t) (decodeFloat b t) (decodeFloat acc r) r o.rnd o.sat u

/-- x + y, widened (R225). -/
def execVwadd (o : VecOps) (s : State) : Out := wideRow .add (fun x y _ => x + y) o s

/-- x × y, widened (R225). -/
def execVwmul (o : VecOps) (s : State) : Out := wideRow .mul (fun x y _ => x * y) o s

/-- c + x × y, widened, with one rounding (R225). -/
def execVwmacc (o : VecOps) (s : State) : Out := wideRow .fma (fun x y c => c + x * y) o s

/-- The result type of VDOT4, signed for every integer type (R225). -/
def dotResult (t : Nat) : Option Nat :=
  match t with
  | 0 => some 4
  | 1 => some 4
  | 14 => some 2
  | 15 => some 2
  | 2 => some 6
  | 3 => some 6
  | 11 => some 8
  | 12 => some 8
  | _ => none

/-- c plus four products of adjacent elements, with one rounding (R225). -/
def execVdot4 (o : VecOps) (s : State) : Out :=
  let t := o.tn
  let r := (dotResult t).getD 4
  let w := typeBits r
  let c : VecCheck :=
    { types := fun t => (dotResult t).isSome, src := [0, 1, 2], groups := elemGroups o, noRsr := false, other := true }
  s.runV o c fun slot st =>
    s.groupwise slot st o 1 w (elemCount t / 4) fun i u =>
      let pairs := (List.range 4).map fun j =>
        (firstElems s slot st o (4 * i + j), secondElems s slot st o (4 * i + j))
      let acc := groupElem s slot st o.vd.toNat 1 w i
      if typeFloat t then
        let ps := pairs.map fun p => (decodeFloat p.1 t, decodeFloat p.2 t)
        let cv := decodeFloat acc r
        fSum (cv :: ps.flatMap fun p => [p.1, p.2]) (ps.any fun p => zeroTimesInf p.1 p.2)
          (cv :: ps.map fun p => p.1.mul p.2) r o.rnd o.sat u
      else fitInt (intOf acc r + (pairs.map fun p => intOf p.1 t * intOf p.2 t).sum) r o.sat

/-- A row with a single floating-point source. -/
def floatRow (f : Num → Nat → Nat × FFlags) (o : VecOps) (s : State) : Out :=
  s.runV o (elemCheck isFlt [0] o) fun slot st =>
    s.elementwise slot st o fun i u => f (decodeFloat (firstElems s slot st o i) o.tn) u

/-- Reciprocal estimate (R226, R227). -/
def execVrcp (o : VecOps) (s : State) : Out := floatRow (fun x _ => fRcpEst x o.tn) o s

/-- Reciprocal square-root estimate (R226, R227). -/
def execVrsq (o : VecOps) (s : State) : Out := floatRow (fun x _ => fRsqEst x o.tn) o s

/-- 2 − x × b (R228). -/
def execVrcps (o : VecOps) (s : State) : Out := arith2 .rcps (fun x _ _ => x) isFlt [0, 1] o s

/-- (3 − x × b) / 2 (R228). -/
def execVrsqs (o : VecOps) (s : State) : Out := arith2 .rsqs (fun x _ _ => x) isFlt [0, 1] o s

/-- Square root (R227). -/
def execVsqrt (o : VecOps) (s : State) : Out := floatRow (fun x u => fSqrt x o.tn o.rnd o.sat u) o s

/-- Division (R227). -/
def execVdiv (o : VecOps) (s : State) : Out := arith2 .div (fun x _ _ => x) isFlt [0, 1] o s

/-- Base-2 exponential (R229). -/
def execVexp2 (o : VecOps) (s : State) : Out := floatRow (fun x u => fExp2 x o.tn o.rnd o.sat u) o s

/-- Base-2 logarithm (R229). -/
def execVlog2 (o : VecOps) (s : State) : Out := floatRow (fun x u => fLog2 x o.tn o.rnd o.sat u) o s

/-- Hyperbolic tangent (R229). -/
def execVtanh (o : VecOps) (s : State) : Out := floatRow (fun x u => fTanh x o.tn o.rnd o.sat u) o s

/-! ### Reductions and scans (R230, R231) -/

/-- comb of R230, with the flags collected so far. -/
def combine (op : Nat → Nat → Nat × FFlags) (a b : Option Nat) : Option Nat × FFlags :=
  match a, b with
  | none, b => (b, 0)
  | a, none => (a, 0)
  | some x, some y => (some (op x y).1, (op x y).2)

/-- One level of the tree of R230. -/
def pairUp (op : Nat → Nat → Nat × FFlags) : List (Option Nat) → List (Option Nat) × FFlags
  | a :: b :: r =>
    let c := combine op a b
    let q := pairUp op r
    (c.1 :: q.1, c.2 ||| q.2)
  | l => (l, 0)

/-- The tree over at most 2^fuel values. -/
def reduceTree (op : Nat → Nat → Nat × FFlags) : Nat → List (Option Nat) → Option Nat × FFlags
  | 0, l => (l.head?.getD none, 0)
  | fuel + 1, l =>
    match l with
    | [] => (none, 0)
    | [a] => (a, 0)
    | l =>
      let p := pairUp op l
      let q := reduceTree op fuel p.1
      (q.1, p.2 ||| q.2)

/-- The checks of major 0x28. -/
def reduceCheck (o : VecOps) : VecCheck := { elemCheck isIntFlt [0, 1, 2] o with noRsr := true }

/-- Element 0 of vd written, the others kept. -/
def State.writeElem0 (s : State) (slot : Nat) (st : Strand) (o : VecOps) (w v : Nat) (f : FFlags) : Out :=
  let d := (s.getV slot st o.vd.toNat).toNat
  let st := (st.raise f).touchV o.vd.toNat
  .next ((s.setV slot st o.vd.toNat (BitVec.ofNat 4096 (setElem d w 0 v))).retire slot st)

/-- The active elements of VS1, the others absent. -/
def presentElems (s : State) (slot : Nat) (st : Strand) (o : VecOps) : List (Option Nat) :=
  (List.range (elemCount o.tn)).map fun i =>
    if (st.getM o.m).getLsbD i then some (firstElems s slot st o i) else none

/-- A reduction by an operation on bits over the fixed tree. -/
def treeRow (op : Nat → Nat → Nat × FFlags) (o : VecOps) (s : State) (slot : Nat) (st : Strand) : Out :=
  let r := reduceTree op 11 (presentElems s slot st o)
  let q := combine op (some (secondElems s slot st o 0)) r.1
  s.writeElem0 slot st o (typeBits o.tn) (q.1.getD 0) (r.2 ||| q.2)

/-- Sum (R230). -/
def execVredsum (o : VecOps) (s : State) : Out :=
  let t := o.tn
  s.runV o (reduceCheck o) fun slot st =>
    if isInt t then
      let total := intOf (secondElems s slot st o 0) t
        + ((presentElems s slot st o).map fun x => match x with | some v => intOf v t | none => 0).sum
      let r := fitInt total t o.sat
      s.writeElem0 slot st o (typeBits t) r.1 r.2
    else
      treeRow (fun a b => fArith .add (decodeFloat a t) (decodeFloat b t) (Num.ofInt 0) t o.rnd o.sat 0) o s slot st

/-- Maximum; X[0] prefers numbers (R230). -/
def execVredmax (o : VecOps) (s : State) : Out :=
  s.runV o (reduceCheck o) fun slot st => treeRow (fun a b => minMax a b o.tn true (o.x == 1)) o s slot st

/-- Minimum (R230). -/
def execVredmin (o : VecOps) (s : State) : Out :=
  s.runV o (reduceCheck o) fun slot st => treeRow (fun a b => minMax a b o.tn false (o.x == 1)) o s slot st

/-- The sequence of R231: results for elements i to i + fuel − 1, and the flags. -/
def scanElems (op : Nat → Nat → Nat × FFlags) (excl : Bool) (active : Nat → Bool) (x old : Nat → Nat) :
    Nat → Nat → Nat → List Nat × FFlags
  | 0, _, _ => ([], 0)
  | fuel + 1, i, acc =>
    if active i then
      let r := op acc (x i)
      let q := scanElems op excl active x old fuel (i + 1) r.1
      ((if excl then acc else r.1) :: q.1, r.2 ||| q.2)
    else
      let q := scanElems op excl active x old fuel (i + 1) acc
      (old i :: q.1, q.2)

/-- Sequential scan (R231): X[1:0] op, X[2] EXCL, X[3] number-preferring (DEDUCED, log entry 26). -/
def execVscan (o : VecOps) (s : State) : Out :=
  let t := o.tn
  let op (a b : Nat) : Nat × FFlags :=
    match o.x.toNat % 4 with
    | 0 =>
      if isInt t then fitInt (intOf a t + intOf b t) t o.sat
      else fArith .add (decodeFloat a t) (decodeFloat b t) (Num.ofInt 0) t o.rnd o.sat 0
    | 1 => minMax a b t true (o.x.toNat / 8 == 1)
    | _ => minMax a b t false (o.x.toNat / 8 == 1)
  s.runV o (reduceCheck o) fun slot st =>
    let w := typeBits t
    let old := (s.getV slot st o.vd.toNat).toNat
    let r := scanElems op (o.x.getLsbD 2) (st.getM o.m).getLsbD (firstElems s slot st o) (elemOf old w) (elemCount t) 0
      (secondElems s slot st o 0)
    let st := (st.raise r.2).touchV o.vd.toNat
    .next ((s.setV slot st o.vd.toNat (packV w r.1)).retire slot st)

/-! ### Permutes, slides, compress, broadcast (R232 to R234) -/

/-- Element idx(i) of the table (R232). -/
def execVperm (o : VecOps) (s : State) : Out :=
  let w := typeBits o.tn
  let n := elemCount o.tn
  let k := permK o
  let two := o.vs3 != 0
  let c : VecCheck :=
    { types := anyType, src := [0]
      groups := permGroups o
      noRsr := false, other := true }
  s.runV o c fun slot st =>
    s.elementwise slot st o fun i _ =>
      let j := groupElem s slot st o.vs2.toNat k (max w 16) i
      if j < n then (firstElems s slot st o j, 0)
      else if two && decide (j < 2 * n) then (elemOf (s.getV slot st o.vs3).toNat w (j - n), 0)
      else (0, 0)

/-- Element i + s of VS1, or zero bits (R232). -/
def execVslide (o : VecOps) (s : State) : Out :=
  let c : VecCheck :=
    { types := anyType, src := [1, 2], groups := unaryGroups o, noRsr := false, other := true }
  s.runV o c fun slot st =>
    let d : Int := if o.src == 1 then (st.getG o.b).toInt else o.i20
    s.elementwise slot st o fun i _ =>
      let j : Int := i + d
      if 0 ≤ j ∧ j < elemCount o.tn then (firstElems s slot st o j.toNat, 0) else (0, 0)

/-- The active elements in ascending order, and their count in gA (R233). -/
def execVcomp (o : VecOps) (s : State) : Out :=
  let w := typeBits o.tn
  let n := elemCount o.tn
  let c : VecCheck :=
    { types := anyType, src := [0], groups := unaryGroups o, noRsr := false, other := true }
  s.runV o c fun slot st =>
    let l := (presentElems s slot st o).filterMap id
    let old := (s.getV slot st o.vd.toNat).toNat
    let r := l ++ ((List.range n).drop l.length).map (elemOf old w)
    let st := st.touchV o.vd.toNat
    .next ((s.setV slot st o.vd.toNat (packV w r)).setWord slot st o.a (BitVec.ofNat 64 l.length))

/-- Element i := b (R234). -/
def execVbcast (o : VecOps) (s : State) : Out :=
  let c : VecCheck := { types := anyType, src := [1, 2], groups := destGroups o, noRsr := false, other := true }
  s.runV o c fun slot st => s.elementwise slot st o fun i _ => (secondElems s slot st o i, 0)

/-- One element to or from a scalar register (R234). -/
def execVmovs (o : VecOps) (s : State) : Out :=
  let t := o.tn
  let w := typeBits t
  let c : VecCheck :=
    { types := anyType, src := [1, 2], groups := movsGroups o, noRsr := false, other := true }
  s.runV o c fun slot st =>
    let j := if o.src == 1 then (st.getG o.b).toNat else (match o.ext with | none => 0 | some e => e.i20.toNat)
    if o.x == 0 then
      .next (s.setWord slot st o.a (if j < elemCount t then ext64 (firstElems s slot st o j) t else 0))
    else if j < elemCount t then
      let d := (s.getV slot st o.vd.toNat).toNat
      .next ((s.setV slot st o.vd.toNat (BitVec.ofNat 4096 (setElem d w j (st.getG o.a).toNat))).retire slot
        (st.touchV o.vd.toNat))
    else .next (s.retire slot st)

/-! ### Sorted sets and exact sums (R235, R236) -/

/-- Intersection marks and advance counts (R235). -/
def execVsisx (o : VecOps) (s : State) : Out :=
  let t := o.tn
  let w := typeBits t
  let n := elemCount t
  let c : VecCheck := { types := isInt, src := [0], groups := setGroups o, noRsr := false, other := true }
  s.runV o c fun slot st =>
    let a := (elemsOf (s.getV slot st o.vs1.toNat).toNat w n).map fun x => intOf x t
    let b := (elemsOf (s.getV slot st o.vs2.toNat).toNat w n).map fun x => intOf x t
    let old := (st.getM (maskNo o.vd)).toNat
    let bit (i : Nat) : Nat :=
      if (st.getM o.m).getLsbD i then (b.contains (a.getD i 0)).toNat else elemOf old 1 i
    let na := (a.filter fun x => x ≤ b.getD (n - 1) 0).length
    let nb := (b.filter fun x => x ≤ a.getD (n - 1) 0).length
    let st := st.setMaskLow (maskNo o.vd) n (packElems 1 ((List.range n).map bit))
    .next (s.retire slot ((st.setG o.a (BitVec.ofNat 64 na)).setG o.b (BitVec.ofNat 64 nb)))

/-- Exact fixed-point sum into element 0 of vd, read as s64 (R236). -/
def execVxsum (o : VecOps) (s : State) : Out :=
  let t := o.tn
  let c : VecCheck := { types := isIntFlt, src := [0], groups := unaryGroups o, noRsr := false, other := true }
  s.runV o c fun slot st =>
    let r := frameElems o.rnd (st.getM o.m).getLsbD (fun _ => 0)
      (fun i u =>
        let x := toFix64 (decodeNum (firstElems s slot st o i) t) o.i20 o.rnd u
        (wrapInt 64 x.1, x.2)) (elemCount t) 0 st.gen
    let d := (s.getV slot st o.vd.toNat).toNat
    let st := { st with gen := r.2.2 }
    s.writeElem0 slot st o 64 ((elemOf d 64 0 + r.1.sum) % 2 ^ 64) r.2.1

end Sys2Proof.Machine
end

