-- ==== Sys2Proof/Machine/Dispatch.lean ====
section
/-! DEFINITION. One arm for each step of the opcode table: the direct call of its meaning. -/

namespace Sys2Proof.Machine

/-- The meaning of an instruction or event (spec/95_what_each_step_holds.md). -/
def exec (i : Instr) (s : State) : Host.Outcome State Fault Refusal :=
  match i with
  | .nop => Sys2Proof.Machine.execNop s
  | .addHeadOnly a b => Sys2Proof.Machine.execAddHeadOnly a b s
  | .addTl2 o => Sys2Proof.Machine.execAddTl2 o s
  | .addTl4 o => Sys2Proof.Machine.execAddTl4 o s
  | .subHeadOnly a b => Sys2Proof.Machine.execSubHeadOnly a b s
  | .subTl2 o => Sys2Proof.Machine.execSubTl2 o s
  | .subTl4 o => Sys2Proof.Machine.execSubTl4 o s
  | .andHeadOnly a b => Sys2Proof.Machine.execAndHeadOnly a b s
  | .andTl2 o => Sys2Proof.Machine.execAndTl2 o s
  | .andTl4 o => Sys2Proof.Machine.execAndTl4 o s
  | .orHeadOnly a b => Sys2Proof.Machine.execOrHeadOnly a b s
  | .orTl2 o => Sys2Proof.Machine.execOrTl2 o s
  | .orTl4 o => Sys2Proof.Machine.execOrTl4 o s
  | .xorHeadOnly a b => Sys2Proof.Machine.execXorHeadOnly a b s
  | .xorTl2 o => Sys2Proof.Machine.execXorTl2 o s
  | .xorTl4 o => Sys2Proof.Machine.execXorTl4 o s
  | .shlHeadOnly a b => Sys2Proof.Machine.execShlHeadOnly a b s
  | .shlTl2 o => Sys2Proof.Machine.execShlTl2 o s
  | .shlTl4 o => Sys2Proof.Machine.execShlTl4 o s
  | .shrHeadOnly a b => Sys2Proof.Machine.execShrHeadOnly a b s
  | .shrTl2 o => Sys2Proof.Machine.execShrTl2 o s
  | .shrTl4 o => Sys2Proof.Machine.execShrTl4 o s
  | .sarHeadOnly a b => Sys2Proof.Machine.execSarHeadOnly a b s
  | .sarTl2 o => Sys2Proof.Machine.execSarTl2 o s
  | .sarTl4 o => Sys2Proof.Machine.execSarTl4 o s
  | .rolTl2 o => Sys2Proof.Machine.execRolTl2 o s
  | .rolTl4 o => Sys2Proof.Machine.execRolTl4 o s
  | .mov a b => Sys2Proof.Machine.execMov a b s
  | .mulHeadOnly a b => Sys2Proof.Machine.execMulHeadOnly a b s
  | .mulTl2 o => Sys2Proof.Machine.execMulTl2 o s
  | .mulTl4 o => Sys2Proof.Machine.execMulTl4 o s
  | .mulh a b c ty => Sys2Proof.Machine.execMulh a b c ty s
  | .div a b c ty => Sys2Proof.Machine.execDiv a b c ty s
  | .rem a b c ty => Sys2Proof.Machine.execRem a b c ty s
  | .minTl2 a b c ty => Sys2Proof.Machine.execMinTl2 a b c ty s
  | .minTl4 a b ty i24 => Sys2Proof.Machine.execMinTl4 a b ty i24 s
  | .maxTl2 a b c ty => Sys2Proof.Machine.execMaxTl2 a b c ty s
  | .maxTl4 a b ty i24 => Sys2Proof.Machine.execMaxTl4 a b ty i24 s
  | .andnTl2 a b c => Sys2Proof.Machine.execAndnTl2 a b c s
  | .andnTl4 a b i24 => Sys2Proof.Machine.execAndnTl4 a b i24 s
  | .clz a b t => Sys2Proof.Machine.execClz a b t s
  | .ctz a b t => Sys2Proof.Machine.execCtz a b t s
  | .popc a b t => Sys2Proof.Machine.execPopc a b t s
  | .brev a b t => Sys2Proof.Machine.execBrev a b t s
  | .bswap a b t => Sys2Proof.Machine.execBswap a b t s
  | .sext a b n => Sys2Proof.Machine.execSext a b n s
  | .zext a b n => Sys2Proof.Machine.execZext a b n s
  | .liTl2 a k8 => Sys2Proof.Machine.execLiTl2 a k8 s
  | .liTl4 a i24 => Sys2Proof.Machine.execLiTl4 a i24 s
  | .limm a lit => Sys2Proof.Machine.execLimm a lit s
  | .addaHeadOnly a b => Sys2Proof.Machine.execAddaHeadOnly a b s
  | .addaTl2 o => Sys2Proof.Machine.execAddaTl2 o s
  | .addaTl4 o => Sys2Proof.Machine.execAddaTl4 o s
  | .tagTl2 a b c => Sys2Proof.Machine.execTagTl2 a b c s
  | .tagTl4 a b fmt blog => Sys2Proof.Machine.execTagTl4 a b fmt blog s
  | .untag a b => Sys2Proof.Machine.execUntag a b s
  | .tagof a b => Sys2Proof.Machine.execTagof a b s
  | .eidxTl2 a b c => Sys2Proof.Machine.execEidxTl2 a b c s
  | .eidxTl4 a b i24 => Sys2Proof.Machine.execEidxTl4 a b i24 s
  | .cmp p b c t cc => Sys2Proof.Machine.execCmp p b c t cc s
  | .cmpiTl2 p b t cc k8 => Sys2Proof.Machine.execCmpiTl2 p b t cc k8 s
  | .cmpiTl4 p b t cc i24 => Sys2Proof.Machine.execCmpiTl4 p b t cc i24 s
  | .plog pd pa pb lut => Sys2Proof.Machine.execPlog pd pa pb lut s
  | .sel a b c p neg => Sys2Proof.Machine.execSel a b c p neg s
  | .pmovToScalar a => Sys2Proof.Machine.execPmovToScalar a s
  | .pmovFromScalar b => Sys2Proof.Machine.execPmovFromScalar b s
  | .br i24 => Sys2Proof.Machine.execBr i24 s
  | .bp p neg i24 => Sys2Proof.Machine.execBp p neg i24 s
  | .bz a i24 => Sys2Proof.Machine.execBz a i24 s
  | .bnz a i24 => Sys2Proof.Machine.execBnz a i24 s
  | .call i24 => Sys2Proof.Machine.execCall i24 s
  | .ret => Sys2Proof.Machine.execRet s
  | .callr b => Sys2Proof.Machine.execCallr b s
  | .jmpr b => Sys2Proof.Machine.execJmpr b s
  | .loop b k8 => Sys2Proof.Machine.execLoop b k8 s
  | .loopi count n => Sys2Proof.Machine.execLoopi count n s
  | .lbrk p neg => Sys2Proof.Machine.execLbrk p neg s
  | .flushw => Sys2Proof.Machine.execFlushw s
  | .setws b c => Sys2Proof.Machine.execSetws b c s
  | .srd a k8 => Sys2Proof.Machine.execSrd a k8 s
  | .swr b k8 => Sys2Proof.Machine.execSwr b k8 s
  | .yield k8 => Sys2Proof.Machine.execYield k8 s
  | .vadd o => Sys2Proof.Machine.execVadd o s
  | .vsub o => Sys2Proof.Machine.execVsub o s
  | .vmul o => Sys2Proof.Machine.execVmul o s
  | .vfma o => Sys2Proof.Machine.execVfma o s
  | .vfms o => Sys2Proof.Machine.execVfms o s
  | .vfnma o => Sys2Proof.Machine.execVfnma o s
  | .vmin o => Sys2Proof.Machine.execVmin o s
  | .vmax o => Sys2Proof.Machine.execVmax o s
  | .vminn o => Sys2Proof.Machine.execVminn o s
  | .vmaxn o => Sys2Proof.Machine.execVmaxn o s
  | .vand o => Sys2Proof.Machine.execVand o s
  | .vor o => Sys2Proof.Machine.execVor o s
  | .vxor o => Sys2Proof.Machine.execVxor o s
  | .vshl o => Sys2Proof.Machine.execVshl o s
  | .vshr o => Sys2Proof.Machine.execVshr o s
  | .vsar o => Sys2Proof.Machine.execVsar o s
  | .vabs o => Sys2Proof.Machine.execVabs o s
  | .vneg o => Sys2Proof.Machine.execVneg o s
  | .vcmp o => Sys2Proof.Machine.execVcmp o s
  | .vsel o => Sys2Proof.Machine.execVsel o s
  | .mlog o => Sys2Proof.Machine.execMlog o s
  | .vpopm o => Sys2Proof.Machine.execVpopm o s
  | .viota o => Sys2Proof.Machine.execViota o s
  | .vcvt o => Sys2Proof.Machine.execVcvt o s
  | .vwadd o => Sys2Proof.Machine.execVwadd o s
  | .vwmul o => Sys2Proof.Machine.execVwmul o s
  | .vwmacc o => Sys2Proof.Machine.execVwmacc o s
  | .vdot4 o => Sys2Proof.Machine.execVdot4 o s
  | .vrcp o => Sys2Proof.Machine.execVrcp o s
  | .vrsq o => Sys2Proof.Machine.execVrsq o s
  | .vrcps o => Sys2Proof.Machine.execVrcps o s
  | .vrsqs o => Sys2Proof.Machine.execVrsqs o s
  | .vsqrt o => Sys2Proof.Machine.execVsqrt o s
  | .vdiv o => Sys2Proof.Machine.execVdiv o s
  | .vexp2 o => Sys2Proof.Machine.execVexp2 o s
  | .vlog2 o => Sys2Proof.Machine.execVlog2 o s
  | .vtanh o => Sys2Proof.Machine.execVtanh o s
  | .vredsum o => Sys2Proof.Machine.execVredsum o s
  | .vredmax o => Sys2Proof.Machine.execVredmax o s
  | .vredmin o => Sys2Proof.Machine.execVredmin o s
  | .vscan o => Sys2Proof.Machine.execVscan o s
  | .vperm o => Sys2Proof.Machine.execVperm o s
  | .vslide o => Sys2Proof.Machine.execVslide o s
  | .vcomp o => Sys2Proof.Machine.execVcomp o s
  | .vbcast o => Sys2Proof.Machine.execVbcast o s
  | .vmovs o => Sys2Proof.Machine.execVmovs o s
  | .vsisx o => Sys2Proof.Machine.execVsisx o s
  | .vxsum o => Sys2Proof.Machine.execVxsum o s
  | .ld o => Sys2Proof.Machine.execLd o s
  | .st o => Sys2Proof.Machine.execSt o s
  | .ldl o => Sys2Proof.Machine.execLdl o s
  | .stl o => Sys2Proof.Machine.execStl o s
  | .vld o => Sys2Proof.Machine.execVld o s
  | .vst o => Sys2Proof.Machine.execVst o s
  | .vlds o => Sys2Proof.Machine.execVlds o s
  | .vsts o => Sys2Proof.Machine.execVsts o s
  | .vldt o => Sys2Proof.Machine.execVldt o s
  | .vgath o => Sys2Proof.Machine.execVgath o s
  | .vscat o => Sys2Proof.Machine.execVscat o s
  | .aadd o => Sys2Proof.Machine.execAadd o s
  | .aand o => Sys2Proof.Machine.execAand o s
  | .aor o => Sys2Proof.Machine.execAor o s
  | .axor o => Sys2Proof.Machine.execAxor o s
  | .amin o => Sys2Proof.Machine.execAmin o s
  | .amax o => Sys2Proof.Machine.execAmax o s
  | .aswap o => Sys2Proof.Machine.execAswap o s
  | .acas o => Sys2Proof.Machine.execAcas o s
  | .afadd o => Sys2Proof.Machine.execAfadd o s
  | .fence o => Sys2Proof.Machine.execFence o s
  | .mwait o => Sys2Proof.Machine.execMwait o s
  | .pref o => Sys2Proof.Machine.execPref o s
  | .cflush o => Sys2Proof.Machine.execCflush o s
  | .lzero o => Sys2Proof.Machine.execLzero o s
  | .bara o => Sys2Proof.Machine.execBara o s
  | .barw o => Sys2Proof.Machine.execBarw o s
  | .bar o => Sys2Proof.Machine.execBar o s
  | .barinit o => Sys2Proof.Machine.execBarinit o s
  | .tdecl o => Sys2Proof.Machine.execTdecl o s
  | .tfree o => Sys2Proof.Machine.execTfree o s
  | .tfwd o => Sys2Proof.Machine.execTfwd o s
  | .migr o => Sys2Proof.Machine.execMigr o s
  | .shape o => Sys2Proof.Machine.execShape o s
  | .mzero o => Sys2Proof.Machine.execMzero o s
  | .mma o => Sys2Proof.Machine.execMma o s
  | .mjoint o => Sys2Proof.Machine.execMjoint o s
  | .mld o => Sys2Proof.Machine.execMld o s
  | .mst o => Sys2Proof.Machine.execMst o s
  | .tstb o => Sys2Proof.Machine.execTstb o s
  | .sload o => Sys2Proof.Machine.execSload o s
  | .ssort o => Sys2Proof.Machine.execSsort o s
  | .sstore o => Sys2Proof.Machine.execSstore o s
  | .sstat o => Sys2Proof.Machine.execSstat o s
  | .hcopy o => Sys2Proof.Machine.execHcopy o s
  | .hcopym o => Sys2Proof.Machine.execHcopym o s
  | .hsend o => Sys2Proof.Machine.execHsend o s
  | .hgath o => Sys2Proof.Machine.execHgath o s
  | .bbinit o => Sys2Proof.Machine.execBbinit o s
  | .bbwait o => Sys2Proof.Machine.execBbwait o s
  | .bbtest o => Sys2Proof.Machine.execBbtest o s
  | .launch o => Sys2Proof.Machine.execLaunch o s
  | .task o => Sys2Proof.Machine.execTask o s
  | .fpdecl o => Sys2Proof.Machine.execFpdecl o s
  | .trap o => Sys2Proof.Machine.execTrap o s
  | .eret o => Sys2Proof.Machine.execEret o s
  | .exit o => Sys2Proof.Machine.execExit o s
  | .phintRegisters o => Sys2Proof.Machine.execPhintRegisters o s
  | .phintRange o => Sys2Proof.Machine.execPhintRange o s
  | .tlbinv o => Sys2Proof.Machine.execTlbinv o s
  | .fack o => Sys2Proof.Machine.execFack o s
  | .instructionLineFetch slot => Sys2Proof.Machine.execInstructionLineFetch slot s
  | .barrierWakeup msg => Sys2Proof.Machine.execBarrierWakeup msg s
  | .migrationPacketAccept core => Sys2Proof.Machine.execMigrationPacketAccept core s
  | .jointStart die bond => Sys2Proof.Machine.execJointStart die bond s
  | .followOnStart agent seq => Sys2Proof.Machine.execFollowOnStart agent seq s
  | .engineCommandStart agent engine => Sys2Proof.Machine.execEngineCommandStart agent engine s
  | .hodPieceLand agent seq piece => Sys2Proof.Machine.execHodPieceLand agent seq piece s
  | .bbwaitTimeout slot => Sys2Proof.Machine.execBbwaitTimeout slot s
  | .monitorFire slot => Sys2Proof.Machine.execMonitorFire slot s
  | .mwaitTimeout slot => Sys2Proof.Machine.execMwaitTimeout slot s
  | .mwaitPoll slot ext => Sys2Proof.Machine.execMwaitPoll slot ext s
  | .hubRecordAccept source => Sys2Proof.Machine.execHubRecordAccept source s
  | .placeLaunch die => Sys2Proof.Machine.execPlaceLaunch die s
  | .gangReserve die => Sys2Proof.Machine.execGangReserve die s
  | .launchComplete lid => Sys2Proof.Machine.execLaunchComplete lid s
  | .quadSave agent => Sys2Proof.Machine.execQuadSave agent s
  | .saveLateComplete isQuad n => Sys2Proof.Machine.execSaveLateComplete isQuad n s
  | .lintelRestore isQuad n => Sys2Proof.Machine.execLintelRestore isQuad n s
  | .parkMessage msg => Sys2Proof.Machine.execParkMessage msg s
  | .messageReoffer msg => Sys2Proof.Machine.execMessageReoffer msg s
  | .gets line => Sys2Proof.Machine.execGets line s
  | .getl line => Sys2Proof.Machine.execGetl line s
  | .geto line => Sys2Proof.Machine.execGeto line s
  | .puto agent line => Sys2Proof.Machine.execPuto agent line s
  | .puts agent line => Sys2Proof.Machine.execPuts agent line s
  | .invalidation agent line => Sys2Proof.Machine.execInvalidation agent line s
  | .recall agent line => Sys2Proof.Machine.execRecall agent line s
  | .answer agent line => Sys2Proof.Machine.execAnswer agent line s
  | .horizonExpiry line => Sys2Proof.Machine.execHorizonExpiry line s
  | .leaseExpiry agent line => Sys2Proof.Machine.execLeaseExpiry agent line s
  | .loadPerformed core id pieces ext => Sys2Proof.Machine.execLoadPerformed core id pieces ext s
  | .storePerformed core id pieces => Sys2Proof.Machine.execStorePerformed core id pieces s
  | .engineCommandCompletion agent seq => Sys2Proof.Machine.execEngineCommandCompletion agent seq s
  | .yieldExpiry slot => Sys2Proof.Machine.execYieldExpiry slot s
  | .breakpointMatch slot => Sys2Proof.Machine.execBreakpointMatch slot s
  | .quadWake agent => Sys2Proof.Machine.execQuadWake agent s
  | .windowSpillFill slot fill => Sys2Proof.Machine.execWindowSpillFill slot fill s
  | .pageWalk agent asid va => Sys2Proof.Machine.execPageWalk agent asid va s
  | .bayDonation die bay => Sys2Proof.Machine.execBayDonation die bay s
  | .debugSessionExpiry tenant => Sys2Proof.Machine.execDebugSessionExpiry tenant s
  | .bitoTimeout port line => Sys2Proof.Machine.execBitoTimeout port line s
  | .agentUnresponsive agent line => Sys2Proof.Machine.execAgentUnresponsive agent line s
  | .cxlRetrainTimeout port => Sys2Proof.Machine.execCxlRetrainTimeout port s
  | .heartbeatCrossing => Sys2Proof.Machine.execHeartbeatCrossing s
  | .timeCompare skews => Sys2Proof.Machine.execTimeCompare skews s
  | .dieStatusBeat answered => Sys2Proof.Machine.execDieStatusBeat answered s
  | .powerSample watts => Sys2Proof.Machine.execPowerSample watts s
  | .throttleLift die => Sys2Proof.Machine.execThrottleLift die s
  | .gangTimerExpiry => Sys2Proof.Machine.execGangTimerExpiry s
  | .drainLeadHold => Sys2Proof.Machine.execDrainLeadHold s
  | .courseEdge => Sys2Proof.Machine.execCourseEdge s
  | .overlimExpiry => Sys2Proof.Machine.execOverlimExpiry s
  | .courseBoundary => Sys2Proof.Machine.execCourseBoundary s
  | .packageIdleEntry => Sys2Proof.Machine.execPackageIdleEntry s
  | .packageIdleExit => Sys2Proof.Machine.execPackageIdleExit s
  | .mailboxComplete => Sys2Proof.Machine.execMailboxComplete s
  | .powerTripClear => Sys2Proof.Machine.execPowerTripClear s
  | .qtailWrite queue tail => Sys2Proof.Machine.execQtailWrite queue tail s
  | .qtailAmo hart queue op v => Sys2Proof.Machine.execQtailAmo hart queue op v s
  | .budgetExhaustion lid energy => Sys2Proof.Machine.execBudgetExhaustion lid energy s
  | .commit ncourse => Sys2Proof.Machine.execCommit ncourse s
  | .cttimeWrite v => Sys2Proof.Machine.execCttimeWrite v s
  | .tnsaveWrite tenant v => Sys2Proof.Machine.execTnsaveWrite tenant v s
  | .hostRequest port r => Sys2Proof.Machine.execHostRequest port r s
  | .birsp port line data => Sys2Proof.Machine.execBirsp port line data s
  | .hostSnoop line inv => Sys2Proof.Machine.execHostSnoop line inv s
  | .dpSnap home slice => Sys2Proof.Machine.execDpSnap home slice s
  | .dptEnable home slice => Sys2Proof.Machine.execDptEnable home slice s
  | .dptClear home slice => Sys2Proof.Machine.execDptClear home slice s
  | .vlntenantWrite hart mMode v => Sys2Proof.Machine.execVlntenantWrite hart mMode v s
  | .heartbeatReceive link => Sys2Proof.Machine.execHeartbeatReceive link s
  | .fenceArrival device => Sys2Proof.Machine.execFenceArrival device s
  | .fenceClear device => Sys2Proof.Machine.execFenceClear device s
  | .powerOn images => Sys2Proof.Machine.execPowerOn images s
  | .spdm => Sys2Proof.Machine.execSpdm s
  | .doeSpdmRequest port request => Sys2Proof.Machine.execDoeSpdmRequest port request s
  | .keygen => Sys2Proof.Machine.execKeygen s
  | .keyclr => Sys2Proof.Machine.execKeyclr s
  | .tkeyset => Sys2Proof.Machine.execTkeyset s
  | .dbgkey => Sys2Proof.Machine.execDbgkey s
  | .dbgnonce => Sys2Proof.Machine.execDbgnonce s
  | .dbgauth => Sys2Proof.Machine.execDbgauth s
  | .dbgend => Sys2Proof.Machine.execDbgend s
  | .lifecycle => Sys2Proof.Machine.execLifecycle s
  | .conf => Sys2Proof.Machine.execConf s
  | .debugHalt slot => Sys2Proof.Machine.execDebugHalt slot s
  | .debugStep slot => Sys2Proof.Machine.execDebugStep slot s
  | .continueAt t => Sys2Proof.Machine.execContinueAt t s
  | .powerTrip => Sys2Proof.Machine.execPowerTrip s
  | .thermalThrottleTrip die => Sys2Proof.Machine.execThermalThrottleTrip die s
  | .thermalShutdown die => Sys2Proof.Machine.execThermalShutdown die s
  | .lkctlGo tenant => Sys2Proof.Machine.execLkctlGo tenant s
  | .ecclr memoryPage tenant clr => Sys2Proof.Machine.execEcclr memoryPage tenant clr s
  | .structCounterClear => Sys2Proof.Machine.execStructCounterClear s
  | .registerWrite who pa size v => Sys2Proof.Machine.execRegisterWrite who pa size v s
  | .privateStateError target => Sys2Proof.Machine.execPrivateStateError target s
  | .patrolScrub struct pa check => Sys2Proof.Machine.execPatrolScrub struct pa check s
  | .flitReplay m => Sys2Proof.Machine.execFlitReplay m s
  | .moduleRetrain m => Sys2Proof.Machine.execModuleRetrain m s
  | .cxlLinkDown port surprise => Sys2Proof.Machine.execCxlLinkDown port surprise s
  | .cxlLinkUp port => Sys2Proof.Machine.execCxlLinkUp port s
  | .watchdogKick => Sys2Proof.Machine.execWatchdogKick s
  | .watchdogExpiry images => Sys2Proof.Machine.execWatchdogExpiry images s
  | .powerRemoved => Sys2Proof.Machine.execPowerRemoved s
  | .peerLinkLoss link => Sys2Proof.Machine.execPeerLinkLoss link s
  | .peerLinkTrained link peer => Sys2Proof.Machine.execPeerLinkTrained link peer s
  | .ucieRetrainComplete m good => Sys2Proof.Machine.execUcieRetrainComplete m good s
  | .dispatcherUncorrectableError die => Sys2Proof.Machine.execDispatcherUncorrectableError die s
  | .counterResynchronisation => Sys2Proof.Machine.execCounterResynchronisation s
  | .debugPortRequest r => Sys2Proof.Machine.execDebugPortRequest r s
  | .cxlCacheResponse line owned data => Sys2Proof.Machine.execCxlCacheResponse line owned data s

end Sys2Proof.Machine
end

