-- ==== Sys2Proof/Machine/Schedule.lean ====
section
/-! DEFINITION. Which row the next step runs (DESIGN CHOICE, log entry 3): what the environment has put on the agenda, else, turn by turn, an
event of the module's own units and the next instruction of a strand (spec/02_execution.md R59 to R61; spec/07_encoding.md
R163 to R168). -/

namespace Sys2Proof.Machine

/-- What the next step does. -/
inductive Choice where
  /-- Run a row of the opcode table. -/
  | run (i : Instr) (s : State)
  /-- A trap that is found before an instruction exists, or an idle cycle. -/
  | done (s : State)
  /-- The module is Off. -/
  | off

/-- The first ready strand among the slots listed. -/
def State.firstReady (s : State) (slots : List Nat) : Option (Nat × Strand) :=
  slots.findSome? fun k =>
    match s.strandAt k with
    | some st => if s.readyNow k st then some (k, st) else none
    | none => none

/-- The next slot that issues in a core: round-robin, from the slot after the one that issued last (R59). -/
def State.nextOfCore (s : State) (core : Nat) : Option (Nat × Strand) :=
  let l := (s.coreAt core).last
  s.firstReady ((List.range 16).map fun i => 16 * core + (l + 1 + i) % 16)

/-- The cores that hold strands, each once, in rising order. -/
def State.busyCores (s : State) : List Nat := (s.strands.map fun e => coreOf e.1).dedup

/-- The next slot that issues: the cores take turns, from the one after the core that issued last (DESIGN CHOICE, log entry 3). -/
def State.nextSlot (s : State) : Option (Nat × Strand) :=
  let cs := s.busyCores
  (cs.filter (fun c => decide (coreOf s.cur < c)) ++ cs.filter (fun c => decide (c ≤ coreOf s.cur))).findSome? s.nextOfCore

/-- The turn of a ready strand in its line: a program counter that is no head traps (R168), and otherwise the head is decoded and runs, or is
an illegal instruction (R177). -/
def State.issueLine (s : State) (slot : Nat) (st : Strand) (l : Line) : Choice :=
  if !isHead l st.pc.toNat then .done (s.trap slot st (trapOf causeIllegalLine 0 st.pc.toNat))
  else
    match decode (lineCode l ((st.pc.toNat % 64 - 2) / 2)) with
    | .ok i => .run i s
    | .error _ => .done (s.trapHead slot st causeIllegalInstr)

/-- The turn of a ready strand: it enters its line, if it has not yet (R165), and issues. -/
def State.issue (s : State) (slot : Nat) (st : Strand) : Choice :=
  match st.lineHeld with
  | some l => s.issueLine slot st l
  | none =>
    match s.readLine slot st (st.pc.toNat / 64 * 64) with
    | .error _ => .done s
    | .ok (l, s) =>
      let st := { st with fetch := some (BitVec.ofNat 52 (st.pc.toNat / 64 * 64), l) }
      (s.setStrand slot st).issueLine slot st l

/-- The turn goes to a slot: it is in focus, and its core's next turn starts after it (R59). -/
def State.focus (s : State) (slot : Nat) : State :=
  let s := s.setCore (coreOf slot) { s.coreAt (coreOf slot) with last := slot % 16 }
  { s with cur := slot, eventTurn := true }

/-! ### Events of the module's own units -/

/-- A time has come. -/
def State.due (s : State) (t : Option Nat) : Bool := match t with | some t => decide (t ≤ s.time) | none => false

/-- Events offered when a time has come (DESIGN CHOICE, log entry 6). -/
def State.whenDue (s : State) (t : Option Nat) (i : Instr) : List Instr := if s.due t then [i] else []

/-- Waits of strands, and what a strand meets before it issues: a head comparator that matches (R348), or a line that it lacks (R43, R62,
R165, R210, R249, R267). -/
def State.strandEvents (s : State) : List Instr :=
  s.strands.flatMap fun e =>
    match e.2.wait with
    | .ready =>
      if !s.canIssue e.1 e.2 then []
      else if s.breaksAt e.1 e.2 then [.breakpointMatch e.1]
      else if (s.lineAt e.1 e.2).isNone then [.instructionLineFetch e.1]
      else []
    | .yielding t _ => s.whenDue (some t) (.yieldExpiry e.1)
    | .barrier _ _ => [.barrierWakeup (.wake e.1)]
    | .flipped _ _ => [.barrierWakeup (.wake e.1)]
    | .byteBarrier _ _ d _ => .monitorFire e.1 :: s.whenDue d (.bbwaitTimeout e.1)
    | .monitor _ _ _ _ _ d _ none => .monitorFire e.1 :: s.whenDue d (.mwaitTimeout e.1)
    | .monitor _ _ _ _ _ d _ (some p) => s.whenDue (some p) (.mwaitPoll e.1 []) ++ s.whenDue d (.mwaitTimeout e.1)
    | .migrating c => [.migrationPacketAccept c]

/-- Accesses in flight, packets, and the edges of cores (R79 to R83, R141, R147, R377). -/
def State.coreEvents (s : State) : List Instr :=
  s.cores.flatMap fun (e : Nat × CoreState) =>
    (e.2.queue.flatMap fun a =>
      [.loadPerformed e.1 a.id [] [], .storePerformed e.1 a.id [], .parkMessage (.store e.1 a.id), .messageReoffer (.store e.1 a.id)])
    ++ (if e.2.inbox.isEmpty then [] else [.migrationPacketAccept e.1, .parkMessage (.packet e.1)])
    ++ (match e.2.phase with
      | .stopped _ => [.saveLateComplete false e.1]
      | .awaiting => [.lintelRestore false e.1]
      | _ => [])

/-- A command's own events (R263, R265, R283, R287). -/
def cmdEvents (s : State) (a : Nat) (q : QuadState) (c : Cmd) : List Instr :=
  let pieces := c.flight ++ (if c.engine == some .hod && c.state == .running then [c.next] else []) ++ c.refused
  let done : List Instr :=
    match c.op with
    | .ssort _ _ _ _ => s.whenDue (some (c.started + stepsLeft q.sett c.phases)) (.engineCommandCompletion a c.seq)
    | .marker => [.engineCommandCompletion a c.seq]
    | _ => if c.state == .running && c.engine != some .hod then [.engineCommandCompletion a c.seq] else []
  done ++ (if c.after.isSome then [.followOnStart a c.seq] else [])
    ++ pieces.flatMap fun p => [.hodPieceLand a c.seq p, .parkMessage (.piece a c.seq p), .messageReoffer (.piece a c.seq p)]

/-- The engines of a quad, and its edges (R80 to R83, R263, R273, R350). -/
def State.quadEvents (s : State) : List Instr :=
  s.quads.flatMap fun (e : Nat × QuadState) =>
    (if e.2.cmds.isEmpty then [] else
      [.engineCommandStart e.1 .ashlar, .engineCommandStart e.1 .sett, .engineCommandStart e.1 .hod, .jointStart (e.1 / 48) (bondOf (e.1 % 48))])
    ++ e.2.cmds.flatMap (cmdEvents s e.1 e.2)
    ++ (match e.2.phase with
      | .stopped _ => [.quadSave e.1, .saveLateComplete true e.1]
      | .awaiting => [.lintelRestore true e.1]
      | _ => [])
    ++ s.whenDue e.2.wakeAt (.quadWake e.1)

/-- The row of a request at the head of its line's queue (R119). -/
def Request.row (r : Request) (line : Nat) : Instr :=
  match r.kind.row with
  | 0 => .gets line
  | 1 => .getl line
  | 2 => .geto line
  | 3 => .puto r.agent line
  | _ => .puts r.agent line

/-- The homes: queues, probes, answers, horizons, leases, and agents that do not answer (R119 to R125, R389, R396). -/
def State.homeEvents (s : State) : List Instr :=
  (s.homes.reqs.flatMap fun e =>
    (e.2.head?.toList.map fun r => r.row e.1) ++ (e.2.filter fun r => r.kind == .putO).map (fun r => .puto r.agent e.1)
      ++ s.whenDue (some (s.horizonOf e.1)) (.horizonExpiry e.1))
  ++ (s.homes.probes.flatMap fun p =>
    if p.agent < 200 then
      (if p.invalidate then .invalidation p.agent p.line else .recall p.agent p.line)
        :: s.whenDue (some (p.sent + 2 ^ 20)) (.agentUnresponsive p.agent p.line)
    else s.whenDue (some (p.sent + usCycles (s.sys.bito.toList.getD (p.agent - 200) 0).toNat)) (.bitoTimeout (p.agent - 200) p.line))
  ++ (s.homes.answers.map fun x => .answer x.agent x.line)
  ++ s.copies.flatMap fun (e : Nat × L2Copy) =>
    match e.2.st with
    | .leased t => s.whenDue (some t) (.leaseExpiry (e.1 / 2 ^ 45) (e.1 % 2 ^ 45))
    | _ => []

/-- What the parties outside the compute dies have asked for and is not yet performed (R136, R151). -/
def State.partyEvents (s : State) : List Instr :=
  s.hub.ops.flatMap fun (e : Nat × List PartyOp) => e.2.flatMap fun op =>
    if op.kind.writes then [.storePerformed (768 + e.1) op.id []] else [.loadPerformed (768 + e.1) op.id [] []]

/-- The hub (R46 to R57, R350). -/
def State.hubEvents (s : State) : List Instr :=
  (s.hub.queues.map fun e => .hubRecordAccept e.1) ++ (if s.hub.tasks.isEmpty then [] else [.hubRecordAccept 64])
  ++ (if s.hub.launches.isEmpty then [] else
    (s.hub.launches.map fun l => .launchComplete l.lid)
      ++ (List.range 4).flatMap fun d => [.placeLaunch d, .gangReserve d])
  ++ s.whenDue (((s.hub.gang.bind s.launchOf).bind (·.reservedAt)).map (· + 3200)) .gangTimerExpiry
  ++ (if s.power.pidle then s.whenDue (some (s.hub.emptySince + usCycles 1000)) .packageIdleEntry else [])
  ++ s.whenDue s.power.readyAt .packageIdleExit

/-- The course in force (R69 to R86). -/
def State.coursingEvents (s : State) : List Instr :=
  let idle (d b : Nat) : List Instr :=
    match SMap.find s.coursing.idleSince (8 * d + b) with
    | none => [.bayDonation d b]
    | some t => s.whenDue (some (t + shareIdle (courseShare s.coursing.table s.coursing.active s.coursing.course.toNat
        (courseBay s.coursing.table s.coursing.active s.coursing.course.toNat d b).tenant) * 160)) (.bayDonation d b)
  s.whenDue s.holdTime .drainLeadHold ++ s.whenDue s.edgeTime .courseEdge ++ s.whenDue s.overrunTime .overlimExpiry
  ++ s.whenDue s.boundary .courseBoundary
  ++ (if s.coursing.enable then (List.range 4).flatMap fun d => (List.range 8).flatMap (idle d) else [])

/-- The row of a mailbox command (R341). -/
def commandRow (code : Nat) : Instr :=
  match code with
  | 0x01 => .spdm
  | 0x10 => .keygen
  | 0x11 => .keyclr
  | 0x12 => .tkeyset
  | 0x13 => .dbgkey
  | 0x20 => .dbgnonce
  | 0x21 => .dbgauth
  | 0x22 => .dbgend
  | 0x30 => .lifecycle
  | 0x31 => .conf
  | _ => .mailboxComplete

/-- Keystone, and what is compared and exchanged at fixed times (R334, R340, R346, R394, R407, R414). -/
def State.systemEvents (s : State) : List Instr :=
  (s.pod.claims.map fun c => .barrierWakeup (.settle c.index))
  ++ (if s.keystone.busy then [commandRow s.keystone.code.toNat, .mailboxComplete] else [])
  ++ (s.keystone.sessions.flatMap fun (x : Session) => s.whenDue (some (x.notAfter + 1)) (.debugSessionExpiry (x.tenant.getD 64)))
  ++ s.whenDue (some (160000 * (s.sys.crossings + 1))) .heartbeatCrossing
  ++ s.whenDue (some (1600 * (s.sys.compares + 1))) (.timeCompare [])
  ++ s.whenDue (some (16000 * (s.sys.beats + 1))) (.dieStatusBeat (List.range 10))
  ++ (List.range 2).flatMap fun p =>
    match SMap.find s.sys.linkDown p with
    | some (t + 1) => s.whenDue (some (t + 160000000)) (.cxlRetrainTimeout p)
    | _ => []

/-- The event changes something now (DEDUCED, log entry 5). -/
def State.moves (s : State) (i : Instr) : Bool :=
  match exec i s with
  | .next s' => s' != s
  | _ => false

/-- An event of the module's own units that is due or possible now: the first that moves, each unit in turn
(DESIGN CHOICE, log entry 3). -/
def State.autoEvent (s : State) : Option Instr :=
  let all := s.strandEvents ++ s.coreEvents ++ s.quadEvents ++ s.homeEvents ++ s.partyEvents ++ s.hubEvents ++ s.coursingEvents ++ s.systemEvents
  (all.rotateLeft s.time).find? s.moves

/-- While the module is Off only a power-on has an effect (R350). -/
def State.chooseOff (s : State) : Choice :=
  match s.agenda with
  | .powerOn x :: r => .run (.powerOn x) { s with agenda := r }
  | _ :: r => .done { s with agenda := r }
  | [] => .off

/-- The choice of the next step, once the release comparators have been compared (R370). -/
def State.choose (s : State) : Choice :=
  let s := s.fireReleases
  if s.power.off then s.chooseOff
  else
    match s.agenda with
    | i :: r => .run i { s with agenda := r }
    | [] =>
      match if s.eventTurn then s.autoEvent else none with
      | some i => .run i { s with eventTurn := false }
      | none =>
        match s.nextSlot with
        | some e => (s.focus e.1).issue e.1 e.2
        | none =>
          match s.autoEvent with
          | some i => .run i s
          | none => .done s

/-- A cycle passes: the package clock (R15), the slice counters (R395), the bays that stay idle (R85) and the counter of free values
(DESIGN CHOICE, log entry 6). -/
def State.tick (s : State) : State :=
  { s with
    time := s.time + 1, free := s.free + 1, sys := s.countCycle.sys
    coursing := if s.coursing.idleSince.isEmpty then s.coursing else { s.coursing with idleSince := s.idleBays } }

/-- What passes with a step: a cycle, and while the module is Off no time (R350). -/
def State.pass (s : State) : State := if s.power.off then { s with free := s.free + 1 } else s.tick

/-- A cycle passes after a step. -/
def tickOut (o : Out) : Out :=
  match o with
  | .next s => .next s.pass
  | .fault f => .fault f
  | .refused r => .refused r

/-! ### Placing an instruction for the next step (DESIGN CHOICE, log entry 4) -/

/-- The virtual address, the physical address and the page-table leaf of the line that holds a placed instruction: the page
0x10_0000, readable, writable and executable at every level. -/
def placedVa : Nat := 0x100000
def placedPa : Nat := 0x100000
def placedLeaf : Word := 0x10003F

/-- The launch of a strand that no launch owns yet: one strand of tenant 0 in address space 0, at S level. -/
def placedLaunch (lid time : Nat) : Launch :=
  { lid := lid, record := placedVa + 2 + (1 + 1 * 32 + 1 * 256) * 2 ^ 144 + (1 + 1 * 8) * 2 ^ 160 + 12 * 2 ^ 180
    asid := 0, tenant := 0, prio := 0, priv := true, tvec := 0, queue := 0, poster := none, state := .placed
    regions := [], reserved := [], reservedAt := none, dies := [(0, [0])], xcode := 0, faults := false, abandoned := false
    lostSeen := false, dieLost := none, ended := [], events := 0, energy := 0, tstart := time }

/-- A strand as placement leaves it (R36), with 32 vector registers and 4 KiB of private local store. -/
def placedStrand (lid : Nat) : Strand :=
  { lid := lid, pc := BitVec.ofNat 52 (placedVa + 2), g := Vector.replicate 16 0, pw := 0, masks := Vector.replicate 8 0
    vbase := 0, vcount := 32, lsbase := 0, lslen := 2, rf := [], ls := [], loops := [], lc := Vector.replicate 3 0
    fflags := 0, lost := 0, wsp := 0, wdepth := 0, shape := 0, tvec := 0, epc := 0, cause := 0, tval := 0, priv := true
    inh := false, gen := 1, ordDie := 0, ordQuad := 0, ordCore := 0, ordStrand := 0, bond := BitVec.allOnes 64
    wait := .ready, rrec := none, since := none, next := none, fetch := none, halt := .running }

/-- The line stored in memory and held in the fetch buffer of the strand of slot 0, which is ready and next to issue. A strand
is put there, with its launch, where there is none. -/
def State.placeLine (s : State) (l : Line) : State :=
  let c := s.coreAt 0
  let s := s.setCore 0 { c with phase := .running, breaks := [], last := 15 }
  let s := s.setPower { s.power with off := false }
  let s := { s with mem := s.mem.writeLe placedPa 64 l.toNat, agenda := [], eventTurn := false, cur := 12287 }
  let here (st : Strand) : Strand :=
    { st with
      pc := BitVec.ofNat 52 (placedVa + 2), wait := .ready, halt := .running
      fetch := some (BitVec.ofNat 52 placedVa, l) }
  match s.strandAt 0 with
  | some st => s.setStrand 0 (here st)
  | none =>
    let lid := s.ids
    let s := { s with ids := s.ids + 1 }
    let s := s.setHub { s.hub with launches := s.hub.launches ++ [placedLaunch lid s.time] }
    let s := s.tlbFill 0 { asid := 0, level := 2, page := placedVa / 2 ^ 16, entry := placedLeaf }
    s.setStrand 0 (here (placedStrand lid))

end Sys2Proof.Machine
end

