-- ==== Sys2Proof/Machine/Step.lean ====
section
/-! DEFINITION. One step of the machine: one row of the opcode table, and a cycle (DESIGN CHOICE, log entries 3 and 6). -/

namespace Sys2Proof.Machine

/-- One step. -/
def step (s : State) : Host.Outcome State Fault Refusal :=
  match s.choose with
  | .run i s' => tickOut (exec i s')
  | .done s' => .next s'.pass
  | .off => .fault .poweredOff

/-- The state with an instruction, in the numbering of the opcode table, where the next step fetches (DESIGN CHOICE, log entry 4). -/
def State.withFetchWord (s : State) (nbits w : Nat) : State := s.placeLine (oneLine (codeOfTableWord nbits w))

end Sys2Proof.Machine
end

