-- ==== Sys2Proof/Safety.lean ====
section
/-! DEFINITION. What counts as a safe run, and the terms that the statements use: a strand in focus, an instruction that completes
at the next head, its frame inside and outside its strand, and a trap that is taken. -/

namespace Sys2Proof

open Machine

/-- n steps from a state all answer a next state. -/
def runsOn : Nat → State → Bool
  | 0, _ => true
  | n + 1, s =>
    match step s with
    | .next s' => runsOn n s'
    | .fault _ => false
    | .refused _ => false

/-- The invariant of the statements: memory is in its canonical form. -/
def Inv (s : State) : Prop := s.mem.wf = true

/-- The strand `st` is in focus and ready, and waits for none of the registers named (R60). -/
structure Focus (s : State) (st : Strand) (gs : List (BitVec 4)) (vs : List (BitVec 5)) : Prop where
  here : s.strandAt s.cur = some st
  ready : st.wait = .ready
  scalars : s.busyG s.cur gs = false
  vectors : s.busyV s.cur vs = false

/-- The frame outside the strand in focus of an instruction that has issued: all memory, every other strand but for the `YIELD`
that it may end (R210), the core's round-robin pointer (R59), the idle times of the bays over its core (R85); every other register, special
register, accumulator and exception register of the machine, the vector pool apart. -/
structure Outside (s t : State) : Prop where
  memory : ∀ a, t.mem.read a = s.mem.read a
  sameMemory : t.mem = s.mem
  others : ∀ k, k ≠ s.cur → t.strandAt k =
    (s.strandAt k).map fun v => if coreOf k = coreOf s.cur then v.sawIssue s.cur else v
  cores : ∀ c, t.coreAt c = if c = coreOf s.cur then { s.coreAt c with last := s.cur % 16 } else s.coreAt c
  quads : t.quads = s.quads
  localMem : t.localMem = s.localMem
  icache : t.icache = s.icache
  utlb : t.utlb = s.utlb
  qtlb : t.qtlb = s.qtlb
  acc : t.acc = s.acc
  sett : t.sett = s.sett
  copies : t.copies = s.copies
  recency : t.recency = s.recency
  barriers : t.barriers = s.barriers
  homes : t.homes = s.homes
  hub : t.hub = s.hub
  pod : t.pod = s.pod
  coursing : t.coursing = { s.coursing with idleSince := s.stillIdle (coreOf s.cur) }
  keystone : t.keystone = s.keystone
  sys : t.sys = s.sys
  power : t.power = s.power
  model : t.agenda = s.agenda ∧ t.time = s.time ∧ t.cur = s.cur ∧ t.eventTurn = s.eventTurn ∧ t.free = s.free
    ∧ t.ids = s.ids ∧ t.replies = s.replies

/-- The registers of a strand that no arithmetic, logic or vector instruction writes. -/
structure Kept (st u : Strand) : Prop where
  lid : u.lid = st.lid
  vectors : u.vbase = st.vbase ∧ u.vcount = st.vcount
  localStore : u.lsbase = st.lsbase ∧ u.lslen = st.lslen
  frames : u.rf = st.rf ∧ u.ls = st.ls
  windows : u.wsp = st.wsp ∧ u.wdepth = st.wdepth
  lost : u.lost = st.lost
  shape : u.shape = st.shape
  exception : u.tvec = st.tvec ∧ u.epc = st.epc ∧ u.cause = st.cause ∧ u.tval = st.tval
  status : u.priv = st.priv ∧ u.inh = st.inh
  ordinals : u.ordDie = st.ordDie ∧ u.ordQuad = st.ordQuad ∧ u.ordCore = st.ordCore ∧ u.ordStrand = st.ordStrand
  bond : u.bond = st.bond
  wait : u.wait = st.wait

/-- The strand goes on to the next head, and where no loop level ends at this head the loops stand (R166, R208); a strand that the
debug port released for one instruction halts (R348). -/
structure Flow (st u : Strand) : Prop where
  next : (∀ l ∈ st.loops, l.finish ≠ st.pc) → u.pc = st.nextHead ∧ u.loops = st.loops ∧ u.lc = st.lc
  halt : u.halt = st.halt.issued
  waits : u.since = none ∧ u.next = none

/-- The `PHINT` record of a strand after a write of a scalar register: it ends where the register is marked dead (R299). -/
def recordAfterG (st : Strand) (a : BitVec 4) : Option (BitVec 16 × BitVec 32) :=
  match st.rrec with
  | some (g, v) => if a = 0 ∨ g.getLsbD a.toNat then some (g, v) else none
  | none => none

/-- The `PHINT` record after a write of the vector registers listed. -/
def recordAfterV (st : Strand) (vs : List Nat) : Option (BitVec 16 × BitVec 32) :=
  match st.rrec with
  | some (g, v) => if vs.all v.getLsbD then some (g, v) else none
  | none => none

/-- The instruction completes at the next head: it writes v to gA, where a write to g0 is discarded (R189), and ORs f into
`sr.fflags` (R101); it changes no other register, no vector register and no byte of memory. -/
def WritesG (i : Instr) (s : State) (st : Strand) (a : BitVec 4) (v : Word) (f : FFlags) : Prop :=
  ∃ t u, exec i s = .next t ∧ t.strandAt s.cur = some u
    ∧ (∀ r, u.getG r = if r = a ∧ a ≠ 0 then v else st.getG r)
    ∧ u.fflags = st.fflags ||| f ∧ u.pw = st.pw ∧ u.masks = st.masks ∧ u.gen = st.gen ∧ u.rrec = recordAfterG st a
    ∧ Kept st u ∧ Flow st u ∧ t.pool = s.pool ∧ Outside s t

/-- The instruction completes at the next head: it writes v to predicate p, where a write to p0 is discarded (R201), and changes
nothing else. -/
def WritesP (i : Instr) (s : State) (st : Strand) (p : BitVec 3) (v : Bool) : Prop :=
  ∃ t u, exec i s = .next t ∧ t.strandAt s.cur = some u
    ∧ (∀ q, u.getP q = if q = p ∧ p ≠ 0 then v else st.getP q)
    ∧ u.g = st.g ∧ u.fflags = st.fflags ∧ u.masks = st.masks ∧ u.gen = st.gen ∧ u.rrec = st.rrec
    ∧ Kept st u ∧ Flow st u ∧ t.pool = s.pool ∧ Outside s t

/-- The instruction completes and changes the program counter alone: the next head is v, no end test runs, and every other register
and all memory stand (R203, R208). -/
def JumpsTo (i : Instr) (s : State) (st : Strand) (v : VAddr) : Prop :=
  ∃ t u, exec i s = .next t ∧ t.strandAt s.cur = some u ∧ u.pc = v ∧ u.loops = st.loops ∧ u.lc = st.lc
    ∧ u.g = st.g ∧ u.fflags = st.fflags ∧ u.pw = st.pw ∧ u.masks = st.masks ∧ u.gen = st.gen ∧ u.rrec = st.rrec
    ∧ u.halt = st.halt.issued ∧ u.since = none ∧ u.next = none ∧ Kept st u ∧ t.pool = s.pool ∧ Outside s t

/-- The instruction takes a trap that is not fatal (R307): cause, value, address and inhibit bit are written, the strand goes to
`sr.tvec` at the same level, TRAP of its tenant counts (R371, R372), and nothing else changes. -/
def TakesTrap (i : Instr) (s : State) (st : Strand) (cause tval : Word) : Prop :=
  ∃ t u, exec i s = .next t ∧ t.strandAt s.cur = some u
    ∧ u.cause = cause ∧ u.tval = tval ∧ u.epc = st.pc.setWidth 64 ∧ u.inh = true ∧ u.pc = st.tvec.setWidth 52
    ∧ u.priv = st.priv ∧ u.tvec = st.tvec ∧ u.g = st.g ∧ u.pw = st.pw ∧ u.masks = st.masks ∧ u.fflags = st.fflags
    ∧ u.lost = st.lost ∧ u.rf = st.rf ∧ u.ls = st.ls ∧ u.loops = st.loops ∧ u.lc = st.lc ∧ u.wsp = st.wsp ∧ u.wdepth = st.wdepth
    ∧ u.shape = st.shape ∧ u.gen = st.gen ∧ u.wait = .ready ∧ u.rrec = st.rrec
    ∧ t.mem = s.mem ∧ (∀ a, t.mem.read a = s.mem.read a) ∧ t.pool = s.pool ∧ t.localMem = s.localMem ∧ t.acc = s.acc
    ∧ (∀ pa, t.counterAt pa =
        if pa = execCounter (s.tenantOf st) 0 then
          { count := BitVec.ofNat 32 (min ((s.counterAt pa).count.toNat + 1) (2 ^ 32 - 1)), last := BitVec.ofNat 32 s.time }
        else s.counterAt pa)

/-- A trap of the strand is not fatal (R307). -/
def NotFatal (st : Strand) : Prop := st.inh = false ∧ st.tvec ≠ 0

/-! ### Integer results in terms of the manual (R192, R193) -/

/-- Width and signedness of the 2-bit type field: s64, n64, s32, n32. -/
def tyWidth (ty : BitVec 2) : Nat := if ty.getLsbD 1 then 32 else 64
def tySigned (ty : BitVec 2) : Bool := !ty.getLsbD 0

/-- int_of of a register at a type. -/
def tyInt (ty : BitVec 2) (x : Word) : Int :=
  let y := x.setWidth (tyWidth ty)
  if tySigned ty then y.toInt else (y.toNat : Int)

/-- The ends of the range of a type. -/
def tyLeast (ty : BitVec 2) : Int := if tySigned ty then -(2 ^ (tyWidth ty - 1)) else 0
def tyMost (ty : BitVec 2) : Int := if tySigned ty then 2 ^ (tyWidth ty - 1) - 1 else 2 ^ tyWidth ty - 1

/-- ext64(fit_int(v, t, SAT), t) is r with flags f: in range the value itself; out of range the nearest end with SA under SAT, and
without SAT the value of the type that is congruent modulo 2^w, with no flag. -/
def FitsTo (ty : BitVec 2) (sat : Bool) (v : Int) (r : Word) (f : FFlags) : Prop :=
  ∃ n : Int, r = BitVec.ofInt 64 n ∧ tyLeast ty ≤ n ∧ n ≤ tyMost ty
    ∧ (tyLeast ty ≤ v → v ≤ tyMost ty → n = v ∧ f = 0)
    ∧ (sat = true → v < tyLeast ty → n = tyLeast ty ∧ f = flagSA)
    ∧ (sat = true → tyMost ty < v → n = tyMost ty ∧ f = flagSA)
    ∧ (sat = false → (2 ^ tyWidth ty : Int) ∣ n - v ∧ f = 0)

end Sys2Proof
end

