-- ==== Sys2Proof/Certificates/Slice0/Obligations.lean ====
section
/-! DEFINITION. The statements for the provers, from the numbered rules of spec/. Each docstring names its rules; the terms they use
(Focus, WritesG, TakesTrap, Outside and the others) stand in Safety.lean. -/

open Sys2Proof Sys2Proof.Machine

/-! ### Scalar arithmetic, logic and shifts (spec/08_scalar_control.md R192 to R196) -/

/-- Every form of a two-source instruction (R193): head only (where it has one), with a 2-byte tail, with a 4-byte tail; the result is
ext64(fit_int(v, t, SAT), t) of the exact v that `op` gives. -/
def TwoSourceForms (head : Option (BitVec 4 → BitVec 4 → Instr)) (tl2 : TwoSrc2 → Instr) (tl4 : TwoSrc4 → Instr)
    (op : BitVec 2 → Word → Word → Int) : Prop :=
  (∀ mk, head = some mk → ∀ s st a b, Focus s st [a, b] [] →
    ∃ v f, FitsTo 0 false (op 0 (st.getG a) (st.getG b)) v f ∧ WritesG (mk a b) s st a v f)
  ∧ (∀ s st o, (tl2 o).wf = true → Focus s st [o.a, o.b, o.c] [] →
    ∃ v f, FitsTo o.ty o.sat (op o.ty (st.getG o.b) (if o.imm then o.k8.signExtend 64 else st.getG o.c)) v f
      ∧ WritesG (tl2 o) s st o.a v f)
  ∧ (∀ s st o, (tl4 o).wf = true → Focus s st [o.a, o.b] [] →
    ∃ v f, FitsTo o.ty o.sat (op o.ty (st.getG o.b) (o.i24.signExtend 64)) v f ∧ WritesG (tl4 o) s st o.a v f)

/-- The shift amount of R193: s = second[5:0] when w is 64 and second[4:0] when w is 32. -/
def shiftOf (ty : BitVec 2) (y : Word) : Nat := if ty.getLsbD 1 then (y.setWidth 5).toNat else (y.setWidth 6).toNat

/-- R192, R193: `ADD`, `SUB`, `MUL` and `SHL`, in every form, at every type, wrapping and saturating, complete with the result and the
flag that the rules give; nothing else changes. -/
def Parts.SumsProductsAndLeftShiftsFit : Prop :=
  TwoSourceForms (some .addHeadOnly) .addTl2 .addTl4 (fun ty x y => tyInt ty x + tyInt ty y)
  ∧ TwoSourceForms (some .subHeadOnly) .subTl2 .subTl4 (fun ty x y => tyInt ty x - tyInt ty y)
  ∧ TwoSourceForms (some .mulHeadOnly) .mulTl2 .mulTl4 (fun ty x y => tyInt ty x * tyInt ty y)
  ∧ TwoSourceForms (some .shlHeadOnly) .shlTl2 .shlTl4 (fun ty x y => tyInt ty x * 2 ^ shiftOf ty y)

/-- R193: `SHR`, `SAR` and `ROL`: the low w bits of the first source shifted right as an unsigned number, as a signed one, or rotated left;
`ROL` has no head-only form. -/
def Parts.RightShiftsAndRotationFit : Prop :=
  TwoSourceForms (some .shrHeadOnly) .shrTl2 .shrTl4
    (fun ty x y => ((x.setWidth (tyWidth ty) >>> shiftOf ty y).toNat : Int))
  ∧ TwoSourceForms (some .sarHeadOnly) .sarTl2 .sarTl4 (fun ty x y => ((x.setWidth (tyWidth ty)).sshiftRight (shiftOf ty y)).toInt)
  ∧ TwoSourceForms none .rolTl2 .rolTl4 (fun ty x y => (((x.setWidth (tyWidth ty)).rotateLeft (shiftOf ty y)).toNat : Int))

/-- The forms of an instruction on 64 bits: no type other than s64, no saturation. -/
def WordForms (head : BitVec 4 → BitVec 4 → Instr) (tl2 : TwoSrc2 → Instr) (tl4 : TwoSrc4 → Instr) (op : Word → Word → Word) : Prop :=
  (∀ s st a b, Focus s st [a, b] [] → WritesG (head a b) s st a (op (st.getG a) (st.getG b)) 0)
  ∧ (∀ s st o, (tl2 o).wf = true → Focus s st [o.a, o.b, o.c] [] →
    WritesG (tl2 o) s st o.a (op (st.getG o.b) (if o.imm then o.k8.signExtend 64 else st.getG o.c)) 0)
  ∧ (∀ s st o, (tl4 o).wf = true → Focus s st [o.a, o.b] [] →
    WritesG (tl4 o) s st o.a (op (st.getG o.b) (o.i24.signExtend 64)) 0)

/-- R193, R198: `AND`, `OR` and `XOR` of 64 bits, and `ADDA`: the tag of the base and the sum of its low 52 bits with the offset. -/
def Parts.LogicAndAddressAddition : Prop :=
  WordForms .andHeadOnly .andTl2 .andTl4 (fun x y => x &&& y)
  ∧ WordForms .orHeadOnly .orTl2 .orTl4 (fun x y => x ||| y)
  ∧ WordForms .xorHeadOnly .xorTl2 .xorTl4 (fun x y => x ^^^ y)
  ∧ WordForms .addaHeadOnly .addaTl2 .addaTl4
    (fun base off => base.extractLsb' 52 12 ++ (base.extractLsb' 0 52 + off.extractLsb' 0 52))

/-- An instruction with three registers and a type. -/
def ThreeRegisters (mk : BitVec 4 → BitVec 4 → BitVec 4 → BitVec 2 → Instr) (op : BitVec 2 → Int → Int → Int)
    (f0 : BitVec 2 → Int → Int → FFlags) : Prop :=
  ∀ s st a b c ty, Focus s st [a, b, c] [] →
    ∃ v, FitsTo ty false (op ty (tyInt ty (st.getG b)) (tyInt ty (st.getG c))) v 0
      ∧ WritesG (mk a b c ty) s st a v (f0 ty (tyInt ty (st.getG b)) (tyInt ty (st.getG c)))

/-- The form with a 24-bit immediate. -/
def TwoRegistersImmediate (mk : BitVec 4 → BitVec 4 → BitVec 2 → BitVec 24 → Instr) (op : BitVec 2 → Int → Int → Int) : Prop :=
  ∀ s st a b ty i24, Focus s st [a, b] [] →
    ∃ v, FitsTo ty false (op ty (tyInt ty (st.getG b)) (tyInt ty (i24.signExtend 64))) v 0
      ∧ WritesG (mk a b ty i24) s st a v 0

/-- R194, R195: the high half of a product, quotient toward zero, remainder with the sign of the dividend, minimum and maximum; a
division by zero raises DZ and gives −1 or 2^w − 1, and the dividend as remainder. -/
def Parts.HighProductDivisionAndExtremes : Prop :=
  ThreeRegisters .mulh (fun ty x y => x * y / 2 ^ tyWidth ty) (fun _ _ _ => 0)
  ∧ ThreeRegisters .div
    (fun ty x y => if y = 0 then (if tySigned ty then -1 else 2 ^ tyWidth ty - 1) else Int.tdiv x y)
    (fun _ _ y => if y = 0 then flagDZ else 0)
  ∧ ThreeRegisters .rem (fun _ x y => if y = 0 then x else x - Int.tdiv x y * y) (fun _ _ y => if y = 0 then flagDZ else 0)
  ∧ ThreeRegisters .minTl2 (fun _ x y => min x y) (fun _ _ _ => 0)
  ∧ ThreeRegisters .maxTl2 (fun _ x y => max x y) (fun _ _ _ => 0)
  ∧ TwoRegistersImmediate .minTl4 (fun _ x y => min x y)
  ∧ TwoRegistersImmediate .maxTl4 (fun _ x y => max x y)

/-- R195, R197, R199: `ANDN`, moves and literals, and the tag operations write the value their table gives, with no flag. -/
def Parts.MovesLiteralsAndTags : Prop :=
  ∀ s st a b c,
    (Focus s st [a, b, c] [] → WritesG (.andnTl2 a b c) s st a (st.getG b &&& ~~~(st.getG c)) 0)
    ∧ (∀ i24, Focus s st [a, b] [] → WritesG (.andnTl4 a b i24) s st a (st.getG b &&& ~~~(i24.signExtend 64)) 0)
    ∧ (Focus s st [a, b] [] → WritesG (.mov a b) s st a (st.getG b) 0)
    ∧ (∀ k8, Focus s st [a] [] → WritesG (.liTl2 a k8) s st a (k8.signExtend 64) 0)
    ∧ (∀ i24, Focus s st [a] [] → WritesG (.liTl4 a i24) s st a (i24.signExtend 64) 0)
    ∧ (∀ lit, Focus s st [a] [] → WritesG (.limm a lit) s st a lit 0)
    ∧ (Focus s st [a, b, c] [] →
        WritesG (.tagTl2 a b c) s st a ((st.getG c).extractLsb' 54 10 ++ 0#2 ++ (st.getG b).extractLsb' 0 52) 0)
    ∧ (∀ fmt blog, Focus s st [a, b] [] →
        WritesG (.tagTl4 a b fmt blog) s st a ((fmt ++ blog) ++ 0#2 ++ (st.getG b).extractLsb' 0 52) 0)
    ∧ (Focus s st [a, b] [] → WritesG (.untag a b) s st a (((st.getG b).extractLsb' 0 52).setWidth 64) 0)
    ∧ (Focus s st [a, b] [] →
        WritesG (.tagof a b) s st a (((st.getG b).extractLsb' 58 6 ++ (st.getG b).extractLsb' 54 4).setWidth 64) 0)

/-- The width that a type code in C gives `CLZ` to `BSWAP` (R196): 16, 32 or 64. -/
def bitWidthOf (t : BitVec 4) : Nat := if t.toNat < 4 then 16 else if t.toNat < 6 then 32 else 64

/-- R196: the bit operations on the low w bits of gB. A count of leading or trailing zeros is the number of the set bit that ends the run,
or w; `BREV` and `BSWAP` place bit i, or bit i of byte k, as the table says and extend by the type; `SEXT` and `ZEXT` take n bits. -/
def Parts.BitOperations : Prop :=
  ∀ s st a b t, Focus s st [a, b] [] →
    let w := bitWidthOf t
    let x := st.getG b
    (4 ≤ t.toNat → t.toNat ≤ 7 →
      (∃ n, n ≤ w ∧ WritesG (.clz a b t) s st a (BitVec.ofNat 64 n) 0
        ∧ (∀ i, i < n → x.getLsbD (w - 1 - i) = false) ∧ (n < w → x.getLsbD (w - 1 - n) = true))
      ∧ (∃ n, n ≤ w ∧ WritesG (.ctz a b t) s st a (BitVec.ofNat 64 n) 0
        ∧ (∀ i, i < n → x.getLsbD i = false) ∧ (n < w → x.getLsbD n = true))
      ∧ WritesG (.popc a b t) s st a (BitVec.ofNat 64 ((List.range w).countP fun i => x.getLsbD i)) 0
      ∧ (∃ v : Word, WritesG (.brev a b t) s st a v 0 ∧ (∀ i, i < w → v.getLsbD i = x.getLsbD (w - 1 - i))
        ∧ ∀ i, w ≤ i → i < 64 → v.getLsbD i = (!t.getLsbD 0 && v.getLsbD (w - 1))))
    ∧ (2 ≤ t.toNat → t.toNat ≤ 7 →
      ∃ v : Word, WritesG (.bswap a b t) s st a v 0
        ∧ (∀ k j, k < w / 8 → j < 8 → v.getLsbD (8 * k + j) = x.getLsbD (8 * (w / 8 - 1 - k) + j))
        ∧ ∀ i, w ≤ i → i < 64 → v.getLsbD i = (!t.getLsbD 0 && v.getLsbD (w - 1)))
    ∧ (∀ n : BitVec 8, 1 ≤ n.toNat → n.toNat ≤ 64 →
      (∃ v : Word, WritesG (.sext a b n) s st a v 0
        ∧ ∀ i, i < 64 → v.getLsbD i = x.getLsbD (if i < n.toNat then i else n.toNat - 1))
      ∧ ∃ v : Word, WritesG (.zext a b n) s st a v 0 ∧ ∀ i, i < 64 → v.getLsbD i = (decide (i < n.toNat) && x.getLsbD i))

/-- R196, R305, R307: a type outside an instruction's list, or a width outside 1 to 64, is an illegal operand: the trap of cause 0x03 whose value is
the head. -/
def Parts.IllegalOperandsOfBitOperationsTrap : Prop :=
  ∀ s st, NotFatal st → ∀ a b t, Focus s st [a, b] [] →
    ((t.toNat < 4 ∨ 7 < t.toNat) →
      TakesTrap (.clz a b t) s st 3 (BitVec.ofNat 64 st.headValue) ∧ TakesTrap (.ctz a b t) s st 3 (BitVec.ofNat 64 st.headValue)
      ∧ TakesTrap (.popc a b t) s st 3 (BitVec.ofNat 64 st.headValue) ∧ TakesTrap (.brev a b t) s st 3 (BitVec.ofNat 64 st.headValue))
    ∧ ((t.toNat < 2 ∨ 7 < t.toNat) → TakesTrap (.bswap a b t) s st 3 (BitVec.ofNat 64 st.headValue))
    ∧ (∀ n : BitVec 8, (n.toNat = 0 ∨ 64 < n.toNat) →
      TakesTrap (.sext a b n) s st 3 (BitVec.ofNat 64 st.headValue) ∧ TakesTrap (.zext a b n) s st 3 (BitVec.ofNat 64 st.headValue))

/-- R201, R305, R307: a type of a compare that is no integer type is an illegal operand. -/
def Parts.IllegalOperandsOfComparesTrap : Prop :=
  ∀ s st, NotFatal st → ∀ b t, 8 ≤ t.toNat → ∀ p cc,
    (∀ c, Focus s st [b, c] [] → TakesTrap (.cmp p b c t cc) s st 3 (BitVec.ofNat 64 st.headValue))
    ∧ (∀ k8, Focus s st [b] [] → TakesTrap (.cmpiTl2 p b t cc k8) s st 3 (BitVec.ofNat 64 st.headValue))
    ∧ (∀ i24, Focus s st [b] [] → TakesTrap (.cmpiTl4 p b t cc i24) s st 3 (BitVec.ofNat 64 st.headValue))

/-- FMT and BLOG of a pointer, and its address (R30). -/
def fmtOfPtr (p : Word) : Nat := (p.extractLsb' 58 6).toNat
def blogOfPtr (p : Word) : Nat := (p.extractLsb' 54 4).toNat
def vaOfPtr (p : Word) : Nat := (p.extractLsb' 0 52).toNat

/-- The five format faults of R31; the codes of R9 are 0 to 16 and the group formats 0x21 to 0x24. -/
def BadTag (p : Word) : Prop :=
  (16 < fmtOfPtr p ∧ ¬(33 ≤ fmtOfPtr p ∧ fmtOfPtr p ≤ 36)) ∨ (33 ≤ fmtOfPtr p ∧ ¬(5 ≤ blogOfPtr p ∧ blogOfPtr p ≤ 7))
  ∨ (fmtOfPtr p ≤ 16 ∧ blogOfPtr p ≠ 0) ∨ p.extractLsb' 52 2 ≠ 0#2 ∨ (33 ≤ fmtOfPtr p ∧ vaOfPtr p % 4 ≠ 0)

/-- The block strides of R33. -/
def blockStride (p : Word) : Int :=
  let four := fmtOfPtr p = 33 ∨ fmtOfPtr p = 35
  match blogOfPtr p with
  | 5 => if four then 20 else 36
  | 6 => if four then 36 else 68
  | _ => if four then 68 else 132

/-- The byte that holds element e (R33, R200). -/
def elementByte (p : Word) (e : Int) : Int :=
  if fmtOfPtr p ≤ 16 then vaOfPtr p + e * (if fmtOfPtr p = 0 then 8 else typeBits (fmtOfPtr p - 1) : Nat) / 8
  else vaOfPtr p + e / 2 ^ blogOfPtr p * blockStride p + 4
    + e % 2 ^ blogOfPtr p * (if fmtOfPtr p = 33 ∨ fmtOfPtr p = 35 then 4 else 8) / 8

/-- R31, R200: on a good tag `EIDX` gives the address of the byte that holds element e, with the tag of the pointer and wrapping in 52 bits;
on a bad one it takes the format fault (cause 0x09), whose value is the pointer. -/
def Parts.ElementIndexing : Prop :=
  ∀ s st a b,
    let p := st.getG b
    (¬BadTag p →
      (∀ c, Focus s st [a, b, c] [] →
        WritesG (.eidxTl2 a b c) s st a (p.extractLsb' 52 12 ++ BitVec.ofInt 52 (elementByte p (st.getG c).toInt)) 0)
      ∧ ∀ i24, Focus s st [a, b] [] →
        WritesG (.eidxTl4 a b i24) s st a (p.extractLsb' 52 12 ++ BitVec.ofInt 52 (elementByte p i24.toInt)) 0)
    ∧ (BadTag p → NotFatal st →
      (∀ c, Focus s st [a, b, c] [] → TakesTrap (.eidxTl2 a b c) s st 9 p)
      ∧ ∀ i24, Focus s st [a, b] [] → TakesTrap (.eidxTl4 a b i24) s st 9 p)

/-- The condition of R201 on registers, at an integer type. -/
def conditionOf (cc : BitVec 3) (x y : Int) (bits : Bool) : Bool :=
  match cc.toNat with
  | 0 => decide (x = y)
  | 1 => decide (x ≠ y)
  | 2 => decide (x < y)
  | 3 => decide (y ≤ x)
  | 4 => decide (x ≤ y)
  | 5 => decide (y < x)
  | 6 => bits
  | _ => !bits

/-- int_of at one of the eight integer types of R8 with codes 0 to 7: s8, n8, s16, n16, s32, n32, s64, n64. -/
def codeInt (t : BitVec 4) (x : Word) : Int :=
  let y := x.setWidth (8 * 2 ^ (t.toNat / 2))
  if t.getLsbD 0 then (y.toNat : Int) else y.toInt

/-- R201: at an integer type, `CMP` and `CMPI` write the predicate with the condition on the two sources; the test conditions look for a set
bit in both. -/
def Parts.ComparesWriteTheirPredicate : Prop :=
  ∀ s st p b t cc, t.toNat < 8 →
    let r (x y : Word) : Bool :=
      conditionOf cc (codeInt t x) (codeInt t y) ((x &&& y).setWidth (8 * 2 ^ (t.toNat / 2)) != 0)
    (∀ c, Focus s st [b, c] [] → WritesP (.cmp p b c t cc) s st p (r (st.getG b) (st.getG c)))
    ∧ (∀ k8, Focus s st [b] [] → WritesP (.cmpiTl2 p b t cc k8) s st p (r (st.getG b) (k8.signExtend 64)))
    ∧ (∀ i24, Focus s st [b] [] → WritesP (.cmpiTl4 p b t cc i24) s st p (r (st.getG b) (i24.signExtend 64)))

/-- R202: `PLOG` looks two predicates up, `SEL` selects by one, and `PMOV` moves the predicate word: bit 0 of it reads 1, and a write leaves
p0 reading 1. -/
def Parts.PredicateOperations : Prop :=
  ∀ s st,
    (∀ pd pa pb lut, Focus s st [] [] →
      WritesP (.plog pd pa pb lut) s st pd (lut.getLsbD ((if st.getP pa then 2 else 0) + (if st.getP pb then 1 else 0))))
    ∧ (∀ a b c p neg, Focus s st [a, b, c] [] →
      WritesG (.sel a b c p neg) s st a (if (st.getP p ^^ neg) then st.getG b else st.getG c) 0)
    ∧ (∀ a, Focus s st [a] [] → ∃ v : Word, WritesG (.pmovToScalar a) s st a v 0
      ∧ (∀ i : BitVec 3, v.getLsbD i.toNat = st.getP i) ∧ v.getLsbD 0 = true ∧ ∀ i, 8 ≤ i → v.getLsbD i = false)
    ∧ (∀ b, Focus s st [b] [] → ∃ (t : State) (u : Strand), exec (.pmovFromScalar b) s = .next t ∧ t.strandAt s.cur = some u
      ∧ (∀ i : BitVec 3, u.getP i = (i == 0 || (st.getG b).getLsbD i.toNat))
      ∧ u.g = st.g ∧ u.fflags = st.fflags ∧ u.masks = st.masks ∧ u.gen = st.gen ∧ u.rrec = st.rrec
      ∧ Kept st u ∧ Flow st u ∧ t.pool = s.pool ∧ Outside s t)

/-! ### Encodings of scalar rows, from the field tables (R169, R171) -/

/-- A head: MAJ, TL, A, B. -/
def headOf (maj : BitVec 6) (tl : BitVec 2) (a b : BitVec 4) : BitVec 16 := maj ++ tl ++ a ++ b

/-- The scalar tails: C, F and K8, or C, F and I24. -/
def tail2 (c f : BitVec 4) (k8 : BitVec 8) : BitVec 64 := (c ++ f ++ k8).setWidth 64
def tail4 (c f : BitVec 4) (i24 : BitVec 24) : BitVec 64 := (c ++ f ++ i24).setWidth 64

/-- A head and its tail are an instruction exactly where `fits` holds, and it is i. -/
def Encodes (maj : BitVec 6) (tl : BitVec 2) (a b : BitVec 4) (tail : BitVec 64) (fits : Prop) (i : Instr) : Prop :=
  ∀ j, decode { head := headOf maj tl a b, tail := tail } = .ok j ↔ fits ∧ j = i

/-- The major permits the tail lengths listed alone (R176). -/
def Permits (maj : BitVec 6) (tls : List (BitVec 2)) : Prop :=
  ∀ tl a b tail j, tl ∉ tls → decode { head := headOf maj tl a b, tail := tail } ≠ .ok j

/-- The codes F of a major with a 2-byte tail that are reserved. -/
def Reserves (maj : BitVec 6) (fs : List Nat) : Prop :=
  ∀ a b c f k8 j, f.toNat ∈ fs → decode { head := headOf maj 1 a b, tail := tail2 c f k8 } ≠ .ok j

/-- R194: the encoding of `MULH`, `DIV` and `REM`. -/
def Parts.EncodingOfHighProductAndDivision : Prop :=
  Permits 0x0C [1] ∧ Reserves 0x0C [12, 13, 14, 15]
  ∧ ∀ a b c k8 ty, Encodes 0x0C 1 a b (tail2 c (0#2 ++ ty) k8) (k8 = 0) (.mulh a b c ty)
    ∧ Encodes 0x0C 1 a b (tail2 c (1#2 ++ ty) k8) (k8 = 0) (.div a b c ty)
    ∧ Encodes 0x0C 1 a b (tail2 c (2#2 ++ ty) k8) (k8 = 0) (.rem a b c ty)

/-- R196: the encoding of the bit operations. -/
def Parts.EncodingOfBitOperations : Prop :=
  Permits 0x0E [1] ∧ Reserves 0x0E [7, 8, 9, 10, 11, 12, 13, 14, 15]
  ∧ ∀ a b c k8, Encodes 0x0E 1 a b (tail2 c 0 k8) (k8 = 0) (.clz a b c) ∧ Encodes 0x0E 1 a b (tail2 c 1 k8) (k8 = 0) (.ctz a b c)
    ∧ Encodes 0x0E 1 a b (tail2 c 2 k8) (k8 = 0) (.popc a b c) ∧ Encodes 0x0E 1 a b (tail2 c 3 k8) (k8 = 0) (.brev a b c)
    ∧ Encodes 0x0E 1 a b (tail2 c 4 k8) (k8 = 0) (.bswap a b c) ∧ Encodes 0x0E 1 a b (tail2 c 5 k8) (c = 0) (.sext a b k8)
    ∧ Encodes 0x0E 1 a b (tail2 c 6 k8) (c = 0) (.zext a b k8)

/-- R197: the encoding of `MOV`, `LI` and `LIMM`. -/
def Parts.EncodingOfMovesAndLiterals : Prop :=
  Permits 0x0A [0] ∧ Permits 0x0F [1, 2] ∧ Permits 0x10 [3]
  ∧ ∀ a b c f, (∀ tail, Encodes 0x0A 0 a b tail True (.mov a b) ∧ Encodes 0x10 3 a b tail (b = 0) (.limm a tail))
    ∧ (∀ k8, Encodes 0x0F 1 a b (tail2 c f k8) (b = 0 ∧ c = 0 ∧ f = 0) (.liTl2 a k8))
    ∧ ∀ i24, Encodes 0x0F 2 a b (tail4 c f i24) (b = 0 ∧ c = 0 ∧ f = 0) (.liTl4 a i24)

/-- R201: the encoding of `CMP` and `CMPI`. -/
def Parts.EncodingOfCompares : Prop :=
  Permits 0x13 [1] ∧ Permits 0x14 [1, 2]
  ∧ ∀ a b c f,
    let p := a.extractLsb' 0 3
    let cc := f.extractLsb' 0 3
    (∀ k8, Encodes 0x13 1 a b (tail2 c f k8) (a.toNat < 8 ∧ f.toNat < 8 ∧ k8.toNat < 16) (.cmp p b c (k8.extractLsb' 0 4) cc)
      ∧ Encodes 0x14 1 a b (tail2 c f k8) (a.toNat < 8 ∧ f.toNat < 8) (.cmpiTl2 p b c cc k8))
    ∧ ∀ i24, Encodes 0x14 2 a b (tail4 c f i24) (a.toNat < 8 ∧ f.toNat < 8) (.cmpiTl4 p b c cc i24)

/-- R202: the encoding of the predicate instructions. -/
def Parts.EncodingOfPredicateOperations : Prop :=
  Permits 0x15 [1] ∧ Reserves 0x15 [4, 5, 6, 7, 8, 9, 10, 11, 12, 13, 14, 15]
  ∧ ∀ a b c k8,
    Encodes 0x15 1 a b (tail2 c 0 k8) (a.toNat < 8 ∧ b.toNat < 8 ∧ c.toNat < 8 ∧ k8.toNat < 16)
      (.plog (a.extractLsb' 0 3) (b.extractLsb' 0 3) (c.extractLsb' 0 3) (k8.extractLsb' 0 4))
    ∧ Encodes 0x15 1 a b (tail2 c 1 k8) (k8.toNat < 16) (.sel a b c (k8.extractLsb' 0 3) (k8.getLsbD 3))
    ∧ Encodes 0x15 1 a b (tail2 c 2 k8) (b = 0 ∧ c = 0 ∧ k8 = 0) (.pmovToScalar a)
    ∧ Encodes 0x15 1 a b (tail2 c 3 k8) (a = 0 ∧ c = 0 ∧ k8 = 0) (.pmovFromScalar b)

/-- R192 to R195: sums, differences, products, shifts, rotations, quotients, remainders and scalar extremes. -/
def Obligations.SumsShiftsProductsAndQuotients : Prop :=
  Parts.SumsProductsAndLeftShiftsFit ∧ Parts.RightShiftsAndRotationFit ∧ Parts.HighProductDivisionAndExtremes
    ∧ Parts.EncodingOfHighProductAndDivision

/-- R193, R196, R198: logic, address addition, counts, reversals and extensions. -/
def Obligations.LogicAndBitOperations : Prop :=
  Parts.LogicAndAddressAddition ∧ Parts.BitOperations ∧ Parts.IllegalOperandsOfBitOperationsTrap ∧ Parts.EncodingOfBitOperations

/-- R31, R195, R197, R199, R200: moves, literals, tags and element addresses. -/
def Obligations.MovesTagsAndElementIndexing : Prop :=
  Parts.MovesLiteralsAndTags ∧ Parts.ElementIndexing ∧ Parts.EncodingOfMovesAndLiterals

/-- R201, R202: compares and the predicate instructions. -/
def Obligations.ComparesAndPredicates : Prop :=
  Parts.ComparesWriteTheirPredicate ∧ Parts.PredicateOperations ∧ Parts.IllegalOperandsOfComparesTrap
    ∧ Parts.EncodingOfCompares ∧ Parts.EncodingOfPredicateOperations

/-! ### Control flow, windows, loops and special registers (spec/08_scalar_control.md R189 to R212, spec/07_encoding.md R166 to R170) -/

/-- The instruction completes at the next head and writes no register. -/
def Completes (i : Instr) (s : State) (st : Strand) : Prop := WritesG i s st 0 0 0

/-- branch_target of R167: I24[23:5] counts lines from the branch's own line, I24[4:0] heads from the start of the target line's heads. -/
def branchGoal (pc : VAddr) (i24 : BitVec 24) : VAddr :=
  BitVec.ofInt 52 ((pc.toNat / 64 * 64 : Nat) + (i24.extractLsb' 5 19).toInt * 64 + 2 + 2 * ((i24.extractLsb' 0 5).toNat : Int))

/-- R167, R170, R203: `NOP` completes; `BR` goes to its target; `BP` on its predicate, `BZ` and `BNZ` on a register, and fall through
otherwise; `JMPR` goes to gB[51:0]. A branch that is taken runs no end test and writes no register. -/
def Obligations.BranchesAndJumps : Prop :=
  ∀ s st,
    (Focus s st [] [] → Completes .nop s st)
    ∧ (∀ i24, Focus s st [] [] → JumpsTo (.br i24) s st (branchGoal st.pc i24))
    ∧ (∀ p neg i24, Focus s st [] [] →
      ((st.getP p ^^ neg) = true → JumpsTo (.bp p neg i24) s st (branchGoal st.pc i24))
      ∧ ((st.getP p ^^ neg) = false → Completes (.bp p neg i24) s st))
    ∧ (∀ a i24, Focus s st [a] [] →
      (st.getG a = 0 → JumpsTo (.bz a i24) s st (branchGoal st.pc i24) ∧ Completes (.bnz a i24) s st)
      ∧ (st.getG a ≠ 0 → Completes (.bz a i24) s st ∧ JumpsTo (.bnz a i24) s st (branchGoal st.pc i24)))
    ∧ (∀ b, Focus s st [b] [] → JumpsTo (.jmpr b) s st ((st.getG b).extractLsb' 0 52))

/-- The caller's frame: g4 in the low bits (R190). -/
def HoldsFrame (f : Frame) (st : Strand) : Prop := ∀ i : Fin 8, f.extractLsb' (64 * i.val) 64 = st.getG (BitVec.ofNat 4 (4 + i.val))

/-- What a call leaves of a strand, apart from where it goes (R190): the frame is pushed, g12 to g14 become g4 to g6, the address of the
next head becomes g7, and g8 to g15 read zero. -/
structure Called (st u : Strand) : Prop where
  global : ∀ r : BitVec 4, r.toNat < 4 → u.getG r = st.getG r
  arguments : u.getG 4 = st.getG 12 ∧ u.getG 5 = st.getG 13 ∧ u.getG 6 = st.getG 14
  link : u.getG 7 = st.nextHead.setWidth 64
  fresh : ∀ r : BitVec 4, 8 ≤ r.toNat → u.getG r = 0
  depth : u.wdepth = st.wdepth + 1
  frame : ∃ f, HoldsFrame f st ∧ u.rf = st.rf ++ [f]
  others : u.ls = st.ls ∧ u.wsp = st.wsp ∧ u.loops = st.loops ∧ u.lc = st.lc ∧ u.pw = st.pw ∧ u.masks = st.masks
    ∧ u.fflags = st.fflags ∧ u.lost = st.lost ∧ u.shape = st.shape ∧ u.tvec = st.tvec ∧ u.epc = st.epc ∧ u.cause = st.cause
    ∧ u.tval = st.tval ∧ u.priv = st.priv ∧ u.inh = st.inh ∧ u.gen = st.gen

/-- R190, R203: while the register file has room for a frame, `CALL` and `CALLR` shift the window and go to their target, that of
`CALLR` being read before the shift; memory stands. -/
def Parts.CallsShiftTheWindow : Prop :=
  ∀ s st, st.rf.length < 3 →
    (∀ i24, Focus s st windowRegs [] → ∃ (t : State) (u : Strand), exec (.call i24) s = .next t ∧ t.strandAt s.cur = some u ∧ Called st u
      ∧ u.pc = branchGoal st.pc i24 ∧ t.pool = s.pool ∧ Outside s t)
    ∧ (∀ b, Focus s st (b :: windowRegs) [] → ∃ (t : State) (u : Strand), exec (.callr b) s = .next t ∧ t.strandAt s.cur = some u ∧ Called st u
      ∧ u.pc = (st.getG b).extractLsb' 0 52 ∧ t.pool = s.pool ∧ Outside s t)

/-- R190: with a frame in the register file `RET` restores g4 to g11 from it, moves g4 to g7 to g12 to g15, and goes to the old g7[51:0];
with window depth 0 it takes the underflow trap (cause 0x0B). -/
def Parts.ReturnRestoresTheWindow : Prop :=
  ∀ s st, Focus s st windowRegs [] →
    (st.wdepth ≠ 0 → ∀ l f, st.rf = l ++ [f] → ∃ (t : State) (u : Strand), exec .ret s = .next t ∧ t.strandAt s.cur = some u
      ∧ (∀ r : BitVec 4, r.toNat < 4 → u.getG r = st.getG r) ∧ HoldsFrame f u
      ∧ u.getG 12 = st.getG 4 ∧ u.getG 13 = st.getG 5 ∧ u.getG 14 = st.getG 6 ∧ u.getG 15 = st.getG 7
      ∧ u.pc = (st.getG 7).extractLsb' 0 52 ∧ u.wdepth = st.wdepth - 1 ∧ u.rf = l ∧ u.ls = st.ls ∧ u.wsp = st.wsp
      ∧ u.pw = st.pw ∧ u.masks = st.masks ∧ u.fflags = st.fflags ∧ u.loops = st.loops ∧ u.lc = st.lc
      ∧ t.pool = s.pool ∧ Outside s t)
    ∧ (st.wdepth = 0 → NotFatal st → TakesTrap .ret s st 0x0B 0)

/-- R190: a call and the return from it, with no window register touched between: the window, the depth and the frames are as before the
call, and the strand stands at the head after the call. -/
def Parts.ReturnUndoesACall : Prop :=
  ∀ s st i24 t u, Focus s st windowRegs [] → st.rf.length < 3 → st.wdepth ≠ BitVec.allOnes 64 → exec (.call i24) s = .next t →
    t.strandAt t.cur = some u →
    ∃ t' u', exec .ret t = .next t' ∧ t'.strandAt t.cur = some u' ∧ (∀ r : BitVec 4, r.toNat < 12 → u'.getG r = st.getG r)
      ∧ u'.pc = st.nextHead ∧ u'.wdepth = st.wdepth ∧ u'.rf = st.rf ∧ u'.ls = st.ls ∧ u'.wsp = st.wsp ∧ u'.pw = st.pw
      ∧ u'.fflags = st.fflags ∧ u'.loops = st.loops ∧ t'.mem = s.mem ∧ t'.pool = s.pool

/-- R59, R190, R191: with three frames in the register file a call moves the oldest to local store in a turn before it completes, and a return
that finds none there moves the newest back. With 67 frames held the oldest goes to memory at `sr.wsp` as part of the call, and with none held
the return takes its frame from below `sr.wsp`. While no strand of the core is ready, the oldest frame of the register file or the newest
of local store moves. A move changes no register and no memory. -/
def Parts.FramesMoveBetweenRegisterFileAndLocalStore : Prop :=
  ∀ s st,
    (∀ i24, Focus s st windowRegs [] → ¬(st.rf.length < 3) → st.ls.length < 64 →
      exec (.call i24) s = .next (s.setStrand s.cur { st with ls := st.ls ++ st.rf.take 1, rf := st.rf.drop 1 }))
    ∧ (∀ l f, Focus s st windowRegs [] → st.wdepth ≠ 0 → st.rf = [] → st.ls = l ++ [f] →
      exec .ret s = .next (s.setStrand s.cur { st with ls := l, rf := [f] }))
    ∧ (∀ i24 (s1 : State) (st1 : Strand) v, Focus s st windowRegs [] → ¬(st.rf.length < 3) → ¬(st.ls.length < 64) →
      s.frameIo s.cur st st.wsp.toNat st.ls.head? = .ok s1 st1 v →
      (st.since = none → exec (.call i24) s = .next (s.setStrand s.cur { st with since := some 0 }))
      ∧ (st.since ≠ none → ∃ (t : State) (u : Strand), exec (.call i24) s = .next t ∧ t.strandAt s1.cur = some u ∧ u.pc = branchGoal st.pc i24
        ∧ (∃ f, HoldsFrame f st ∧ u.rf = st.rf.drop 1 ++ [f]) ∧ u.ls = st.ls.drop 1 ++ st.rf.take 1 ∧ u.wsp = st.wsp + 64
        ∧ u.wdepth = st.wdepth + 1 ∧ t.mem = s1.mem))
    ∧ (∀ (s1 : State) (st1 : Strand) v, Focus s st windowRegs [] → st.wdepth ≠ 0 → st.rf = [] → st.ls = [] →
      s.frameIo s.cur st (st.wsp - 64).toNat none = .ok s1 st1 v →
      ∃ (t : State) (u : Strand), exec .ret s = .next t ∧ t.strandAt s1.cur = some u ∧ u.pc = (st.getG 7).extractLsb' 0 52
        ∧ HoldsFrame (BitVec.ofNat 512 v) u ∧ u.getG 12 = st.getG 4 ∧ u.getG 15 = st.getG 7 ∧ u.rf = [] ∧ u.ls = [] ∧ u.wsp = st.wsp - 64
        ∧ u.wdepth = st.wdepth - 1 ∧ t.mem = s.mem)
    ∧ (∀ k, (∀ e ∈ s.strands, coreOf e.1 = coreOf k → s.readyNow e.1 e.2 = false) →
      (∀ f r, s.strandAt k = some st → st.rf = f :: r → st.ls.length < 64 →
        exec (.windowSpillFill k false) s = .next (s.setStrand k { st with ls := st.ls ++ [f], rf := r }))
      ∧ (∀ f l, s.strandAt k = some st → st.rf.length < 3 → st.ls = l ++ [f] →
        exec (.windowSpillFill k true) s = .next (s.setStrand k { st with ls := l, rf := f :: st.rf })))

/-- A request of n bytes at a physical address under a key index meets neither a lost line nor a key other than the line's own, and the bytes
are the part's own (R241, R343, R344, R387). -/
def PlainStore (s : State) (pa key : Nat) : Prop :=
  s.isLost pa = false ∧ isPeer pa = false ∧ (isDevice pa = true → s.keyCleared key = false ∧ s.lineKey (pa / 128) = s.keyNow key)

/-- R191, R205: `FLUSHW` with no frame held completes and changes nothing; with frames held, and none of their stores meeting a fault, it
leaves none in the register file or in local store, and `sr.wsp` stands 64 bytes a frame higher. With one frame held, its 64 bytes, g4 of
the caller first, are those at the address that `sr.wsp` translates to, and every other byte of memory stands. -/
def Parts.FlushWritesEveryFrame : Prop :=
  ∀ s st, Focus s st windowRegs [] →
    (st.rf = [] → st.ls = [] → Completes .flushw s st)
    ∧ (st.rf.length ≤ 3 → st.ls.length ≤ 64 → ∀ s1 st1 v, s.flushFrames s.cur 67 st = .ok s1 st1 v →
      ∃ (t : State) (u : Strand), exec .flushw s = .next t ∧ t.strandAt s.cur = some u ∧ u.rf = [] ∧ u.ls = []
        ∧ u.wsp = st.wsp + BitVec.ofNat 64 (64 * (st.rf.length + st.ls.length)) ∧ u.g = st.g ∧ u.wdepth = st.wdepth
        ∧ u.pw = st.pw ∧ u.masks = st.masks ∧ u.fflags = st.fflags ∧ t.mem = s1.mem)
    ∧ (∀ f pa e s1 st1 v, st.rf = [f] → st.ls = [] → s.flushFrames s.cur 67 st = .ok s1 st1 v →
      s.physOf (s.ctxOf s.cur st) (st.wsp.toNat % 2 ^ 52) .write = .ok (pa, e) → PlainStore s pa (s.keyOfAsid (s.asidOf st)) →
      ∃ t : State, exec .flushw s = .next t ∧ (∀ i : Nat, i < 64 → t.mem.read (pa + i) = f.extractLsb' (8 * i) 8)
        ∧ ∀ a, a < pa ∨ pa + 64 ≤ a → t.mem.read a = s.mem.read a)

/-- R205: `SETWS` with a base that is no multiple of 64 is an illegal operand; with no frame held it moves the window stack to gB[51:0] and the
depth to gC. -/
def Parts.SetwsSwitchesTheWindowStack : Prop :=
  ∀ s st b c, Focus s st (b :: c :: windowRegs) [] →
    ((st.getG b).toNat % 64 = 0 → st.rf = [] → st.ls = [] → ∃ (t : State) (u : Strand), exec (.setws b c) s = .next t ∧ t.strandAt s.cur = some u
      ∧ u.wsp = ((st.getG b).extractLsb' 0 52).setWidth 64 ∧ u.wdepth = st.getG c ∧ u.g = st.g ∧ u.rf = [] ∧ u.ls = []
      ∧ u.pw = st.pw ∧ u.masks = st.masks ∧ u.fflags = st.fflags ∧ t.pool = s.pool ∧ Outside s t)
    ∧ ((st.getG b).toNat % 64 ≠ 0 → NotFatal st → TakesTrap (.setws b c) s st 3 (BitVec.ofNat 64 st.headValue))

/-- What a loop instruction leaves when it pushes a level (R207): the count, the start at the next head, the end found by the walk. -/
def PushesLevel (i : Instr) (s : State) (st : Strand) (count : Word) (fin : Nat) : Prop :=
  ∃ (t : State) (u : Strand), exec i s = .next t ∧ t.strandAt s.cur = some u ∧ u.pc = st.nextHead
    ∧ u.loops = st.loops ++ [{ start := st.nextHead, finish := BitVec.ofNat 52 fin }]
    ∧ u.getLc st.loops.length = count ∧ (∀ d, d ≠ st.loops.length → u.getLc d = st.getLc d)
    ∧ u.g = st.g ∧ u.pw = st.pw ∧ u.masks = st.masks ∧ u.fflags = st.fflags ∧ t.mem = s.mem ∧ t.pool = s.pool

/-- R206, R207: with fewer than three levels and a count other than 0, `LOOP` and `LOOPI` push a level whose end is the last of its n + 1 heads;
with a count of 0 they go to the head after the body and push nothing; with three levels and a count other than 0 they take the
loop-depth trap (cause 0x0C). -/
def Parts.LoopInstructionsPushALevel : Prop :=
  ∀ s st,
    (∀ b k8 fin aft s1, Focus s st [b] [] → s.walkHeads s.cur st (k8.toNat + 1) st.nextHead.toNat = .ok (fin, aft, s1) →
      (st.getG b = 0 → ∃ (t : State) (u : Strand), exec (.loop b k8) s = .next t ∧ t.strandAt s.cur = some u ∧ u.pc = BitVec.ofNat 52 aft
        ∧ u.loops = st.loops ∧ u.lc = st.lc ∧ u.g = st.g ∧ t.mem = s.mem)
      ∧ (st.getG b ≠ 0 → st.loops.length < 3 → (∀ l ∈ st.loops, l.finish ≠ st.pc) → BitVec.ofNat 52 fin ≠ st.pc →
        PushesLevel (.loop b k8) s st (st.getG b) fin))
    ∧ (∀ count n fin aft s1, Focus s st [] [] → s.walkHeads s.cur st (n.toNat + 1) st.nextHead.toNat = .ok (fin, aft, s1) →
      (count = 0 → ∃ (t : State) (u : Strand), exec (.loopi count n) s = .next t ∧ t.strandAt s.cur = some u ∧ u.pc = BitVec.ofNat 52 aft
        ∧ u.loops = st.loops ∧ u.lc = st.lc ∧ u.g = st.g ∧ t.mem = s.mem)
      ∧ (count ≠ 0 → st.loops.length < 3 → (∀ l ∈ st.loops, l.finish ≠ st.pc) → BitVec.ofNat 52 fin ≠ st.pc →
        PushesLevel (.loopi count n) s st (count.setWidth 64) fin))
    ∧ (∀ b k8, Focus s st [b] [] → NotFatal st → st.getG b ≠ 0 → 3 ≤ st.loops.length → TakesTrap (.loop b k8) s st 0x0C 0)
    ∧ (∀ count n, Focus s st [] [] → NotFatal st → count ≠ 0 → 3 ≤ st.loops.length → TakesTrap (.loopi count n) s st 0x0C 0)

/-- R207, R166: a body of n + 1 heads that stands whole in the line that the strand holds ends 2n bytes after its start. -/
def Parts.LoopBodiesInsideTheHeldLine : Prop :=
  ∀ (s : State) (slot : Nat) (st : Strand) (a : VAddr) (l : Line), st.fetch = some (a, l) → a.toNat = st.pc.toNat / 64 * 64 → (checkLine l).isOk = true →
    ∀ j n, 0 < j → j + n < lineHeadCount l → a.toNat + 64 < 2 ^ 52 →
      ∃ aft, s.walkHeads slot st (n + 1) (a.toNat + 2 + 2 * j) = .ok (a.toNat + 2 + 2 * (j + n), aft, s)

/-- R208: an instruction at the end head of the innermost level. With a count above 1 the level iterates: the count falls by one and the strand
goes to the start. Otherwise the level ends with count 0; and where no outer level ends there the strand goes on. Shown on `NOP`. -/
def Parts.EndTestOfALoop : Prop :=
  ∀ s st ls (l : LoopLevel), Focus s st [] [] → st.loops = ls ++ [l] → ls.length < 3 → l.finish = st.pc →
    (1 < (st.getLc ls.length).toNat → ∃ (t : State) (u : Strand), exec .nop s = .next t ∧ t.strandAt s.cur = some u ∧ u.pc = l.start
      ∧ u.loops = st.loops ∧ u.getLc ls.length = st.getLc ls.length - 1 ∧ (∀ d, d ≠ ls.length → u.getLc d = st.getLc d)
      ∧ u.g = st.g)
    ∧ ((st.getLc ls.length).toNat ≤ 1 → (∀ e ∈ ls, e.finish ≠ st.pc) → ∃ (t : State) (u : Strand), exec .nop s = .next t ∧ t.strandAt s.cur = some u
      ∧ u.pc = st.nextHead ∧ u.loops = ls ∧ u.getLc ls.length = 0 ∧ (∀ d, d ≠ ls.length → u.getLc d = st.getLc d) ∧ u.g = st.g)

/-- R208: `LBRK` outside a loop, or with its condition not met, completes; otherwise it ends the innermost level with count 0 and goes to the head
after that level's end. -/
def Parts.LoopBreak : Prop :=
  ∀ s st p neg, Focus s st [] [] →
    (st.loops = [] ∨ (st.getP p ^^ neg) = false → Completes (.lbrk p neg) s st)
    ∧ (∀ ls l, st.loops = ls ++ [l] → ls.length < 3 → (st.getP p ^^ neg) = true →
      ∀ aft s1, l.finish ≠ st.pc → s.headAfterAt s.cur st l.finish = .ok (aft, s1) →
        ∃ (t : State) (u : Strand), exec (.lbrk p neg) s = .next t ∧ t.strandAt s.cur = some u ∧ u.pc = BitVec.ofNat 52 aft ∧ u.loops = ls
          ∧ u.getLc ls.length = 0 ∧ (∀ d, d ≠ ls.length → u.getLc d = st.getLc d) ∧ u.g = st.g ∧ u.pw = st.pw
          ∧ u.fflags = st.fflags ∧ t.mem = s.mem ∧ t.pool = s.pool)

/-- R210, R211: what `SRD` reads of each special register, and that it writes no other register: the ordinals, the tenant and the time for all; the
trap registers with S rights alone. -/
def Parts.SpecialRegistersRead : Prop :=
  ∀ s st a, Focus s st [a] [] →
    WritesG (.srd a 0x00) s st a (BitVec.ofNat 64 st.ordStrand) 0 ∧ WritesG (.srd a 0x01) s st a (BitVec.ofNat 64 st.ordCore) 0
    ∧ WritesG (.srd a 0x02) s st a (BitVec.ofNat 64 st.ordQuad) 0 ∧ WritesG (.srd a 0x03) s st a (BitVec.ofNat 64 st.ordDie) 0
    ∧ WritesG (.srd a 0x04) s st a st.bond 0 ∧ WritesG (.srd a 0x05) s st a (BitVec.ofNat 64 (s.tenantOf st)) 0
    ∧ WritesG (.srd a 0x08) s st a (BitVec.ofNat 64 s.time) 0
    ∧ WritesG (.srd a 0x09) s st a
      (BitVec.ofNat 64 ((if st.priv then 1 else 0) + (if st.inh then 2 else 0) + 4 * st.loops.length)) 0
    ∧ WritesG (.srd a 0x0B) s st a (st.shape.setWidth 64) 0 ∧ WritesG (.srd a 0x0C) s st a st.wsp 0
    ∧ WritesG (.srd a 0x0D) s st a st.wdepth 0 ∧ WritesG (.srd a 0x0E) s st a (s.budgetLeft st) 0
    ∧ WritesG (.srd a 0x10) s st a (st.getLc 0) 0 ∧ WritesG (.srd a 0x11) s st a (st.getLc 1) 0
    ∧ WritesG (.srd a 0x12) s st a (st.getLc 2) 0
    ∧ (s.drained s.cur = true → WritesG (.srd a 0x0A) s st a (st.fflags.setWidth 64) 0
      ∧ WritesG (.srd a 0x0F) s st a (st.lost.setWidth 64) 0)
    ∧ (st.priv = true ∨ st.inh = true → WritesG (.srd a 0x18) s st a st.tvec 0 ∧ WritesG (.srd a 0x19) s st a st.epc 0
      ∧ WritesG (.srd a 0x1A) s st a st.cause 0 ∧ WritesG (.srd a 0x1B) s st a st.tval 0)

/-- A write of a special register alone: the strand is `st` but for what `set` writes, and goes on. -/
def WritesSr (i : Instr) (s : State) (st : Strand) (w : Strand) : Prop :=
  ∃ (t : State) (u : Strand), exec i s = .next t ∧ t.strandAt s.cur = some u
    ∧ u.g = st.g ∧ u.pw = st.pw ∧ u.masks = st.masks ∧ u.gen = st.gen ∧ u.rrec = st.rrec ∧ u.fflags = w.fflags ∧ Kept w u
    ∧ Flow w u ∧ t.pool = s.pool ∧ Outside s t

/-- R210, R211, R288: the special registers that `SWR` may write, with the reserved bits dropped: the flags, the lost bits and the loop counts for
all; `sr.tvec`, `sr.epc`, `sr.cause` and `sr.tval` with S rights. -/
def Parts.SpecialRegistersWritten : Prop :=
  ∀ s st b, Focus s st [b] [] →
    let v := st.getG b
    (s.drained s.cur = true → WritesSr (.swr b 0x0A) s st { st with fflags := v.setWidth 6 }
      ∧ WritesSr (.swr b 0x0F) s st { st with lost := v.setWidth 2 })
    ∧ WritesSr (.swr b 0x10) s st { st with lc := st.lc.set 0 v } ∧ WritesSr (.swr b 0x11) s st { st with lc := st.lc.set 1 v }
    ∧ WritesSr (.swr b 0x12) s st { st with lc := st.lc.set 2 v }
    ∧ (st.priv = true ∨ st.inh = true → WritesSr (.swr b 0x18) s st { st with tvec := v }
      ∧ WritesSr (.swr b 0x19) s st { st with epc := v } ∧ WritesSr (.swr b 0x1A) s st { st with cause := v &&& 0xFFF }
      ∧ WritesSr (.swr b 0x1B) s st { st with tval := v })

/-- R210, R288, R305: a number that names no special register, or a write of one that may not be written, is an illegal operand (cause 0x03); a
trap register without S rights is a privilege trap (cause 0x04); the value of both is the head. -/
def Parts.SpecialRegisterTraps : Prop :=
  ∀ s st a k, Focus s st [a] [] → NotFatal st →
    (k ∉ [0x00#8, 0x01, 0x02, 0x03, 0x04, 0x05, 0x08, 0x09, 0x0A, 0x0B, 0x0C, 0x0D, 0x0E, 0x0F, 0x10, 0x11, 0x12, 0x18, 0x19, 0x1A, 0x1B] →
      TakesTrap (.srd a k) s st 3 (BitVec.ofNat 64 st.headValue))
    ∧ (k ∉ [0x0A#8, 0x0F, 0x10, 0x11, 0x12, 0x18, 0x19, 0x1A, 0x1B] → TakesTrap (.swr a k) s st 3 (BitVec.ofNat 64 st.headValue))
    ∧ (k ∈ [0x18#8, 0x19, 0x1A, 0x1B] → st.priv = false → TakesTrap (.srd a k) s st 4 (BitVec.ofNat 64 st.headValue)
      ∧ TakesTrap (.swr a k) s st 4 (BitVec.ofNat 64 st.headValue))

/-- R210: `YIELD` completes and leaves the strand not ready until 8 × K8 cycles have passed and every other strand of its core that was ready has
issued; when both hold, `YIELD_EXPIRY` makes it ready.
The strands that it counts are those that are ready when it issues, which is the model's reading (log entry 28). -/
def Parts.YieldAndItsEnd : Prop :=
  (∀ s st k8, Focus s st [] [] → ∃ t u others, exec (.yield k8) s = .next t ∧ t.strandAt s.cur = some u
    ∧ u.wait = .yielding (s.time + 8 * k8.toNat) others
    ∧ (∀ k, k ∈ others ↔ ∃ v, (k, v) ∈ s.strands ∧ coreOf k = coreOf s.cur ∧ k ≠ s.cur ∧ s.readyNow k v = true)
    ∧ u.g = st.g ∧ u.pw = st.pw ∧ u.masks = st.masks ∧ u.fflags = st.fflags ∧ Flow st u ∧ t.mem = s.mem ∧ t.pool = s.pool)
  ∧ (∀ s k st t, s.strandAt k = some st → st.wait = .yielding t [] →
    exec (.yieldExpiry k) s = .next { s.setStrand k { st with wait := .ready } with time := max s.time t })

/-- R190, R203: calls shift the register window and returns restore it; a return undoes a call. -/
def Obligations.CallsAndReturns : Prop :=
  Parts.CallsShiftTheWindow ∧ Parts.ReturnRestoresTheWindow ∧ Parts.ReturnUndoesACall

/-- R59, R191, R205: frames move to local store and to memory, and `SETWS` switches the window stack. -/
def Obligations.WindowFrames : Prop :=
  Parts.FramesMoveBetweenRegisterFileAndLocalStore ∧ Parts.FlushWritesEveryFrame ∧ Parts.SetwsSwitchesTheWindowStack

/-- R166, R206 to R208: `LOOP`, `LOOPI` and `LBRK`, and the end test of a loop level. -/
def Obligations.HardwareLoops : Prop :=
  Parts.LoopInstructionsPushALevel ∧ Parts.LoopBodiesInsideTheHeldLine ∧ Parts.EndTestOfALoop ∧ Parts.LoopBreak

/-- R210, R211, R288, R305: every special register that is read or written, the traps of those that may not be, and `YIELD`. -/
def Obligations.SpecialRegistersAndYield : Prop :=
  Parts.SpecialRegistersRead ∧ Parts.SpecialRegistersWritten ∧ Parts.SpecialRegisterTraps ∧ Parts.YieldAndItsEnd

/-! ### Vector instructions (spec/09_vector.md R213 to R236) -/

/-- Element k of width w of a vector register of the strand (R213). -/
def velem (s : State) (st : Strand) (r w k : Nat) : Nat := ((s.getV s.cur st r).extractLsb' (w * k) w).toNat

/-- Element i of a group of k registers from `base` (R214). -/
def gelem (s : State) (st : Strand) (base k w i : Nat) : Nat := velem s st (base + i % k) w (i / k)

/-- The second operand of element k (R215). -/
def second (s : State) (st : Strand) (o : VecOps) (k : Nat) : Nat :=
  let w := typeBits o.tn
  if o.src = 0 then velem s st o.vs2.toNat w k
  else if o.src = 1 then (st.getG o.b).toNat % 2 ^ w
  else ((o.i20 : Int) % 2 ^ w).toNat

/-- The order 3 conditions of a vector instruction (R214, R215): the type and SRC are accepted, an immediate has no floating-point T, the
rounding mode exists, and every register named lies in the strand's allocation. -/
def Accepted (o : VecOps) (st : Strand) (types src : List Nat) (regs : List (BitVec 5)) : Prop :=
  o.tn ∈ types ∧ o.src.toNat ∈ src ∧ ¬(o.src = 2 ∧ typeFloat o.tn = true) ∧ o.rnd < 6 ∧ ∀ r ∈ regs, r.toNat < st.vcount

/-- Registers of an instruction with a destination, VS1, and VS2 under SRC 0. -/
def elemRegs (o : VecOps) : List (BitVec 5) := [o.vd, o.vs1] ++ (if o.src = 0 then [o.vs2] else [])

/-- Types of the classes INT and FLT, and both (R216). -/
def INT : List Nat := [0, 1, 2, 3, 4, 5, 6, 7]
def FLT : List Nat := [8, 9, 10]
def NUM : List Nat := INT ++ FLT
def ANY : List Nat := [0, 1, 2, 3, 4, 5, 6, 7, 8, 9, 10, 11, 12, 13, 14, 15]

/-- The draw of element k: under rsr each active element in ascending order takes one (R100, R217). -/
def drawOf (o : VecOps) (st : Strand) (k : Nat) : Nat :=
  if o.rnd = 5 then genDraw (Nat.iterate genStep ((List.range k).countP (st.getM o.m).getLsbD + 1) st.gen) else 0

/-- The flags of the active elements, together. -/
def flagsOf (active : Nat → Bool) (n : Nat) (f : Nat → FFlags) : FFlags :=
  (List.range n).foldl (fun a k => if active k then a ||| f k else a) 0

/-- A vector instruction completes with destination group vd of kd registers and n elements of width w: active element k becomes r k, an inactive
one is kept, the flags of the active ones are ORed into `sr.fflags`, under rsr the generator steps once for each active one; every other
vector register, every scalar register, predicate and mask, every special register and all memory stand (R217). -/
def WritesGroup (i : Instr) (s : State) (st : Strand) (o : VecOps) (kd w n : Nat) (r : Nat → Nat × FFlags) : Prop :=
  ∃ (t : State) (u : Strand), exec i s = .next t ∧ t.strandAt s.cur = some u
    ∧ (∀ k, k < n → gelem t u o.vd.toNat kd w k =
        if (st.getM o.m).getLsbD k then (r k).1 % 2 ^ w else gelem s st o.vd.toNat kd w k)
    ∧ u.fflags = st.fflags ||| flagsOf (st.getM o.m).getLsbD n (fun k => (r k).2)
    ∧ u.gen = (if o.rnd = 5 then Nat.iterate genStep ((List.range n).countP (st.getM o.m).getLsbD) st.gen else st.gen)
    ∧ (∀ j, (∀ d, d < kd → j ≠ 64 * coreOf s.cur + st.vbase + (o.vd.toNat + d)) → SMap.get 0 t.pool j = SMap.get 0 s.pool j)
    ∧ u.g = st.g ∧ u.pw = st.pw ∧ u.masks = st.masks
    ∧ u.rrec = recordAfterV st ((List.range kd).map fun d => o.vd.toNat + d)
    ∧ Kept st u ∧ Flow st u ∧ Outside s t

/-- An elementwise instruction with one destination register. -/
def WritesV (i : Instr) (s : State) (st : Strand) (o : VecOps) (r : Nat → Nat × FFlags) : Prop :=
  WritesGroup i s st o 1 (typeBits o.tn) (elemCount o.tn) r

/-- fit_int of R192 at a type code: r is v in the type, clamped with SA under SAT, or modulo 2^w. -/
def FitsCode (t : Nat) (sat : Bool) (v : Int) (r : Nat × FFlags) : Prop :=
  r.1 < 2 ^ typeBits t
    ∧ (intMin t ≤ v → v ≤ intMax t → intOf r.1 t = v ∧ r.2 = 0)
    ∧ (sat = true → v < intMin t → intOf r.1 t = intMin t ∧ r.2 = flagSA)
    ∧ (sat = true → intMax t < v → intOf r.1 t = intMax t ∧ r.2 = flagSA)
    ∧ (sat = false → (r.1 : Int) = v % 2 ^ typeBits t ∧ r.2 = 0)

/-- An elementwise row on an integer T whose exact result is given. -/
def IntegerRow (mk : VecOps → Instr) (src : List Nat) (regs : VecOps → List (BitVec 5))
    (v : State → Strand → VecOps → Nat → Int) : Prop :=
  ∀ s st o, (mk o).wf = true → Focus s st [o.a, o.b] (regs o) → Accepted o st INT src (regs o) →
    ∃ r, (∀ k, k < elemCount o.tn → FitsCode o.tn o.sat (v s st o k) (r k)) ∧ WritesV (mk o) s st o r

/-- The first, second and third operands as integers of T. -/
def xInt (s : State) (st : Strand) (o : VecOps) (k : Nat) : Int := intOf (velem s st o.vs1.toNat (typeBits o.tn) k) o.tn
def bInt (s : State) (st : Strand) (o : VecOps) (k : Nat) : Int := intOf (second s st o k) o.tn
def cInt (s : State) (st : Strand) (o : VecOps) (k : Nat) : Int := intOf (velem s st (thirdReg o).toNat (typeBits o.tn) k) o.tn

/-- R217, R220, R222: on an integer T the arithmetic instructions give, for each active element, the exact result fitted once; VS3, or vd with
the 4-byte tail, is the addend of the fused ones. -/
def Obligations.VectorIntegerArithmetic : Prop :=
  IntegerRow .vadd [0, 1, 2] elemRegs (fun s st o k => xInt s st o k + bInt s st o k)
  ∧ IntegerRow .vsub [0, 1, 2] elemRegs (fun s st o k => xInt s st o k - bInt s st o k)
  ∧ IntegerRow .vmul [0, 1, 2] elemRegs (fun s st o k => xInt s st o k * bInt s st o k)
  ∧ IntegerRow .vfma [0, 1] (fun o => thirdReg o :: elemRegs o) (fun s st o k => xInt s st o k * bInt s st o k + cInt s st o k)
  ∧ IntegerRow .vfms [0, 1] (fun o => thirdReg o :: elemRegs o) (fun s st o k => xInt s st o k * bInt s st o k - cInt s st o k)
  ∧ IntegerRow .vfnma [0, 1] (fun o => thirdReg o :: elemRegs o) (fun s st o k => -(xInt s st o k * bInt s st o k) + cInt s st o k)
  ∧ IntegerRow .vshl [0, 1, 2] elemRegs (fun s st o k => xInt s st o k * 2 ^ (second s st o k % typeBits o.tn))
  ∧ IntegerRow .vabs [0] elemRegs (fun s st o k => |xInt s st o k|)
  ∧ IntegerRow .vneg [0] elemRegs (fun s st o k => -xInt s st o k)

/-- An elementwise row whose element results are given; u is the draw. -/
def ElementRow (mk : VecOps → Instr) (types src : List Nat) (regs : VecOps → List (BitVec 5))
    (r : State → Strand → VecOps → Nat → Nat → Nat × FFlags) : Prop :=
  ∀ s st o, (mk o).wf = true → Focus s st [o.a, o.b] (regs o) → Accepted o st types src (regs o) →
    WritesV (mk o) s st o fun k => r s st o k (drawOf o st k)

/-- Operands as floating-point values. -/
def xNum (s : State) (st : Strand) (o : VecOps) (k : Nat) : Machine.Num := decodeFloat (velem s st o.vs1.toNat (typeBits o.tn) k) o.tn
def bNum (s : State) (st : Strand) (o : VecOps) (k : Nat) : Machine.Num := decodeFloat (second s st o k) o.tn
def cNum (s : State) (st : Strand) (o : VecOps) (k : Nat) : Machine.Num :=
  decodeFloat (velem s st (thirdReg o).toNat (typeBits o.tn) k) o.tn

/-- R217, R219, R220, R222, R227 to R229: on a floating-point T each active element is f_arith of its operands, or the special function of its
operand, under the instruction's rounding and saturation, with one draw an element under rsr.
Where the manual can be read two ways, in rounding and in the grid on which exponentials and logarithms are taken, the model's reading stands (log entries 13, 26). -/
def Obligations.VectorFloatingPointRows : Prop :=
  ElementRow .vadd FLT [0, 1, 2] elemRegs (fun s st o k u => fArith .add (xNum s st o k) (bNum s st o k) (decodeFloat 0 o.tn) o.tn o.rnd o.sat u)
  ∧ ElementRow .vsub FLT [0, 1, 2] elemRegs
    (fun s st o k u => fArith .sub (xNum s st o k) (bNum s st o k) (decodeFloat 0 o.tn) o.tn o.rnd o.sat u)
  ∧ ElementRow .vmul FLT [0, 1, 2] elemRegs
    (fun s st o k u => fArith .mul (xNum s st o k) (bNum s st o k) (decodeFloat 0 o.tn) o.tn o.rnd o.sat u)
  ∧ ElementRow .vfma FLT [0, 1] (fun o => thirdReg o :: elemRegs o)
    (fun s st o k u => fArith .fma (xNum s st o k) (bNum s st o k) (cNum s st o k) o.tn o.rnd o.sat u)
  ∧ ElementRow .vfms FLT [0, 1] (fun o => thirdReg o :: elemRegs o)
    (fun s st o k u => fArith .fms (xNum s st o k) (bNum s st o k) (cNum s st o k) o.tn o.rnd o.sat u)
  ∧ ElementRow .vfnma FLT [0, 1] (fun o => thirdReg o :: elemRegs o)
    (fun s st o k u => fArith .fnma (xNum s st o k) (bNum s st o k) (cNum s st o k) o.tn o.rnd o.sat u)
  ∧ ElementRow .vdiv FLT [0, 1] elemRegs
    (fun s st o k u => fArith .div (xNum s st o k) (bNum s st o k) (decodeFloat 0 o.tn) o.tn o.rnd o.sat u)
  ∧ ElementRow .vrcps FLT [0, 1] elemRegs
    (fun s st o k u => fArith .rcps (xNum s st o k) (bNum s st o k) (decodeFloat 0 o.tn) o.tn o.rnd o.sat u)
  ∧ ElementRow .vrsqs FLT [0, 1] elemRegs
    (fun s st o k u => fArith .rsqs (xNum s st o k) (bNum s st o k) (decodeFloat 0 o.tn) o.tn o.rnd o.sat u)
  ∧ ElementRow .vsqrt FLT [0] elemRegs (fun s st o k u => fSqrt (xNum s st o k) o.tn o.rnd o.sat u)
  ∧ ElementRow .vrcp FLT [0] elemRegs (fun s st o k _ => fRcpEst (xNum s st o k) o.tn)
  ∧ ElementRow .vrsq FLT [0] elemRegs (fun s st o k _ => fRsqEst (xNum s st o k) o.tn)
  ∧ ElementRow .vexp2 FLT [0] elemRegs (fun s st o k u => fExp2 (xNum s st o k) o.tn o.rnd o.sat u)
  ∧ ElementRow .vlog2 FLT [0] elemRegs (fun s st o k u => fLog2 (xNum s st o k) o.tn o.rnd o.sat u)
  ∧ ElementRow .vtanh FLT [0] elemRegs (fun s st o k u => fTanh (xNum s st o k) o.tn o.rnd o.sat u)

/-- R220 to R223, R232, R234: the rows that raise no flag of arithmetic: bitwise, shifts right, absolute value and negation of a
floating-point number, minimum and maximum, `VIOTA`, `VBCAST`, `VSLIDE` and `VPERM`. -/
def Obligations.VectorLogicOrderAndMovement : Prop :=
  ElementRow .vand ANY [0, 1, 2] elemRegs (fun s st o k _ => (velem s st o.vs1.toNat (typeBits o.tn) k &&& second s st o k, 0))
  ∧ ElementRow .vor ANY [0, 1, 2] elemRegs (fun s st o k _ => (velem s st o.vs1.toNat (typeBits o.tn) k ||| second s st o k, 0))
  ∧ ElementRow .vxor ANY [0, 1, 2] elemRegs (fun s st o k _ => (velem s st o.vs1.toNat (typeBits o.tn) k ^^^ second s st o k, 0))
  ∧ ElementRow .vshr INT [0, 1, 2] elemRegs
    (fun s st o k _ => (velem s st o.vs1.toNat (typeBits o.tn) k >>> (second s st o k % typeBits o.tn), 0))
  ∧ ElementRow .vsar INT [0, 1, 2] elemRegs
    (fun s st o k _ => (((BitVec.ofNat (typeBits o.tn) (velem s st o.vs1.toNat (typeBits o.tn) k)).sshiftRight
      (second s st o k % typeBits o.tn)).toNat, 0))
  ∧ ElementRow .vabs FLT [0] elemRegs (fun s st o k _ => (velem s st o.vs1.toNat (typeBits o.tn) k % 2 ^ (typeBits o.tn - 1), 0))
  ∧ ElementRow .vneg FLT [0] elemRegs (fun s st o k _ => (velem s st o.vs1.toNat (typeBits o.tn) k ^^^ 2 ^ (typeBits o.tn - 1), 0))
  ∧ ElementRow .vmin NUM [0, 1, 2] elemRegs
    (fun s st o k _ => minMax (velem s st o.vs1.toNat (typeBits o.tn) k) (second s st o k) o.tn false false)
  ∧ ElementRow .vmax NUM [0, 1, 2] elemRegs
    (fun s st o k _ => minMax (velem s st o.vs1.toNat (typeBits o.tn) k) (second s st o k) o.tn true false)
  ∧ ElementRow .vminn NUM [0, 1, 2] elemRegs
    (fun s st o k _ => minMax (velem s st o.vs1.toNat (typeBits o.tn) k) (second s st o k) o.tn false true)
  ∧ ElementRow .vmaxn NUM [0, 1, 2] elemRegs
    (fun s st o k _ => minMax (velem s st o.vs1.toNat (typeBits o.tn) k) (second s st o k) o.tn true true)
  ∧ ElementRow .viota INT [0] (fun o => [o.vd])
    (fun _ st o k _ => ((List.range k).countP (st.getM (o.vs1.extractLsb' 0 3)).getLsbD, 0))
  ∧ ElementRow .vbcast ANY [1, 2] (fun o => [o.vd]) (fun s st o k _ => (second s st o k, 0))
  ∧ ElementRow .vslide ANY [1, 2] (fun o => [o.vd, o.vs1])
    (fun s st o k _ =>
      let j : Int := k + (if o.src = 1 then (st.getG o.b).toInt else o.i20)
      (if 0 ≤ j ∧ j < elemCount o.tn then velem s st o.vs1.toNat (typeBits o.tn) j.toNat else 0, 0))
  ∧ (∀ s st o, (Instr.vperm o).wf = true →
      let w := typeBits o.tn
      let q := if w < 16 then 16 / w else 1
      let index : List (BitVec 5) := (List.range q).map fun d => o.vs2 + BitVec.ofNat 5 d
      let tables : List (BitVec 5) := if o.vs3 = 0 then [o.vs1] else [o.vs1, BitVec.ofNat 5 o.vs3]
      o.vs2.toNat % q = 0 → Focus s st [o.a, o.b] ([o.vd] ++ tables ++ index) → Accepted o st ANY [0] ([o.vd] ++ tables ++ index) →
      WritesV (.vperm o) s st o fun k =>
        let j := gelem s st o.vs2.toNat q (max w 16) k
        (if j < elemCount o.tn then velem s st o.vs1.toNat w j
          else if o.vs3 ≠ 0 ∧ j < 2 * elemCount o.tn then velem s st o.vs3 w (j - elemCount o.tn) else 0, 0))

/-- R221: on an integer T the minimum and the maximum of two elements are theirs as integers of the type, with no flag. -/
def Parts.IntegerMinimumAndMaximum : Prop :=
  ∀ a b t, t ∈ INT → a < 2 ^ typeBits t → b < 2 ^ typeBits t → ∀ num,
    intOf (minMax a b t false num).1 t = min (intOf a t) (intOf b t) ∧ intOf (minMax a b t true num).1 t = max (intOf a t) (intOf b t)
      ∧ (minMax a b t false num).2 = 0 ∧ (minMax a b t true num).2 = 0

/-- A vector instruction completes with a mask register written in its low n bits: where `active` the bit that r gives, elsewhere the old bit; bits
from n up are kept, and a write to m0 is discarded (R213). -/
def MaskAfter (st u : Strand) (md : BitVec 3) (n : Nat) (active : Nat → Bool) (r : Nat → Bool) : Prop :=
  ∀ q i, i < 1024 → (u.getM q).getLsbD i =
    if q = md ∧ md ≠ 0 ∧ i < n ∧ active i then r i else (st.getM q).getLsbD i

/-- R202, R213, R222, R223: `VCMP` writes bit i of md with the condition on active element i and keeps the others; `VSEL` writes every element with
that of VS1 or the second operand as M selects; `MLOG` looks all 1,024 bits up; `VPOPM` counts. -/
def Parts.MaskInstructions : Prop :=
  (∀ s st o, (Instr.vcmp o).wf = true → Focus s st [o.a, o.b] ([o.vs1] ++ if o.src = 0 then [o.vs2] else []) →
    Accepted o st NUM [0, 1, 2] ([o.vs1] ++ if o.src = 0 then [o.vs2] else []) →
    (o.tn < 8 → o.x.toNat < 8) → (8 ≤ o.tn → o.x.toNat ≠ 6 ∧ o.x.toNat ≠ 7) →
    ∃ (t : State) (u : Strand), exec (.vcmp o) s = .next t ∧ t.strandAt s.cur = some u
      ∧ MaskAfter st u (o.vd.extractLsb' 0 3) (elemCount o.tn) (st.getM o.m).getLsbD
        (fun k => (condHolds (velem s st o.vs1.toNat (typeBits o.tn) k) (second s st o k) o.tn o.x.toNat).1)
      ∧ u.fflags = st.fflags ||| flagsOf (st.getM o.m).getLsbD (elemCount o.tn)
        (fun k => (condHolds (velem s st o.vs1.toNat (typeBits o.tn) k) (second s st o k) o.tn o.x.toNat).2)
      ∧ u.g = st.g ∧ u.pw = st.pw ∧ u.gen = st.gen ∧ u.rrec = st.rrec ∧ Kept st u ∧ Flow st u ∧ t.pool = s.pool ∧ Outside s t)
  ∧ (∀ s st o, (Instr.vsel o).wf = true → Focus s st [o.a, o.b] (elemRegs o) → Accepted o st ANY [0, 1, 2] (elemRegs o) →
    ∃ (t : State) (u : Strand), exec (.vsel o) s = .next t ∧ t.strandAt s.cur = some u
      ∧ (∀ k, k < elemCount o.tn → velem t u o.vd.toNat (typeBits o.tn) k =
        if (st.getM o.m).getLsbD k then velem s st o.vs1.toNat (typeBits o.tn) k else second s st o k)
      ∧ (∀ j, j ≠ 64 * coreOf s.cur + st.vbase + o.vd.toNat → SMap.get 0 t.pool j = SMap.get 0 s.pool j)
      ∧ u.g = st.g ∧ u.pw = st.pw ∧ u.masks = st.masks ∧ u.fflags = st.fflags ∧ u.gen = st.gen
      ∧ u.rrec = recordAfterV st [o.vd.toNat] ∧ Kept st u ∧ Flow st u ∧ Outside s t)
  ∧ (∀ s st o, (Instr.mlog o).wf = true → Focus s st [o.a, o.b] [] → Accepted o st ANY [0] [] →
    ∃ (t : State) (u : Strand), exec (.mlog o) s = .next t ∧ t.strandAt s.cur = some u
      ∧ MaskAfter st u (o.vd.extractLsb' 0 3) 1024 (fun _ => true)
        (fun i => o.x.getLsbD ((if (st.getM (o.vs1.extractLsb' 0 3)).getLsbD i then 2 else 0)
          + (if (st.getM (o.vs2.extractLsb' 0 3)).getLsbD i then 1 else 0)))
      ∧ u.g = st.g ∧ u.pw = st.pw ∧ u.fflags = st.fflags ∧ u.gen = st.gen ∧ u.rrec = st.rrec ∧ Kept st u ∧ Flow st u
      ∧ t.pool = s.pool ∧ Outside s t)
  ∧ (∀ s st o, (Instr.vpopm o).wf = true → Focus s st [o.a, o.b] [] → Accepted o st ANY [0] [] →
    WritesG (.vpopm o) s st o.a (BitVec.ofNat 64 ((List.range (elemCount o.tn)).countP fun i =>
      (st.getM (o.vs1.extractLsb' 0 3)).getLsbD i && (st.getM o.m).getLsbD i)) 0)

/-- Source and destination groups of `VCVT` (R224). -/
def groupOf (base : BitVec 5) (k : Nat) : List (BitVec 5) := (List.range k).map fun d => base + BitVec.ofNat 5 d

/-- The result type of a widening instruction (R225): twice the width with the same signedness, or f32. -/
def wideOf (t : Nat) : Nat := if t < 6 then t + 2 else 8

/-- A widening row: the results go to the pair from vd, which must be even, even results to vd (R214, R225). -/
def WideRow (mk : VecOps → Instr) (op : FOp) (iop : Int → Int → Int → Int) : Prop :=
  ∀ s st o, (mk o).wf = true →
    let w := typeBits (wideOf o.tn)
    let regs := groupOf o.vd 2 ++ [o.vs1] ++ if o.src = 0 then [o.vs2] else []
    o.vd.toNat % 2 = 0 → Focus s st [o.a, o.b] regs →
    (Accepted o st [0, 1, 2, 3, 4, 5] [0, 1, 2] regs → ∃ r,
      (∀ k, k < elemCount o.tn → FitsCode (wideOf o.tn) o.sat
        (iop (xInt s st o k) (bInt s st o k) (intOf (gelem s st o.vd.toNat 2 w k) (wideOf o.tn))) (r k))
      ∧ WritesGroup (mk o) s st o 2 w (elemCount o.tn) r)
    ∧ (Accepted o st [9, 10] [0, 1, 2] regs → WritesGroup (mk o) s st o 2 w (elemCount o.tn) fun k =>
      fArith op (xNum s st o k) (bNum s st o k) (decodeFloat (gelem s st o.vd.toNat 2 w k) 8) 8 o.rnd o.sat (drawOf o st k))

/-- R214, R216, R224: `VCVT` completes: for every pair of the 16 types whose widths are at most a factor of 8 apart, under SRC 0 and under a scale in
gB, exec answers the next state in which each active element of the destination group is the element of the source group converted. -/
def Parts.ConversionCompletes : Prop :=
  ∀ s st o, (Instr.vcvt o).wf = true →
    let ws := typeBits o.tn
    let wd := typeBits o.x.toNat
    let ks := if wd < ws then ws / wd else 1
    let kd := if ws < wd then wd / ws else 1
    ks ≤ 8 → kd ≤ 8 → o.vs1.toNat % ks = 0 → o.vd.toNat % kd = 0 →
    Focus s st [o.a, o.b] (groupOf o.vd kd ++ groupOf o.vs1 ks) → Accepted o st ANY [0, 1] (groupOf o.vd kd ++ groupOf o.vs1 ks) →
    WritesGroup (.vcvt o) s st o kd wd (4096 / min ws wd) fun k =>
      convertElem (gelem s st o.vs1.toNat ks ws k) o.tn o.x.toNat o.rnd o.sat
        (if o.src = 1 then some ((st.getG o.b).toNat % 2 ^ 32) else none) (drawOf o st k)

/-- R214, R225: `VWADD`, `VWMUL` and `VWMACC` complete, on every integer type up to 32 bits and on f16 and bf16: exec answers the next state in
which each active element of the pair is the sum, the product, or the pair's own element plus the product, at twice the width. -/
def Parts.WideningRowsComplete : Prop :=
  WideRow .vwadd .add (fun x y _ => x + y) ∧ WideRow .vwmul .mul (fun x y _ => x * y) ∧ WideRow .vwmacc .fma (fun x y c => c + x * y)

/-- R225: `VDOT4` completes on each of its eight types: exec answers the next state in which each active element of vd is its old value and the sum
of the four products of adjacent elements, fitted or rounded once. -/
def Parts.FourProductSumsComplete : Prop :=
  ∀ s st o, (Instr.vdot4 o).wf = true → Focus s st [o.a, o.b] (elemRegs o) →
    (∀ r, (o.tn, r) ∈ [(0, 4), (1, 4), (14, 2), (15, 2), (2, 6), (3, 6)] → Accepted o st ANY [0, 1, 2] (elemRegs o) →
      ∃ res, (∀ k, k < elemCount o.tn / 4 → FitsCode r o.sat
          (intOf (gelem s st o.vd.toNat 1 (typeBits r) k) r
            + (xInt s st o (4 * k) * bInt s st o (4 * k) + xInt s st o (4 * k + 1) * bInt s st o (4 * k + 1)
              + xInt s st o (4 * k + 2) * bInt s st o (4 * k + 2) + xInt s st o (4 * k + 3) * bInt s st o (4 * k + 3))) (res k))
        ∧ WritesGroup (.vdot4 o) s st o 1 (typeBits r) (elemCount o.tn / 4) res)
    ∧ (Accepted o st [11, 12] [0, 1] (elemRegs o) →
      WritesGroup (.vdot4 o) s st o 1 32 (elemCount o.tn / 4) fun k =>
        let c := decodeFloat (gelem s st o.vd.toNat 1 32 k) 8
        let x := fun j => xNum s st o (4 * k + j)
        let y := fun j => bNum s st o (4 * k + j)
        fSum [c, x 0, y 0, x 1, y 1, x 2, y 2, x 3, y 3]
          (zeroTimesInf (x 0) (y 0) || zeroTimesInf (x 1) (y 1) || zeroTimesInf (x 2) (y 2) || zeroTimesInf (x 3) (y 3))
          [c, (x 0).mul (y 0), (x 1).mul (y 1), (x 2).mul (y 2), (x 3).mul (y 3)] 8 o.rnd o.sat (drawOf o st k))

/-- R214, R224, R225: `VCVT`, `VWADD`, `VWMUL`, `VWMACC` and `VDOT4` complete, in every form, with each active element that of the rule, rounded
once, in its place of the destination group, and nothing else changed.
Readings of the number rules are the model's (log entry 26). -/
def Obligations.ConversionAndWidening : Prop :=
  Parts.ConversionCompletes ∧ Parts.WideningRowsComplete ∧ Parts.FourProductSumsComplete

/-- An instruction that writes element 0 of vd alone. -/
def WritesElement0 (i : Instr) (s : State) (st : Strand) (o : VecOps) (w v : Nat) (f : FFlags) : Prop :=
  ∃ (t : State) (u : Strand), exec i s = .next t ∧ t.strandAt s.cur = some u
    ∧ (∀ k, k < 4096 / w → velem t u o.vd.toNat w k = if k = 0 then v else velem s st o.vd.toNat w k)
    ∧ u.fflags = st.fflags ||| f
    ∧ (∀ j, j ≠ 64 * coreOf s.cur + st.vbase + o.vd.toNat → SMap.get 0 t.pool j = SMap.get 0 s.pool j)
    ∧ u.g = st.g ∧ u.pw = st.pw ∧ u.masks = st.masks ∧ u.rrec = recordAfterV st [o.vd.toNat] ∧ Kept st u ∧ Flow st u
    ∧ Outside s t

/-- The active elements of VS1 as integers, in ascending order. -/
def activeInts (s : State) (st : Strand) (o : VecOps) : List Int :=
  ((List.range (elemCount o.tn)).filter (st.getM o.m).getLsbD).map (xInt s st o)

/-- R230, R231: on an integer T a reduction writes element 0 with the exact total fitted once, or the least or greatest, of the initial value and the
active elements, and keeps the others; `VSCAN` with add and no saturation leaves the running sums, whatever X[3], which is the model's reading (log
entry 26). -/
def Parts.IntegerReductionsAndScan : Prop :=
  (∀ s st o, (Instr.vredsum o).wf = true → Focus s st [o.a, o.b] (elemRegs o) → Accepted o st INT [0, 1, 2] (elemRegs o) →
    ∃ r, FitsCode o.tn o.sat (bInt s st o 0 + (activeInts s st o).sum) r ∧ WritesElement0 (.vredsum o) s st o (typeBits o.tn) r.1 r.2)
  ∧ (∀ s st o, (Instr.vredmax o).wf = true → Focus s st [o.a, o.b] (elemRegs o) → Accepted o st INT [0, 1, 2] (elemRegs o) →
    ∃ v, intOf v o.tn = (activeInts s st o).foldl max (bInt s st o 0) ∧ WritesElement0 (.vredmax o) s st o (typeBits o.tn) v 0)
  ∧ (∀ s st o, (Instr.vredmin o).wf = true → Focus s st [o.a, o.b] (elemRegs o) → Accepted o st INT [0, 1, 2] (elemRegs o) →
    ∃ v, intOf v o.tn = (activeInts s st o).foldl min (bInt s st o 0) ∧ WritesElement0 (.vredmin o) s st o (typeBits o.tn) v 0)
  ∧ (∀ s st o, (Instr.vscan o).wf = true → Focus s st [o.a, o.b] (elemRegs o) → Accepted o st INT [0, 1, 2] (elemRegs o) →
    o.sat = false → o.x.extractLsb' 0 2 = 0#2 →
    WritesV (.vscan o) s st o fun k =>
      (((bInt s st o 0 + (((List.range (if o.x.getLsbD 2 then k else k + 1)).filter (st.getM o.m).getLsbD).map (xInt s st o)).sum)
        % 2 ^ typeBits o.tn).toNat, 0))

/-- R230, R231: at every type, with every operation, a reduction writes element 0 of vd alone, and a scan its active elements alone. -/
def Parts.ReductionsWriteElementZero : Prop :=
  ∀ s st o, Focus s st [o.a, o.b] (elemRegs o) → Accepted o st NUM [0, 1, 2] (elemRegs o) → o.rnd ≠ 5 →
    ((Instr.vredsum o).wf = true → ∃ v f, WritesElement0 (.vredsum o) s st o (typeBits o.tn) v f)
    ∧ ((Instr.vredmax o).wf = true → ∃ v f, WritesElement0 (.vredmax o) s st o (typeBits o.tn) v f)
    ∧ ((Instr.vredmin o).wf = true → ∃ v f, WritesElement0 (.vredmin o) s st o (typeBits o.tn) v f)
    ∧ ((Instr.vscan o).wf = true → ∃ r, WritesV (.vscan o) s st o r)

/-- R233 to R236: `VCOMP` packs the active elements and counts them; `VMOVS` reads or writes one element; `VSISX` marks the members of the
intersection and gives the two advance counts; `VXSUM` adds the exact fixed-point values into element 0, read as s64. -/
def Parts.CompressMoveIntersectSum : Prop :=
  (∀ s st o, (Instr.vcomp o).wf = true → Focus s st [o.a, o.b] [o.vd, o.vs1] → Accepted o st ANY [0] [o.vd, o.vs1] →
    let w := typeBits o.tn
    let l := ((List.range (elemCount o.tn)).filter (st.getM o.m).getLsbD).map (velem s st o.vs1.toNat w)
    ∃ (t : State) (u : Strand), exec (.vcomp o) s = .next t ∧ t.strandAt s.cur = some u
      ∧ (∀ k, k < elemCount o.tn → velem t u o.vd.toNat w k = l.getD k (velem s st o.vd.toNat w k))
      ∧ (∀ r, u.getG r = if r = o.a ∧ o.a ≠ 0 then BitVec.ofNat 64 l.length else st.getG r)
      ∧ (∀ j, j ≠ 64 * coreOf s.cur + st.vbase + o.vd.toNat → SMap.get 0 t.pool j = SMap.get 0 s.pool j)
      ∧ u.fflags = st.fflags ∧ u.pw = st.pw ∧ u.masks = st.masks ∧ u.gen = st.gen ∧ Kept st u ∧ Flow st u ∧ Outside s t)
  ∧ (∀ s st o, (Instr.vmovs o).wf = true → o.x = 0 → Focus s st [o.a, o.b] [o.vs1] → Accepted o st ANY [1, 2] [o.vs1] →
    let j := if o.src = 1 then (st.getG o.b).toNat else (match o.ext with | none => 0 | some e => e.i20.toNat)
    WritesG (.vmovs o) s st o.a
      (if j < elemCount o.tn then
        (if typeSigned o.tn then BitVec.ofInt 64 (intOf (velem s st o.vs1.toNat (typeBits o.tn) j) o.tn)
          else BitVec.ofNat 64 (velem s st o.vs1.toNat (typeBits o.tn) j))
       else 0) 0)
  ∧ (∀ s st o, (Instr.vmovs o).wf = true → o.x = 1 → Focus s st [o.a, o.b] [o.vd] → Accepted o st ANY [1, 2] [o.vd] →
    let w := typeBits o.tn
    let j := if o.src = 1 then (st.getG o.b).toNat else (match o.ext with | none => 0 | some e => e.i20.toNat)
    ∃ (t : State) (u : Strand), exec (.vmovs o) s = .next t ∧ t.strandAt s.cur = some u
      ∧ (∀ k, k < elemCount o.tn → velem t u o.vd.toNat w k = if k = j then (st.getG o.a).toNat % 2 ^ w else velem s st o.vd.toNat w k)
      ∧ (∀ i, i ≠ 64 * coreOf s.cur + st.vbase + o.vd.toNat → SMap.get 0 t.pool i = SMap.get 0 s.pool i)
      ∧ u.g = st.g ∧ u.fflags = st.fflags ∧ u.pw = st.pw ∧ u.masks = st.masks ∧ u.gen = st.gen ∧ Kept st u ∧ Flow st u ∧ Outside s t)
  ∧ (∀ s st o, (Instr.vsisx o).wf = true → Focus s st [o.a, o.b] [o.vs1, o.vs2] → Accepted o st INT [0] [o.vs1, o.vs2] →
    let n := elemCount o.tn
    let a := fun k => xInt s st o k
    let b := fun k => bInt s st o k
    ∃ (t : State) (u : Strand), exec (.vsisx o) s = .next t ∧ t.strandAt s.cur = some u
      ∧ MaskAfter st u (o.vd.extractLsb' 0 3) n (st.getM o.m).getLsbD (fun i => decide (∃ j, j < n ∧ a i = b j))
      ∧ (∀ r, u.getG r =
          if r = o.b ∧ o.b ≠ 0 then BitVec.ofNat 64 ((List.range n).countP fun j => decide (b j ≤ a (n - 1)))
          else if r = o.a ∧ o.a ≠ 0 then BitVec.ofNat 64 ((List.range n).countP fun i => decide (a i ≤ b (n - 1)))
          else st.getG r)
      ∧ u.fflags = st.fflags ∧ u.pw = st.pw ∧ u.gen = st.gen ∧ Kept st u ∧ Flow st u ∧ t.pool = s.pool ∧ Outside s t)
  ∧ (∀ s st o, (Instr.vxsum o).wf = true → Focus s st [o.a, o.b] [o.vd, o.vs1] → Accepted o st NUM [0] [o.vd, o.vs1] →
    let n := elemCount o.tn
    let x := fun k => toFix64 (decodeNum (velem s st o.vs1.toNat (typeBits o.tn) k) o.tn) o.i20 o.rnd (drawOf o st k)
    WritesElement0 (.vxsum o) s st o 64
      ((((velem s st o.vd.toNat 64 0 : Nat) + (((List.range n).filter (st.getM o.m).getLsbD).map fun k => (x k).1).sum : Int)
        % 2 ^ 64).toNat)
      (flagsOf (st.getM o.m).getLsbD n fun k => (x k).2))

/-- R214 to R216, R305: a type or an SRC outside the instruction's list, or a register at or above the strand's allocation, is an illegal
operand (cause 0x03, the head as value). Shown on `VADD` and `VAND`. -/
def Parts.VectorIllegalOperandsTrap : Prop :=
  ∀ s st o, Focus s st [o.a, o.b] (elemRegs o) → NotFatal st →
    (10 < o.tn → TakesTrap (.vadd o) s st 3 (BitVec.ofNat 64 st.headValue))
    ∧ (st.vcount ≤ o.vd.toNat ∨ st.vcount ≤ o.vs1.toNat →
      TakesTrap (.vadd o) s st 3 (BitVec.ofNat 64 st.headValue) ∧ TakesTrap (.vand o) s st 3 (BitVec.ofNat 64 st.headValue))
    ∧ (o.src = 2 → typeFloat o.tn = true →
      TakesTrap (.vadd o) s st 3 (BitVec.ofNat 64 st.headValue) ∧ TakesTrap (.vand o) s st 3 (BitVec.ofNat 64 st.headValue))

/-- R91, R97: a finite number or an infinity of a floating-point type other than e2m1 rounds to its own bits, in every mode, with no flag. -/
def Parts.RepresentableValuesRoundToThemselves : Prop :=
  ∀ b t mode sat u, t ∈ [8, 9, 10, 11, 12] → b < 2 ^ typeBits t → mode < 6 → (decodeFloat b t).isNan = false →
    (sat = false ∨ ∃ n m e, decodeFloat b t = .fin n m e) → roundFloat (decodeFloat b t) t mode sat u = (b, 0)

/-- R91, R97, R221: vector minimum and maximum of integers, and that a value of a format rounds to itself. -/
def Obligations.ExtremesAndExactValues : Prop :=
  Parts.IntegerMinimumAndMaximum ∧ Parts.RepresentableValuesRoundToThemselves

/-- R230, R231: reductions write element 0 alone, and the scan writes its running sums. -/
def Obligations.ReductionsAndScan : Prop :=
  Parts.IntegerReductionsAndScan ∧ Parts.ReductionsWriteElementZero

/-- R202, R213, R222, R223, R233 to R236: the mask instructions, compression, moves, intersection and cross sums. -/
def Obligations.MasksCompressionAndMoves : Prop :=
  Parts.MaskInstructions ∧ Parts.CompressMoveIntersectSum

/-- R214 to R216, R305, R307: operands that a vector instruction does not take are the illegal-operand trap, and nothing is written. -/
def Obligations.VectorIllegalOperandsTrap : Prop := Parts.VectorIllegalOperandsTrap

/-! ### Memory accesses (spec/10_memory_sync.md R237 to R252; spec/06_ordering.md R139, R147; spec/13_traps_context.md R306) -/

/-- mem_offset and ea of R238: I32 in bytes where the instruction uses it so, else OFF14 in elements; the tag bits of gA are ignored. -/
def eaOf (st : Strand) (o : MemOps) (wide : Bool) : Nat :=
  ((((st.getG o.a).extractLsb' 0 52).toNat + (match wide, o.hi with
    | true, some i => i.toInt
    | _, _ => o.off.toInt * typeBits o.tn / 8) : Int) % 2 ^ 52).toNat

/-- T, ORD and LEASE lie in the instruction's entry, a plain access has SCOPE 0, and a 4-bit T an even OFF14 (R237, R238). -/
structure MemLegal (o : MemOps) (types ords : List Nat) (lease : Bool) : Prop where
  type : o.tn ∈ types
  ord : o.ord.toNat ∈ ords
  lease : o.lease = 0 ∨ lease = true ∧ o.ord = 0
  scope : o.scope.toNat < 6 ∧ (o.ord = 0 → o.scope = 0)
  half : typeBits o.tn = 4 → o.off.toNat % 2 = 0

/-- Every piece translates with the right asked, passes the checks of its window, and lies at the physical address named (R240). -/
def Placed (s : State) (c : Ctx) (r : Right) (ctl : Bool) (ps : List PrePiece) (qs : List Piece) : Prop :=
  List.Forall₂ (fun (p : PrePiece) (q : Piece) => ∃ e, s.translate c p.va r = .ok e
    ∧ s.physical c (leafPa e.level e.entry.toNat p.va) (r == .write || r == .readWrite) = some q.pa
    ∧ (isControl q.pa = true → ctl = true ∧ (p.bytes = 4 ∨ p.bytes = 8))
    ∧ q.elem = p.elem ∧ q.bytes = p.bytes ∧ q.val = p.val ∧ q.nib = p.nib ∧ q.done = false ∧ q.refused = false
    ∧ q.again = false) ps qs

/-- The access does not move its strand (R62): the strand may not migrate, or no piece lies in another quad's scratchpad. -/
def Stays (s : State) (st : Strand) (qs : List Piece) : Prop :=
  st.eligible = false ∨ ∀ q ∈ qs, isScratch q.pa = false ∨ q.pa / 2 ^ 24 % 256 = agentOf (coreOf s.cur)

/-- What the issue of an access leaves outside its strand: memory and everything else stand, but for the queue of the core, its
round-robin pointer, the translations kept, the code that its loop buffer gives up, and the requests for lines that the quad lacks. -/
structure InFlight (s t : State) : Prop where
  memory : ∀ a, t.mem.read a = s.mem.read a
  sameMemory : t.mem = s.mem
  others : ∀ k, k ≠ s.cur → t.strandAt k =
    (s.strandAt k).map fun v => if coreOf k = coreOf s.cur then v.sawIssue s.cur else v
  cores : ∀ c, c ≠ coreOf s.cur → t.coreAt c = s.coreAt c
  core : ∃ q b, List.Sublist b (s.coreAt (coreOf s.cur)).loopBuf
    ∧ t.coreAt (coreOf s.cur) = { s.coreAt (coreOf s.cur) with queue := q, loopBuf := b, last := s.cur % 16 }
  units : t.quads = s.quads ∧ t.localMem = s.localMem ∧ t.acc = s.acc ∧ t.sett = s.sett ∧ t.barriers = s.barriers
  others' : t.hub = s.hub ∧ t.pod = s.pod ∧ t.keystone = s.keystone ∧ t.power = s.power ∧ t.time = s.time

/-- The instruction issues the access named as one entry at the end of its core's queue, none where it has no piece, and goes on to the next
head; `post` shapes the pieces, `more` says what else has changed. -/
def Issues (i : Instr) (s : State) (st : Strand) (o : MemOps) (kind : AccessKind) (r : Right) (ctl : Bool) (ps : List PrePiece)
    (post : List Piece → List Piece) (dest : Dest) (more : State → Strand → Prop) : Prop :=
  ∀ qs, Placed s (s.ctxOf s.cur st) r ctl ps qs → Stays s st qs → s.storesRefused (coreOf s.cur) kind (post qs) = false →
    ∃ (t : State) (u : Strand), exec i s = .next t ∧ t.strandAt s.cur = some u
      ∧ (t.coreAt (coreOf s.cur)).queue = (s.coreAt (coreOf s.cur)).queue ++ (if post qs = [] then [] else
        [{ id := s.ids, slot := s.cur, kind := kind, t := o.tn, pieces := post qs, dest := dest, ord := o.ord, scope := o.scope,
           lease := o.lease, tenant := s.tenantOf st, key := s.keyOfAsid (s.asidOf st), lid := st.lid, asid := s.asidOf st,
           sright := st.sRights, lost := 0 }])
      ∧ (t.coreAt (coreOf s.cur)).loopBuf = (s.coreAt (coreOf s.cur)).loopBuf ∧ t.icache = s.icache
      ∧ u.g = st.g ∧ u.pw = st.pw ∧ u.fflags = st.fflags ∧ u.gen = st.gen ∧ Kept st u ∧ Flow st u ∧ InFlight s t ∧ more t u

/-- The vector pool, the masks and the `PHINT` record stand. -/
def Still (s : State) (st : Strand) (t : State) (u : Strand) : Prop := t.pool = s.pool ∧ u.masks = st.masks ∧ u.rrec = st.rrec

/-- The scalar register that DST names. -/
def dstG (o : MemOps) : BitVec 4 := o.dst.setWidth 4

/-- R139, R238, R242, R252: `LD` and `ST` issue one piece where they are aligned and one for each byte where they are not, at ea(gA); `LZERO` issues
zeros over the line, in pieces of 8 bytes in host and peer memory. -/
def Obligations.ScalarAccessesIssue : Prop :=
  (∀ s st o, Focus s st [o.a, dstG o] [] → MemLegal o [0, 1, 2, 3, 4, 5, 6, 7] [0, 1, 4] true →
    (o.ord = 0 ∨ eaOf st o true % (typeBits o.tn / 8) = 0) →
    Issues (.ld o) s st o .load .read true (elemPieces 0 (eaOf st o true) (typeBits o.tn / 8) 0) id (.scalar (dstG o) o.tn) (Still s st))
  ∧ (∀ s st o, Focus s st [o.a, dstG o] [] → MemLegal o [0, 1, 2, 3, 4, 5, 6, 7] [0, 2, 4] false →
    (o.ord = 0 ∨ eaOf st o true % (typeBits o.tn / 8) = 0) →
    Issues (.st o) s st o .store .write true (elemPieces 0 (eaOf st o true) (typeBits o.tn / 8) (st.getG (dstG o)).toNat) id .none
      (Still s st))
  ∧ (∀ s st o, Focus s st [o.a] [] → MemLegal o [0] [0, 2] false → eaOf st o true % 128 = 0 →
    Issues (.lzero o) s st o .store .write false (elemPieces 0 (eaOf st o true) 128 0)
      (fun qs => qs.flatMap fun q => if isHostMem q.pa || isPeer q.pa then
        (List.range 16).map fun i => { q with elem := i, pa := q.pa + 8 * i, bytes := 8 } else [q]) .none (Still s st))

/-- The mask of a vector access: I32[2:0], and m0 with the 4-byte tail (R243). -/
def laneMask (o : MemOps) (st : Strand) : Nat → Bool :=
  (st.getM (match o.hi with | none => 0 | some i => i.extractLsb' 0 3)).getLsbD

/-- The active lanes of an access, in ascending order. -/
def lanes (o : MemOps) (live : Nat → Bool) : List Nat := (List.range (elemCount o.tn)).filter live

/-- The gS of `VLDS` and `VSTS`: I32[7:4]. -/
def strideG (o : MemOps) : BitVec 4 := match o.hi with | none => 0 | some i => i.extractLsb' 4 4

/-- The index register, the bound and the result mask of a gather or scatter: I32[10:6], I32[14:11], I32[5:3] (R245). -/
def indexV (o : MemOps) : BitVec 5 := match o.hi with | none => 0 | some i => i.extractLsb' 6 5
def boundG (o : MemOps) : BitVec 4 := match o.hi with | none => 0 | some i => i.extractLsb' 11 4
def maskR (o : MemOps) : BitVec 3 := match o.hi with | none => 0 | some i => i.extractLsb' 3 3

/-- The pieces of a vector access: each active lane at its address, the low bytes at the lowest addresses; 4-bit elements by their bytes. -/
def lanePieces (o : MemOps) (base : Nat) (stride : Int) (live : Nat → Bool) (v : Nat → Nat) : List PrePiece :=
  (lanes o live).flatMap fun i => elemPieces i (((base : Int) + i * stride) % 2 ^ 52).toNat (typeBits o.tn / 8) (v i)

/-- Every active lane is aligned, or the access is plain (R239). -/
def LanesAligned (o : MemOps) (live : Nat → Bool) (at_ : Nat → Nat) : Prop :=
  o.ord = 0 ∨ ∀ i, i < elemCount o.tn → live i = true → at_ i % (typeBits o.tn / 8) = 0

/-- R213, R239, R243: what `VLD`, `VST`, `VLDS` and `VSTS` issue: element i at ea(gA) + i × its size, or + i × gS modulo 2^52; active lanes alone. -/
def Parts.VectorAccessesIssue : Prop :=
  (∀ s st o, Focus s st [o.a] [o.dst] → MemLegal o ANY [0, 1] true → o.dst.toNat < st.vcount →
    (typeBits o.tn ≠ 4 → LanesAligned o (laneMask o st) (fun i => (eaOf st o false + i * (typeBits o.tn / 8)) % 2 ^ 52) →
      Issues (.vld o) s st o .load .read false (lanePieces o (eaOf st o false) (typeBits o.tn / 8 : Nat) (laneMask o st) fun _ => 0) id
        (.vector o.dst o.tn) (Still s st))
    ∧ (typeBits o.tn = 4 →
      Issues (.vld o) s st o .load .read false (nibblePieces (eaOf st o false) (laneMask o st) fun _ => 0) id (.vector o.dst o.tn)
        (Still s st)))
  ∧ (∀ s st o, Focus s st [o.a] [o.dst] → MemLegal o ANY [0, 2] false → o.dst.toNat < st.vcount →
    (typeBits o.tn ≠ 4 → LanesAligned o (laneMask o st) (fun i => (eaOf st o false + i * (typeBits o.tn / 8)) % 2 ^ 52) →
      Issues (.vst o) s st o .store .write false (lanePieces o (eaOf st o false) (typeBits o.tn / 8 : Nat) (laneMask o st)
        (velem s st o.dst.toNat (typeBits o.tn))) id .none (Still s st))
    ∧ (typeBits o.tn = 4 →
      Issues (.vst o) s st o .store .write false (nibblePieces (eaOf st o false) (laneMask o st) (velem s st o.dst.toNat 4)) id .none
        (Still s st)))
  ∧ (∀ s st o, Focus s st [o.a, strideG o] [o.dst] → o.tn < 13 → MemLegal o ANY [0, 1] true → o.dst.toNat < st.vcount →
    LanesAligned o (laneMask o st) (fun i => (((eaOf st o false : Nat) + i * (st.getG (strideG o)).toInt : Int) % 2 ^ 52).toNat) →
      Issues (.vlds o) s st o .load .read false (lanePieces o (eaOf st o false) (st.getG (strideG o)).toInt (laneMask o st) fun _ => 0) id
        (.vector o.dst o.tn) (Still s st))
  ∧ (∀ s st o, Focus s st [o.a, strideG o] [o.dst] → o.tn < 13 → MemLegal o ANY [0, 2] false → o.dst.toNat < st.vcount →
    LanesAligned o (laneMask o st) (fun i => (((eaOf st o false : Nat) + i * (st.getG (strideG o)).toInt : Int) % 2 ^ 52).toNat) →
      Issues (.vsts o) s st o .store .write false (lanePieces o (eaOf st o false) (st.getG (strideG o)).toInt (laneMask o st)
        (velem s st o.dst.toNat (typeBits o.tn))) id .none (Still s st))

/-- A lane of a gather or scatter makes an access: it is active and its index lies below the bound (R245). -/
def inBound (s : State) (st : Strand) (o : MemOps) (i : Nat) : Bool :=
  laneMask o st i && decide (velem s st (indexV o).toNat (typeBits o.tn) i < (st.getG (boundG o)).toNat)

/-- The pieces of a gather or scatter: lane i at ea(gA) + index × its size, modulo 2^52. -/
def gatherPieces (s : State) (st : Strand) (o : MemOps) (v : Nat → Nat) : List PrePiece :=
  (lanes o (inBound s st o)).flatMap fun i =>
    elemPieces i ((eaOf st o false + velem s st (indexV o).toNat (typeBits o.tn) i * (typeBits o.tn / 8)) % 2 ^ 52) (typeBits o.tn / 8) (v i)

/-- R31, R244, R245: `VGATH` and `VSCAT` access the active lanes whose index lies below the bound; bit i of MR says which, and a gather's active lanes
beyond the bound read zero. `VLDT` accesses what its active lanes need of a tagged array, and a bad tag, or format 0, is the format fault where no
element is misaligned. -/
def Parts.IndexedAndTaggedAccessesIssue : Prop :=
  (∀ s st o, Focus s st [o.a, boundG o] [o.dst, indexV o] → MemLegal o [4, 5, 6, 7, 8] [0, 1] true → o.dst.toNat < st.vcount →
    (indexV o).toNat < st.vcount →
    LanesAligned o (inBound s st o) (fun i => (eaOf st o false + velem s st (indexV o).toNat (typeBits o.tn) i * (typeBits o.tn / 8)) % 2 ^ 52) →
      Issues (.vgath o) s st o .load .read false (gatherPieces s st o fun _ => 0) id (.vector o.dst o.tn) fun t u =>
        MaskAfter st u (maskR o) (elemCount o.tn) (fun _ => true) (inBound s st o)
          ∧ (∀ i, i < elemCount o.tn → velem t u o.dst.toNat (typeBits o.tn) i =
            if laneMask o st i && !inBound s st o i then 0 else velem s st o.dst.toNat (typeBits o.tn) i)
          ∧ (∀ j, j ≠ 64 * coreOf s.cur + st.vbase + o.dst.toNat → SMap.get 0 t.pool j = SMap.get 0 s.pool j))
  ∧ (∀ s st o, Focus s st [o.a, boundG o] [o.dst, indexV o] → MemLegal o [4, 5, 6, 7, 8] [0, 2] false → o.dst.toNat < st.vcount →
    (indexV o).toNat < st.vcount →
    LanesAligned o (inBound s st o) (fun i => (eaOf st o false + velem s st (indexV o).toNat (typeBits o.tn) i * (typeBits o.tn / 8)) % 2 ^ 52) →
      Issues (.vscat o) s st o .store .write false (gatherPieces s st o (velem s st o.dst.toNat (typeBits o.tn))) id .none fun t u =>
        MaskAfter st u (maskR o) (elemCount o.tn) (fun _ => true) (inBound s st o) ∧ t.pool = s.pool ∧ u.rrec = st.rrec)
  ∧ (∀ s st o, Focus s st [o.a] [o.dst] → MemLegal o FLT [0, 1] true → o.dst.toNat < st.vcount →
    (¬BadTag (st.getG o.a) → fmtOfPtr (st.getG o.a) ≠ 0 →
      (o.ord = 0 ∨ ∀ i ∈ lanes o (laneMask o st), ∀ x ∈ taggedElems (st.getG o.a) o.off.toInt i, x.2.1 % x.2.2.1 = 0) →
      Issues (.vldt o) s st o .load .read false
        ((lanes o (laneMask o st)).flatMap fun i => (taggedElems (st.getG o.a) o.off.toInt i).flatMap fun x =>
          elemPieces x.1 x.2.1 x.2.2.1 x.2.2.2) id
        (.tagged o.dst o.tn (fmtOfPtr (st.getG o.a)) (blogOfPtr (st.getG o.a)) o.off.toInt) (Still s st))
    ∧ ((BadTag (st.getG o.a) ∨ fmtOfPtr (st.getG o.a) = 0) → NotFatal st →
      (o.ord = 0 ∨ fmtOfPtr (st.getG o.a) = 0 ∨ ∀ i ∈ lanes o (laneMask o st), ∀ x ∈ taggedElems (st.getG o.a) o.off.toInt i, x.2.1 % x.2.2.1 = 0) →
      TakesTrap (.vldt o) s st 9 (st.getG o.a)))

/-- R246, R247: each atomic reads gV (gDST with the 4-byte tail, else I32[3:0]) and for `ACAS` gE (I32[7:4]), and issues one access of w bits that reads and
writes, whose result goes to gDST. -/
def Parts.AtomicsIssue : Prop :=
  ∀ s st o,
    let gv : BitVec 4 := match o.hi with | none => dstG o | some i => i.extractLsb' 0 4
    let ge : BitVec 4 := match o.hi with | none => 0 | some i => i.extractLsb' 4 4
    let v := (st.getG gv).toNat % 2 ^ typeBits o.tn
    let e := (st.getG ge).toNat % 2 ^ typeBits o.tn
    ∀ mk op types, (mk, op, types) ∈ [(Instr.aadd, AtomicOp.add, [4, 5, 6, 7]), (.aand, .and, [4, 5, 6, 7]), (.aor, .or, [4, 5, 6, 7]),
        (.axor, .xor, [4, 5, 6, 7]), (.amin, .min, [4, 5, 6, 7]), (.amax, .max, [4, 5, 6, 7]), (.aswap, .swap, [4, 5, 6, 7, 8]),
        (.acas, .cas, [4, 5, 6, 7, 8]), (.afadd, .fadd, [8, 10])] →
      Focus s st [o.a, dstG o, gv, ge] [] → MemLegal o types [0, 1, 2, 3, 4] false →
      (eaOf st o false % (typeBits o.tn / 8) = 0 →
        Issues (mk o) s st o (.atomic op v e) .readWrite false (elemPieces 0 (eaOf st o false) (typeBits o.tn / 8) 0) id
          (.scalar (dstG o) o.tn) (Still s st))
      ∧ (eaOf st o false % (typeBits o.tn / 8) ≠ 0 → NotFatal st → TakesTrap (mk o) s st 0x305 (BitVec.ofNat 64 (eaOf st o false)))

/-- R239, R240, R304 to R306, R321: an unaligned access that may not be takes the misaligned trap (cause 0x05, with the access kind) before translation; a translation that
fails takes its fault, and one that the windows refuse the physical-address fault (cause 0x08), each with the access kind and the
address, and nothing is performed. Shown on the scalar accesses, a fault of translation on those of one piece. A walk that reads a table entry in a line
that a host holds in O takes no trap: the line is recalled, and the instruction is tried again (R134, R320; log entry 34). -/
def Obligations.FaultsOfAccessesAreTakenAtIssue : Prop :=
  ∀ s st o, NotFatal st → Focus s st [o.a, dstG o] [] →
    let va := eaOf st o true
    let n := typeBits o.tn / 8
    let tv := BitVec.ofNat 64 va
    let c := s.ctxOf s.cur st
    (MemLegal o [0, 1, 2, 3, 4, 5, 6, 7] [0, 1, 4] true →
      (o.ord ≠ 0 → va % n ≠ 0 → TakesTrap (.ld o) s st 0x205 tv)
      ∧ (va % n = 0 → ∀ e, s.translate c va .read = .error e → e.code = heldWalk → exec (.ld o) s = .next (s.recallLines [lineOf e.tval]).1)
      ∧ (va % n = 0 → ∀ e, s.translate c va .read = .error e → e.code ≠ heldWalk → (e.badpte = true → s.walkLost c.asid va = none) → TakesTrap (.ld o) s st (BitVec.ofNat 64 (e.code % 256 + e.acc % 4 * 256
        + e.badpte.toNat * 1024 + e.spill.toNat * 2048)) (BitVec.ofNat 64 e.tval))
      ∧ (va % n = 0 → ∀ e, s.translate c va .read = .ok e → s.physical c (leafPa e.level e.entry.toNat va) false = none →
        TakesTrap (.ld o) s st 0x208 tv))
    ∧ (MemLegal o [0, 1, 2, 3, 4, 5, 6, 7] [0, 2, 4] false →
      (o.ord ≠ 0 → va % n ≠ 0 → TakesTrap (.st o) s st 0x305 tv)
      ∧ (va % n = 0 → ∀ e, s.translate c va .write = .error e → e.code = heldWalk → exec (.st o) s = .next (s.recallLines [lineOf e.tval]).1)
      ∧ (va % n = 0 → ∀ e, s.translate c va .write = .error e → e.code ≠ heldWalk → (e.badpte = true → s.walkLost c.asid va = none) →
        TakesTrap (.st o) s st (BitVec.ofNat 64 (e.code % 256 + e.acc % 4 * 256 + e.badpte.toNat * 1024 + e.spill.toNat * 2048))
          (BitVec.ofNat 64 e.tval))
      ∧ (va % n = 0 → ∀ e, s.translate c va .write = .ok e → s.physical c (leafPa e.level e.entry.toNat va) true = none →
        TakesTrap (.st o) s st 0x308 tv))
    ∧ (MemLegal o [0, 1, 2, 3, 4, 5, 6, 7] [0, 1, 4] false → o.ord ≠ 0 → va % n ≠ 0 → TakesTrap (.ldl o) s st 0x205 tv)
    ∧ (MemLegal o [0, 1, 2, 3, 4, 5, 6, 7] [0, 2, 4] false → o.ord ≠ 0 → va % n ≠ 0 → TakesTrap (.stl o) s st 0x305 tv)
    ∧ (MemLegal o [0] [0, 2] false → va % 128 ≠ 0 → TakesTrap (.lzero o) s st 0x305 tv)
    ∧ (s.tlbFind c.core c.asid va = none → s.walkHeld c.asid va = none →
      (s.walk c.asid va = .error .invalid → s.translate c va .read = .error { code := 6, acc := 2, badpte := false, spill := false, tval := va })
      ∧ (s.walk c.asid va = .error .malformed → s.translate c va .read = .error { code := 6, acc := 2, badpte := true, spill := false, tval := va })
      ∧ (∀ l e, s.walk c.asid va = .ok (l, e) → e < 2 ^ 64 → ¬(e.testBit 2 = true ∧ (st.priv = true ∨ st.inh = true ∨ e.testBit 5 = true)) →
        s.translate c va .read = .error { code := 7, acc := 2, badpte := false, spill := false, tval := va }))

/-- R35, R140, R150, R242: `LDL` and `STL` reach the strand's private local store alone, from offset 0 to LOCAL × 4 KiB − 1; outside it they take the
local-store trap (cause 0x0A, with the access kind) with the offset. Memory stands. A release or an sc access waits for every access of its core.
That it waits for all of them is the model's reading (log entry 9). -/
def Obligations.LocalStoreAccesses : Prop :=
  ∀ s st o, Focus s st [o.a, dstG o] [] →
    let lo := eaOf st o true
    let n := typeBits o.tn / 8
    let core := coreOf s.cur
    let at_ := (st.lsbase + 1) * 4096 + lo
    let free := o.scope = 0 ∨ (o.ord ≠ 2 ∧ o.ord ≠ 4) ∨ ((s.coreAt core).queue.all fun a => a.slot != s.cur && !a.kind.touches) = true
    (o.ord = 0 ∨ lo % n = 0) →
    (lo + n ≤ (st.lslen - 1) * 4096 → free →
      (MemLegal o [0, 1, 2, 3, 4, 5, 6, 7] [0, 1, 4] false → ∃ (t : State) (u : Strand), exec (.ldl o) s = .next t ∧ t.strandAt s.cur = some u
        ∧ (∀ r, u.getG r = if r = dstG o ∧ dstG o ≠ 0 then ext64 (s.readLocal core at_ n) o.tn else st.getG r)
        ∧ u.pw = st.pw ∧ u.masks = st.masks ∧ u.fflags = st.fflags ∧ Kept st u ∧ Flow st u ∧ t.pool = s.pool ∧ t.localMem = s.localMem
        ∧ t.mem = s.mem ∧ (t.coreAt core).lamport = (s.coreAt core).lamport + (if o.ord = 4 then 1 else 0))
      ∧ (MemLegal o [0, 1, 2, 3, 4, 5, 6, 7] [0, 2, 4] false → ∃ (t : State) (u : Strand), exec (.stl o) s = .next t ∧ t.strandAt s.cur = some u
        ∧ (∀ i, i < n → t.getLocal core (at_ + i) = BitVec.ofNat 8 ((st.getG (dstG o)).toNat / 2 ^ (8 * i)))
        ∧ (∀ c x, (c ≠ core ∨ x < at_ ∨ at_ + n ≤ x) → x < 2 ^ 18 → at_ + n ≤ 2 ^ 18 → t.getLocal c x = s.getLocal c x)
        ∧ u.g = st.g ∧ u.pw = st.pw ∧ u.masks = st.masks ∧ u.fflags = st.fflags ∧ Kept st u ∧ Flow st u ∧ t.pool = s.pool
        ∧ t.mem = s.mem ∧ (t.coreAt core).lamport = (s.coreAt core).lamport + (if o.ord = 4 then 1 else 0)))
    ∧ (lo + n ≤ (st.lslen - 1) * 4096 → ¬free →
      (MemLegal o [0, 1, 2, 3, 4, 5, 6, 7] [0, 1, 4] false → exec (.ldl o) s = .next s)
      ∧ (MemLegal o [0, 1, 2, 3, 4, 5, 6, 7] [0, 2, 4] false → exec (.stl o) s = .next s))
    ∧ ((st.lslen - 1) * 4096 < lo + n → NotFatal st →
      (MemLegal o [0, 1, 2, 3, 4, 5, 6, 7] [0, 1, 4] false → TakesTrap (.ldl o) s st 0x20A (BitVec.ofNat 64 lo))
      ∧ (MemLegal o [0, 1, 2, 3, 4, 5, 6, 7] [0, 2, 4] false → TakesTrap (.stl o) s st 0x30A (BitVec.ofNat 64 lo)))

/-- A piece of an access may be performed now, at an address whose bytes are the part's own: its quad holds the line, or its scratchpad serves the
tenant; neither a control window nor a peer, nor a lost line or die, nor another key (R81, R113, R241, R343, R408). -/
structure ReadyPiece (s : State) (core : Nat) (a : Access) (p : Piece) : Prop where
  fresh : p.done = false ∧ p.refused = false
  plain : PlainStore s p.pa a.key ∧ isControl p.pa = false
  inLine : p.pa % 128 + p.bytes ≤ 128
  line : s.lineReady (agentOf core) p.pa a.tenant a.key a.kind.writes = true
  bank : isScratch p.pa = true → s.quadServes a.tenant (p.pa / 2 ^ 24 % 256) (p.pa % 2 ^ 24) p.bytes
    (agentOf core == p.pa / 2 ^ 24 % 256) (a.kind == .load) (a.kind == .store) = true
  up : s.scratchGone p.pa = false
  port : isHostMem p.pa = true → s.sys.portDown.getLsbD (window p.pa - 0xC) = false

/-- An access at the head of its core's queue, whose pieces may all be performed. -/
structure AtFront (s : State) (core : Nat) (a : Access) (rest : List Access) (st : Strand) : Prop where
  onDie : core < 768
  queue : (s.coreAt core).queue = a :: rest
  alone : ∀ x ∈ rest, x.id ≠ a.id
  clean : a.lost = 0
  strand : s.strandAt a.slot = some st
  ready : ∀ p ∈ a.pieces, ReadyPiece s core a p

/-- The bytes of pieces in their order, as one number: the first piece's are the lowest (R139). -/
def bytesAt (m : Memory) : List Piece → Nat
  | [] => 0
  | p :: r => m.readLe p.pa p.bytes + 2 ^ (8 * p.bytes) * bytesAt m r

/-- A strand that a performed access has not moved. -/
def Settled (st u : Strand) : Prop :=
  u.pc = st.pc ∧ u.pw = st.pw ∧ u.masks = st.masks ∧ u.loops = st.loops ∧ u.lc = st.lc ∧ u.gen = st.gen ∧ u.halt = st.halt ∧ Kept st u

/-- R139, R141, R242 to R244: the data of a load returns. A scalar load gives gDST ext64 of its bytes; a vector load gives each active element its bytes,
or its nibble, and keeps the others; a decoding load of a plain format gives each element read its rounded value. Memory stands, and
the access leaves the queue, with the fences that then are done. -/
def Parts.LoadsDeliverTheirBytes : Prop :=
  ∀ s core a rest st, AtFront s core a rest st → a.kind = .load →
    (∀ r ty, a.dest = .scalar r ty → ∃ (t : State) (u : Strand), exec (.loadPerformed core a.id [] []) s = .next t ∧ t.strandAt a.slot = some u
      ∧ (∀ q, u.getG q = if q = r ∧ r ≠ 0 then ext64 (bytesAt s.mem a.pieces) ty else st.getG q)
      ∧ u.fflags = st.fflags ∧ Settled st u ∧ t.pool = s.pool ∧ (t.coreAt core).queue = pruneFences [] rest ∧ t.mem = s.mem)
    ∧ (∀ vd ty, a.dest = .vector vd ty → ∃ (t : State) (u : Strand), exec (.loadPerformed core a.id [] []) s = .next t ∧ t.strandAt a.slot = some u
      ∧ u.g = st.g ∧ u.fflags = st.fflags ∧ Settled st u ∧ (t.coreAt core).queue = pruneFences [] rest ∧ t.mem = s.mem
      ∧ (∀ j, j ≠ 64 * coreOf a.slot + st.vbase + vd.toNat → SMap.get 0 t.pool j = SMap.get 0 s.pool j)
      ∧ (typeBits ty ≠ 4 → ∀ i, i < elemCount ty → elemOf (t.getV a.slot u vd.toNat).toNat (typeBits ty) i =
          if a.pieces.any (·.elem == i) then bytesAt s.mem (a.pieces.filter (·.elem == i)) % 2 ^ typeBits ty
          else elemOf (s.getV a.slot st vd.toNat).toNat (typeBits ty) i)
      ∧ (typeBits ty = 4 → a.pieces.Pairwise (fun p q => p.elem / 2 ≠ q.elem / 2) →
          (∀ p ∈ a.pieces, p.bytes = 1 ∧ p.elem < 1024 ∧ (p.nib = none → p.elem % 2 = 0) ∧ (p.nib = some false → p.elem % 2 = 0)
            ∧ (p.nib = some true → p.elem % 2 = 1)) →
          ∀ p ∈ a.pieces,
            (p.nib ≠ some true → elemOf (t.getV a.slot u vd.toNat).toNat 4 p.elem = (s.mem.read p.pa).toNat % 16)
            ∧ (p.nib = some true → elemOf (t.getV a.slot u vd.toNat).toNat 4 p.elem = (s.mem.read p.pa).toNat / 16)
            ∧ (p.nib = none → elemOf (t.getV a.slot u vd.toNat).toNat 4 (p.elem + 1) = (s.mem.read p.pa).toNat / 16)))
    ∧ (∀ vd ty fmt e0, a.dest = .tagged vd ty fmt 0 e0 → ty ∈ FLT → 1 ≤ fmt → fmt ≤ 13 →
      ∃ (t : State) (u : Strand), exec (.loadPerformed core a.id [] []) s = .next t ∧ t.strandAt a.slot = some u
        ∧ u.g = st.g ∧ Settled st u ∧ (t.coreAt core).queue = pruneFences [] rest ∧ t.mem = s.mem
        ∧ (∀ i, i < elemCount ty → elemOf (t.getV a.slot u vd.toNat).toNat (typeBits ty) i =
          if a.pieces.any (·.elem == i) then
            (roundTo (decodeNum (bytesAt s.mem (a.pieces.filter (·.elem == i)) % 2 ^ plainBits fmt) (fmt - 1)) ty 0 false 0).1 % 2 ^ typeBits ty
          else elemOf (s.getV a.slot st vd.toNat).toNat (typeBits ty) i))

/-- R139, R140, R147, R243: a store is performed: its pieces are written to memory in their order, every byte outside them stands, no register changes,
and the access leaves the queue, with the fences that then are done. A store of one nibble keeps the other nibble of its byte. -/
def Parts.StoresWriteTheirBytes : Prop :=
  ∀ s core a rest st, AtFront s core a rest st → a.kind = .store → a.dest = .none →
    ((∀ p ∈ a.pieces, p.nib = none) → ∃ t : State, exec (.storePerformed core a.id []) s = .next t
      ∧ t.mem = a.pieces.foldl (fun m p => m.writeLe p.pa p.bytes p.val) s.mem
      ∧ (∀ p, a.pieces = [p] → ∀ i, i < p.bytes → t.mem.read (p.pa + i) = BitVec.ofNat 8 (p.val / 2 ^ (8 * i)))
      ∧ (∀ x, (∀ p ∈ a.pieces, x < p.pa ∨ p.pa + p.bytes ≤ x) → t.mem.read x = s.mem.read x)
      ∧ (t.coreAt core).queue = pruneFences [] rest ∧ (∀ k, t.strandAt k = s.strandAt k) ∧ t.pool = s.pool ∧ t.localMem = s.localMem)
    ∧ (∀ p hi, a.pieces = [p] → p.nib = some hi → p.bytes = 1 → ∃ t : State, exec (.storePerformed core a.id []) s = .next t
      ∧ t.mem.read p.pa = BitVec.ofNat 8 (if hi then (s.mem.read p.pa).toNat % 16 + p.val % 16 * 16
          else (s.mem.read p.pa).toNat / 16 * 16 + p.val % 16)
      ∧ (∀ x, x ≠ p.pa → t.mem.read x = s.mem.read x) ∧ (t.coreAt core).queue = pruneFences [] rest ∧ (∀ k, t.strandAt k = s.strandAt k))

/-- The new value that an atomic writes, if any, and its flags, from the old value and its operands (R247). -/
def AtomicNew (op : AtomicOp) (ty old v e : Nat) : Option Nat × FFlags :=
  match op with
  | .add => (some ((old + v) % 2 ^ typeBits ty), 0)
  | .and => (some (old &&& v), 0)
  | .or => (some (old ||| v), 0)
  | .xor => (some (old ^^^ v), 0)
  | .min => (some (if intOf v ty < intOf old ty then v else old), 0)
  | .max => (some (if intOf old ty < intOf v ty then v else old), 0)
  | .swap => (some v, 0)
  | .cas => (if old = e then some v else none, 0)
  | .fadd => ((some (fArith .add (decodeFloat old ty) (decodeFloat v ty) (decodeFloat 0 ty) ty 0 false 0).1),
      (fArith .add (decodeFloat old ty) (decodeFloat v ty) (decodeFloat 0 ty) ty 0 false 0).2)

/-- R246, R247: an atomic is performed whole: gDST receives ext64 of the old value, and where there is a new value its bytes stand in memory; every other
byte stands. -/
def Parts.AtomicsReadAndWriteTogether : Prop :=
  ∀ s core a rest st op v e r p, AtFront s core a rest st → a.kind = .atomic op v e → a.pieces = [p] → p.nib = none → a.t < 11 →
    p.bytes = typeBits a.t / 8 → a.dest = .scalar r a.t → v < 2 ^ typeBits a.t → e < 2 ^ typeBits a.t →
    let old := s.mem.readLe p.pa p.bytes
    ∃ (t : State) (u : Strand), exec (.storePerformed core a.id []) s = .next t ∧ t.strandAt a.slot = some u
      ∧ (∀ q, u.getG q = if q = r ∧ r ≠ 0 then ext64 old a.t else st.getG q)
      ∧ u.fflags = st.fflags ||| (AtomicNew op a.t old v e).2 ∧ Settled st u ∧ t.pool = s.pool ∧ (t.coreAt core).queue = pruneFences [] rest
      ∧ t.mem = (match (AtomicNew op a.t old v e).1 with | some n => s.mem.writeLe p.pa p.bytes n | none => s.mem)
      ∧ (∀ x, x < p.pa ∨ p.pa + p.bytes ≤ x → t.mem.read x = s.mem.read x)

/-- The instruction completes at the next head and changes no register and no byte of memory; what it does to the caches and queues `more` says. -/
def GoesOn (i : Instr) (s : State) (st : Strand) (more : State → Prop) : Prop :=
  ∃ (t : State) (u : Strand), exec i s = .next t ∧ t.strandAt s.cur = some u ∧ u.g = st.g ∧ u.pw = st.pw ∧ u.masks = st.masks ∧ u.fflags = st.fflags
    ∧ u.gen = st.gen ∧ u.rrec = st.rrec ∧ Kept st u ∧ Flow st u ∧ t.pool = s.pool ∧ InFlight s t ∧ more t

/-- R141, R148, R248: a `FENCE` completes at core scope, and where what it orders is performed: earlier reads of its strand with acquire, and with release
and sc every earlier access of its strand and of its core, which happen before (R147). With release it completes before that and leaves a mark in
the queue; with acquire it waits for the reads, and with sc for all. A later store of the strand waits behind the mark, every later access of
the strand behind an acquire and of the core behind one that reads, and a release behind every access of the core.
That one scope beyond the core orders as another, and that other strands' earlier accesses are waited for, is the model's (log entry 9). -/
def Parts.FencesOrderAccesses : Prop :=
  (∀ s st o, Focus s st [o.a] [] → MemLegal o [0] [1, 2, 3, 4] false →
    let queue := (s.coreAt (coreOf s.cur)).queue
    let settled := ∀ a ∈ queue, a.slot ≠ s.cur ∧ a.kind.touches = false
    let reads := ∀ a ∈ queue, a.slot = s.cur → a.kind.reads = false
    (o.scope = 0 ∨ (o.ord = 1 ∧ reads) ∨ settled → Completes (.fence o) s st)
    ∧ (o.scope ≠ 0 → (o.ord = 2 ∨ o.ord = 3 ∧ reads) → ¬settled →
      GoesOn (.fence o) s st fun t => ∃ a, (t.coreAt (coreOf s.cur)).queue = queue ++ [a] ∧ a.kind = .fence ∧ a.slot = s.cur ∧ a.pieces = [])
    ∧ (o.scope ≠ 0 → ((o.ord = 1 ∨ o.ord = 3) ∧ ¬reads ∨ o.ord = 4 ∧ ¬settled) → exec (.fence o) s = .next s))
  ∧ (∀ s core q x a rest, core < 768 → (s.coreAt core).queue = q ++ a :: rest → (∀ y ∈ q, y.id ≠ a.id) → x ∈ q →
    (x.slot = a.slot ∧ (x.kind = .fence ∧ a.kind.writes = true ∨ x.scope ≠ 0 ∧ x.ord = 4)
      ∨ x.scope ≠ 0 ∧ x.kind.reads = true ∧ (x.ord = 1 ∨ x.ord = 3 ∨ x.ord = 4)
      ∨ a.scope ≠ 0 ∧ (a.ord = 2 ∨ a.ord = 3 ∨ a.ord = 4) ∧ (x.slot = a.slot ∨ x.kind.touches = true)) →
    ∀ ps ext, exec (.storePerformed core a.id ps) s = .next s ∧ exec (.loadPerformed core a.id ps ext) s = .next s)

/-- R250, R251: `PREF` completes and changes no register and no memory, whatever its address; `CFLUSH` gives up the quad's copy of a data line, or
a leased copy of a peer's, or both lines of code, or all of them; a flush in flight is complete once its write-back is performed.
The right that each translates with is the model's reading (log entry 32). -/
def Parts.PrefetchesAndFlushes : Prop :=
  (∀ s st o, Focus s st [o.a] [] →
    (MemLegal o [0] [0] true → ¬(o.dst = 1 ∧ o.lease ≠ 0) →
      GoesOn (.pref o) s st fun t => (t.coreAt (coreOf s.cur)).queue = (s.coreAt (coreOf s.cur)).queue
        ∧ (t.coreAt (coreOf s.cur)).loopBuf = (s.coreAt (coreOf s.cur)).loopBuf)
    ∧ (∀ q, MemLegal o [0] [0] false → Placed s (s.ctxOf s.cur st) .read false (elemPieces 0 (eaOf st o true) 1 0) [q] →
      let line := q.pa / 128
      let core := coreOf s.cur
      let queue := (s.coreAt core).queue
      let noStores := ∀ a ∈ queue, a.slot = s.cur → a.kind.writes = false
      let codeGone (t : State) : Prop :=
        (∀ k, SMap.find t.icache k = if k = 2 ^ 46 * core + 2 * line ∨ k = 2 ^ 46 * core + 2 * line + 1 then none else SMap.find s.icache k)
          ∧ (t.coreAt core).loopBuf = (s.coreAt core).loopBuf.filter fun x => x.1 / 2 != line
      let flushed (t : State) : Prop := t.copyAt (agentOf core) line = none
        ∧ ∃ a, (t.coreAt core).queue = queue ++ [a] ∧ a.kind = .flush ∧ a.slot = s.cur
      (s.overlapsQueue core (line * 128) 128 = false → (isDevice q.pa || isHostMem q.pa) = true →
        (o.dst = 0 → GoesOn (.cflush o) s st fun t => flushed t ∧ t.icache = s.icache)
        ∧ (o.dst = 2 → noStores → GoesOn (.cflush o) s st fun t => flushed t ∧ codeGone t))
      ∧ (s.overlapsQueue core (line * 128) 128 = false → isPeer q.pa = true →
        o.dst = 0 → GoesOn (.cflush o) s st fun t => t.copyAt (agentOf core) line = none ∧ (t.coreAt core).queue = queue)
      ∧ (o.dst = 1 → noStores → GoesOn (.cflush o) s st fun t => codeGone t ∧ t.copies = s.copies ∧ (t.coreAt core).queue = queue)))
  ∧ (∀ s core a rest, core < 768 → (s.coreAt core).queue = a :: rest → (∀ x ∈ rest, x.id ≠ a.id) → a.kind = .flush →
    (∀ p ∈ a.pieces, s.anyReq (p.pa / 128) (Request.isPutO (agentOf core)) = false) →
    ∃ t : State, exec (.storePerformed core a.id []) s = .next t ∧ (t.coreAt core).queue = pruneFences [] rest ∧ t.mem = s.mem
      ∧ t.strands = s.strands)

/-- R141, R148, R248, R250, R251: fences, prefetches and flushes. -/
def Obligations.FencesPrefetchesAndFlushes : Prop := Parts.FencesOrderAccesses ∧ Parts.PrefetchesAndFlushes

/-- R31, R213, R239, R243 to R245: vector, strided, indexed and tagged accesses issue their pieces. -/
def Obligations.VectorAndIndexedAccessesIssue : Prop :=
  Parts.VectorAccessesIssue ∧ Parts.IndexedAndTaggedAccessesIssue

/-- R246, R247: atomics issue one access, which reads and writes its word in one step.
That it is performed for all agents at once is the model's choice (log entry 9). -/
def Obligations.AtomicsIssueAndComplete : Prop :=
  Parts.AtomicsIssue ∧ Parts.AtomicsReadAndWriteTogether

/-- R139 to R141, R147, R242 to R244: a load delivers the bytes of memory, and a store writes its own and no other.
That an access is performed for all agents at once is the model's choice (log entry 9). -/
def Obligations.LoadsAndStoresMoveTheirBytes : Prop :=
  Parts.LoadsDeliverTheirBytes ∧ Parts.StoresWriteTheirBytes

/-! ### Waits, barriers, tiles and migration (spec/10_memory_sync.md R249, R253 to R258; spec/11_engines.md R264 to R267; spec/02_execution.md
R38 to R43, R62; spec/05_storage_coherence.md R129 to R133) -/

/-- The strand begins to wait, its next head is kept for the end of the wait, and nothing else of it changes. -/
def Waits (s : State) (st : Strand) (t : State) (w : Wait) : Prop :=
  t.strandAt s.cur = some { st with wait := w, next := some st.nextHead, halt := st.halt.issued }

/-- The wait of the strand in a slot is over: it is ready at the head `a` that follows its instruction, with v in gR, and nothing else of it has
changed. -/
def Woken (s t : State) (slot : Nat) (st : Strand) (a : VAddr) (r : BitVec 4) (v : Word) : Prop :=
  ∃ u, t.strandAt slot = some u ∧ u.wait = .ready ∧ (∀ q, u.getG q = if q = r ∧ r ≠ 0 then v else st.getG q)
    ∧ ((∀ l ∈ st.loops, l.finish ≠ st.pc) → u.pc = a ∧ u.loops = st.loops ∧ u.lc = st.lc)
    ∧ u.pw = st.pw ∧ u.masks = st.masks ∧ u.fflags = st.fflags ∧ u.lost = st.lost ∧ u.rf = st.rf ∧ u.ls = st.ls
    ∧ u.since = none ∧ u.next = none ∧ (∀ k, k ≠ slot → t.strandAt k = s.strandAt k) ∧ t.mem = s.mem ∧ t.pool = s.pool

/-- The monitor's read may be made now: no access of the core to these bytes and no acquire that holds the strand back is outstanding, and the
strand knows the head that follows (R141, R249). -/
structure MayRead (s : State) (slot : Nat) (st : Strand) (a : VAddr) (pa n : Nat) : Prop where
  here : s.strandAt slot = some st
  next : st.next = some a
  running : (s.coreAt (coreOf slot)).phase = .running
  queue : s.overlapsQueue (coreOf slot) pa n = false ∧ ∀ x ∈ (s.coreAt (coreOf slot)).queue, x.holdsBack slot = false

/-- The quad holds the line of an address of plain memory, or its scratchpad serves the tenant. -/
structure AtHand (s : State) (slot : Nat) (st : Strand) (pa n : Nat) : Prop where
  plain : PlainStore s pa (s.keyOfAsid (s.asidOf st)) ∧ isControl pa = false ∧ pa % 128 + n ≤ 128
  copy : s.lineReady (agentOf (coreOf slot)) pa (s.tenantOf st) (s.keyOfAsid (s.asidOf st)) false = true
  bank : isScratch pa = true → s.quadServes (s.tenantOf st) (pa / 2 ^ 24 % 256) (pa % 2 ^ 24) n
    (pa / 2 ^ 24 % 256 == agentOf (coreOf slot)) true false = true
  up : s.scratchGone pa = false
  port : isHostMem pa = true → s.sys.portDown.getLsbD (window pa - 0xC) = false

/-- A deadline that has passed (R249). -/
def passed (d : Option Nat) (time : Nat) : Prop := ∃ x, d = some x ∧ x ≤ time

/-- R249: `MWAIT` arms its monitor and sleeps; a read of the monitor that finds another value, or comes after the deadline, completes it with ext64 of the
value in gDST; a read that finds the expected value before it leaves it asleep. A peer window is read every 1,024 cycles instead.
That it sleeps from its issue on is the model's reading (log entry 28). -/
def Obligations.MonitorWaits : Prop :=
  (∀ s st o, Focus s st [o.a, dstG o] [] → MemLegal o [0, 1, 2, 3, 4, 5, 6, 7] [0, 1] false →
    let n := typeBits o.tn / 8
    (∀ q, eaOf st o false % n = 0 → Placed s (s.ctxOf s.cur st) .read false (elemPieces 0 (eaOf st o false) n 0) [q] →
      ∃ t : State, exec (.mwait o) s = .next t ∧ InFlight s t ∧ t.pool = s.pool ∧ Waits s st t
        (.monitor q.pa ((st.getG (dstG o)).toNat % 2 ^ (8 * n)) o.tn o.ord o.scope
          (match o.hi with | none => none | some i => if i = 0 then none else some (s.time + i.toNat)) (dstG o)
          (if isPeer q.pa then some (s.time + 1024) else none)))
    ∧ (eaOf st o false % n ≠ 0 → NotFatal st → TakesTrap (.mwait o) s st 0x205 (BitVec.ofNat 64 (eaOf st o false))))
  ∧ (∀ s slot st a pa e ty ord sc dl dst, st.wait = .monitor pa e ty ord sc dl dst none → ty < 8 → MayRead s slot st a pa (typeBits ty / 8) →
    AtHand s slot st pa (typeBits ty / 8) →
    let v := s.mem.readLe pa (typeBits ty / 8)
    ((v ≠ e ∨ passed dl s.time) → ∃ t : State, exec (.monitorFire slot) s = .next t ∧ Woken s t slot st a dst (ext64 v ty))
    ∧ (v = e → ¬passed dl s.time → ∃ t : State, exec (.monitorFire slot) s = .next t ∧ t.strands = s.strands ∧ t.mem = s.mem))
  ∧ (∀ s slot st a pa e ty ord sc d dst p, st.wait = .monitor pa e ty ord sc (some d) dst p → ty < 8 →
    MayRead { s with time := max s.time d } slot st a pa (typeBits ty / 8) → AtHand { s with time := max s.time d } slot st pa (typeBits ty / 8) →
    ∃ t : State, exec (.mwaitTimeout slot) s = .next t ∧ t.time = max s.time d ∧ Woken s t slot st a dst (ext64 (s.mem.readLe pa (typeBits ty / 8)) ty))
  ∧ (∀ s slot st a pa e ty ord sc dl dst p ext, st.wait = .monitor pa e ty ord sc dl dst (some p) → ty < 8 → MayRead s slot st a pa (typeBits ty / 8) →
    isPeer pa = true → s.isFenced pa = false → s.pod.enable = true → typeBits ty / 8 ≤ ext.length →
    let v := leOfBytes (ext.take (typeBits ty / 8))
    ((v ≠ e ∨ passed dl (max s.time p)) → ∃ t : State, exec (.mwaitPoll slot ext) s = .next t ∧ t.time = max s.time p ∧ Woken s t slot st a dst (ext64 v ty))
    ∧ (v = e → ¬passed dl (max s.time p) → ∃ t : State, exec (.mwaitPoll slot ext) s = .next t ∧ t.mem = s.mem
      ∧ t.strandAt slot = some { st with wait := .monitor pa e ty ord sc dl dst (some (max s.time p + 1024)) }))

/-- The registers that an engine instruction names. -/
def engG (o : EngOps) : List (BitVec 4) := [o.a, o.b, o.c, o.d, o.e]

/-- The strand's tenant holds its quad (R260, R261). -/
def HoldsQuad (s : State) (st : Strand) : Prop := s.holdsQuad (s.tenantOf st) (agentOf (coreOf s.cur)) = true

/-- A byte barrier's place: a multiple of 16 in the 4 MiB scratchpad (R264). -/
def BarrierPlace (off : Nat) : Prop := off % 16 = 0 ∧ off + 16 ≤ 2 ^ 22

/-- The 16 bytes of a barrier in the quad's scratchpad. -/
def barrierBytes (s : State) (agent off : Nat) : Nat := s.mem.readLe (8 * 2 ^ 48 + agent * 2 ^ 24 + off) 16

/-- A barrier of the strand's quad that it may reach now. -/
def BarrierAtHand (s : State) (off : Nat) : Prop :=
  BarrierPlace off ∧ s.spWaits s.cur off 16 = false ∧ s.isLost (8 * 2 ^ 48 + agentOf (coreOf s.cur) * 2 ^ 24 + off) = false

/-- R264, R266, R267: `BBINIT` writes the expected count in bits 31 to 0 and the scope in bits 67 to 65 of the 16 bytes and zero elsewhere, and traps on a
count or a scope outside its range; `BBTEST` and `BBWAIT` give gD the upper doubleword, and the phase is bit 64. `BBWAIT` whose phase has not changed sleeps until a read finds it changed
or its deadline passes. A release fence of the strand that is pending holds `BBINIT` back (R141). -/
def Obligations.ByteBarrierInstructions : Prop :=
  (∀ s st o, Focus s st (engG o) [] → HoldsQuad s st →
    let a := agentOf (coreOf s.cur)
    let off := (st.getG o.a).toNat
    let up := BitVec.ofNat 64 (barrierBytes s a off / 2 ^ 64)
    let phase := (barrierBytes s a off).testBit 64
    (NotFatal st → ((st.getG o.b).toNat = 0 ∨ 2 ^ 32 ≤ (st.getG o.b).toNat ∨ 6 ≤ o.x.toNat % 8) →
      TakesTrap (.bbinit o) s st 3 (BitVec.ofNat 64 st.headValue))
    ∧ (BarrierAtHand s off →
    (1 ≤ (st.getG o.b).toNat → (st.getG o.b).toNat < 2 ^ 32 → o.x.toNat % 8 < 6 → s.fencePending s.cur = true → exec (.bbinit o) s = .next s)
    ∧ (1 ≤ (st.getG o.b).toNat → (st.getG o.b).toNat < 2 ^ 32 → o.x.toNat % 8 < 6 → s.fencePending s.cur = false → ∃ (t : State) (u : Strand), exec (.bbinit o) s = .next t
      ∧ t.strandAt s.cur = some u ∧ barrierBytes t a off = (st.getG o.b).toNat + o.x.toNat % 8 * 2 ^ 65
      ∧ (∀ x, x < 8 * 2 ^ 48 + a * 2 ^ 24 + off ∨ 8 * 2 ^ 48 + a * 2 ^ 24 + off + 16 ≤ x → t.mem.read x = s.mem.read x)
      ∧ u.g = st.g ∧ u.pw = st.pw ∧ u.fflags = st.fflags ∧ Kept st u ∧ Flow st u ∧ t.pool = s.pool)
    ∧ (∃ (t : State) (u : Strand), exec (.bbtest o) s = .next t ∧ t.strandAt s.cur = some u
      ∧ (∀ r, u.getG r = if r = o.d ∧ o.d ≠ 0 then up else st.getG r)
      ∧ (∀ p, u.getP p = if p = o.x.extractLsb' 0 3 ∧ p ≠ 0 then phase != (st.getG o.b).getLsbD 0 else st.getP p)
      ∧ u.fflags = st.fflags ∧ Kept st u ∧ Flow st u ∧ t.pool = s.pool ∧ Outside s t)
    ∧ (phase ≠ (st.getG o.b).getLsbD 0 → WritesG (.bbwait o) s st o.d up 0)
    ∧ (phase = (st.getG o.b).getLsbD 0 → ∃ t : State, exec (.bbwait o) s = .next t ∧ t.mem = s.mem ∧ Waits s st t
      (.byteBarrier off phase (match o.hi with | none => none | some i => if i = 0 then none else some (s.time + i.toNat)) o.d))))
  ∧ (∀ s slot st next off ph dl dst, slot < 12288 → st.wait = .byteBarrier off ph dl dst →
    let a := agentOf (coreOf slot)
    let pa := 8 * 2 ^ 48 + a * 2 ^ 24 + off
    let ok (s : State) : Prop := MayRead s slot st next pa 16 ∧ BarrierPlace off ∧ s.quadServes (s.tenantOf st) a off 16 true true false = true
      ∧ s.isLost pa = false
    let v := BitVec.ofNat 64 (barrierBytes s a off / 2 ^ 64)
    let flipped := (barrierBytes s a off).testBit 64 ≠ ph
    (ok s → (flipped ∨ passed dl s.time) → ∃ t : State, exec (.monitorFire slot) s = .next t ∧ Woken s t slot st next dst v)
    ∧ (ok s → ¬flipped → ¬passed dl s.time → exec (.monitorFire slot) s = .next s)
    ∧ (∀ d, dl = some d → ok { s with time := max s.time d } →
      ∃ t : State, exec (.bbwaitTimeout slot) s = .next t ∧ t.time = max s.time d ∧ Woken s t slot st next dst v))

/-- The number of a barrier of a level: the level, the instance in which the slot lies, the index (R38). -/
def barrierNo (slot level index : Nat) : Nat :=
  2 ^ 24 * level + 2 ^ 6 * (match level with | 0 => slot / 16 | 1 => slot / 64 | 2 => slot / 64 / 48 | _ => 0) + index

/-- The barrier that an instruction names is one of its level: 8 of a core, 16 of a quad, 32 of a die, 64 of the package, 16 of the pod (R38). -/
def BarrierNamed (o : MemOps) : Prop :=
  o.t = 0 ∧ o.ord = 0 ∧ o.lease = 0 ∧ (o.scope.toNat, o.off.toNat) ∈
    ((List.range 8).map fun i => (0, i)) ++ ((List.range 16).map fun i => (1, i)) ++ ((List.range 32).map fun i => (2, i))
      ++ ((List.range 64).map fun i => (3, i)) ++ ((List.range 16).map fun i => (4, i))

/-- The barrier with one number is b and the others stand. -/
def BarrierSet (s t : State) (k : Nat) (b : Barrier) : Prop := ∀ j, t.barrierAt j = if j = k then b else s.barrierAt j

/-- R39, R141: an arrival adds one to the counter; the arrival that makes it E clears it and flips the phase. -/
def arrived (b : Barrier) : Barrier :=
  if b.counter + 1 = b.e then { b with counter := 0, phase := !b.phase } else { b with counter := b.counter + 1 }

/-- A flip of barrier k from a phase sends every waiter on that phase on its way: it wakes when the flip reaches it (R43, R254). -/
def FlipsWaiters (s t : State) (k : Nat) (old : Bool) : Prop :=
  ∀ j v, j ≠ s.cur → s.strandAt j = some v → v.wait = .barrier k old → ∃ w, t.strandAt j = some w ∧ w.wait = .flipped k old ∧ w.g = v.g
    ∧ w.pc = v.pc ∧ w.next = v.next

/-- R38 to R43, R141, R253, R254: the barrier instructions on a barrier that the strand's launch has claimed. `BARA` gives gDST the phase before its arrival;
`BARW` waits until the phase differs from gA[0]; `BAR` arrives and waits on the phase it found; `BARINIT` claims, or changes E while no
arrival is counted. A barrier that the launch has not claimed is the barrier trap (cause 0x0D), whose value is the index with the
level from bit 16. Beyond its core an arrival waits for every earlier access of its strand and core. A flip wakes those who wait, also where the phase has flipped again before it reaches them. -/
def Parts.BarrierInstructions : Prop :=
  (∀ s st o, BarrierNamed o →
    let k := barrierNo s.cur o.scope.toNat o.off.toNat
    let b := s.barrierAt k
    let settled := o.scope = 0 ∨ ∀ a ∈ (s.coreAt (coreOf s.cur)).queue, a.slot ≠ s.cur ∧ a.kind.touches = false
    let tv := BitVec.ofNat 64 (o.off.toNat + o.scope.toNat * 2 ^ 16)
    (st.lid ∈ b.claims →
      (Focus s st [o.a, dstG o] [] → settled → ∃ (t : State) (u : Strand), exec (.bara o) s = .next t ∧ t.strandAt s.cur = some u
        ∧ (∀ r, u.getG r = if r = dstG o ∧ dstG o ≠ 0 then (if b.phase then 1 else 0) else st.getG r)
        ∧ BarrierSet s t k (arrived b) ∧ ((arrived b).phase ≠ b.phase → FlipsWaiters s t k b.phase)
        ∧ u.pw = st.pw ∧ u.fflags = st.fflags ∧ Kept st u ∧ Flow st u ∧ t.mem = s.mem ∧ t.pool = s.pool)
      ∧ (Focus s st [o.a, dstG o] [] → ¬settled → exec (.bara o) s = .next s ∧ exec (.bar o) s = .next s)
      ∧ (Focus s st [o.a] [] → b.phase ≠ (st.getG o.a).getLsbD 0 → Completes (.barw o) s st)
      ∧ (Focus s st [o.a] [] → b.phase = (st.getG o.a).getLsbD 0 →
        ∃ t : State, exec (.barw o) s = .next t ∧ Waits s st t (.barrier k b.phase) ∧ t.barriers = s.barriers ∧ t.mem = s.mem)
      ∧ (Focus s st [o.a] [] → settled → (arrived b).phase ≠ b.phase → ∃ (t : State) (u : Strand), exec (.bar o) s = .next t ∧ t.strandAt s.cur = some u
        ∧ BarrierSet s t k (arrived b) ∧ FlipsWaiters s t k b.phase
        ∧ u.g = st.g ∧ u.pw = st.pw ∧ u.fflags = st.fflags ∧ Kept st u ∧ Flow st u ∧ t.mem = s.mem)
      ∧ (Focus s st [o.a] [] → settled → (arrived b).phase = b.phase → ∃ t : State, exec (.bar o) s = .next t
        ∧ Waits s st t (.barrier k b.phase) ∧ BarrierSet s t k (arrived b) ∧ t.mem = s.mem))
    ∧ (st.lid ∉ b.claims → NotFatal st → Focus s st [o.a, dstG o] [] →
      TakesTrap (.bara o) s st 0x0D tv ∧ TakesTrap (.barw o) s st 0x0D tv ∧ TakesTrap (.bar o) s st 0x0D tv)
    ∧ (Focus s st [o.a] [] → 1 ≤ (st.getG o.a).toNat → (st.getG o.a).toNat ≤ 65535 → (o.scope = 4 → s.claimsOn o.off.toNat = []) →
      let e := (st.getG o.a).extractLsb' 0 16
      let claimed (v : Barrier) : Prop := ∃ (t : State) (u : Strand), exec (.barinit o) s = .next t ∧ t.strandAt s.cur = some u ∧ BarrierSet s t k v
        ∧ u.g = st.g ∧ u.pw = st.pw ∧ u.fflags = st.fflags ∧ Kept st u ∧ Flow st u ∧ t.mem = s.mem
      let live := b.claims ≠ [] ∨ b.remote ≠ []
      let joins := st.lid ∈ b.claims ∨ (o.scope = 4 ∧ b.tenant = s.tenantOf st ∧ live)
      (¬live → claimed { e := e, counter := 0, phase := false, claims := [st.lid], tenant := s.tenantOf st, remote := [] })
      ∧ (joins → (b.e = e ∨ b.counter = 0) →
        claimed { b with e := e, claims := if st.lid ∈ b.claims then b.claims else b.claims ++ [st.lid] })
      ∧ (live → ¬joins → NotFatal st → TakesTrap (.barinit o) s st 0x0D tv)
      ∧ (joins → b.e ≠ e → b.counter ≠ 0 → NotFatal st → TakesTrap (.barinit o) s st 0x0D tv)))
  ∧ (∀ s slot st a k ph, st.wait = .barrier k ph ∧ (s.barrierAt k).phase ≠ ph ∨ st.wait = .flipped k ph → s.strandAt slot = some st →
    st.next = some a → (s.coreAt (coreOf slot)).phase = .running →
    ∃ t : State, exec (.barrierWakeup (.wake slot)) s = .next t ∧ Woken s t slot st a 0 0)

/-- R41, R412: pod barriers between devices. A claim of another device is on its way until the pod root settles it: on a barrier that no live launch of
any device claims it creates the joint claim, with a counter of 0 and phase 0. A `BARINIT` here against a claim of a lower pod number
and another tenant takes the barrier trap. An arrival of a device that has joined counts as one of this device's, and the end of a
joined launch takes it out of the claim. With its links down or fenced a device takes no part. That these come as messages of their own, and
that a claim waits until it is settled, is the model's choice (log entry 36). -/
def Parts.PodBarriersJoinDevices : Prop :=
  (∀ s (c : PodClaim), s.podReaches c.device = true → c.index < 16 → c.e ≠ 0 → exec (.barrierWakeup (.claim c)) s = .next { s with pod :=
    { s.pod with claims := s.pod.claims ++ [c] } })
  ∧ (∀ s (c : PodClaim), s.claimsOn c.index = [c] → (s.barrierAt (barrierNo 0 4 c.index)).claims = [] → (s.barrierAt (barrierNo 0 4 c.index)).remote = [] →
    ∃ t : State, exec (.barrierWakeup (.settle c.index)) s = .next t ∧ t.mem = s.mem ∧ t.strands = s.strands
      ∧ BarrierSet s t (barrierNo 0 4 c.index)
        { e := c.e, counter := 0, phase := false, claims := [], tenant := c.tenant, remote := [(c.device, c.launch)] })
  ∧ (∀ s st o (c : PodClaim), BarrierNamed o → o.scope = 4 → Focus s st [o.a] [] → NotFatal st → 1 ≤ (st.getG o.a).toNat → (st.getG o.a).toNat ≤ 65535 →
    s.claimsOn o.off.toNat = [c] → c.device < s.pod.self.toNat → (s.barrierAt (barrierNo s.cur 4 o.off.toNat)).claims = [] →
    (s.barrierAt (barrierNo s.cur 4 o.off.toNat)).remote = [] → c.tenant ≠ s.tenantOf st →
    TakesTrap (.barinit o) s st 0x0D (BitVec.ofNat 64 (o.off.toNat + 4 * 2 ^ 16)))
  ∧ (∀ s d i, i < 16 → let b := s.barrierAt (barrierNo 0 4 i)
    (s.podReaches d = true → (∃ l, (d, l) ∈ b.remote) → ∃ t : State, exec (.barrierWakeup (.arrival d i)) s = .next t ∧ t.mem = s.mem
      ∧ BarrierSet s t (barrierNo 0 4 i) (arrived b) ∧ ((arrived b).phase ≠ b.phase → FlipsWaiters s t (barrierNo 0 4 i) b.phase))
    ∧ (s.podReaches d = false → exec (.barrierWakeup (.arrival d i)) s = .next s))
  ∧ (∀ s d l, s.podReaches d = true → ∃ t : State, exec (.barrierWakeup (.release d l)) s = .next t ∧ t.mem = s.mem ∧ t.strands = s.strands
    ∧ ∀ k, (d, l) ∉ (t.barrierAt k).remote)

/-- R38 to R43, R141, R253, R254: barriers of every level, and pod barriers between devices. -/
def Obligations.BarriersOfEveryLevel : Prop := Parts.BarrierInstructions ∧ Parts.PodBarriersJoinDevices

/-- The instruction writes v to gDST and completes; memory stands. -/
def Reports (i : Instr) (s : State) (st : Strand) (o : MemOps) (v : Word) (more : State → Prop) : Prop :=
  ∃ (t : State) (u : Strand), exec i s = .next t ∧ t.strandAt s.cur = some u ∧ (∀ r, u.getG r = if r = dstG o ∧ dstG o ≠ 0 then v else st.getG r)
    ∧ u.pw = st.pw ∧ u.fflags = st.fflags ∧ Kept st u ∧ Flow st u ∧ t.mem = s.mem ∧ t.pool = s.pool ∧ more t

/-- R129 to R133, R255, R256, R363: `TDECL` of a shape that breaks its rules reports code 1 (bit 63 set); a legal one in one device-memory page with no line bound takes
the lowest free record for the strand's quad, once every line is free for it, has a directory way and no other holder. `TFREE` frees the record of a tile that the quad holds and `TFWD` gives it to the quad that
gDST names; an address of no tile reports 6, one of another quad's tile 5, and a target that is no quad of the tenant 7. An operation whose lines are busy takes
its place in their lists with the next number, sets MOVING, and waits.
That the record taken is the lowest free one, and that the addresses translate with the read right, is the model's (log entries 12, 32). -/
def Obligations.TilesAreDeclaredFreedAndForwarded : Prop :=
  ∀ s st o, Focus s st [o.a, dstG o] [] → MemLegal o [0] [0] false → SMap.find s.homes.tileOps s.cur = none →
    let c := s.ctxOf s.cur st
    let begun (t : State) (ls : List Nat) : Prop := t.strandAt s.cur = some st ∧ t.mem = s.mem
      ∧ ∃ x, SMap.find t.homes.tileOps s.cur = some x ∧ x.no = s.homes.arrivals ∧ x.lines = ls ∧ x.lid = st.lid ∧ x.pc = st.pc
    let fail (k : Nat) : Word := BitVec.ofNat 64 (2 ^ 63 + k)
    (∀ i, o.hi = some i →
      let rows := (i.extractLsb' 0 8).toNat + 1
      let rowb := (i.extractLsb' 8 12).toNat + 1
      let stride := (st.getG (dstG o)).toNat
      let va := eaOf st o false
      let legal := rows * rowb ≤ 65536 ∧ rowb ≤ stride ∧ stride < 2 ^ 32
      let span := (rows - 1) * stride + rowb - 1
      (¬legal → WritesG (.tdecl o) s st (dstG o) (fail 1) 0)
      ∧ (legal → ∀ e tid, s.translate c va .read = .ok e → s.translate c ((va + span) % 2 ^ 52) .read = .ok e →
        let pa := leafPa e.level e.entry.toNat va
        let rec_ := tileRecord c.agent c.tenant pa rows rowb stride (i.getLsbD 20)
        leafPa e.level e.entry.toNat ((va + span) % 2 ^ 52) = pa + span → isDevice pa = true → homeDie pa = homeDie (pa + span) →
        (s.physical c pa false).isSome → (s.physical c (pa + span) false).isSome →
        (∀ l ∈ rec_.lines, (s.dirAt (l / 4)).tb = 0) → (∀ k, k < tid % 256 → (SMap.find s.homes.tiles (2 ^ 8 * sliceOf pa + k)).isSome) →
        tid / 256 = sliceOf pa → SMap.find s.homes.tiles tid = none → s.linesBusy rec_.lines s.homes.arrivals = false →
        s.tileHorizon rec_ ≤ s.time → ((s.fillAll c.core [e, e]).waysFor rec_.lines).2 = true →
        ((s.fillAll c.core [e, e]).waysFor rec_.lines).1.othersOf c.agent rec_.lines = [] →
        Reports (.tdecl o) s st o (BitVec.ofNat 64 tid) fun t => ∃ r, SMap.find t.homes.tiles tid = some r ∧ r.holder = c.agent
          ∧ r.tenant = c.tenant ∧ r.base = pa ∧ r.rows = rows ∧ r.rowb = rowb ∧ r.stride = stride ∧ r.own = i.getLsbD 20 ∧ r.present = true))
    ∧ (∀ e, s.translate c (eaOf st o true) .read = .ok e →
      let pa := leafPa e.level e.entry.toNat (eaOf st o true)
      ((isDevice pa = false ∨ s.tileOf (pa / 128) = none) →
        Reports (.tfree o) s st o (fail 6) (fun t => t.homes = s.homes) ∧ Reports (.tfwd o) s st o (fail 6) (fun t => t.homes = s.homes))
      ∧ (∀ tid r, isDevice pa = true → s.tileOf (pa / 128) = some (tid, r) →
        (r.holder ≠ c.agent →
          Reports (.tfree o) s st o (fail 5) (fun t => t.homes = s.homes) ∧ Reports (.tfwd o) s st o (fail 5) (fun t => t.homes = s.homes))
        ∧ (r.holder = c.agent → s.linesBusy r.lines s.homes.arrivals = true →
          ∃ t : State, exec (.tfree o) s = .next t ∧ exec (.tfwd o) s = .next t ∧ begun t r.lines ∧ SMap.find t.homes.tiles tid = some { r with moving := true })
        ∧ (r.holder = c.agent → s.linesBusy r.lines s.homes.arrivals = false →
          (s.demoteRecalls tid r = [] → Reports (.tfree o) s st o 0 (fun t => SMap.find t.homes.tiles tid = none))
          ∧ ((s.tlbFill c.core e).forwardTarget c r (st.getG (dstG o)).toNat = none →
            Reports (.tfwd o) s st o (fail 7) (fun t => t.homes = s.homes))
          ∧ (∀ q, (s.tlbFill c.core e).forwardTarget c r (st.getG (dstG o)).toNat = some q →
            Reports (.tfwd o) s st o 0 fun t => ∃ x, SMap.find t.homes.tiles tid = some x ∧ x.holder = q ∧ x.present = true))))

/-- R62, R64, R258: `MIGR` with no core that may take the strand gives gDST 0; with one, and with no frame and no mask to write, the strand's packet joins that core's
inbox and the strand waits. The core accepts its oldest packet into its lowest free slot and range of local store, gDST reads 1, and the slot left is free. That the slot and
range are the lowest, and that a core of the strand's own quad may be the goal, is the model's choice (log entries 12, 37). -/
def Obligations.MigrationMovesAStrand : Prop :=
  (∀ s st o e, Focus s st [o.a, dstG o] [] → MemLegal o [0] [0] false →
    let c := s.ctxOf s.cur st
    s.translate c (eaOf st o true) .read = .ok e →
    let goal := match s.quadNamed c (leafPa e.level e.entry.toNat (eaOf st o true)) with
      | some q => if st.vcount = 0 ∧ st.lslen = 1 ∧ st.loops = [] then s.migrationTarget (s.tenantOf st) (coreOf s.cur) q else none
      | none => none
    (goal = none → Reports (.migr o) s st o 0 fun _ => True)
    ∧ (∀ core, goal = some core → (∀ a ∈ (s.coreAt (coreOf s.cur)).queue, a.slot ≠ s.cur ∧ a.kind.touches = false) → st.rf = [] → st.ls = [] →
      st.masksUsed = false → ∃ t p, exec (.migr o) s = .next t
        ∧ t.strandAt s.cur = some { st with wait := .migrating core, halt := st.halt.issued }
        ∧ (t.coreAt core).inbox = (s.coreAt core).inbox ++ [p] ∧ p.source = s.cur ∧ p.dst = some (dstG o)
        ∧ p.strand.g = st.g ∧ p.strand.pc = st.nextHead ∧ p.strand.lid = st.lid ∧ p.strand.pw = st.pw ∧ p.strand.fflags = st.fflags
        ∧ p.strand.rrec = none ∧ t.mem = s.mem))
  ∧ (∀ s core p rest slot l, (s.coreAt core).inbox = p :: rest → (s.coreAt core).phase = .running → s.freeSlot core = some slot →
    freeRange (s.usedL core) 64 1 = some l → p.strand.masksUsed = false → coreOf p.source ≠ core →
    (∃ v, s.strandAt p.source = some v ∧ v.wait = .migrating core ∧ v.lid = p.strand.lid) →
    ∃ (t : State) (u : Strand), exec (.migrationPacketAccept core) s = .next t ∧ t.strandAt p.source = none ∧ t.strandAt slot = some u ∧ u.wait = .ready
      ∧ u.lsbase = l ∧ u.pc = p.strand.pc ∧ u.lid = p.strand.lid ∧ u.pw = p.strand.pw ∧ u.fflags = p.strand.fflags
      ∧ (∀ q, u.getG q = if p.dst = some q ∧ q ≠ 0 then 1 else p.strand.getG q)
      ∧ (t.coreAt core).inbox = rest ∧ t.mem = s.mem)

/-! ### Engines (spec/11_engines.md R259 to R287; spec/05_storage_coherence.md R113; spec/06_ordering.md R155, R156) -/

/-- The quad of the strand in focus. -/
def quadHere (s : State) : Nat := agentOf (coreOf s.cur)

/-- The physical address of an offset of a quad's scratchpad (R24). -/
def padAddr (a off : Nat) : Nat := 8 * 2 ^ 48 + a * 2 ^ 24 + off

/-- n bytes, and rows of n bytes at a pitch, lie in the 4 MiB scratchpad (R260, R261). -/
def InPad (off n : Nat) : Prop := off < 2 ^ 22 ∧ off + n ≤ 2 ^ 22
def RowsInPad (off rows pitch n : Nat) : Prop := InPad off ((rows - 1) * pitch + n)

/-- The barrier that field D names: g0 for none, else a multiple of 16 in the scratchpad (R260, R261). -/
def BarrierField (st : Strand) (d : BitVec 4) : Prop := d = 0 ∨ BarrierPlace (st.getG d).toNat
def barrierOfField (st : Strand) (d : BitVec 4) : Option Nat := if d = 0 then none else some (st.getG d).toNat

/-- The strand's tenant holds its quad, which is not saved nor waits for its restore, and the unit has room for n commands (R80, R261). -/
def MayEnter (s : State) (st : Strand) (n : Nat) : Prop :=
  HoldsQuad s st ∧ (s.quadAt (quadHere s)).takesCmds = true ∧ (s.quadAt (quadHere s)).cmds.length + n ≤ 64

/-- The grant in force (R268) and the placement (R269): the rows and columns granted, where they lie, and how many are written. -/
def grantM (st : Strand) : Nat := (st.shape.extractLsb' 0 8).toNat + 1
def grantN (st : Strand) : Nat := (st.shape.extractLsb' 8 8).toNat + 1
def grantK (st : Strand) : Nat := (st.shape.extractLsb' 16 14).toNat
def placeRow (p : Word) : Nat := (p.extractLsb' 0 7).toNat
def placeCol (p : Word) : Nat := (p.extractLsb' 8 7).toNat
def placeEm (st : Strand) (p : Word) : Nat := if p.extractLsb' 16 8 = 0 then grantM st else (p.extractLsb' 16 8).toNat
def placeEn (st : Strand) (p : Word) : Nat := if p.extractLsb' 24 8 = 0 then grantN st else (p.extractLsb' 24 8).toNat

/-- A grant is in force, and the placement obeys R269. -/
def PlaceLegal (st : Strand) (p : Word) : Prop :=
  st.shape.getLsbD 31 = true ∧ p.toNat < 2 ^ 32 ∧ p.getLsbD 7 = false ∧ p.getLsbD 15 = false ∧ placeRow p + grantM st ≤ 128
    ∧ placeCol p + grantN st ≤ 128 ∧ placeEm st p ≤ grantM st ∧ placeEn st p ≤ grantN st

/-- The registers and fields of an Ashlar command. -/
def matrixOp (st : Strand) (o : EngOps) (joint : Bool) : MatOp :=
  { a := st.getG o.a, b := st.getG o.b, pitch := st.getG o.c, place := st.getG o.e, x := o.x, i := o.hi.getD 0, shape := st.shape
    joint := joint }

/-- The instruction's command enters the footprint unit of the quad as its newest, with what it will do, its barrier, its regions and its
units, behind the stores and acquires that its core has in flight (R155); the strand goes on and nothing else changes. `seeded` says
that a draw of the generator seeds the command. -/
def Enters (i : Instr) (s : State) (st : Strand) (e : Option Engine) (op : CmdOp) (bb : Option Nat) (regions : List Region)
    (reads writes : BitVec 5) (seeded : Bool) : Prop :=
  ∃ t u c, exec i s = .next t ∧ t.strandAt s.cur = some u
    ∧ (t.quadAt (quadHere s)).cmds = (s.quadAt (quadHere s)).cmds ++ [c] ∧ c.seq = (s.quadAt (quadHere s)).nextSeq
    ∧ c.engine = e ∧ c.op = op ∧ c.bb = bb ∧ (∀ r, r ∈ c.regions ↔ r ∈ regions ∧ r.len ≠ 0 ∧ r.rows ≠ 0) ∧ c.unitsRead = reads
    ∧ c.unitsWritten = writes ∧ (∀ x ∈ (s.coreAt (coreOf s.cur)).queue, x.kind.writes = true ∨ x.acquires = true → x.id ∈ c.behind)
    ∧ c.state = .queued ∧ c.after = none ∧ c.lid = st.lid ∧ c.tenant = s.tenantOf st
    ∧ c.asid = s.asidOf st ∧ c.sright = (st.priv || st.inh)
    ∧ u.g = st.g ∧ u.pw = st.pw ∧ u.masks = st.masks ∧ u.fflags = st.fflags ∧ u.gen = (if seeded then genStep st.gen else st.gen)
    ∧ Kept st u ∧ Flow st u ∧ t.mem = s.mem ∧ t.pool = s.pool ∧ t.acc = s.acc ∧ t.sett = s.sett
    ∧ (∀ b, b ≠ quadHere s → t.quadAt b = s.quadAt b)

/-- Rows in the quad's scratchpad as a region. -/
def padRows (s : State) (off rows pitch len : Nat) (write : Bool) : Region :=
  { base := padAddr (quadHere s) off, len := len, rows := rows, stride := pitch, write := write }

/-- The format codes of one row of the table of R271 that two operands may take, for an N- or a W-quad. -/
def FormatsPair (wide : Bool) (fa fb : Nat) : Prop :=
  if wide then (fa ∈ [0x0C, 0x0D, 0x24] ∧ fb ∈ [0x0C, 0x0D, 0x24]) ∨ (fa ∈ [0x0A, 0x0B] ∧ fb ∈ [0x0A, 0x0B])
  else (fa ∈ [0x0E, 0x23] ∧ fb ∈ [0x0E, 0x23]) ∨ (fa ∈ [0x0F, 0x10] ∧ fb ∈ [0x0F, 0x10]) ∨ (fa ∈ [1, 2] ∧ fb ∈ [1, 2])
    ∨ (fa ∈ [0x21, 0x22] ∧ fb ∈ [0x21, 0x22])

/-- Bytes of an operand's row of k elements: a plain array packed, or a group array with its headers (R32, R33, R272). -/
def rowOf (fmt blog k : Nat) : Nat :=
  if 0x21 ≤ fmt then k / 2 ^ blog * (4 + 2 ^ blog * (if fmt = 0x21 ∨ fmt = 0x23 then 4 else 8) / 8)
  else (k * typeBits (fmt - 1) + 7) / 8

/-- The operands of `MMA` obey R269, R271 and R272. -/
structure ProductLegal (s : State) (st : Strand) (o : EngOps) (i : BitVec 32) : Prop where
  place : PlaceLegal st (st.getG o.e)
  pair : FormatsPair (quadHere s % 48 / 8 = 2 ∨ quadHere s % 48 / 8 = 3) (i.extractLsb' 0 6).toNat (i.extractLsb' 6 6).toNat
  rounding : (i.extractLsb' 16 3).toNat < 6
  group : if 0x21 ≤ (i.extractLsb' 0 6).toNat then 5 ≤ (i.extractLsb' 12 4).toNat ∧ (i.extractLsb' 12 4).toNat ≤ 7
      ∧ grantK st % 2 ^ (i.extractLsb' 12 4).toNat = 0 else if 0x21 ≤ (i.extractLsb' 6 6).toNat then
      5 ≤ (i.extractLsb' 12 4).toNat ∧ (i.extractLsb' 12 4).toNat ≤ 7 ∧ grantK st % 2 ^ (i.extractLsb' 12 4).toNat = 0
      else i.extractLsb' 12 4 = 0
  sourceA : if o.x.getLsbD 2 then (i.extractLsb' 0 6).toNat < 0x21 ∧ o.x.extractLsb' 3 2 ≠ o.x.extractLsb' 0 2 ∧ grantK st ≤ 128
      ∧ (st.getG o.a).toNat < 2 ^ 15 ∧ (st.getG o.a).getLsbD 7 = false ∧ ((st.getG o.a).extractLsb' 0 7).toNat + grantM st ≤ 128
      ∧ ((st.getG o.a).extractLsb' 8 7).toNat + grantK st ≤ 128
    else RowsInPad (st.getG o.a).toNat (grantM st) ((st.getG o.c).extractLsb' 0 32).toNat
      (rowOf (i.extractLsb' 0 6).toNat (i.extractLsb' 12 4).toNat (grantK st))
  sourceB : RowsInPad (st.getG o.b).toNat (grantN st) ((st.getG o.c).extractLsb' 32 32).toNat
    (rowOf (i.extractLsb' 6 6).toNat (i.extractLsb' 12 4).toNat (grantK st))
  barrier : BarrierField st o.d

/-- The scratchpad rows that a product reads (R262). -/
def productRegions (s : State) (st : Strand) (o : EngOps) (i : BitVec 32) : List Region :=
  (if o.x.getLsbD 2 then [] else [padRows s (st.getG o.a).toNat (grantM st) ((st.getG o.c).extractLsb' 0 32).toNat
      (rowOf (i.extractLsb' 0 6).toNat (i.extractLsb' 12 4).toNat (grantK st)) false])
    ++ [padRows s (st.getG o.b).toNat (grantN st) ((st.getG o.c).extractLsb' 32 32).toNat
      (rowOf (i.extractLsb' 6 6).toNat (i.extractLsb' 12 4).toNat (grantK st)) false]

/-- The bank b of X16[1:0] as a unit. -/
def bankBit (b : BitVec 2) : BitVec 5 := 1#5 <<< b.toNat

/-- R260 to R262, R268, R269, R271 to R275: `SHAPE` writes its grant to `sr.shape` and nothing else; `MZERO`, `MLD`, `MST`, `MMA` and `MJOINT` with legal operands enter
the footprint unit as one command each; a placement outside its rules is an illegal operand, and a tenant that does not hold the quad takes
the engine-access trap (cause 0x0E). -/
def Parts.MatrixInstructionsEnterTheUnit : Prop :=
  ∀ s st o, Focus s st (engG o) [] →
    let p := st.getG o.e
    let bank := o.x.extractLsb' 0 2
    let bb := barrierOfField st o.d
    let pitch := ((st.getG o.c).extractLsb' 0 32).toNat
    let row := ((placeEn st p) * typeBits (o.x.extractLsb' 3 4).toNat + 7) / 8
    (let m := min (max (st.getG o.a).toNat 1) 128
      let n := min (max (st.getG o.b).toNat 1) 128
      let k := min (max (((st.getG o.c).toNat + 7) / 8 * 8) 8) 8192
      ∃ (t : State) (u : Strand), exec (.shape o) s = .next t ∧ t.strandAt s.cur = some u ∧ grantM u = m ∧ grantN u = n ∧ grantK u = k
        ∧ u.shape.getLsbD 31 = true
        ∧ (u.shape.getLsbD 30 = true ↔ ¬((st.getG o.a).toNat = m ∧ (st.getG o.b).toNat = n ∧ (st.getG o.c).toNat = k))
        ∧ u.g = st.g ∧ u.pw = st.pw ∧ u.masks = st.masks ∧ u.fflags = st.fflags ∧ u.gen = st.gen
        ∧ Kept st { u with shape := st.shape } ∧ Flow st u ∧ t.pool = s.pool ∧ Outside s t)
    ∧ (MayEnter s st 1 →
      (PlaceLegal st p → BarrierField st o.d →
        Enters (.mzero o) s st (some .ashlar) (.mzero (matrixOp st o false)) bb [] 0 (bankBit bank) false)
      ∧ (PlaceLegal st p → BarrierField st o.d → RowsInPad (st.getG o.a).toNat (placeEm st p) pitch (4 * placeEn st p) →
        Enters (.mld o) s st (some .ashlar) (.mld (matrixOp st o false)) bb
          [padRows s (st.getG o.a).toNat (placeEm st p) pitch (4 * placeEn st p) false] 0 (bankBit bank) false)
      ∧ (PlaceLegal st p → BarrierField st o.d → RowsInPad (st.getG o.a).toNat (placeEm st p) pitch row → (st.getG o.b).toNat % 4 = 0 →
        InPad (st.getG o.b).toNat 4 → (o.x.extractLsb' 7 3).toNat < 6 →
        Enters (.mst o) s st (some .ashlar) (.mst (matrixOp st o false)) bb
          [padRows s (st.getG o.a).toNat (placeEm st p) pitch row true, padRows s (st.getG o.b).toNat 1 0 4 true] (bankBit bank) 0
          (o.x.extractLsb' 7 3 == 5))
      ∧ (∀ i, o.hi = some i → ProductLegal s st o i →
        let reads := (if o.x.getLsbD 2 then bankBit (o.x.extractLsb' 3 2) else 0) ||| (if o.x.getLsbD 5 then bankBit bank else 0)
        let seeded := o.x.getLsbD 2 && i.extractLsb' 16 3 == 5
        Enters (.mma o) s st (some .ashlar) (.mma (matrixOp st o false)) bb (productRegions s st o i) reads (bankBit bank) seeded
        ∧ (st.bond ≠ BitVec.allOnes 64 →
          Enters (.mjoint o) s st (some .ashlar) (.mma (matrixOp st o true)) bb (productRegions s st o i) reads (bankBit bank) seeded)))
    ∧ (NotFatal st → ¬PlaceLegal st p → TakesTrap (.mzero o) s st 3 (BitVec.ofNat 64 st.headValue)
      ∧ TakesTrap (.mma o) s st 3 (BitVec.ofNat 64 st.headValue) ∧ TakesTrap (.mld o) s st 3 (BitVec.ofNat 64 st.headValue))
    ∧ (NotFatal st → PlaceLegal st p → BarrierField st o.d → ¬HoldsQuad s st → TakesTrap (.mzero o) s st 0x0E 0)

/-- The 64-byte blocks of a descriptor are read with plain loads, and none of their bytes is lost (R261). -/
def DescriptorRead (s : State) (st : Strand) (blocks : Nat) (va : Nat) (s1 : State) (d : Nat) : Prop :=
  s.loadBlocks s.cur st 64 blocks va = .ok s1 st d

/-- Fields of a copy descriptor within their limits (R281): XN, YN and ZN are not zero, DT with DEC is 8 to 12, bits from 328 up are zero. -/
def CopyLegal (d : Nat) : Prop :=
  d / 2 ^ 328 % 2 ^ 184 = 0 ∧ d / 2 ^ 128 % 2 ^ 32 ≠ 0 ∧ d / 2 ^ 160 % 2 ^ 16 ≠ 0 ∧ d / 2 ^ 176 % 2 ^ 16 ≠ 0
    ∧ (d / 2 ^ 324 % 2 = 1 → 8 ≤ d / 2 ^ 320 % 16 ∧ d / 2 ^ 320 % 16 ≤ 12)

/-- Its tag is good where it decodes (R31, R281). -/
def TagLegal (d : Nat) : Prop :=
  d / 2 ^ 324 % 2 = 1 → ¬BadTag (BitVec.ofNat 64 d) ∧ fmtOfPtr (BitVec.ofNat 64 d) ≠ 0

/-- R261, R262, R276 to R278, R280, R281, R283 to R285: the Sett instructions and the Hod's, with legal operands and descriptors, enter the unit; `SSTAT` reads
the Sett state once no Sett command that the unit accepted before it is left, with BUSY where a later one is; `TSTB` branches on the status word. A descriptor that is not 64-byte aligned
takes the misaligned trap. A copy waits while the walk of a page that it names would read a line that a host holds in O: that line is recalled
(log entry 34). -/
def Parts.SortAndCopyInstructionsEnterTheUnit : Prop :=
  ∀ s st o, Focus s st (engG o) [] →
    let a := quadHere s
    let bb := barrierOfField st o.d
    let src := (st.getG o.a).toNat
    let n := (st.getG o.b).toNat
    let va := ((st.getG o.a).extractLsb' 0 52).toNat
    let c := s.ctxOf s.cur st
    (MayEnter s st 1 → BarrierField st o.d →
      (n ≤ 16384 → InPad src (8 * n) →
        Enters (.sload o) s st (some .sett) (.sload src n) bb [padRows s src 1 0 (8 * n) false] 0 0x10 false)
      ∧ Enters (.ssort o) s st (some .sett) (.ssort (o.x.toNat % 16) (o.x.getLsbD 4) (o.x.getLsbD 5) (o.x.extractLsb' 6 4).toNat) bb []
          0x10 0x10 false
      ∧ (n ≤ 16384 → InPad src (8 * n) → (o.c = 0 ∨ InPad (st.getG o.c).toNat (2 * n)) →
        Enters (.sstore o) s st (some .sett) (.sstore src n (st.getG o.c).toNat (o.c != 0) (o.x.getLsbD 0)) bb
          (padRows s src 1 0 (8 * n) true :: if o.c = 0 then [] else [padRows s (st.getG o.c).toNat 1 0 (2 * n) true]) 0x10 0 false)
      ∧ (va % 64 = 0 → ∀ s1 d, DescriptorRead s st 1 va s1 d →
        (∀ p, CopyLegal d → s.heldPage c (copyPages d) = some p → exec (.hcopy o) s = .next (s.recallLines [lineOf p]).1)
        ∧ (CopyLegal d → TagLegal d → s.heldPage c (copyPages d) = none →
          Enters (.hcopy o) s st (some .hod) (.hcopy d) bb (s1.copyRegions (s1.ctxOf s.cur st) d false) 0 0 false)
        ∧ (CopyLegal d → d / 2 ^ 324 % 2 = 0 → s1.sendsHome (s1.ctxOf s.cur st) d = false → s.heldPage c (copyPages d) = none →
          Enters (.hsend o) s st (some .hod) (.hsend d) bb (s1.copyRegions (s1.ctxOf s.cur st) d true) 0 0 false)
        ∧ (d / 2 ^ 328 % 2 ^ 184 = 0 → 1 ≤ d / 2 ^ 128 % 2 ^ 32 → d / 2 ^ 128 % 2 ^ 32 ≤ 4096 → d / 2 ^ 160 % 2 ^ 16 ≠ 0 →
          d / 2 ^ 176 % 2 ^ 16 = 1 → d / 2 ^ 324 % 2 = 0 → (d / 2 ^ 320 % 16 = 5 ∨ d / 2 ^ 320 % 16 = 7) →
          s.heldPage c (gatherPages d) = none →
          Enters (.hgath o) s st (some .hod) (.hgath d) bb (s1.gatherRegions (s1.ctxOf s.cur st) d) 0 0 false)))
    ∧ (MayEnter s st 2 → BarrierField st o.d → va % 64 = 0 → ∀ s1 d, DescriptorRead s st 2 va s1 d → CopyLegal (d % 2 ^ 512) →
      TagLegal (d % 2 ^ 512) → s.heldPage c (copyPages (d % 2 ^ 512)) = none → followOk s.cur st d = true →
      ∃ (t : State) (u : Strand) (x y : Cmd), exec (.hcopym o) s = .next t ∧ t.strandAt s.cur = some u ∧ (t.quadAt a).cmds = (s.quadAt a).cmds ++ [x, y]
        ∧ x.engine = some .hod ∧ x.op = .hcopy (d % 2 ^ 512) ∧ x.bb = bb ∧ x.after = none ∧ y.engine = some .ashlar
        ∧ y.op = .mma (followOp st d) ∧ y.after = some x.seq ∧ y.bb = (if fieldN d 832 32 = 0xFFFFFFFF then none else some (fieldN d 832 32))
        ∧ u.g = st.g ∧ u.pw = st.pw ∧ u.fflags = st.fflags ∧ Kept st u ∧ Flow st u ∧ t.mem = s.mem)
    ∧ (HoldsQuad s st → BarrierField st o.d → NotFatal st → va % 64 ≠ 0 →
      TakesTrap (.hcopy o) s st 0x205 (BitVec.ofNat 64 va) ∧ TakesTrap (.hcopym o) s st 0x205 (BitVec.ofNat 64 va)
        ∧ TakesTrap (.hsend o) s st 0x205 (BitVec.ofNat 64 va) ∧ TakesTrap (.hgath o) s st 0x205 (BitVec.ofNat 64 va))
    ∧ (∀ pa e, s.physOf c va .read = .ok (pa, e) → isControl pa = false → s.plainReady s.cur c (s.keyOfAsid c.asid) pa 64 false = true →
      PlainStore s pa (s.keyOfAsid c.asid) → pa % 128 + 64 ≤ 128 →
      DescriptorRead s st 1 va (((s.tlbFill c.core e).touchCopy c.core c.agent pa false).useAnswer c.agent (pa / 128) false)
        (s.mem.readLe pa 64))
    ∧ (HoldsQuad s st →
      let q := (s.quadAt a).sett
      let first := st.since.getD (s.quadAt a).nextSeq
      ((∀ x ∈ (s.quadAt a).cmds, x.engine = some .sett → first ≤ x.seq) →
        WritesG (.sstat o) s st o.d (BitVec.ofNat 64 (q.phase + q.step * 2 ^ 4 + (if q.loaded then 2 ^ 11 else 0) + q.t * 2 ^ 12
          + (if q.desc then 2 ^ 16 else 0) + (if q.canz then 2 ^ 17 else 0) + (if q.latched then 2 ^ 18 else 0) + q.count * 2 ^ 19
          + (if (s.quadAt a).cmds.any (fun x => x.engine == some .sett) then 2 ^ 34 else 0))) 0)
      ∧ ((∃ x ∈ (s.quadAt a).cmds, x.engine = some .sett ∧ x.seq < first) →
        exec (.sstat o) s = .next (s.setStrand s.cur { st with since := some first })))
    ∧ (HoldsQuad s st → src % 4 = 0 → InPad src 4 → s.spWaits s.cur src 4 = false → s.isLost (padAddr a src) = false →
      let w := s.mem.readLe (padAddr a src) 4
      let hit := (∃ k, k < 7 ∧ w.testBit k = true ∧ o.x.getLsbD k = true) ∨ (o.x.getLsbD 7 = true ∧ w.testBit 31 = true)
      ∀ i, o.hi = some i →
        ((hit ↔ o.x.getLsbD 8 = false) → JumpsTo (.tstb o) s st (branchGoal st.pc (i.extractLsb' 0 24)))
        ∧ (¬(hit ↔ o.x.getLsbD 8 = false) → Completes (.tstb o) s st))
    ∧ (NotFatal st → ¬HoldsQuad s st → TakesTrap (.sstat o) s st 0x0E 0)

/-- A command of a quad that an engine runs, whose edge has not been saved. -/
structure Runs (s : State) (a : Nat) (c : Cmd) : Prop where
  quad : a < 192
  found : (s.quadAt a).cmdOf c.seq = some c
  running : c.state = .running ∧ c.engine ≠ some .hod
  phase : (s.quadAt a).phase = .running
  whole : ∀ off, off < 2 ^ 22 → s.isLost (padAddr a off) = false

/-- The command has left the unit, and those of other numbers stand. -/
def Left (s t : State) (a : Nat) (c : Cmd) : Prop := (t.quadAt a).cmds = (s.quadAt a).cmds.filter fun x => x.seq != c.seq

/-- An element of an accumulator bank as 32 bits (R269). -/
def bankElem (s : State) (a bank row col : Nat) : BitVec 32 := SMap.get (0 : BitVec 32) s.acc (2 ^ 16 * a + 2 ^ 14 * bank + 2 ^ 7 * row + col)

/-- The placed region of a command's bank holds v i j; every other element of every bank of every quad stands (R269). -/
def PlacedRegion (s t : State) (a : Nat) (m : MatOp) (v : Nat → Nat → Nat) : Prop :=
  (∀ i j, i < m.em → j < m.en → bankElem t a m.bank (m.row0 + i) (m.col0 + j) = BitVec.ofNat 32 (v i j))
    ∧ (∀ b bank r c, bank < 4 → r < 128 → c < 128 →
      ¬(b = a ∧ bank = m.bank ∧ m.row0 ≤ r ∧ r < m.row0 + m.em ∧ m.col0 ≤ c ∧ c < m.col0 + m.en) →
      bankElem t b bank r c = bankElem s b bank r c)

/-- The region stays in the bank. -/
def InBank (m : MatOp) : Prop := m.row0 + m.em ≤ 128 ∧ m.col0 + m.en ≤ 128

/-- Element (i, j) of the product of the halves over the whole of K, added to what stands in the bank or to zero (R272, R273). -/
def productElem (s : State) (a : Nat) (m : MatOp) (i j : Nat) (halves : List ((Nat → Machine.Num × TileFlags) × (Nat → Machine.Num × TileFlags))) :
    Nat × TileFlags :=
  matElement (matInt m.fa) (chunkTerms m.fa m.blog) (shapeK m.shape) (2 * shapeK m.shape)
    (if m.accum then (bankElem s a m.bank (m.row0 + i) (m.col0 + j)).toNat else 0) halves

/-- The flags of a bank. -/
def bankFlag (s : State) (a : Nat) (m : MatOp) (k : Nat) : Bool := ((s.quadAt a).bankFlags.toList.getD m.bank 0).getLsbD k

/-- R263, R270, R272, R274: what `MZERO`, `MLD` and `MMA` leave when they finish, shown for a command without a barrier: the placed region of the bank is zero, the
words of the scratchpad, or for each element the chunks of the product in increasing K from the accumulator or zero. `MZERO` clears the bank
flags, `MLD` keeps them, and a product that accumulates adds its conditions to them, where one that does not leaves its own alone: those of its
chunks, NaN where an element is one, and those of a bank source's conversion. Memory stands, and the command leaves the unit. -/
def Parts.MatrixCommandsFinish : Prop :=
  ∀ s a c m, Runs s a c → c.bb = none → InBank m →
    (c.op = .mzero m → ∃ t : State, exec (.engineCommandCompletion a c.seq) s = .next t ∧ PlacedRegion s t a m (fun _ _ => 0)
      ∧ (∀ k, bankFlag t a m k = false) ∧ Left s t a c ∧ t.mem = s.mem ∧ t.strands = s.strands)
    ∧ (c.op = .mld m → (∀ i, i < m.em → m.a.toNat + i * (m.pitch.extractLsb' 0 32).toNat + 4 * m.en ≤ 2 ^ 22) →
      ∃ t : State, exec (.engineCommandCompletion a c.seq) s = .next t
      ∧ PlacedRegion s t a m (fun i j => s.mem.readLe (padAddr a (m.a.toNat + i * (m.pitch.extractLsb' 0 32).toNat + 4 * j)) 4)
      ∧ (∀ k, bankFlag t a m k = bankFlag s a m k) ∧ Left s t a c ∧ t.mem = s.mem ∧ t.strands = s.strands)
    ∧ (c.op = .mma m → m.joint = false →
      let elem (i j : Nat) := productElem s a m i j [(s.matAOf a m c.gen i, s.matB a m j)]
      ∃ t : State, exec (.engineCommandCompletion a c.seq) s = .next t ∧ PlacedRegion s t a m (fun i j => (elem i j).1)
      ∧ (∀ k, k < 7 → (bankFlag t a m k = true ↔ (m.accum = true ∧ bankFlag s a m k = true) ∨ (s.bankExtra a m c.gen).getLsbD k = true
          ∨ ∃ i j, i < m.em ∧ j < m.en ∧ ((elem i j).2.getLsbD k = true
            ∨ k = 5 ∧ matInt m.fa = false ∧ (decodeFloat (elem i j).1 8).isNan = true)))
      ∧ Left s t a c ∧ t.mem = s.mem ∧ t.strands = s.strands)

/-- R16, R263, R273: a joint operation finishes at its four members together. Member k of the bond sequence holds quarter (k / 2, 1 for k = 1 and
2): each of its elements sums the two halves of K in order, A from the members of its row and B from those of its column, all as they were at the
start. Its command leaves each unit; memory stands. -/
def Parts.JointCommandsFinish : Prop :=
  ∀ s a c m l, Runs s a c → c.op = .mma m → m.joint = true → s.jointMembers (a / 48) (bondOf (a % 48)) c.lid c.jointNo = some l →
    (∀ x ∈ l, x.2.1.state = .running ∧ x.2.1.bb = none ∧ InBank x.2.2 ∧ shapeK x.2.2.shape = shapeK m.shape) →
    let zero : Nat → Machine.Num × TileFlags := fun _ => (.fin false 0 0, 0)
    let opA (k i : Nat) : Nat → Machine.Num × TileFlags := match l[k]? with | some x => s.matAOf x.1 x.2.2 x.2.1.gen i | none => zero
    let opB (k j : Nat) : Nat → Machine.Num × TileFlags := match l[k]? with | some x => s.matB x.1 x.2.2 j | none => zero
    let at_ (r c : Nat) : Nat := if r = 0 then c else 3 - c
    ∃ t : State, exec (.engineCommandCompletion a c.seq) s = .next t ∧ t.mem = s.mem ∧ t.strands = s.strands
      ∧ (∀ x ∈ l, ∀ y ∈ (t.quadAt x.1).cmds, y.seq ≠ x.2.1.seq)
      ∧ ∀ k q d (x : MatOp), l[k]? = some (q, d, x) → ∀ i j, i < x.em → j < x.en →
        let r := k / 2
        let col := if k = 1 ∨ k = 2 then 1 else 0
        bankElem t q x.bank (x.row0 + i) (x.col0 + j) = BitVec.ofNat 32 (productElem s q x i j
          [(opA (at_ r 0) i, opB (at_ 0 col) j), (opA (at_ r 1) i, opB (at_ 1 col) j)]).1

/-- The Sett cell at a position of the array (R277). -/
def cellAt (s : State) (a k : Nat) : SettCell := SMap.get { pad := true, bits := 0, pos := 0 } s.sett (2 ^ 14 * a + k)

/-- R263, R278, R279: what `SLOAD` and `SSORT` leave when they finish, shown without a barrier: `SLOAD` fills cell t from offset + 8t and makes
pads of the rest; a sort makes its steps, one a cycle. -/
def Parts.LoadAndSortCommandsFinish : Prop :=
  (∀ s a c src n, Runs s a c → c.bb = none → c.op = .sload src n → n ≤ 16384 → src + 8 * n ≤ 2 ^ 22 →
    ∃ t : State, exec (.engineCommandCompletion a c.seq) s = .next t
      ∧ (∀ k, k < 16384 → cellAt t a k = if k < n then { pad := false, bits := BitVec.ofNat 64 (s.mem.readLe (padAddr a (src + 8 * k)) 8), pos := k }
          else { pad := true, bits := 0, pos := k })
      ∧ (∀ b k, b ≠ a → k < 16384 → cellAt t b k = cellAt s b k)
      ∧ (let q := (t.quadAt a).sett; q.loaded = true ∧ q.latched = false ∧ q.phase = 0 ∧ q.step = 0 ∧ q.count = n ∧ q.lostLatch = false)
      ∧ Left s t a c ∧ t.mem = s.mem ∧ t.acc = s.acc)
  ∧ (∀ s a c ty desc canz nph, Runs s a c → c.bb = none → c.op = .ssort ty desc canz nph →
    let q := (s.quadAt a).sett
    let n := (c.phases - q.phase) * 128 - q.step
    ∃ t : State, exec (.engineCommandCompletion a c.seq) s = .next t ∧ t.time = max s.time (c.started + n)
      ∧ (t.quadAt a).sett = (settSteps c.phases n q (s.settArray a)).1
      ∧ (∀ k, k < 16384 → cellAt t a k = (settSteps c.phases n q (s.settArray a)).2.getD k { pad := true, bits := 0, pos := 0 })
      ∧ (∀ b k, b ≠ a → k < 16384 → cellAt t b k = cellAt s b k) ∧ Left s t a c ∧ t.mem = s.mem)

/-- n bytes at an offset of a quad's scratchpad. -/
def padBytes (t : State) (a off n : Nat) : Nat := t.mem.readLe (padAddr a off) n

/-- Two ranges of offsets are apart. -/
def Apart (x n y m : Nat) : Prop := x + n ≤ y ∨ y + m ≤ x

/-- A byte of memory that lies in none of the ranges of a quad's scratchpad listed. -/
def OutsidePads (a x : Nat) (l : List (Nat × Nat)) : Prop := ∀ r ∈ l, x < padAddr a r.1 ∨ padAddr a r.1 + r.2 ≤ x

/-- The offset of row i of an `MLD` or `MST`. -/
def rowOff (m : MatOp) (i : Nat) : Nat := m.a.toNat + i * (m.pitch.extractLsb' 0 32).toNat

/-- An element of a bank as `MST` converts it (R97, R99, R275), and the draw of its generator for it (R100). -/
def storedElem (m : MatOp) (x u : Nat) : Nat × FFlags :=
  if m.sint && !typeFloat m.ft then fitInt (intOf x 4) m.ft m.ssat
  else roundTo (if m.sint then Num.ofInt (intOf x 4) else decodeFloat x 8) m.ft m.srnd m.ssat u
def storedDraw (c : Cmd) (m : MatOp) (i j : Nat) : Nat := if m.srnd = 5 then genDraw (genStep^[i * m.en + j + 1] c.gen) else 0

/-- The rows and the status word of an `MST` lie in the scratchpad, apart from one another. -/
structure StoreFits (m : MatOp) : Prop where
  bank : InBank m
  word : m.b.toNat + 4 ≤ 2 ^ 22
  rows : ∀ i, i < m.em → rowOff m i + m.rowBytes ≤ 2 ^ 22
  apart : ∀ i, i < m.em → Apart (rowOff m i) m.rowBytes m.b.toNat 4
  pitch : m.em ≤ 1 ∨ m.rowBytes ≤ (m.pitch.extractLsb' 0 32).toNat

/-- R263, R275, R280: what `MST` and `SSTORE` leave when they finish, shown without a barrier. `MST` stores each element of the placed region,
converted, and then its status word: DONE, the bank flags, the conditions of the conversions, NaN where a stored element is one. `SSTORE` stores
its cells in row-major order, or along the snake, and where asked for their positions, 0xFFFF for a pad. Nothing else of memory changes. -/
def Parts.StoreCommandsFinish : Prop :=
  (∀ s a c m, Runs s a c → c.bb = none → c.op = .mst m → StoreFits m →
    let elem (i j : Nat) := storedElem m (bankElem s a m.bank (m.row0 + i) (m.col0 + j)).toNat (storedDraw c m i j)
    ∃ t : State, exec (.engineCommandCompletion a c.seq) s = .next t
      ∧ (∀ i j, i < m.em → j < m.en →
        padBytes t a (rowOff m i) m.rowBytes / 2 ^ (typeBits m.ft * j) % 2 ^ typeBits m.ft = (elem i j).1 % 2 ^ typeBits m.ft)
      ∧ (let w := padBytes t a m.b.toNat 4
        w.testBit 31 = true ∧ (∀ k, 7 ≤ k → k < 31 → w.testBit k = false)
          ∧ ∀ k, k < 7 → (w.testBit k = true ↔ bankFlag s a m k = true ∨ ∃ i j, i < m.em ∧ j < m.en
            ∧ ((tileFlags (elem i j).2).getLsbD k = true ∨ k = 5 ∧ isNanPattern (elem i j).1 m.ft = true)))
      ∧ (∀ x, OutsidePads a x ((m.b.toNat, 4) :: (List.range m.em).map fun i => (rowOff m i, m.rowBytes)) → t.mem.read x = s.mem.read x)
      ∧ t.acc = s.acc ∧ Left s t a c)
  ∧ (∀ s a c dst n pos hasPos raw, Runs s a c → c.bb = none → c.op = .sstore dst n pos hasPos raw → n ≤ 16384 → dst + 8 * n ≤ 2 ^ 22 →
    (hasPos = true → pos + 2 * n ≤ 2 ^ 22 ∧ Apart dst (8 * n) pos (2 * n)) →
    let cell (k : Nat) := (s.settArray a).getD (if raw then k else 128 * (k / 128) + (if k / 128 % 2 = 0 then k % 128 else 127 - k % 128))
      { pad := true, bits := 0, pos := 0 }
    let full (k : Nat) : Prop := (s.quadAt a).sett.loaded = true ∧ (cell k).pad = false
    ∃ t : State, exec (.engineCommandCompletion a c.seq) s = .next t
      ∧ (∀ k, k < n → (full k → padBytes t a (dst + 8 * k) 8 = (cell k).bits.toNat) ∧ (¬full k → padBytes t a (dst + 8 * k) 8 = 0))
      ∧ (hasPos = true → ∀ k, k < n → (full k → padBytes t a (pos + 2 * k) 2 = (cell k).pos % 2 ^ 16)
        ∧ (¬full k → padBytes t a (pos + 2 * k) 2 = 0xFFFF))
      ∧ (∀ x, OutsidePads a x ((dst, 8 * n) :: if hasPos then [(pos, 2 * n)] else []) → t.mem.read x = s.mem.read x)
      ∧ t.sett = s.sett ∧ Left s t a c)

/-- A landing of n bytes at a byte barrier (R265): the arrivals modulo the expected count, which turn the phase as often as they pass it. -/
def CountsBytes (s t : State) (a off n : Nat) : Prop :=
  let b := barrierBytes s a off
  let e := b % 2 ^ 32
  let x := b / 2 ^ 32 % 2 ^ 32 + n
  barrierBytes t a off % 2 ^ 32 = e ∧ barrierBytes t a off / 2 ^ 65 = b / 2 ^ 65
    ∧ (e ≠ 0 → barrierBytes t a off / 2 ^ 32 % 2 ^ 32 = x % e ∧ (barrierBytes t a off).testBit 64 = (b.testBit 64 != (x / e % 2 == 1)))
    ∧ (e = 0 → barrierBytes t a off / 2 ^ 32 % 2 ^ 32 = x % 2 ^ 32 ∧ (barrierBytes t a off).testBit 64 = b.testBit 64)

/-- R263, R265, R294: a command with a barrier counts its bytes there as it leaves: 4 for an element that a matrix command writes, the whole array of
`SLOAD` and `SSORT`, the bytes that `MST` and `SSTORE` store, the status word with them, and 4 for a marker that the unit has released. -/
def Parts.FinishedCommandsCountTheirBytes : Prop :=
  (∀ s a c off, Runs s a c → c.bb = some off → BarrierPlace off →
    let counts (n : Nat) : Prop := ∃ t : State, exec (.engineCommandCompletion a c.seq) s = .next t ∧ Left s t a c ∧ CountsBytes s t a off n
    (∀ m, c.op = .mzero m ∨ c.op = .mld m ∨ c.op = .mma m ∧ m.joint = false → counts (4 * m.em * m.en))
    ∧ (∀ src n, c.op = .sload src n → counts 131072)
    ∧ (∀ ty desc canz nph, c.op = .ssort ty desc canz nph → counts 131072)
    ∧ (∀ m, c.op = .mst m → StoreFits m → Apart m.b.toNat 4 off 16 → (∀ i, i < m.em → Apart (rowOff m i) m.rowBytes off 16) →
      counts (m.em * m.rowBytes + 4))
    ∧ (∀ dst n pos hasPos raw, c.op = .sstore dst n pos hasPos raw → 1 ≤ n → n ≤ 16384 → dst + 8 * n ≤ 2 ^ 22 → Apart dst (8 * n) off 16 →
      (hasPos = true → pos + 2 * n ≤ 2 ^ 22 ∧ Apart pos (2 * n) off 16) → (s.quadAt a).sett.lostLatch = false →
      counts (8 * n + if hasPos then 2 * n else 0)))
  ∧ (∀ s a c off, a < 192 → (s.quadAt a).cmdOf c.seq = some c → c.op = .marker → c.state = .queued → c.held = false →
    (s.quadAt a).phase = .running → (s.quadAt a).released c = true → (∀ id ∈ c.behind, s.accessOut a id = false) → c.bb = some off →
    BarrierPlace off → s.isLost (padAddr a off) = false →
    ∃ t : State, exec (.engineCommandCompletion a c.seq) s = .next t ∧ Left s t a c ∧ CountsBytes s t a off 4)

/-- The command runs, and every other command of the quad stands. -/
def Started (s t : State) (a : Nat) (c : Cmd) : Prop :=
  (∃ d ∈ (t.quadAt a).cmds, d.seq = c.seq ∧ d.state = .running ∧ d.op = c.op ∧ d.started = s.time)
    ∧ ∀ d ∈ (s.quadAt a).cmds, d.seq ≠ c.seq → d ∈ (t.quadAt a).cmds

/-- The unit has released the command (R156), no edge or hold keeps it back (R78, R366), and the accesses that it follows are performed (R155). -/
def Releasable (s : State) (a : Nat) (c : Cmd) : Prop :=
  c.state = .queued ∧ c.held = false ∧ (s.quadAt a).phase = .running ∧ (s.quadAt a).released c = true ∧ ∀ id ∈ c.behind, s.accessOut a id = false

/-- Every other command of the engine that could start is of a launch of lower priority, or of the same priority and younger (R58, R263). -/
def FirstOf (s : State) (c : Cmd) (others : List Cmd) (a : Nat) : Prop :=
  ∀ x ∈ others, x.engine = c.engine → s.startable a x = true → s.cmdPrio c < s.cmdPrio x ∨ s.cmdPrio c = s.cmdPrio x ∧ c.seq < x.seq

/-- R58, R155, R263, R273, R279, R283, R287, R379, R388: an engine that runs nothing starts the oldest command that its unit has released, launches of higher
priority first; a copy that has no piece left leaves; a follow-on starts once its copy has left the unit; a joint operation starts at its four members
together, and members that disagree are retired as soon as all four have issued; a piece of the Hod lands whole once its lines are there: its bytes are
written at its destination and nowhere else. That priority goes before age, which of two launches' joint operations is first, and that a piece lands in
one step, is the model's choice (log entries 28, 31). -/
def Obligations.EnginesStartAndPiecesLand : Prop :=
  (∀ s a e c before after, (s.quadAt a).cmds = before ++ c :: after → (∀ x ∈ before ++ after, x.seq ≠ c.seq) →
    (∀ x ∈ (s.quadAt a).cmds, x.engine = some e → x.state ≠ .running) → FirstOf s c (before ++ after) a →
    c.engine = some e → c.after = none → c.op.isJoint = false → Releasable s a c →
    (∀ ty d z n, c.op = .ssort ty d z n → (s.quadAt a).sett.loaded = true ∧ (s.quadAt a).sett.latched = false) →
    ∃ t : State, exec (.engineCommandStart a e) s = .next t ∧ t.mem = s.mem ∧ t.strands = s.strands
      ∧ (if e = .hod ∧ c.op.piece c.next = none then Left s t a c else Started s t a c))
  ∧ (∀ s a c before after n, (s.quadAt a).cmds = before ++ c :: after → (∀ x ∈ before ++ after, x.seq ≠ c.seq) → c.after = some n →
    (∀ x ∈ (s.quadAt a).cmds, x.engine = some .ashlar → x.state ≠ .running) → FirstOf s c (before ++ after) a → c.engine = some .ashlar →
    c.op.isJoint = false → (∀ ty d z k, c.op ≠ .ssort ty d z k) → Releasable s a c →
    ∃ t : State, exec (.followOnStart a c.seq) s = .next t ∧ Started s t a c ∧ t.mem = s.mem ∧ t.strands = s.strands)
  ∧ (∀ s die bond l rest, s.jointSets die bond = l :: rest → membersAgree l = false →
    ∃ t : State, exec (.jointStart die bond) s = .next t ∧ ∀ x ∈ l, ∀ y ∈ (t.quadAt x.1).cmds, y.seq ≠ x.2.1.seq)
  ∧ (∀ s die bond l rest, s.jointSets die bond = l :: rest → (∀ x ∈ l, s.memberReady x = true) → (∀ y ∈ l :: rest, membersAgree y = true) →
    (∀ y ∈ rest, s.jointPrio l ≤ s.jointPrio y) →
    ∃ t : State, exec (.jointStart die bond) s = .next t ∧ t.mem = s.mem ∧ t.strands = s.strands
      ∧ ∀ x ∈ l, ∃ d ∈ (t.quadAt x.1).cmds, d.seq = x.2.1.seq ∧ d.state = .running)
  ∧ (∀ s a c k p d pa, (s.quadAt a).cmdOf c.seq = some c → c.state = .running → c.engine = some .hod → (s.quadAt a).phase = .running →
    c.op.piece k = some p → c.mayLand k = true → c.refused = [] → c.failed = none → c.bb = none → s.pieceData a c p = .ok d → s.pieceDst a c p = .ok pa →
    s.dstOpen a c.tenant pa = true → s.pieceLines a c p pa d.index = true → PlainStore s pa (s.keyOfAsid c.asid) → pa % 128 + p.len ≤ 128 → 0 < p.len →
    ∃ t : State, exec (.hodPieceLand a c.seq k) s = .next t ∧ t.mem = s.mem.writeLe pa p.len d.val
      ∧ (∀ i, i < p.len → t.mem.read (pa + i) = BitVec.ofNat 8 (d.val / 2 ^ (8 * i)))
      ∧ (∀ x, x < pa ∨ pa + p.len ≤ x → t.mem.read x = s.mem.read x) ∧ t.strands = s.strands)

/-- R260 to R262, R268, R269, R271 to R278, R280, R281, R283 to R285: the instructions of Ashlar, Sett and Hod enter their commands into the footprint unit. -/
def Obligations.EngineInstructionsEnterTheUnit : Prop :=
  Parts.MatrixInstructionsEnterTheUnit ∧ Parts.SortAndCopyInstructionsEnterTheUnit

/-- R263, R265, R270, R272 to R275, R278 to R280, R294: a command that runs finishes with the effect of its instruction, counts its bytes, and leaves the
unit. That its reads are made in the step of its completion is the model's choice (log entry 31). -/
def Obligations.EngineCommandsFinish : Prop :=
  Parts.MatrixCommandsFinish ∧ Parts.JointCommandsFinish ∧ Parts.LoadAndSortCommandsFinish ∧ Parts.StoreCommandsFinish
    ∧ Parts.FinishedCommandsCountTheirBytes

/-! ### System instructions (spec/12_system.md R289 to R302; spec/13_traps_context.md R307, R310, R319 to R323; spec/07_encoding.md R163 to R168) -/

/-- The instruction completes with v in gD, by the rules of one hub or unit; `more` says what else it did. -/
def Answers (i : Instr) (s : State) (st : Strand) (o : EngOps) (v : Word) (more : State → Prop) : Prop :=
  ∃ (t : State) (u : Strand), exec i s = .next t ∧ t.strandAt s.cur = some u ∧ (∀ r, u.getG r = if r = o.d ∧ o.d ≠ 0 then v else st.getG r)
    ∧ u.pw = st.pw ∧ u.masks = st.masks ∧ u.fflags = st.fflags ∧ Kept st u ∧ Flow st u ∧ t.pool = s.pool ∧ more t

/-- Bit 63 and a code. -/
def failure (code : Nat) : Word := BitVec.ofNat 64 (2 ^ 63 + code)

/-- The home, or the hub for host memory, can write n bytes of one line at once: no request is before it, no tile binds the line, no
holder has to be probed, and the horizon has passed (R119, R125). -/
def AtOnce (s : State) (pa n : Nat) : Prop := pa % 128 + n ≤ 128 ∧ s.homeQuiet (pa / 128) true = true

/-- R289, R290, R294: `LAUNCH` posts the record that it read to the ring of an enabled queue of its tenant that has room: the entry at TAIL mod 2^LOGN becomes the
record, once its line is free at the home, TAIL goes up by one, and gD is the old TAIL; a queue that is not enabled, is another tenant's, or is full gives codes 1, 2
and 3 with bit 63, and changes no queue. `TASK` joins the pending pool with gD 0, or gives code 3 where the pool of 512 is full. Both wait for every
earlier access of the strand and its core (R154, R291). `FPDECL`
enters a marker whose regions are those of its descriptors. -/
def Obligations.PostsAndMarkers : Prop :=
  ∀ s st o, Focus s st (engG o) [] →
    let va := ((st.getG o.a).extractLsb' 0 52).toNat
    let n := (st.getG o.b).toNat
    let settled := ∀ a ∈ (s.coreAt (coreOf s.cur)).queue, a.slot ≠ s.cur ∧ a.kind.touches = false
    (va % 64 = 0 → settled → ∀ s1 r, s.loadBlock s.cur st va 64 = .ok s1 st r →
      let q := s1.queueAt n
      (n < 64 →
        (q.enable = false → Answers (.launch o) s st o (failure 1) fun t => t.hub = s.hub ∧ t.mem = s.mem)
        ∧ (q.enable = true → q.tenant.toNat ≠ s.tenantOf st → Answers (.launch o) s st o (failure 2) fun t => t.hub = s.hub ∧ t.mem = s.mem)
        ∧ (q.enable = true → q.tenant.toNat = s.tenantOf st → (q.tail - q.head).toNat = 2 ^ q.logn.toNat →
          Answers (.launch o) s st o (failure 3) fun t => t.hub = s.hub ∧ t.mem = s.mem)
        ∧ (q.enable = true → q.tenant.toNat = s.tenantOf st → (q.tail - q.head).toNat ≠ 2 ^ q.logn.toNat →
          ∀ pa, s1.hubPa q.tenant.toNat q.asid.toNat (q.base.toNat + q.tail.toNat % 2 ^ q.logn.toNat * 64) .write = some pa →
            PlainStore s1 pa (s1.keyOfAsid q.asid.toNat) → AtOnce s1 pa 64 →
            Answers (.launch o) s st o (q.tail.setWidth 64) fun t =>
              t.queueAt n = { q with tail := q.tail + 1, uposted := if st.priv || st.inh then q.uposted else q.uposted ++ [q.tail.toNat] }
              ∧ (∀ k, k ≠ n → t.queueAt k = s.queueAt k) ∧ t.hub.launches = s.hub.launches
              ∧ (∀ i, i < 64 → t.mem.read (pa + i) = BitVec.ofNat 8 (r / 2 ^ (8 * i)))
              ∧ ∀ x, x < pa ∨ pa + 64 ≤ x → t.mem.read x = s.mem.read x))
      ∧ (let pool := (s.hub.launches.filter fun l => l.state == .pending).length + s.hub.tasks.length
        (pool < 512 → Answers (.task o) s st o 0 fun t => t.mem = s.mem ∧ ∃ p, t.hub.tasks = s.hub.tasks ++ [p] ∧ p.record = r
          ∧ p.lid = st.lid ∧ p.tenant = s.tenantOf st ∧ p.asid = s.asidOf st ∧ p.sright = (st.priv || st.inh) ∧ p.tvec = st.tvec)
        ∧ (512 ≤ pool → Answers (.task o) s st o (failure 3) fun t => t.mem = s.mem ∧ t.hub.tasks = s.hub.tasks)))
    ∧ (va % 64 = 0 → ¬settled → (n < 64 → exec (.launch o) s = .next s) ∧ exec (.task o) s = .next s)
    ∧ (NotFatal st → va % 64 ≠ 0 → (n < 64 → TakesTrap (.launch o) s st 0x205 (BitVec.ofNat 64 va)) ∧ TakesTrap (.task o) s st 0x205 (BitVec.ofNat 64 va))
    ∧ (NotFatal st → n < 64 → va % 64 = 0 → settled → ∀ f, s.loadBlock s.cur st va 64 = .trap s st f → f.badpte = false → f.spill = false → f.acc < 4 →
      f.code < 256 → TakesTrap (.launch o) s st (BitVec.ofNat 64 (f.code + 256 * f.acc)) (BitVec.ofNat 64 f.tval))
    ∧ (NotFatal st → 64 ≤ n → TakesTrap (.launch o) s st 3 (BitVec.ofNat 64 st.headValue))
    ∧ (MayEnter s st 1 → BarrierField st o.d → 1 ≤ n → n ≤ 8 → va % 32 = 0 → ∀ s1 d, s.loadBlocks s.cur st 32 n va = .ok s1 st d →
      let ds := (List.range n).map fun i => d / 2 ^ (256 * i) % 2 ^ 256
      ((∀ f ∈ ds, ftOk f = true ∧ s.ftFault (s.ctxOf s.cur st) f = none) →
        Enters (.fpdecl o) s st none .marker (barrierOfField st o.d) (ds.flatMap fun f =>
          s.spanRegion (s.ctxOf s.cur st) (ftBase f) (ftRows f) (ftStride f) (ftLen f) (ftWrite f)) 0 0 false)
      ∧ (NotFatal st → (∃ f ∈ ds, ftOk f = false) → TakesTrap (.fpdecl o) s st 3 (BitVec.ofNat 64 st.headValue)))

/-- R288, R295 to R297, R307, R310, R371: `TRAP` completes and then takes the software trap (cause 0x0F, value X16), from which `ERET` resumes at the head after it; `ERET` is
refused without S rights (cause 0x04) and with INH 0 (cause 0x03), and otherwise clears INH and goes to `sr.epc`[51:0]; `EXIT` waits for
the strand's accesses, then frees its slot and ORs its code into the launch's; a trap with INH 1 or with `sr.tvec` 0 ends the strand as an `EXIT` with 0x80
does, with TRAP and FATAL of the tenant counted. -/
def Obligations.TrapsReturnsAndExits : Prop :=
  ∀ s st o, Focus s st [] [] →
    (NotFatal st → (∀ l ∈ st.loops, l.finish ≠ st.pc) → ∃ (t : State) (u : Strand), exec (.trap o) s = .next t ∧ t.strandAt s.cur = some u
      ∧ u.cause = 0x0F ∧ u.tval = o.x.setWidth 64 ∧ u.epc = st.nextHead.setWidth 64 ∧ u.inh = true ∧ u.pc = st.tvec.setWidth 52
      ∧ u.priv = st.priv ∧ u.g = st.g ∧ u.pw = st.pw ∧ u.masks = st.masks ∧ u.fflags = st.fflags ∧ u.rf = st.rf ∧ u.ls = st.ls
      ∧ u.loops = st.loops ∧ u.lc = st.lc ∧ u.gen = st.gen ∧ u.rrec = st.rrec ∧ t.mem = s.mem ∧ t.pool = s.pool
      ∧ t.cur = s.cur ∧ ∃ w x, exec (.eret o) t = .next w ∧ w.strandAt s.cur = some x ∧ x.pc = st.nextHead ∧ x.inh = false
        ∧ x.g = st.g ∧ x.pw = st.pw)
    ∧ (NotFatal st → st.priv = false → TakesTrap (.eret o) s st 4 (BitVec.ofNat 64 st.headValue))
    ∧ (NotFatal st → st.priv = true → TakesTrap (.eret o) s st 3 (BitVec.ofNat 64 st.headValue))
    ∧ (st.inh = true → ∃ (t : State) (u : Strand), exec (.eret o) s = .next t ∧ t.strandAt s.cur = some u ∧ u.pc = st.epc.setWidth 52 ∧ u.inh = false
      ∧ u.priv = st.priv ∧ u.tvec = st.tvec ∧ u.epc = st.epc ∧ u.cause = st.cause ∧ u.tval = st.tval ∧ u.g = st.g ∧ u.pw = st.pw
      ∧ u.masks = st.masks ∧ u.fflags = st.fflags ∧ u.loops = st.loops ∧ u.lc = st.lc ∧ u.rf = st.rf ∧ u.ls = st.ls ∧ t.pool = s.pool
      ∧ Outside s t)
    ∧ ((∀ a ∈ (s.coreAt (coreOf s.cur)).queue, a.slot ≠ s.cur) →
      (∃ t : State, exec (.exit o) s = .next t ∧ t.strandAt s.cur = none ∧ (∀ k, k ≠ s.cur → coreOf k ≠ coreOf s.cur → t.strandAt k = s.strandAt k)
        ∧ t.mem = s.mem ∧ t.quads = s.quads
        ∧ ∀ l, s.launchOf st.lid = some l → ∃ m, t.launchOf st.lid = some m ∧ m.xcode = l.xcode ||| o.x.extractLsb' 0 8
          ∧ m.lostSeen = (l.lostSeen || st.lost != 0))
      ∧ (¬NotFatal st → s.tenantOf st < 64 → ∃ t : State, exec (.trap o) s = .next t ∧ t.strandAt s.cur = none
        ∧ (∀ l, s.launchOf st.lid = some l → ∃ m, t.launchOf st.lid = some m ∧ m.xcode = l.xcode ||| 0x80)
        ∧ (SMap.get FaultQueue.reset t.hub.faultQueues (s.tenantOf st)).count =
          (SMap.get FaultQueue.reset s.hub.faultQueues (s.tenantOf st)).count + 1
        ∧ (∀ k, (s.counterAt (execCounter (s.tenantOf st) k)).count = 0 → (k = 0 ∨ k = 8) →
          (t.counterAt (execCounter (s.tenantOf st) k)).count = 1)))
    ∧ ((∃ a ∈ (s.coreAt (coreOf s.cur)).queue, a.slot = s.cur) → exec (.exit o) s = .next s)

/-- R288, R299 to R302, R323: `PHINT` sets the register record, or a slot of the quad's scratchpad record; `TLBINV` leaves no translation of the strand's ASID that it names in any TLB;
`FACK` continues a stopped Hod command or retires it, reports an unknown job with code 1 and one on a quad that its tenant no longer holds with code 2, and waits while
Lintel has the quad, which is the model's choice, as is that an empty staged range reads no descriptor (log entry 25). Without S rights `TLBINV` and `FACK` take
the privilege trap (cause 0x04). -/
def Obligations.HintsInvalidationAndAcknowledgement : Prop :=
  ∀ s st o,
    (Focus s st [] [] → (o.hi.getD 0).toNat < 2 ^ st.vcount → ∃ (t : State) (u : Strand), exec (.phintRegisters o) s = .next t ∧ t.strandAt s.cur = some u
      ∧ u.rrec = some (o.x, o.hi.getD 0) ∧ u.g = st.g ∧ u.pw = st.pw ∧ u.masks = st.masks ∧ u.fflags = st.fflags ∧ Kept st u ∧ Flow st u
      ∧ t.pool = s.pool ∧ Outside s t)
    ∧ (Focus s st [] [] → NotFatal st → 2 ^ st.vcount ≤ (o.hi.getD 0).toNat →
      TakesTrap (.phintRegisters o) s st 3 (BitVec.ofNat 64 st.headValue))
    ∧ (Focus s st (engG o) [] → HoldsQuad s st →
      let lo := (st.getG o.a).toNat
      let n := (st.getG o.b).toNat
      let k := (o.x.extractLsb' 0 3).toNat
      lo % 128 = 0 → n % 128 = 0 → lo + n ≤ 2 ^ 22 → (o.x.getLsbD 3 = true ∨ o.c = 0) →
      let sets (e : Option PhintSlot) : Prop := ∃ (t : State) (u : Strand), exec (.phintRange o) s = .next t ∧ t.strandAt s.cur = some u
        ∧ SMap.find (t.quadAt (quadHere s)).phint k = e
        ∧ (∀ j, j ≠ k → SMap.find (t.quadAt (quadHere s)).phint j = SMap.find (s.quadAt (quadHere s)).phint j)
        ∧ u.g = st.g ∧ u.pw = st.pw ∧ u.fflags = st.fflags ∧ u.rrec = st.rrec ∧ Kept st u ∧ Flow st u ∧ t.mem = s.mem ∧ t.pool = s.pool
      (n = 0 → sets none)
      ∧ (n ≠ 0 → o.x.getLsbD 3 = false → sets (some { offset := lo, len := n, ro := false, desc := 0, asid := 0, lid := 0, ord := 0, sright := false }))
      ∧ (n ≠ 0 → o.x.getLsbD 3 = true → ∀ s1 d, ((st.getG o.c).extractLsb' 0 52).toNat % 64 = 0 →
        s.loadBlock s.cur st ((st.getG o.c).extractLsb' 0 52).toNat 64 = .ok s1 st d → CopyLegal d → TagLegal d →
        s.stageInside (s.ctxOf s.cur st) lo (lo + n) d = true →
        sets (some { offset := lo, len := n, ro := true, desc := d, asid := s.asidOf st, lid := st.lid, ord := s.ordinalOf st, sright := st.priv || st.inh })))
    ∧ (Focus s st (engG o) [] → (st.priv || st.inh) = true →
      (∀ a ∈ (s.coreAt (coreOf s.cur)).queue, a.slot ≠ s.cur ∧ a.kind.touches = false) → s.asidBusy (s.asidOf st) = false →
      ∃ (t : State) (u : Strand), exec (.tlbinv o) s = .next t ∧ t.strandAt s.cur = some u ∧ u.g = st.g ∧ u.pw = st.pw ∧ u.masks = st.masks ∧ u.fflags = st.fflags
        ∧ Kept st u ∧ Flow st u ∧ t.mem = s.mem ∧ t.pool = s.pool
        ∧ ∀ k e, (e ∈ SMap.get [] t.utlb k ∨ e ∈ SMap.get [] t.qtlb k) → e.asid = s.asidOf st → o.x.getLsbD 0 = false
          ∧ e.page ≠ ((st.getG o.a).extractLsb' 0 52).toNat / 2 ^ (if e.level = 1 then 29 else 16))
    ∧ (Focus s st (engG o) [] → (st.priv || st.inh) = true → (st.getG o.a).toNat < 2 ^ 32 →
      let away (a : Nat) : Prop := (s.quadAt a).phase ≠ .running ∧ ∀ n, (s.quadAt a).phase ≠ .stopped n
      (s.findJob (s.tenantOf st) (st.getG o.a).toNat = none → s.savedJob (s.tenantOf st) (st.getG o.a).toNat = none →
        WritesG (.fack o) s st o.d (failure 1) 0)
      ∧ (∀ a, s.findJob (s.tenantOf st) (st.getG o.a).toNat = none → s.savedJob (s.tenantOf st) (st.getG o.a).toNat = some a →
        (s.holdsQuad (s.tenantOf st) a = false → WritesG (.fack o) s st o.d (failure 2) 0)
        ∧ (s.holdsQuad (s.tenantOf st) a = true → away a → exec (.fack o) s = .next s))
      ∧ (∀ a c, s.findJob (s.tenantOf st) (st.getG o.a).toNat = some (a, c) →
        (s.holdsQuad (s.tenantOf st) a = false → WritesG (.fack o) s st o.d (failure 2) 0)
        ∧ (s.holdsQuad (s.tenantOf st) a = true → away a → exec (.fack o) s = .next s)
        ∧ (s.holdsQuad (s.tenantOf st) a = true → ¬away a → c.engine = some .hod → o.x.getLsbD 0 = false → (s.quadAt a).cmdOf c.seq = some c →
          Answers (.fack o) s st o 0 fun t => (t.quadAt a).cmdOf c.seq = some { c with state := .queued } ∧ t.mem = s.mem)
        ∧ (s.holdsQuad (s.tenantOf st) a = true → ¬away a → o.x.getLsbD 0 = true →
          Answers (.fack o) s st o 0 fun t => (t.quadAt a).cmdOf c.seq = none
            ∧ ∀ l, s.launchOf c.lid = some l → ∃ m, t.launchOf c.lid = some m ∧ m.abandoned = true)))
    ∧ (Focus s st (engG o) [] → NotFatal st → st.priv = false → TakesTrap (.tlbinv o) s st 4 (BitVec.ofNat 64 st.headValue)
      ∧ ((st.getG o.a).toNat < 2 ^ 32 → TakesTrap (.fack o) s st 4 (BitVec.ofNat 64 st.headValue)))

/-- R163, R165, R168, R320, R323: a legal line that holds the head at the program counter enters the strand's fetch buffer, from the instruction cache or loop buffer or from
memory, and the core holds code of device and host memory, but not what it reads from another window (R112, R165); an illegal
line, or an address that is no head of it, is the illegal-line trap (cause 0x01) at that address; a line that the quad lacks is asked for; a
fetch that faults carries access kind 1. A page walk that succeeds is held by the quad's TLB, and one that fails is not; one that would read an
entry in a line that a host holds in O has the line recalled (R134; log entry 34).
What the loop buffer keeps is the model's choice (log entry 7). -/
def Obligations.LinesAreFetchedAndWalksAreHeld : Prop :=
  (∀ s slot st pa e, s.strandAt slot = some st → st.fetch = none →
    let a := st.pc.toNat / 64 * 64
    let c := s.ctxOf slot st
    let l : Line := match s.heldCode (coreOf slot) pa with
      | some l => l
      | none => BitVec.ofNat 512 (s.mem.readLe pa 64)
    s.physOf c a .fetch = .ok (pa, e) → PlainStore s pa (s.keyOfAsid (s.asidOf st)) → isControl pa = false → pa % 128 + 64 ≤ 128 →
    let atHand : Prop := (s.heldCode (coreOf slot) pa).isSome ∨ s.lineReady c.agent pa c.tenant (s.keyOfAsid c.asid) false = true
    (atHand → (checkLine l).isOk = true → st.pc.toNat % 2 = 0 → st.pc.toNat % 64 ≠ 0 → (st.pc.toNat % 64 - 2) / 2 < lineHeadCount l →
      ∃ t : State, exec (.instructionLineFetch slot) s = .next t ∧ t.strandAt slot = some { st with fetch := some (BitVec.ofNat 52 a, l) }
        ∧ t.heldCode (coreOf slot) pa = (if (isDevice pa || isHostMem pa || (s.heldCode (coreOf slot) pa).isSome) = true then some l else none) ∧ (∀ k, k ≠ slot → t.strandAt k = s.strandAt k) ∧ t.mem = s.mem)
    ∧ (¬atHand → ∃ t : State, exec (.instructionLineFetch slot) s = .next t ∧ t.strands = s.strands ∧ t.mem = s.mem)
    ∧ (atHand → (checkLine l).isOk = false ∨ st.pc.toNat % 2 = 1 ∨ st.pc.toNat % 64 = 0 ∨ lineHeadCount l ≤ (st.pc.toNat % 64 - 2) / 2 → NotFatal st →
      ∃ (t : State) (u : Strand), exec (.instructionLineFetch slot) s = .next t ∧ t.strandAt slot = some u ∧ u.cause = 1 ∧ u.tval = st.pc.setWidth 64
        ∧ u.epc = st.pc.setWidth 64 ∧ u.inh = true ∧ u.pc = st.tvec.setWidth 52 ∧ u.g = st.g ∧ t.mem = s.mem))
  ∧ (∀ s slot st f, s.strandAt slot = some st → st.fetch = none → NotFatal st →
    s.physOf (s.ctxOf slot st) (st.pc.toNat / 64 * 64) .fetch = .error f → f.badpte = false → f.spill = false → f.acc = 1 → f.code < 256 →
      ∃ (t : State) (u : Strand), exec (.instructionLineFetch slot) s = .next t ∧ t.strandAt slot = some u ∧ u.cause = BitVec.ofNat 64 (f.code + 256)
        ∧ u.tval = BitVec.ofNat 64 f.tval ∧ u.epc = st.pc.setWidth 64 ∧ u.inh = true ∧ u.pc = st.tvec.setWidth 52 ∧ u.g = st.g)
  ∧ (∀ s agent asid va, (∀ e ∈ SMap.get [] s.qtlb agent, e.covers asid va = false) →
    (∀ l e, s.walkHeld asid va = none → s.walk asid va = .ok (l, e) → ∃ t : State, exec (.pageWalk agent asid va) s = .next t ∧ t.mem = s.mem ∧ t.strands = s.strands
      ∧ SMap.get [] t.qtlb agent = { asid := asid, level := l, page := va / 2 ^ (if l = 1 then 29 else 16), entry := BitVec.ofNat 64 e }
          :: SMap.get [] s.qtlb agent
      ∧ ∀ k, k ≠ agent → SMap.get [] t.qtlb k = SMap.get [] s.qtlb k)
    ∧ (∀ f, s.walkHeld asid va = none → s.walk asid va = .error f → exec (.pageWalk agent asid va) s = .next s)
    ∧ (∀ p, s.walkHeld asid va = some p → exec (.pageWalk agent asid va) s = .next (s.recallLines [lineOf p]).1))

/-! ### Home dies and hosts (spec/05_storage_coherence.md R115 to R136; spec/14_host_peer.md R325; spec/22_faults_memory.md R389, R394, R396) -/

/-- An event outside the cores and the quads leaves every strand, register, accumulator, cell, barrier and byte of memory. -/
structure Quiet (s t : State) : Prop where
  memory : t.mem = s.mem
  cores : t.strands = s.strands ∧ t.cores = s.cores ∧ t.pool = s.pool ∧ t.localMem = s.localMem
  quads : t.quads = s.quads ∧ t.acc = s.acc ∧ t.sett = s.sett ∧ t.barriers = s.barriers

/-- n bytes of memory hold a number from an address up, and every other byte stands. -/
def Holds (s t : State) (pa n v : Nat) : Prop :=
  (∀ i, i < n → t.mem.read (pa + i) = BitVec.ofNat 8 (v / 2 ^ (8 * i))) ∧ ∀ x, x < pa ∨ pa + n ≤ x → t.mem.read x = s.mem.read x

/-- A line's list, of which the home's ingress holds nothing back (R122, R123). -/
def Queued (s : State) (line : Nat) (l : List Request) : Prop := s.reqsAt line = l ∧ ∀ x ∈ s.homes.ingress, x.1 ≠ line

/-- The lines of the region whose owners must be sharers before the entry records an agent for the line (R118). -/
def recallsOf (s : State) (line agent : Nat) (own : Bool) : List Nat := (s.dirAt (line / 4)).recalls agent (line % 4) own

/-- A request at the head that has not begun, and no place of an operation on several lines that is its own stands behind it. -/
structure Unbegun (s : State) (line : Nat) (r : Request) (rest : List Request) : Prop where
  queue : Queued s line (r :: rest)
  phase : r.phase = .waiting ∨ r.phase = .held
  alone : ∀ x ∈ rest, x.kind = .part → x.no ≠ r.no

/-- A request of a quad's L2 stands at the head of the list of a line of device memory that is neither lost nor bound to a tile, and its slice
has a way for the region (R115, R122). -/
structure AtHead (s : State) (line : Nat) (r : Request) (rest : List Request) : Prop where
  unbegun : Unbegun s line r rest
  agent : r.agent < 192
  device : isDevice (128 * line) = true ∧ s.isLost (128 * line) = false
  loose : s.tileOf line = none
  room : (SMap.find s.homes.dir (line / 4)).isSome ∨ s.homes.dir.length < 8

/-- The quad's L2 holds a copy for the request. One that is new is in no L1 and unmodified, and one that the tenant held already stays present
where it was (R113). -/
def HasCopy (s t : State) (r : Request) (line : Nat) (st : CopyState) : Prop :=
  ∃ c, t.copyAt r.agent line = some c ∧ c.st = st ∧ c.tenant = r.tenant ∧ c.key = r.key
    ∧ (s.copyAt r.agent line = none → c.presence = 0 ∧ c.modified = none)
    ∧ ∀ old, s.copyAt r.agent line = some old → old.tenant = r.tenant → old.key = r.key → c.presence = old.presence

/-- A line of a region, its owner and its holders as the directory records them (R116, R117). -/
def homeLine (s : State) (line : Nat) : LineState := (s.dirAt (line / 4)).line (line % 4)
def homeOwner (s : State) (line : Nat) : Option Nat := (s.dirAt (line / 4)).ownerOf (line % 4)
def homeHolders (s : State) (line : Nat) : List Nat := (s.dirAt (line / 4)).holders (line % 4)

/-- The head request waits for n answers to the probes sent. -/
def Probes (s t : State) (line : Nat) (r : Request) (rest : List Request) (agents : List Nat) (invalidate : Bool) : Prop :=
  t.reqsAt line = { r with phase := .probing agents.length } :: rest
    ∧ t.homes.probes = s.homes.probes ++ agents.map fun a => { agent := a, line := line, invalidate := invalidate, sent := s.time }

/-- The holders that a write takes the line from (R119). -/
def otherHolders (s : State) (line agent : Nat) : List Nat :=
  match homeLine s line with
  | .S => (homeHolders s line).filter (· != agent)
  | .O => (homeHolders s line).filter (· != agent)
  | _ => []

/-- The line's state and its holders are recorded as they were. -/
def SameLine (s t : State) (line : Nat) : Prop :=
  homeLine t line = homeLine s line ∧ (homeLine s line ≠ .I → homeHolders t line = homeHolders s line)

/-- The request is held, and the recalls that it needs stand in the lists of the lines that they are for. -/
def Recalls (s t : State) (line : Nat) (r : Request) (rest : List Request) (lines : List Nat) : Prop :=
  Quiet s t ∧ t.reqsAt line = { r with phase := .held } :: rest
    ∧ ∀ i ∈ lines, ∃ x ∈ t.reqsAt (4 * (line / 4) + i), x.kind = .recall

/-- R117 to R119, R124, R125, R127, R394: how a home serves the request at the head of a line's list. A `GetS` with no other owner is granted S with the requester added; a
`GetL` a leased copy that ends 8 cycles before its class's time, or its data alone where that time has passed, with the horizon raised and no
holder recorded; a `GetO` waits for an invalidation of every other holder, then for the horizon, and is granted O alone. Another agent's O
line is recalled first, and so are the other owners of a region whose entry is or turns coarse. None of this changes memory or a register.
Which of several owners a coarse entry goes on naming is the model's choice (log entry 7). -/
def Parts.RequestsAreGranted : Prop :=
  (∀ s line r rest, AtHead s line r rest →
    (r.kind = .getS → homeOwner s line = none → recallsOf s line r.agent false = [] → ∃ t : State, exec (.gets line) s = .next t ∧ Quiet s t
      ∧ t.reqsAt line = rest ∧ homeLine t line = .S ∧ r.agent ∈ homeHolders t line ∧ HasCopy s t r line .shared)
    ∧ (r.kind = .getS → homeOwner s line = none → recallsOf s line r.agent false ≠ [] → ∃ t : State, exec (.gets line) s = .next t
      ∧ Recalls s t line r rest (recallsOf s line r.agent false))
    ∧ (r.kind = .getS → ∀ y, homeOwner s line = some y → y ≠ r.agent → ∃ t : State, exec (.gets line) s = .next t ∧ Quiet s t
      ∧ Probes s t line r rest [y] false)
    ∧ (∀ c, r.kind = .getL c → s.sys.alarm = false → homeOwner s line = none → ∃ t : State, exec (.getl line) s = .next t ∧ Quiet s t
      ∧ t.reqsAt line = rest ∧ s.time + 2 ^ (c.toNat + 6) ≤ t.horizonOf line ∧ SameLine s t line
      ∧ (r.issued + 2 ^ (c.toNat + 6) - 8 ≤ s.time → t.answered r.agent line r.tenant r.key false = true)
      ∧ (s.time < r.issued + 2 ^ (c.toNat + 6) - 8 → s.copyAt r.agent line = none → HasCopy s t r line (.leased (r.issued + 2 ^ (c.toNat + 6) - 8))))
    ∧ (∀ c y, r.kind = .getL c → s.sys.alarm = false → homeOwner s line = some y → y ≠ r.agent → ∃ t : State, exec (.getl line) s = .next t
      ∧ Quiet s t ∧ Probes s t line r rest [y] false)
    ∧ (∀ w, r.kind = .getO w →
      let others := otherHolders s line r.agent
      (others ≠ [] → ∃ t : State, exec (.geto line) s = .next t ∧ Quiet s t ∧ Probes s t line r rest others true)
      ∧ (others = [] → recallsOf s line r.agent true ≠ [] → homeLine s line ≠ .O → ∃ t : State, exec (.geto line) s = .next t
        ∧ Recalls s t line r rest (recallsOf s line r.agent true))
      ∧ (others = [] → recallsOf s line r.agent true = [] → s.horizonOf line ≤ s.time → ∃ t : State, exec (.geto line) s = .next t ∧ Quiet s t
        ∧ t.reqsAt line = rest ∧ homeOwner t line = some r.agent ∧ HasCopy s t r line .owned ∧ ∀ b, b ≠ r.agent → t.copyAt b line = none)
      ∧ (others = [] → recallsOf s line r.agent true = [] → s.time < s.horizonOf line → ∃ t : State, exec (.geto line) s = .next t ∧ Quiet s t
        ∧ t.reqsAt line = { r with phase := .horizon } :: rest)))
  ∧ (∀ s line r rest w, Queued s line (r :: rest) → (∀ x ∈ rest, x.kind = .part → x.no ≠ r.no) → r.phase = .horizon → r.kind = .getO w →
    r.agent < 192 → isDevice (128 * line) = true → s.isLost (128 * line) = false → recallsOf s line r.agent true = [] → ∃ t : State, exec (.horizonExpiry line) s = .next t ∧ Quiet s t
      ∧ t.time = max s.time (s.horizonOf line) ∧ t.reqsAt line = rest ∧ homeOwner t line = some r.agent
      ∧ (∃ c, t.copyAt r.agent line = some c ∧ c.st = .owned ∧ c.tenant = r.tenant ∧ c.key = r.key) ∧ ∀ b, b ≠ r.agent → t.copyAt b line = none)

/-- R131, R132: a request of another agent for a bound line demotes its tile, once every other bound line is free for it and no other owner has
to be recalled; until then the request is held, MOVING is set, and the operation has its place in the list of every other bound line. A
`GetS` of the holder's brings the whole tile to its L2. -/
def Parts.TilesFollowRequests : Prop :=
  ∀ s line r rest tid x, s.reqsAt line = r :: rest → (r.phase = .waiting ∨ r.phase = .held) → r.kind = .getS → isDevice (128 * line) = true →
    s.tileOf line = some (tid, x) →
    (s.tileBusy x line r.no = true → ∃ t : State, exec (.gets line) s = .next t ∧ Quiet s t ∧ t.reqsAt line = { r with phase := .held } :: rest
      ∧ SMap.find t.homes.tiles tid = some { x with moving := true }
      ∧ ∀ l ∈ x.lines, l ≠ line → ∃ y ∈ t.reqsAt l, y.kind = .part ∧ y.no = r.no)
    ∧ (s.tileBusy x line r.no = false → x.holder ≠ r.agent → s.demoteRecalls tid x = [] → ∃ t : State, exec (.gets line) s = .next t ∧ t.mem = s.mem
      ∧ SMap.find t.homes.tiles tid = none)
    ∧ (s.tileBusy x line r.no = false → x.holder = r.agent → (∀ l ∈ x.lines, ∀ y ∈ s.reqsAt l, y.kind = .part → y.no = r.no) → s.isLost (128 * line) = false → x.present = false → (x.own = false ∨ s.tileHorizon x ≤ s.time) →
      ∃ t : State, exec (.gets line) s = .next t ∧ Quiet s t ∧ SMap.find t.homes.tiles tid = some { x with present := true, moving := false })

/-- R119, R122, R125: a write by a party that holds no copies, at its turn at the home, takes the line from every holder, waits for the horizon
as a `GetO` does, and then writes its bytes and no others. -/
def Parts.HomeWritesTakeTheirTurn : Prop :=
  ∀ s line r rest w, Unbegun s line r rest → r.agent = 255 → r.kind = .homeWrite w → w.pa / 128 = line →
    isDevice w.pa = true → s.tileOf line = none → ((SMap.find s.homes.dir (line / 4)).isSome ∨ s.homes.dir.length < 8) → PlainStore s w.pa w.key →
    let others := otherHolders s line r.agent
    (others ≠ [] → ∃ t : State, exec (.geto line) s = .next t ∧ Quiet s t ∧ Probes s t line r rest others true)
    ∧ (others = [] → s.time < s.horizonOf line → ∃ t : State, exec (.geto line) s = .next t ∧ Quiet s t
      ∧ t.reqsAt line = { r with phase := .horizon } :: rest)
    ∧ (others = [] → s.horizonOf line ≤ s.time → ∃ t : State, exec (.geto line) s = .next t ∧ t.strands = s.strands ∧ t.reqsAt line = rest
      ∧ Holds s t w.pa w.bytes w.val ∧ ∀ b, t.copyAt b line = none)

/-- R117 to R119, R122, R124, R125, R127, R131, R132, R394: the request at the head of a line's list. -/
def Obligations.HomesServeTheirRequests : Prop :=
  Parts.RequestsAreGranted ∧ Parts.TilesFollowRequests ∧ Parts.HomeWritesTakeTheirTurn

/-- R119 to R121, R124, R389: what an agent that receives a probe does, and how the home counts the answers. An invalidation drops the copy, a recall leaves it clean, and each
is answered once; a write-back in flight answers for its line, and completes the answer when it comes to the home. An isolated agent's probe goes
unanswered. A write-back at the head frees an O line, a clean notice removes its
sender. A leased copy is invalid from its expiry on. An agent that has not answered for 2^20 cycles is isolated. -/
def Obligations.AgentsAnswerTheHome : Prop :=
  (∀ s a line p, s.probeOf a line = some p → a < 200 →
    let kind : AnswerKind := if s.anyReq line (Request.isPutO a) then .writeBack
      else if (s.copyAt a line).isSome then .invalidated else .notPresent
    (a ∈ s.homes.isolated → exec (.invalidation a line) s = .next s ∧ exec (.recall a line) s = .next s)
    ∧ (a ∉ s.homes.isolated → p.invalidate = true → ∃ t : State, exec (.invalidation a line) s = .next t ∧ Quiet s t ∧ t.copyAt a line = none ∧ t.probeOf a line = none
      ∧ t.homes.answers = s.homes.answers ++ [{ agent := a, line := line, kind := kind, invalidate := true }])
    ∧ (a ∉ s.homes.isolated → p.invalidate = false → ∃ t : State, exec (.recall a line) s = .next t ∧ Quiet s t ∧ t.probeOf a line = none
      ∧ t.homes.answers = s.homes.answers ++ [{ agent := a, line := line, kind := kind, invalidate := false }]
      ∧ ∀ c, s.copyAt a line = some c → t.copyAt a line = some { c with st := .shared, modified := none })
    ∧ (∃ t : State, exec (.agentUnresponsive a line) s = .next t ∧ t.time = max s.time (p.sent + 2 ^ 20) ∧ a ∈ t.homes.isolated
      ∧ t.strands = s.strands ∧ t.pool = s.pool))
  ∧ (∀ s line a before x after r rest, s.homes.answers = before ++ x :: after → (∀ y ∈ before, ¬(y.agent = a ∧ y.line = line)) → x.agent = a →
    x.line = line → x.kind ≠ .writeBack → a ∉ s.homes.isolated → Queued s line (r :: rest) → (∀ y ∈ rest, y.kind = .part → y.no ≠ r.no) →
    (∀ n, r.phase = .probing (n + 2) → ∃ t : State, exec (.answer a line) s = .next t ∧ Quiet s t
      ∧ t.reqsAt line = { r with phase := .probing (n + 1) } :: rest ∧ t.homes.answers = before ++ after)
    ∧ (r.phase = .probing 1 → r.kind = .getS → r.agent < 192 → isDevice (128 * line) = true → s.isLost (128 * line) = false →
      homeOwner s line ≠ some r.agent → recallsOf (s.shareOwner line) line r.agent false = [] → ∃ t : State, exec (.answer a line) s = .next t
        ∧ Quiet s t ∧ t.reqsAt line = rest ∧ homeLine t line = .S ∧ r.agent ∈ homeHolders t line ∧ HasCopy s t r line .shared))
  ∧ (∀ s line a h rest before x after p n, s.homes.answers = before ++ x :: after →
    (∀ y ∈ before, ¬(y.agent = a ∧ y.line = line ∧ y.kind = .writeBack)) → x = { agent := a, line := line, kind := .writeBack, invalidate := x.invalidate } →
    Queued s line (h :: rest) → h.isPutO a = false → p ∈ rest → p.isPutO a = true → h.phase = .probing (n + 2) →
    isDevice (128 * line) = true → p.kind = .putO → (∀ q ∈ rest, q.isPutO a = true → q = p) →
    ∃ t : State, exec (.puto a line) s = .next t ∧ Quiet s t ∧ t.homes.answers = before ++ after
      ∧ t.reqsAt line = { h with phase := .probing (n + 1) } :: rest.filter fun q => !q.isPutO a)
  ∧ (∀ s line a h rest, Unbegun s line h rest → h.agent = a → isDevice (128 * line) = true → s.tileOf line = none →
    (h.kind = .putO → homeOwner s line = some a → ∃ t : State, exec (.puto a line) s = .next t ∧ Quiet s t ∧ t.reqsAt line = rest
      ∧ homeLine t line = .I)
    ∧ (h.kind = .putO → homeOwner s line ≠ some a → ∃ t : State, exec (.puto a line) s = .next t ∧ Quiet s t ∧ t.reqsAt line = rest
      ∧ SameLine s t line)
    ∧ (h.kind = .putS → (s.dirAt (line / 4)).coarse = false → homeLine s line = .S → a ∈ homeHolders s line →
      ∃ t : State, exec (.puts a line) s = .next t ∧ Quiet s t ∧ t.reqsAt line = rest ∧ a ∉ homeHolders t line))
  ∧ (∀ s a line c e, SMap.find s.copies (2 ^ 45 * a + line) = some c → c.st = .leased e →
    ∃ t : State, exec (.leaseExpiry a line) s = .next t ∧ Quiet s t ∧ t.time = max s.time e ∧ t.copyAt a line = none)

/-- R23, R134, R135, R325, R326, R330, R396, R414: what a host may ask and how it answers. A read or a request for ownership of a device address in its range joins the line's list as
agent 200 or 201 of tenant 0, and so does a write-back, which writes its 128 bytes in its turn and leaves an O line in I; while BIFAIL is 1 a
read gets zeros; a read through a BAR answers an aligned register or is unsupported; a snoop that invalidates takes host memory from every cache; a
BIRsp counts as the answer, one that does not come in time sets BIFAIL; the host's data for a line of its memory are granted. A port
out of L0 returns, or is lost after 100 ms, and a surprise loses it at once. The M-mode write sets the tenant of a hart's later
operations, and a write from another mode raises an illegal-instruction exception of the hart. -/
def Parts.HostsAndTheirPorts : Prop :=
  (∀ s port hpa off, port < 2 → s.portUp port = true → hpa = SMap.get 0 s.hub.hdmBase port + off → off % 128 = 0 → hpa % 128 = 0 → off < 6 * 2 ^ 37 →
    let pa := off / 2 ^ 37 * 2 ^ 48 + off % 2 ^ 37
    s.homeState (pa / 2 ^ 48) ≠ .held →
    (s.sys.bifail.getLsbD port = true → ∃ t : State, exec (.hostRequest port (.read hpa)) s = .next t ∧ Quiet s t
      ∧ SMap.find t.hub.told (96 + port) = some (.value 0))
    ∧ (s.sys.bifail.getLsbD port = false → (200 + port) ∉ s.homes.isolated → s.sliceFull (pa / 128) = false →
    let asks (r : HostReq) (k : ReqKind) : Prop := ∃ (t : State) (x : Request), exec (.hostRequest port r) s = .next t ∧ t.mem = s.mem ∧ t.strands = s.strands
      ∧ t.reqsAt (pa / 128) = s.reqsAt (pa / 128) ++ [x] ∧ x.agent = 200 + port ∧ x.kind = k ∧ x.tenant = 0 ∧ x.issued = s.time
    asks (.read hpa) .getS ∧ asks (.own hpa) (.getO false) ∧ asks (.evict hpa) .putS
    ∧ ∀ d, d.length = 128 → asks (.writeBack hpa d) (.hostPut d)))
  ∧ (∀ s port line h rest d, port < 2 → Unbegun s line h rest → h.agent = 200 + port → h.kind = .hostPut d → isDevice (128 * line) = true →
    s.tileOf line = none → s.sys.bifail.getLsbD port = false → PlainStore s (128 * line) h.key →
    (homeOwner s line = some (200 + port) → ∃ t : State, exec (.puto (200 + port) line) s = .next t ∧ t.strands = s.strands
      ∧ t.reqsAt line = rest ∧ Holds s t (128 * line) 128 (leOfBytes d) ∧ homeLine t line = .I)
    ∧ (homeOwner s line ≠ some (200 + port) → otherHolders s line 255 = [] → s.horizonOf line ≤ s.time →
      ((SMap.find s.homes.dir (line / 4)).isSome ∨ s.homes.dir.length < 8) → ∃ t : State, exec (.puto (200 + port) line) s = .next t
      ∧ t.strands = s.strands ∧ t.reqsAt line = rest ∧ Holds s t (128 * line) 128 (leOfBytes d) ∧ ∀ b, t.copyAt b line = none))
  ∧ (∀ s port mailbox off n, port < 2 → s.portUp port = true →
    let ok := (n = 4 ∨ n = 8) ∧ off % n = 0 ∧ off < (if mailbox then 2 ^ 16 else 2 ^ 24)
    ∃ t : State, exec (.hostRequest port (.barRead mailbox off n)) s = .next t ∧ Quiet s t
      ∧ (ok → SMap.find t.hub.told (96 + port) = some (.value (s.regRead ((if mailbox then 0xF000000000000 else 0xA100000000000) + off) n)))
      ∧ (¬ok → SMap.find t.hub.told (96 + port) = some .unsupported))
  ∧ (∀ s port line p, port < 2 → s.probeOf (200 + port) line = some p →
    (∀ d l, Queued s line l → (∀ x ∈ l, x.isPutO (200 + port) = false ∧ ∀ w, x.kind ≠ .homeWrite w) →
      ∃ t : State, exec (.birsp port line d) s = .next t ∧ t.strands = s.strands
      ∧ (d.length ≠ 128 → t.mem = s.mem)
      ∧ (d.length = 128 → s.sys.bifail.getLsbD port = false → PlainStore s (128 * line) (s.keyOfTenant 0) → Holds s t (128 * line) 128 (leOfBytes d))
      ∧ (∀ r rest, p.invalidate = true → l = r :: rest → r.phase = .probing 2 →
        t.copyAt (200 + port) line = none ∧ t.reqsAt line = { r with phase := .probing 1 } :: rest))
    ∧ (∃ t : State, exec (.bitoTimeout port line) s = .next t ∧ t.sys.bifail.getLsbD port = true ∧ t.strands = s.strands
      ∧ t.time = max s.time (p.sent + 1600 * (s.sys.bito.toList.getD port 0).toNat)))
  ∧ (∀ s line, isHostMem (128 * line) = true →
    (s.sys.portDown.getLsbD (window (128 * line) - 0xC) = false →
      (∃ t : State, exec (.hostSnoop line true) s = .next t ∧ Quiet s t ∧ (∀ a, t.copyAt a line = none)
        ∧ (SMap.get SnoopEntry.reset t.hub.snoop line).agents = [])
      ∧ (∃ t : State, exec (.hostSnoop line false) s = .next t ∧ Quiet s t ∧ (SMap.get SnoopEntry.reset t.hub.snoop line).owned = false))
    ∧ (∀ r rest d, s.portUp (window (128 * line) - 0xC) = true → Queued s line (r :: rest) → (∀ x ∈ rest, x.kind = .part → x.no ≠ r.no) → r.agent < 192 → d.length = 128 →
      (SMap.get SnoopEntry.reset s.hub.snoop line).owned = false →
      (r.kind = .getS → ∃ t : State, exec (.cxlCacheResponse line false d) s = .next t ∧ t.reqsAt line = rest ∧ HasCopy s t r line .shared
        ∧ (∀ i, i < 128 → t.mem.read (128 * line + i) = d.getD i 0) ∧ t.strands = s.strands)
      ∧ (∀ w, r.kind = .getO w → ∃ t : State, exec (.cxlCacheResponse line true d) s = .next t ∧ t.reqsAt line = rest ∧ HasCopy s t r line .owned
        ∧ (∀ i, i < 128 → t.mem.read (128 * line + i) = d.getD i 0) ∧ (∀ b, b ≠ r.agent → t.copyAt b line = none))))
  ∧ (∀ s port, port < 2 →
    (SMap.find s.sys.linkDown port = none →
      (∃ t : State, exec (.cxlLinkDown port false) s = .next t ∧ t.mem = s.mem ∧ SMap.find t.sys.linkDown port = some (s.time + 1)
        ∧ t.sys.portDown = s.sys.portDown)
      ∧ (∃ t : State, exec (.cxlLinkDown port true) s = .next t ∧ t.sys.portDown.getLsbD port = true ∧ t.strands = s.strands))
    ∧ (∀ x, SMap.find s.sys.linkDown port = some (x + 1) →
      (∃ t : State, exec (.cxlRetrainTimeout port) s = .next t ∧ t.time = max s.time (x + 160000000) ∧ t.sys.portDown.getLsbD port = true)
      ∧ (∃ t : State, exec (.cxlLinkUp port) s = .next t ∧ SMap.find t.sys.linkDown port = none ∧ t.mem = s.mem)))
  ∧ (∀ s hart v, hart < 16 →
    (∃ t : State, exec (.vlntenantWrite hart true v) s = .next t ∧ SMap.get 0 t.hub.vlntenant hart = v ∧ Quiet s t
      ∧ t.opsOf hart = (s.opsOf hart).map fun x => { x with bound := some (s.partyTenant hart x) })
    ∧ (∃ t : State, exec (.vlntenantWrite hart false v) s = .next t ∧ SMap.find t.hub.told hart = some .illegal ∧ t.hub.vlntenant = s.hub.vlntenant
      ∧ t.opsOf hart = s.opsOf hart ∧ Quiet s t))

/-- R23, R27, R136, R151, R328 to R330: the accesses of a hart. The first of its operations that are not yet performed, of a line of device memory that
its cluster holds for it, reads the bytes or writes them and no others, and the hart is told; an AMO writes what its operation gives of the bytes that it read; one that the map does not allow is
answered by an access fault (1 fetch, 2 load, 3 store or AMO); a line that the cluster lacks is asked for. A fence holds back what it orders.
Which accesses fault, where the manual does not say it, is the model's reading (log entry 35). -/
def Parts.HartsPerformTheirAccesses : Prop :=
  (∀ s p op rest, p < 16 → s.opsOf p = op :: rest →
    let left := dropFences (rest.filter fun y => y.id != op.id)
    let key := s.partyKey p op
    let ready (write : Bool) : Prop := isDevice op.pa = true ∧ PlainStore s op.pa key ∧ s.lineReady (192 + p / 4) op.pa (s.partyTenant p op) key write = true
    (op.kind = .load → s.partyMay p op = true → ready false → ∃ t : State, exec (.loadPerformed (768 + p) op.id [] []) s = .next t ∧ t.mem = s.mem
      ∧ t.strands = s.strands ∧ t.opsOf p = left ∧ SMap.find t.hub.told p = some (.value (s.mem.readLe op.pa op.bytes)))
    ∧ (∀ v, op.kind = .store v → s.partyMay p op = true → ready true → ∃ t : State, exec (.storePerformed (768 + p) op.id []) s = .next t
      ∧ Holds s t op.pa op.bytes v ∧ t.strands = s.strands ∧ t.opsOf p = left ∧ SMap.find t.hub.told p = some (.value 0))
    ∧ (∀ k ty v e, op.kind = .amo k ty v e → s.partyMay p op = true → ready true →
      let old := s.mem.readLe op.pa op.bytes
      ∃ t : State, exec (.storePerformed (768 + p) op.id []) s = .next t ∧ t.strands = s.strands ∧ t.opsOf p = left
      ∧ SMap.find t.hub.told p = some (.value old)
      ∧ match (atomicResult k ty old (v % 2 ^ (8 * op.bytes)) (e % 2 ^ (8 * op.bytes))).1 with
        | some n => Holds s t op.pa op.bytes n
        | none => t.mem = s.mem)
    ∧ (op.kind = .load → s.partyMay p op = false → ∃ t : State, exec (.loadPerformed (768 + p) op.id [] []) s = .next t ∧ Quiet s t
      ∧ t.opsOf p = left ∧ SMap.find t.hub.told p = some (.fault 2))
    ∧ (∀ v, op.kind = .store v → s.partyMay p op = false → ∃ t : State, exec (.storePerformed (768 + p) op.id []) s = .next t ∧ Quiet s t
      ∧ t.opsOf p = left ∧ SMap.find t.hub.told p = some (.fault 3))
    ∧ (op.kind = .load → s.partyMay p op = true → isDevice op.pa = true → s.lineReady (192 + p / 4) op.pa (s.partyTenant p op) key false = false →
      ∃ t : State, exec (.loadPerformed (768 + p) op.id [] []) s = .next t ∧ Quiet s t ∧ t.opsOf p = s.opsOf p))
  ∧ (∀ s p y f x rest v rw wr ww rr, p < 16 → s.opsOf p = y :: f :: x :: rest → y.id ≠ x.id → f.id ≠ x.id → x.kind = .load →
    (y.kind = .load → f.kind = .fence true rw wr ww → exec (.loadPerformed (768 + p) x.id [] []) s = .next s)
    ∧ (y.kind = .store v → f.kind = .fence rr rw true ww → exec (.loadPerformed (768 + p) x.id [] []) s = .next s))

/-- R23, R27, R134 to R136, R151, R325, R326, R328 to R330, R396, R414: the hosts and the harts. -/
def Obligations.HostsAndTheirPorts : Prop := Parts.HostsAndTheirPorts ∧ Parts.HartsPerformTheirAccesses

/-! ### The hub (spec/02_execution.md R36, R45 to R58; spec/12_system.md R290, R298) -/

/-- The hub's write of a 64-byte record reaches plain memory, at once. -/
def RecordPlace (s : State) (tenant asid va pa : Nat) : Prop :=
  va % 64 = 0 ∧ va < 2 ^ 52 ∧ s.hubPa tenant asid va .write = some pa ∧ PlainStore s pa (s.keyOfAsid asid) ∧ AtOnce s pa 64

/-- Strands, registers and the state of cores and quads stand. -/
def CoresStand (s t : State) : Prop :=
  t.strands = s.strands ∧ t.cores = s.cores ∧ t.pool = s.pool ∧ t.localMem = s.localMem ∧ t.acc = s.acc ∧ t.sett = s.sett

/-- R46, R48, R49, R290, R298: the hub takes one record of an enabled queue that is not empty while the pool has room, and HEAD goes
up by one; a line that is with another holder is asked for first. An entry that cannot be read sets RINGFAULT and counts in REJECTS. A record that passes every check of R46 waits in the pool under the
queue's tenant and ASID, at S level where PRIV says so and no strand without S rights posted it; one that fails counts in REJECTS and its
completion record carries the reason. A task is taken from the posted ones in order, and counts in no queue.
The hub's rights there are the model's reading (log entry 32). -/
def Parts.TheHubAcceptsRecords : Prop :=
  (∀ s n, n < 64 →
    let q := s.queueAt n
    let va := q.base.toNat + q.head.toNat % 2 ^ q.logn.toNat * 64
    let rejects := BitVec.ofNat 16 (min (q.rejects.toNat + 1) 0xFFFF)
    (q.enable = false ∨ q.head = q.tail ∨ 512 ≤ s.poolSize → exec (.hubRecordAccept n) s = .next s)
    ∧ (q.enable = true → q.head ≠ q.tail → s.poolSize < 512 → s.hubPortDown q.tenant.toNat q.asid.toNat va .read = false →
      (s.hubReadable q.tenant.toNat q.asid.toNat va 64 = true → s.hubRead q.tenant.toNat q.asid.toNat va 64 = none → ∃ t : State, exec (.hubRecordAccept n) s = .next t ∧ Quiet s t
        ∧ (t.queueAt n).head = q.head + 1 ∧ (t.queueAt n).ringfault = true ∧ (t.queueAt n).rejects = rejects ∧ t.hub.launches = s.hub.launches)
      ∧ (s.hubReadable q.tenant.toNat q.asid.toNat va 64 = false → ∃ t : State, exec (.hubRecordAccept n) s = .next t ∧ Quiet s t ∧ t.hub = s.hub)
      ∧ ∀ r, s.hubReadable q.tenant.toNat q.asid.toNat va 64 = true → s.hubRead q.tenant.toNat q.asid.toNat va 64 = some r →
        s.footReadable q.tenant.toNat q.asid.toNat r = true →
        (s.recordFault r q.asid.toNat q.tenant.toNat false = none → ∃ (t : State) (l : Launch), exec (.hubRecordAccept n) s = .next t ∧ Quiet s t
          ∧ (t.queueAt n).head = q.head + 1 ∧ (t.queueAt n).tail = q.tail ∧ t.hub.launches = s.hub.launches ++ [l]
          ∧ l.record = r ∧ l.state = .pending ∧ l.queue = n ∧ l.tenant = q.tenant.toNat ∧ l.asid = q.asid.toNat ∧ l.prio = recPrio r
          ∧ l.priv = (q.priv && !q.uposted.contains q.head.toNat) ∧ l.tvec = q.tvec.setWidth 64 ∧ l.poster = none)
        ∧ (∀ k pa, s.recordFault r q.asid.toNat q.tenant.toNat false = some k →
          RecordPlace s q.tenant.toNat q.asid.toNat (recComp r) pa → ∃ t : State, exec (.hubRecordAccept n) s = .next t ∧ CoresStand s t
            ∧ (t.queueAt n).head = q.head + 1 ∧ (t.queueAt n).rejects = rejects ∧ (t.queueAt n).compfault = q.compfault
            ∧ t.hub.launches = s.hub.launches ∧ Holds s t pa 64 (2 + k * 2 ^ 8 + recUser r * 2 ^ 64))))
  ∧ (∀ s n x rest, 64 ≤ n → s.hub.tasks = x :: rest → s.footReadable x.tenant x.asid x.record = true →
    (s.recordFault x.record x.asid x.tenant x.sright = none → ∃ (t : State) (l : Launch), exec (.hubRecordAccept n) s = .next t ∧ Quiet s t ∧ t.hub.tasks = rest
      ∧ t.hub.launches = s.hub.launches ++ [l] ∧ l.record = x.record ∧ l.state = .pending ∧ l.poster = some x.lid ∧ l.tenant = x.tenant
      ∧ l.asid = x.asid ∧ l.priv = (x.sright && recSup x.record) ∧ t.hub.queues = s.hub.queues)
    ∧ (∀ k pa, s.recordFault x.record x.asid x.tenant x.sright = some k → RecordPlace s x.tenant x.asid (recComp x.record) pa →
      ∃ t : State, exec (.hubRecordAccept n) s = .next t ∧ CoresStand s t ∧ t.hub.tasks = rest ∧ t.hub.launches = s.hub.launches
        ∧ t.hub.queues = s.hub.queues ∧ Holds s t pa 64 (2 + k * 2 ^ 8 + recUser x.record * 2 ^ 64)))

/-- R48, R50: a TAIL write moves TAIL where at most 2^LOGN entries and no fewer than before then stand in the ring; otherwise OVERRUN is set; a queue that is not enabled ignores it. An atomic on QTAIL does the same and answers the old
TAIL; it waits for the stores that a fence of its hart puts before it (R151). -/
def Parts.QueueTailsMove : Prop :=
  ∀ s n, n < 64 →
    let q := s.queueAt n
    let Moves (i : Instr) (v : BitVec 32) (reply : State → Prop) : Prop :=
      ∃ t : State, exec i s = .next t ∧ Quiet s t ∧ reply t ∧ (∀ k, k ≠ n → t.queueAt k = s.queueAt k)
        ∧ (q.enable = false → t.queueAt n = q)
        ∧ (q.enable = true → (v - q.head).toNat ≤ 2 ^ q.logn.toNat → (q.tail - q.head).toNat ≤ (v - q.head).toNat → t.queueAt n = { q with tail := v })
        ∧ (q.enable = true → (2 ^ q.logn.toNat < (v - q.head).toNat ∨ (v - q.head).toNat < (q.tail - q.head).toNat) →
          t.queueAt n = { q with overrun := true })
    (∀ v, Moves (.qtailWrite n v) v fun _ => True)
    ∧ (∀ hart v aq rl, s.opsOf hart = [] →
      Moves (.qtailAmo hart n ⟨true, aq, rl⟩ v) (q.tail + v.setWidth 32) (fun t => SMap.get 0 t.replies hart = q.tail.setWidth 64)
      ∧ Moves (.qtailAmo hart n ⟨false, aq, rl⟩ v) (v.setWidth 32) (fun t => SMap.get 0 t.replies hart = q.tail.setWidth 64))
    ∧ ∀ hart v add rl y r a rw wr ww, s.opsOf hart = [y, r] → y.kind = .store a → r.kind = .fence rw wr true ww →
      exec (.qtailAmo hart n ⟨add, false, rl⟩ v) s = .next s

/-- R46, R48 to R50, R290, R298: the records and the tail of a launch queue, and tasks. -/
def Obligations.QueuesAndTheirRecords : Prop := Parts.TheHubAcceptsRecords ∧ Parts.QueueTailsMove

/-- What a strand of a launch holds when it starts (R36, R100): a global ordinal o gives it its stack, o itself, the launch's number of strands
and ARG in g1 to g4, and the seed of `sr.gen`; every other register is zero. -/
structure Fresh (l : Launch) (dies : Nat) (st : Strand) : Prop where
  pc : st.pc = BitVec.ofNat 52 (recEntry l.record)
  ordinal : ∃ o, o = ((st.ordDie * recQpd l.record + st.ordQuad) * recCpq l.record + st.ordCore) * recSpc l.record + st.ordStrand
    ∧ st.getG 1 = BitVec.ofNat 64 (recStack l.record + (o + 1) * 2 ^ recStklog l.record)
    ∧ st.wsp = BitVec.ofNat 64 (recStack l.record + o * 2 ^ recStklog l.record)
    ∧ st.getG 2 = BitVec.ofNat 64 o ∧ st.gen = placedGen (recArg l.record) o
  count : st.getG 3 = BitVec.ofNat 64 (dies * recQpd l.record * recCpq l.record * recSpc l.record)
  arg : st.getG 4 = BitVec.ofNat 64 (recArg l.record)
  zero : (∀ r : BitVec 4, r = 0 ∨ 4 < r.toNat → st.getG r = 0) ∧ st.pw = 0 ∧ st.masks = Vector.replicate 8 0 ∧ st.fflags = 0 ∧ st.lost = 0
    ∧ st.rf = [] ∧ st.ls = [] ∧ st.wdepth = 0 ∧ st.shape = 0 ∧ st.loops = [] ∧ st.epc = 0 ∧ st.cause = 0 ∧ st.tval = 0
  level : st.priv = l.priv ∧ st.inh = false ∧ st.tvec = l.tvec ∧ st.wait = .ready
  room : st.vcount = vregCount (recVreg l.record) ∧ st.lslen = 1 + recLocal l.record

/-- R36, R51 to R53, R100: a launch that some dies can hold starts there at one time: it is placed, its start is `sr.time`, and every strand that it
gets is as R36 says; a shape of one strand gets one, in the lowest free slot of its core and the lowest free ranges of its vector registers and
local store, which of those it takes being the model's choice (log entry 12). A die reserves capacity for a launch that needs more
than one; when MAXDIE dies have reserved, or 3,200 cycles after the MINDIE-th, it starts on those. -/
def Obligations.LaunchesStart : Prop :=
  let started (s t : State) (l : Launch) (dies : List Nat) (time : Nat) : Prop :=
    t.mem = s.mem ∧ (∀ m, t.launchOf l.lid = some m → m.state = .placed ∧ m.tstart = time ∧ m.reserved = [] ∧ m.dies.map Prod.fst = dies)
      ∧ (t.launchOf l.lid).isSome
      ∧ ((∀ k v, s.strandAt k = some v → v.lid ≠ l.lid) → ∀ k u, t.strandAt k = some u → u.lid = l.lid → Fresh l dies.length u)
      ∧ ∀ x slot vb lb, s.seats l (dies.filterMap fun d => (s.dieHolds l d).map fun qs => (d, qs)) = [x] → s.freeSlot x.core = some slot →
        freeRange (s.usedV x.core) 64 (vregCount (recVreg l.record)) = some vb → freeRange (s.usedL x.core) 64 (1 + recLocal l.record) = some lb →
        ∃ u, t.strandAt slot = some u ∧ u.lid = l.lid ∧ Fresh l dies.length u ∧ u.vbase = vb ∧ u.lsbase = lb
          ∧ (∀ r : BitVec 5, r.toNat < u.vcount → t.getV slot u r.toNat = 0) ∧ ∀ k, k ≠ slot → t.strandAt k = s.strandAt k
  (∀ s die l, die < 4 → s.hub.gang = none → s.firstOn die = some l → recMinDie l.record = 1 → 1 ≤ recMaxDie l.record →
    ∃ t dies, exec (.placeLaunch die) s = .next t ∧ die ∈ dies ∧ dies.length ≤ recMaxDie l.record ∧ (∀ d ∈ dies, s.firstOn d = some l ∨ d = die ∨ ∃ m, s.firstOn d = some m ∧ m.lid = l.lid)
      ∧ ((∀ m ∈ s.hub.launches, m.lid = l.lid → m = l) → started s t l dies s.time))
  ∧ (∀ s die l, die < 4 → s.refreshGang = s → s.firstOn die = some l → recMinDie l.record ≠ 1 →
    let dies := (List.range 4).filter fun d => d == die || l.reserved.contains d
    (dies.length < recMaxDie l.record → ∃ (t : State) (m : Launch), exec (.gangReserve die) s = .next t ∧ Quiet s t ∧ t.hub.gang = some l.lid
      ∧ t.launchOf l.lid = some m ∧ m.reserved = dies
      ∧ m.reservedAt = if recMinDie l.record ≤ dies.length then some (l.reservedAt.getD s.time) else none)
    ∧ (recMaxDie l.record ≤ dies.length → ∃ (t : State) (m : Launch), exec (.gangReserve die) s = .next t ∧ t.mem = s.mem ∧ t.hub.gang = none
      ∧ t.launchOf l.lid = some m ∧ m.state = .placed ∧ m.tstart = s.time))
  ∧ (∀ s l at_, s.refreshGang = s → s.hub.gang = some l.lid → s.launchOf l.lid = some l → l.reservedAt = some at_ →
    ∃ (t : State) (m : Launch), exec .gangTimerExpiry s = .next t ∧ t.mem = s.mem ∧ t.time = max s.time (at_ + 3200) ∧ t.hub.gang = none
      ∧ t.launchOf l.lid = some m ∧ m.state = .placed ∧ m.tstart = max s.time (at_ + 3200))

/-- R57, R58, R291, R298: a placed launch of which no strand, command, task or child is left completes: it leaves the hub, its barrier claims end, and its
64-byte record is written; one that still has a strand does not. Where the line of the record has to be taken from its holder first, the launch
stays until the write has been performed. Its energy raises PRIO, to 7 at most, and counts an event at each multiple of
BUDGET. -/
def Obligations.LaunchesCompleteAndSpendEnergy : Prop :=
  (∀ s l lid, s.launchOf lid = some l →
    (∀ pa, s.finished l = true → RecordPlace s l.tenant l.asid (recComp l.record) pa → (∀ x n, s.homePending x n = false) → ∃ t : State, exec (.launchComplete lid) s = .next t ∧ CoresStand s t
      ∧ t.launchOf lid = none ∧ (∀ k, k ≠ lid → t.launchOf k = s.launchOf k) ∧ (∀ e ∈ t.barriers, lid ∉ e.2.claims)
      ∧ Holds s t pa 64 ((if l.dieLost.isSome then 3 else 1) + l.xcode.toNat * 2 ^ 16 + l.dies.length % 8 * 2 ^ 24 + l.prio % 8 * 2 ^ 27
          + l.faults.toNat * 2 ^ 30 + l.abandoned.toNat * 2 ^ 31 + l.lostSeen.toNat * 2 ^ 32 + min l.events 0xFFFF * 2 ^ 48
          + recUser l.record * 2 ^ 64 + l.tstart % 2 ^ 64 * 2 ^ 128 + min l.energy (2 ^ 32 - 1) * 2 ^ 192
          + (match l.dieLost with | some lost => s.lastEnded l lost | none => s.time) % 2 ^ 64 * 2 ^ 256))
    ∧ (∀ pa, s.finished l = true → recComp l.record % 64 = 0 → recComp l.record < 2 ^ 52 →
      s.hubPa l.tenant l.asid (recComp l.record) .write = some pa → isDevice pa = true → pa % 128 + 64 ≤ 128 → s.homeQuiet (pa / 128) true = false →
      255 ∉ s.homes.isolated → ∃ (t : State) (lines : List Nat), exec (.launchComplete lid) s = .next t ∧ CoresStand s t ∧ t.mem = s.mem
        ∧ t.launchOf lid = some { l with state := .written lines } ∧ pa / 128 ∈ lines)
    ∧ (∀ lines, l.state = .written lines →
      ((∃ x ∈ lines, s.homePending (128 * x) 128 = true) → exec (.launchComplete lid) s = .next s)
      ∧ ((∀ x ∈ lines, s.homePending (128 * x) 128 = false) → ∃ t : State, exec (.launchComplete lid) s = .next t ∧ CoresStand s t ∧ t.mem = s.mem
        ∧ t.launchOf lid = none ∧ (∀ k, k ≠ lid → t.launchOf k = s.launchOf k) ∧ ∀ e ∈ t.barriers, lid ∉ e.2.claims))
    ∧ ((∀ lines, l.state ≠ .written lines) → (∃ e ∈ s.strands, e.2.lid = l.lid) ∨ l.state = .pending → exec (.launchComplete lid) s = .next s))
  ∧ (∀ s l lid e, s.launchOf lid = some l → l.energy < e →
    let b := recBudget l.record
    let n := if b = 0 then 0 else e / b - l.energy / b
    ∃ t : State, exec (.budgetExhaustion lid e) s = .next t ∧ Quiet s t
      ∧ t.launchOf lid = some { l with energy := e, events := l.events + n, prio := min 7 (l.prio + n) })

/-! ### The coursing table and its edges (spec/03_coursing.md R66 to R87; spec/13_traps_context.md R313 to R318; spec/21_faults_execution.md R376 to R378) -/

/-- Check 2 of R72: DUR below 16 µs, or below DRAINLEAD + SAVELEAD, or SAVELEAD below OVERLIM. -/
def ShortCourse (s : State) (copy : Bool) (drain late c : Nat) : Prop :=
  let dur := courseDur s.coursing.table copy c
  let lead := courseSavelead s.coursing.table copy c
  dur < 16 ∨ dur < drain + lead ∨ lead < late

/-- R67, R70, R72: COMMIT while a copy is pending writes NCOURSE alone. Otherwise the checks of R72 run on the shadow copy: NCOURSE 0 or above 64 is reason 1;
else the first course that fails check 2 is BADCOURSE of reason 2; a failed check sets REJECTED, REASON and BADCOURSE and nothing is pending; a
copy that passes is pending with its NCOURSE, and the first one after reset starts the end of the default course. A `CTTIME` write is checked
against the courses in use and takes effect or is rejected whole; a `TNSAVE` write of 0 is ignored for a tenant that holds a bay. That an ignored
COMMIT still stores NCOURSE, that an accepted one leaves REJECTED, and BADCOURSE 0 with reasons 1 and 10 are the model's choices (log entry 38). -/
def Obligations.TableWritesAreChecked : Prop :=
  (∀ s n,
    let k := s.coursing
    let rejected (reason course : Nat) : Prop := ∃ t : State, exec (.commit n) s = .next t ∧ Quiet s t
      ∧ t.coursing = { k with ncourse := n, rejected := true, reason := BitVec.ofNat 4 reason, badcourse := BitVec.ofNat 6 course }
    (k.pending = true → ∃ t : State, exec (.commit n) s = .next t ∧ Quiet s t ∧ t.coursing = { k with ncourse := n })
    ∧ (k.pending = false → n = 0 ∨ 64 < n.toNat → rejected 1 0)
    ∧ (k.pending = false → 1 ≤ n.toNat → n.toNat ≤ 64 → ∀ c, c < n.toNat → ShortCourse s (!k.active) k.drainlead.toNat k.overlim.toNat c →
      (∀ e, e < c → ¬ShortCourse s (!k.active) k.drainlead.toNat k.overlim.toNat e) → rejected 2 c)
    ∧ (k.pending = false → ∀ x, commitFailure s (!k.active) n.toNat = some x → rejected x.1 x.2)
    ∧ (k.pending = false → commitFailure s (!k.active) n.toNat = none → ∃ t : State, exec (.commit n) s = .next t ∧ Quiet s t
      ∧ t.coursing.pending = true ∧ t.coursing.pendingN = n ∧ t.coursing.ncourse = n ∧ t.coursing.active = k.active ∧ t.coursing.table = k.table
      ∧ t.coursing.rejected = k.rejected ∧ t.coursing.firstCommit = if k.enable then k.firstCommit else some s.time))
  ∧ (∀ s v,
    let k := s.coursing
    let drain := v.toNat % 2 ^ 16
    let late := v.toNat / 2 ^ 16 % 2 ^ 16
    ((k.enable = true → ∀ c, c < k.activeN.toNat → ¬ShortCourse s k.active drain late c) →
      (k.pending = true → ∀ c, c < k.pendingN.toNat → ¬ShortCourse s (!k.active) drain late c) →
      ∃ t : State, exec (.cttimeWrite v) s = .next t ∧ Quiet s t ∧ t.coursing.drainlead = v.setWidth 16 ∧ t.coursing.overlim = v.extractLsb' 16 16
        ∧ t.coursing.rejected = k.rejected ∧ (k.enable = true → t.coursing.drainleadNow = k.drainleadNow ∧ t.coursing.overlimNow = k.overlimNow))
    ∧ (∀ c, k.enable = true → c < k.activeN.toNat → ShortCourse s k.active drain late c → (∀ e, e < c → ¬ShortCourse s k.active drain late e) →
      ∃ t : State, exec (.cttimeWrite v) s = .next t ∧ Quiet s t
        ∧ t.coursing = { k with rejected := true, reason := 2, badcourse := BitVec.ofNat 6 c }))
  ∧ (∀ s tenant v, tenant < 64 →
    let k := s.coursing
    (v.extractLsb' 12 40 ≠ 0 → ∃ t : State, exec (.tnsaveWrite tenant v) s = .next t ∧ Quiet s t
      ∧ SMap.get 0 t.coursing.tnsave tenant = BitVec.ofNat 52 (v.toNat / 2 ^ 12 % 2 ^ 40 * 2 ^ 12)
      ∧ ∀ m, m ≠ tenant → SMap.get 0 t.coursing.tnsave m = SMap.get 0 k.tnsave m)
    ∧ (v.extractLsb' 12 40 = 0 → k.enable = true → holdsBay k.table k.active k.activeN.toNat tenant = true → exec (.tnsaveWrite tenant v) s = .next s))

/-- What the scrub of a core leaves (R87). -/
def CoreScrubbed (t : State) (core : Nat) : Prop :=
  (∀ k, coreOf k = core → t.strandAt k = none) ∧ (∀ r, r < 64 → SMap.get 0 t.pool (64 * core + r) = 0)
    ∧ (∀ off, off < 2 ^ 18 → t.getLocal core off = 0) ∧ (t.coreAt core).queue = [] ∧ (t.coreAt core).inbox = []

/-- R69, R70, R72, R78, R79, R84: the hold begins at the edge minus DRAINLEAD; at the edge each running core that the coming boundary takes from its tenant is
saved if its accesses have settled and is stopped otherwise, and no strand of a running core changes; at the edge plus OVERLIM a Hod command
that still runs on a stopped quad issues no further piece and stops once its pieces in flight have ended, and counts, and a Sett command is not stopped; at the boundary the next course begins, or course 0 of the next
frame, with the pending copy where there is one, and a saved core that changes hands is scrubbed.
When each is run, at or after its time, and that what has settled is saved first, is the model's (log entries 6, 33). -/
def Obligations.CoursesBeginAndEnd : Prop :=
  (∀ s h, s.holdTime = some h → s.coursing.held = false → ∃ t : State, exec .drainLeadHold s = .next t ∧ Quiet s t ∧ t.time = max s.time h
    ∧ t.coursing = { s.coursing with held := true })
  ∧ (∀ s e, s.edgeTime = some e → s.coursing.edged = false → ∃ t : State, exec .courseEdge s = .next t ∧ t.time = max s.time e
    ∧ t.coursing.edged = true ∧ t.coursing.held = true ∧ t.coursing.course = s.coursing.course
    ∧ (∀ k, (s.coreAt (coreOf k)).phase = .running → (s.coreAt (coreOf k)).late = false → t.strandAt k = s.strandAt k)
    ∧ ∀ c n, c < 768 → s.coreChanges c = true → s.holder c = some n → (s.coreAt c).phase = .running → (s.coreAt c).late = false →
      (s.coreSettled c = true → (t.coreAt c).phase = .saved n ∧ (t.savedCore n c).isSome)
      ∧ (s.coreSettled c = false → (t.coreAt c).phase = .stopped n))
  ∧ (∀ s o, s.edgeTime.map (· + usCycles s.coursing.overlimNow.toNat) = some o → s.coursing.edged = true → s.coursing.overlimDone = false →
    let overruns := BitVec.ofNat 16 (min (s.coursing.overruns.toNat + 1) 0xFFFF)
    ((∀ e ∈ s.quads, (∃ n, e.2.phase = .stopped n) → ∀ c ∈ e.2.cmds, c.state ≠ .running) → ∃ t : State, exec .overlimExpiry s = .next t ∧ Quiet s t
      ∧ t.time = max s.time o ∧ t.coursing = { s.coursing with overlimDone := true })
    ∧ (∀ a q n c, s.quads = [(a, q)] → q.phase = .stopped n → q.cmds = [c] → c.state = .running →
      (c.engine = some .hod → ∃ (t : State) (x : Cmd), exec .overlimExpiry s = .next t ∧ t.coursing.overruns = overruns ∧ t.coursing.overlimDone = true
        ∧ (t.quadAt a).cmdOf c.seq = some x ∧ t.strands = s.strands
        ∧ ((∀ p ∈ c.flight, p ∈ c.refused) → (∃ job f m, x.state = .stopped job f m) ∧ x.flight = [])
        ∧ ((∃ p ∈ c.flight, p ∉ c.refused) → x.state = .running ∧ x.failed.isSome = true ∧ ∀ p, p ∈ x.flight ↔ p ∈ c.flight ∧ p ∉ c.refused))
      ∧ (c.engine = some .sett → ∃ t : State, exec .overlimExpiry s = .next t ∧ Quiet s t ∧ t.coursing.overruns = s.coursing.overruns)))
  ∧ (∀ s b, s.boundary = some b → s.coursing.edged = true → s.coursing.overlimDone = true →
    let k := s.coursing
    ∃ t : State, exec .courseBoundary s = .next t ∧ t.time = max s.time b ∧ t.coursing.began = b ∧ t.coursing.held = false ∧ t.coursing.edged = false
      ∧ t.coursing.donations = [] ∧ t.coursing.drainleadNow = k.drainlead ∧ t.coursing.overlimNow = k.overlim ∧ t.coursing.table = k.table
      ∧ t.coursing.enable = true
      ∧ (k.enable = true → s.lastCourse = false → t.coursing.course = k.course + 1 ∧ t.coursing.active = k.active ∧ t.coursing.frames = k.frames
        ∧ t.coursing.fstart = k.fstart ∧ t.coursing.pending = k.pending)
      ∧ (k.enable = false ∨ (s.lastCourse = true ∧ k.pending = true ∧ k.skipFrame = false) → t.coursing.course = 0 ∧ t.coursing.active = !k.active
        ∧ t.coursing.activeN = k.pendingN ∧ t.coursing.pending = false ∧ t.coursing.frames = k.frames + 1 ∧ t.coursing.fstart = BitVec.ofNat 64 b)
      ∧ (k.enable = true → s.lastCourse = true → (k.pending = false ∨ k.skipFrame = true) → t.coursing.course = 0 ∧ t.coursing.active = k.active
        ∧ t.coursing.activeN = k.activeN ∧ t.coursing.pending = k.pending ∧ t.coursing.frames = k.frames + 1
        ∧ t.coursing.fstart = BitVec.ofNat 64 b)
      ∧ ∀ c n, c < 768 → s.coreChanges c = true → (s.coreAt c).phase = .saved n → CoreScrubbed t c)

/-- R80 to R83, R87, R314, R316, R318: a settled quad that is stopped is saved: its commands, its parked messages and its record are Lintel's, and each byte of its scratchpad
that is not lost stands in the save area; one that has not settled waits. A save that passed its boundary ends in the scrub, and past the edge at which the new holder leaves again nothing is restored there. A core is
restored after its quad, which is the model's reading (log entry 33), and a restored wait on memory reads again at once. A restore without a save makes the
quad or core run; with one, the commands go on, and a strand record that passes its check gives the strand back, register by register, while one that does not ends its
strand with 0x80. -/
def Obligations.SavesAndRestores : Prop :=
  (∀ s a n, (s.quadAt a).phase = .stopped n →
    (s.quadSettled a = false → exec (.quadSave a) s = .next s)
    ∧ (s.quadSettled a = true → s.quadHolder a = some n → (s.quadAt a).late = false → ∃ (t : State) (v : SavedQuad), exec (.quadSave a) s = .next t ∧ CoresStand s t
      ∧ (t.quadAt a).phase = .saved n ∧ t.savedQuad n a = some v ∧ v.cmds = (s.quadAt a).cmds ∧ v.inbox = (s.quadAt a).inbox
      ∧ v.phint = (s.quadAt a).phint
      ∧ (Inv s → a < 192 → (s.quadAt a).phint = [] → (s.quadAt a).cmds.length ≤ 64 → (s.quadAt a).inbox.length ≤ 512 → s.saveBase n % 4096 = 0 → s.saveBase n % 2 ^ 48 + 0x50000000 ≤ 2 ^ 37 → isDevice (s.saveBase n) = true →
        s.homeState (s.saveBase n / 2 ^ 48) ≠ .lost → s.homeState (s.saveBase n / 2 ^ 48) ≠ .held → (∀ l, s.saveBase n / 128 ≤ l → l < s.saveBase n / 128 + 0xA00000 → s.homeQuiet l true = true) → s.keyCleared (s.keyOfTenant n) = false →
        ∀ i, i < 2 ^ 22 → (spAddr a i) / 128 ∉ s.homes.lost →
          t.mem.read (s.saveBase n + a * 0x500000 + 0x90000 + i) = s.mem.read (spAddr a i)))
    ∧ (s.quadSettled a = true → s.quadHolder a ≠ some n ∨ (s.quadAt a).late = true → ∃ t : State, exec (.saveLateComplete true a) s = .next t
      ∧ (t.savedQuad n a).isSome ∧ (∀ i, i < 2 ^ 22 → t.mem.read (spAddr a i) = 0) ∧ (t.quadAt a).cmds = [] ∧ (t.quadAt a).inbox = []
      ∧ (t.quadAt a).phint = [] ∧ (∀ i, i < 2 ^ 16 → SMap.get 0 t.acc (2 ^ 16 * a + i) = 0)
      ∧ (∀ i, i < 2 ^ 14 → SMap.get SettCell.reset t.sett (2 ^ 14 * a + i) = SettCell.reset)
      ∧ (t.quadAt a).phase = if (s.quadHolder a).isNone then .running else if s.coursing.edged && s.quadChanges a then .passed else .awaiting))
  ∧ (∀ s c n, (s.coreAt c).phase = .stopped n →
    (s.coreSettled c = true → s.holder c ≠ some n ∨ (s.coreAt c).late = true → ∃ t : State, exec (.saveLateComplete false c) s = .next t ∧ CoreScrubbed t c
      ∧ (t.savedCore n c).isSome
      ∧ (t.coreAt c).phase = if (s.holder c).isNone then .running else if s.coursing.edged && s.coreChanges c then .passed else .awaiting))
  ∧ (∀ s a n, (s.quadAt a).asleep = false → s.power.idle = false → s.quadHolder a = some n → (s.quadAt a).phase = .awaiting →
    s.areaReady (s.quadArea n a) 0x500000 = true → (∀ v, s.savedQuad n a = some v → ∀ l ∈ s.stagedLines n a v.phint, s.homeQuiet l false = true) →
    s.homeLost (s.quadArea n a) = false →
    ∃ t : State, exec (.lintelRestore true a) s = .next t ∧ (t.quadAt a).phase = .running ∧ t.strands = s.strands
      ∧ (s.savedQuad n a = none → t.mem = s.mem ∧ t.acc = s.acc)
      ∧ ∀ v, s.savedQuad n a = some v → t.savedQuad n a = none ∧ ∀ x ∈ v.cmds, { x with held := false } ∈ (t.quadAt a).cmds)
  ∧ (∀ s c n, (s.quadAt (agentOf c)).asleep = false → s.power.idle = false → s.holder c = some n → (s.coreAt c).phase = .awaiting →
    ((s.quadAt (agentOf c)).phase ≠ .running → exec (.lintelRestore false c) s = .next s)
    ∧ ((s.quadAt (agentOf c)).phase = .running → s.areaReady (s.coreArea n c) 0x60000 = true →
    (s.savedCore n c = none → ∃ t : State, exec (.lintelRestore false c) s = .next t ∧ (t.coreAt c).phase = .running ∧ t.strands = s.strands ∧ t.mem = s.mem)
    ∧ ∀ v slot w, s.savedCore n c = some v → v.strands = [(slot, w)] → v.packets = [] → coreOf slot = c →
      s.usedV c = [] → s.usedL c = [] → s.strandAt slot = none →
      let r := s.lintelGet n (s.saveBase n + 0x3C000000 + c * 0x60000 + 0x1000 + slot % 16 * 4096) 4096
      let w64 (off : Nat) : Word := BitVec.ofNat 64 (fieldN r (8 * off) 64)
      s.compOf w.lid = (w64 0xE0).toNat →
      let good : Prop := fieldN r 0 1 = 1 ∧ fieldN r 9 6 + vregCount (fieldN r 15 2) ≤ 64 ∧ fieldN r 17 6 + fieldN r 23 7 ≤ 64 ∧ 1 ≤ fieldN r 23 7
        ∧ (w64 8).toNat < 2 ^ 52 ∧ (w64 8).toNat % 2 = 0 ∧ (w64 8).toNat % 64 ≠ 0
      (good → ∃ (t : State) (u : Strand), exec (.lintelRestore false c) s = .next (t.waitRead slot) ∧ (t.coreAt c).phase = .running ∧ t.savedCore n c = none ∧ t.strandAt slot = some u
        ∧ u.lid = w.lid ∧ u.pc = (w64 8).setWidth 52 ∧ u.gen = w64 0x18 ∧ u.wsp = w64 0x30 ∧ u.tvec = w64 0x48 ∧ u.epc = w64 0x50
        ∧ u.cause = w64 0x58 &&& 0xFFF ∧ u.tval = w64 0x60 ∧ u.inh = (fieldN r 4 1 == 1) ∧ u.priv = (fieldN r 3 1 == 1)
        ∧ (fieldN r 30 1 = 0 → ∀ g : BitVec 4, g ≠ 0 → u.getG g = w64 (0x100 + 8 * g.toNat))
        ∧ (∀ m : BitVec 3, m ≠ 0 → u.getM m = BitVec.ofNat 1024 (fieldN r (8 * (0x240 + 128 * m.toNat)) 1024)) ∧ t.mem = s.mem)
      ∧ (¬good → ∃ t : State, exec (.lintelRestore false c) s = .next t ∧ t.strandAt slot = none
        ∧ ∀ l, s.launchOf w.lid = some l → ∃ m, t.launchOf w.lid = some m ∧ m.xcode = l.xcode ||| 0x80)))

/-- R64, R81, R86, R376, R377: a store, or an `HSEND` piece, that comes to a stopped quad of its tenant is parked behind the others, and is refused when 512 are parked, which counts the first time; a core with 128 refused stores sends no other; a
packet beyond the 32 of a leaving core puts its strand back, a `MIGR` with 0 and an access to be performed where the strand is. A refused message is offered again once the quad takes it. An idle bay that
its share allows is noted, and after its IDLE time donated. -/
def Obligations.MessagesAreParkedAndBaysDonated : Prop :=
  (∀ s core a p rest, (s.coreAt core).queue = a :: rest → a.kind = .store → a.pieces = [p] → p.done = false → p.refused = false →
    p.nib = none → isScratch p.pa = true → (∀ x ∈ rest, x.id ≠ a.id) →
    let q := p.pa / 2 ^ 24 % 256
    q ≠ agentOf core → (s.quadAt q).phase = .stopped a.tenant →
    ((s.quadAt q).inbox.length < 512 → ∃ (t : State) (e : InboxEntry), exec (.parkMessage (.store core a.id)) s = .next t ∧ t.mem = s.mem
      ∧ (t.quadAt q).inbox = (s.quadAt q).inbox ++ [e] ∧ e.offset = p.pa % 2 ^ 24 / 128 * 128
      ∧ e.data = (List.range p.bytes).map (fun i => (p.pa % 2 ^ 24 + i, BitVec.ofNat 8 (p.val / 2 ^ (8 * i))))
      ∧ (t.coreAt core).queue = pruneFences [] rest)
    ∧ (512 ≤ (s.quadAt q).inbox.length → (s.refusedStores core).length < 128 → ∃ t : State, exec (.parkMessage (.store core a.id)) s = .next t
      ∧ t.mem = s.mem ∧ t.strands = s.strands ∧ t.quads = s.quads
      ∧ (t.coreAt core).queue = { a with pieces := [{ p with refused := true, again := true }] } :: rest
      ∧ t.counterAt (execCounter a.tenant 0x58) = if p.again then s.counterAt (execCounter a.tenant 0x58) else
        { count := BitVec.ofNat 32 (min ((s.counterAt (execCounter a.tenant 0x58)).count.toNat + 1) (2 ^ 32 - 1)), last := BitVec.ofNat 32 s.time })
    ∧ (512 ≤ (s.quadAt q).inbox.length → 128 ≤ (s.refusedStores core).length → exec (.parkMessage (.store core a.id)) s = .next s))
  ∧ (∀ s agent c piece p d pa, (s.quadAt agent).cmdOf c.seq = some c → c.op.piece piece = some p → c.state = .running →
    (s.quadAt agent).runsOn = true → c.mayLand piece = true → piece ∉ c.refused → s.pieceData agent c p = .ok d → s.pieceDst agent c p = .ok pa →
    isScratch pa = true →
    let q := pa / 2 ^ 24 % 256
    q ≠ agent → (s.quadAt q).phase = .stopped c.tenant →
    ((s.quadAt q).inbox.length < 512 → ∃ (t : State) (e : InboxEntry), exec (.parkMessage (.piece agent c.seq piece)) s = .next t
      ∧ (t.quadAt q).inbox = (s.quadAt q).inbox ++ [e] ∧ e.bb = c.bb ∧ e.count = p.len ∧ e.cond = d.cond
      ∧ e.data = (List.range p.len).map (fun i => (pa % 2 ^ 24 + i, BitVec.ofNat 8 (d.val / 2 ^ (8 * i)))) ∧ t.strands = s.strands)
    ∧ (512 ≤ (s.quadAt q).inbox.length → ∃ (t : State) (x : Cmd), exec (.parkMessage (.piece agent c.seq piece)) s = .next t ∧ t.mem = s.mem
      ∧ (t.quadAt agent).cmdOf c.seq = some x ∧ piece ∈ x.refused ∧ (t.quadAt q).inbox = (s.quadAt q).inbox))
  ∧ (∀ s core p st, (s.coreAt core).inbox.getLast? = some p → 32 < (s.coreAt core).inbox.length → (s.coreAt core).phase ≠ .running →
    s.strandAt p.source = some st → ∃ (t : State) (u : Strand), exec (.parkMessage (.packet core)) s = .next t ∧ (t.coreAt core).inbox = (s.coreAt core).inbox.dropLast
      ∧ t.strandAt p.source = some u ∧ u.wait = .ready ∧ t.mem = s.mem
      ∧ (p.dst = none → u = { st with wait := .ready, since := some 1 })
      ∧ ∀ d, p.dst = some d → ∀ r, u.getG r = if r = d ∧ d ≠ 0 then 0 else st.getG r)
  ∧ (∀ s core a rest, (s.coreAt core).queue = a :: rest → (∃ p ∈ a.pieces, p.done = false) → ∃ (t : State) (b : Access),
    exec (.messageReoffer (.store core a.id)) s = .next t ∧ (t.coreAt core).queue.head? = some b ∧ t.mem = s.mem ∧ t.strands = s.strands
      ∧ b.pieces = a.pieces.map fun p => { p with refused := p.refused && !s.quadOpen a.tenant (p.pa / 2 ^ 24 % 256) })
  ∧ (∀ s die bay, die < 4 → bay < 8 → s.coursing.enable = true → s.coursing.edged = false → s.dieUp die = true →
    let k := s.coursing
    let b := courseBay k.table k.active k.course.toNat die bay
    let r := courseShare k.table k.active k.course.toNat b.tenant
    b.valid = true → shareDonate r = true → (∀ d ∈ k.donations, ¬(d.die = die ∧ d.bay = bay)) → s.bayIdle die bay b.tenant = true →
    (SMap.find k.idleSince (8 * die + bay) = none → ∃ t : State, exec (.bayDonation die bay) s = .next t ∧ Quiet s t
      ∧ SMap.find t.coursing.idleSince (8 * die + bay) = some s.time ∧ t.coursing.donations = k.donations)
    ∧ (∀ since, SMap.find k.idleSince (8 * die + bay) = some since → ∃ t : State, exec (.bayDonation die bay) s = .next t
      ∧ t.time = max s.time (since + shareIdle r * 160)
      ∧ t.coursing.donations = k.donations ++ [{ die := die, bay := bay, owner := b.tenant, donee := shareDonee r }]
      ∧ t.coursing.donated = BitVec.ofNat 16 (min (k.donated.toNat + 1) 0xFFFF)))

/-! ### Control windows and the mailbox (spec/02_execution.md R47; 03_coursing.md R66; 05_storage_coherence.md R137, R359; 13_traps_context.md R309, R319; 14_host_peer.md R333; 15_trust_debug_power.md R338 to R354; 21_faults_execution.md R371 to R375; 22_faults_memory.md R396, R399 to R401) -/

/-- R47, R66, R309, R319, R333, R340, R371, R396, R401: a party writes aligned registers of 4 or 8 bytes where it may, and nothing elsewhere. The hypervisor's writes give a launch queue its base and its
configuration, which is enabled only with LOGN 4 to 12; write ones clear the flags of `QSTAT`; the fault queues, the ASID table base, the pod's own number, the
host time limits and the read position of the error log take what is written. A command written to the mailbox while another runs sets COLL
alone. Which blocks a party may write, where the pages do not say it, is the model's reading (log entry 29). -/
def Parts.PartiesWriteRegisters : Prop :=
  (∀ s who pa n v, (n ≠ 4 ∧ n ≠ 8) ∨ pa % n ≠ 0 ∨ partyWrites who pa = false →
    ((∀ p, who ≠ .host p) → exec (.registerWrite who pa n v) s = .next s)
    ∧ ∀ p, who = .host p → ∃ t : State, exec (.registerWrite who pa n v) s = .next t ∧ Quiet s t ∧ t.sys = s.sys ∧ t.keystone = s.keystone
      ∧ t.hub.queues = s.hub.queues ∧ SMap.find t.hub.told (96 + p) = some .unsupported)
  ∧ (∀ s pa n v, s.sys.mcuHeld = true → exec (.registerWrite .firmware pa n v) s = .next s)
  ∧ (∀ s v,
    let Sets (pa : Nat) (P : State → Prop) : Prop := ∃ t : State, exec (.registerWrite .hypervisor pa 8 v) s = .next t ∧ Quiet s t ∧ P t
    (∀ n, n < 64 →
      let q := s.queueAt n
      let at_ := 0xA100000000000 + n * 2 ^ 17
      Sets at_ (fun t => t.queueAt n = { q with
        tenant := v.extractLsb' 0 6, asid := v.extractLsb' 6 16, logn := v.extractLsb' 22 4, priv := v.getLsbD 26
        enable := v.getLsbD 27 && decide (4 ≤ (v.extractLsb' 22 4).toNat) && decide ((v.extractLsb' 22 4).toNat ≤ 12) })
      ∧ Sets (at_ + 8) (fun t => t.queueAt n = { q with base := BitVec.ofNat 52 (v.toNat / 64 * 64) })
      ∧ Sets (at_ + 0x20) (fun t => t.queueAt n = { q with
          overrun := q.overrun && !v.getLsbD 16, compfault := q.compfault && !v.getLsbD 17, ringfault := q.ringfault && !v.getLsbD 18 }))
    ∧ (∀ n, n < 64 →
      let q := SMap.get FaultQueue.reset s.hub.faultQueues n
      let at_ := 0xA100000900000 + n * 4096
      Sets (at_ + 8) (fun t => SMap.get FaultQueue.reset t.hub.faultQueues n = { q with base := BitVec.ofNat 52 (v.toNat / 64 * 64) })
      ∧ Sets (at_ + 0x10) (fun t => SMap.get FaultQueue.reset t.hub.faultQueues n = { q with head := v }))
    ∧ Sets 0xA100000800000 (fun t => t.hub.atbase = BitVec.ofNat 52 (v.toNat / 2 ^ 20 * 2 ^ 20))
    ∧ Sets 0xA100000A00000 (fun t => t.pod.self = v.extractLsb' 0 6 ∧ t.pod.enable = v.getLsbD 6)
    ∧ Sets 0xA300000090008 (fun t => t.sys.elhead = v ∧ t.sys.eltail = s.sys.eltail)
    ∧ (∀ p, p < 2 → Sets (0xA300000090100 + 8 * p) (fun t => t.sys.bifail.getLsbD p = (s.sys.bifail.getLsbD p && !v.getLsbD 16)
        ∧ (v.extractLsb' 0 16 ≠ 0 → t.sys.bito.toList.getD p 0 = v.extractLsb' 0 16)))
    ∧ (s.keystone.busy = true → Sets 0xF000000000000 (fun t => t.keystone = { s.keystone with coll := true }))
    ∧ (s.keystone.busy = false → Sets 0xF000000000000 (fun t => t.keystone.busy = true ∧ t.keystone.ready = false
        ∧ t.keystone.code = v.extractLsb' 0 8 ∧ t.keystone.len = v.extractLsb' 16 16 ∧ t.keystone.requester = some (.inl .hypervisor)
        ∧ t.keystone.buf = s.keystone.buf)))

/-- R372, R375, R399, R400: `ECCLR` clears the counters of one page whose bits are 1 and no other; the structure counters are cleared together. `LKCTL.GO` ends every strand of the tenant's placed launches with that COMP, and sets
NONE where there is none; that it ends them in one step is the model's choice (log entry 31), and so is that a matching GO clears NONE (log
entry 38). A counter is cleared whole, its LAST field with it (log entry 21). -/
def Parts.CountersAreClearedAndLaunchesEnded : Prop :=
  (∀ s mp tenant clr,
    let base := if mp then 0xA300000040000 + tenant * 4096 else 0xA300000000000 + tenant * 4096
    ∃ t : State, exec (.ecclr mp tenant clr) s = .next t ∧ Quiet s t ∧ ∀ pa, t.counterAt pa =
      if base ≤ pa ∧ pa < base + 120 ∧ clr.getLsbD ((pa - base) / 8) = true then Counter.reset else s.counterAt pa)
  ∧ (∀ s, ∃ t : State, exec .structCounterClear s = .next t ∧ Quiet s t ∧ ∀ pa, t.counterAt pa =
      if 0xA300000080000 ≤ pa ∧ pa < 0xA300000082000 then Counter.reset else s.counterAt pa)
  ∧ (∀ s tenant, tenant < 64 → s.sys.lkbusy.getLsbD tenant = false →
    let hit (l : Launch) : Prop := l ∈ s.hub.launches ∧ l.tenant = tenant ∧ l.state = .placed ∧ recComp l.record = (SMap.get (0 : Word) s.sys.lkcomp tenant).toNat
    ((∀ l, ¬hit l) → ∃ t : State, exec (.lkctlGo tenant) s = .next t ∧ Quiet s t ∧ t.sys.lknone.getLsbD tenant = true)
    ∧ ((∃ l, hit l) → ∃ t : State, exec (.lkctlGo tenant) s = .next t ∧ t.sys.lknone.getLsbD tenant = false ∧ ∀ l, hit l →
      (∀ k u, t.strandAt k = some u → u.lid ≠ l.lid)
      ∧ ((∃ k u, s.strandAt k = some u ∧ u.lid = l.lid) → ∃ m, t.launchOf l.lid = some m ∧ m.xcode.getLsbD 7 = true)))

/-- R137, R359: `SNAP` reads the directory entry, the horizons and the tile record of the region that the port names, or sets BAD where the region is not of its slice; `EN` latches the region and `CLR` empties
the trace ring. No other port changes. -/
def Parts.DebugPortsOfTheHomes : Prop :=
  ∀ s home slice, home < 6 → slice < 32 →
    let k := 32 * home + slice
    let p := s.portAt k
    let region := p.region.toNat / 512
    let Does (i : Instr) (P : DebugPort → Prop) : Prop := ∃ t : State, exec i s = .next t ∧ Quiet s t ∧ P (t.portAt k) ∧ ∀ j, j ≠ k → t.portAt j = s.portAt j
    (inSlice region k = false → Does (.dpSnap home slice) fun x => x.done = true ∧ x.bad = true ∧ x.ent = 0)
    ∧ (inSlice region k = true → Does (.dpSnap home slice) fun x => x.done = true ∧ x.bad = p.bad
      ∧ (∀ i : Fin 4, x.hzn[i] = BitVec.ofNat 64 (s.horizonOf (4 * region + i)))
      ∧ (s.dirAt region = DirEntry.reset → s.busyBits region = 0 → x.ent = 0)
      ∧ (s.dirAt region ≠ DirEntry.reset → x.ent = BitVec.ofNat 128 ((s.dirAt region).bits (s.busyBits region))))
    ∧ Does (.dptEnable home slice) (fun x => x.en = true ∧ (inSlice region k = true → x.latched = region) ∧ x.ring = p.ring ∧ x.count = p.count)
    ∧ Does (.dptClear home slice) (fun x => x.en = p.en ∧ x.count = 0 ∧ x.events = 0 ∧ x.ring = [] ∧ x.latched = p.latched)

/-- R47, R66, R137, R309, R319, R333, R340, R359, R371, R372, R375, R396, R399 to R401: the registers of the control windows. Log entries 21, 29,
31 and 38 say which clauses are the model's. -/
def Obligations.ControlWindows : Prop :=
  Parts.PartiesWriteRegisters ∧ Parts.CountersAreClearedAndLaunchesEnded ∧ Parts.DebugPortsOfTheHomes

/-- The mailbox holds a command of a requester that has not run. -/
structure Latched (s : State) (code len : Nat) (who : Party ⊕ Nat) : Prop where
  busy : s.keystone.busy = true ∧ s.keystone.ready = false
  command : s.keystone.code.toNat = code ∧ s.keystone.len.toNat = len ∧ s.keystone.requester = some who

/-- The command has run and its reply stands in the buffer; `more` says what else it did. -/
def Replies (i : Instr) (s : State) (result : Nat) (data : List Byte) (more : State → Prop) : Prop :=
  ∃ t : State, exec i s = .next t ∧ t.keystone.ready = true ∧ t.keystone.busy = true ∧ t.keystone.result = BitVec.ofNat 8 result
    ∧ t.keystone.rlen = BitVec.ofNat 16 data.length ∧ (∀ j, j < data.length → SMap.get 0 t.keystone.buf (0x100 + j) = data.getD j 0) ∧ more t

/-- n bytes of the arguments, little-endian. -/
def argument (s : State) (off n : Nat) : Nat :=
  ((List.range n).map fun i => (SMap.get (0 : Byte) s.keystone.buf (0x100 + off + i)).toNat * 2 ^ (8 * i)).sum

/-- The bytes with which the responder answers a request now. -/
def spdmAnswer (s : State) (request : List Byte) : List Byte :=
  Config.spdmFormat s.free request (s.keystone.spdmAnswer s.free request (Config.spdmParse request))

/-- R338, R339, R353, R354: SPDM 1.2 with SLH-DSA-SHAKE-256s and SHA3-512, as a responder alone: `CHALLENGE` of slot 0 is answered, signed by the identity key,
in the locked lifecycle and in no other; measurement blocks 1 to 5 are given in every lifecycle, and signed in the locked one where that is asked;
the chain of slot 0 is given once the identity key exists; key exchange, secured messages and mutual authentication are refused. That each message
is answered on its own, and that the identity key exists from the locked lifecycle on, is the model's reading (log entry 11). -/
def Parts.TheResponderAnswers : Prop :=
  ∀ (k : Keystone) use bytes,
    let chain := (Config.issuerKeys ++ [Config.identityKey]).flatMap Config.certificate
    k.spdmAnswer use bytes .getVersion = .version 1 2
    ∧ k.spdmAnswer use bytes .negotiateAlgorithms = .algorithms .slhDsaShake256s .sha3_512
    ∧ (k.lifecycle = .locked → k.spdmAnswer use bytes (.challenge 0) =
        .challengeAuth (Config.sha3_512 chain) (Config.identitySignature use bytes [Config.sha3_512 chain]))
    ∧ (∀ slot, k.lifecycle ≠ .locked ∨ slot ≠ 0 → k.spdmAnswer use bytes (.challenge slot) = .refused)
    ∧ (∀ blocks signed, ∃ sig,
        let l := (blocks.filter fun i => decide (1 ≤ i) && decide (i ≤ 5)).map fun i => (i, SMap.get (0 : BitVec 512) k.meas i)
        k.spdmAnswer use bytes (.getMeasurements blocks signed) = .measurements l sig
        ∧ sig = if signed = true ∧ k.lifecycle = .locked then some (Config.identitySignature use bytes (l.map Prod.snd)) else none)
    ∧ (k.lifecycle ≠ .isOpen → ∀ off n, k.spdmAnswer use bytes (.getCertificate 0 off n) =
        .certificate ((chain.drop off).take n) (chain.length - (off + n)))
    ∧ ∀ q ∈ [SpdmRequest.keyExchange, .secured, .mutualAuth, .other], k.spdmAnswer use bytes q = .refused

/-- R339 to R344: a command that has run, or an unknown one with RESULT 1, ends with DONE; an SPDM request is answered over the measurements by the mailbox and by a port's DOE, where
one that finds a command running waits and is served, in the order of arrival, when it ends. `KEYGEN` and `KEYCLR` of an index
that nothing names replace or clear that key alone, and are refused with RESULT 3 where an entry names it; `TKEYSET` gives a tenant its index. A requester that the
table does not allow gets RESULT 3 and changes nothing. Where the arguments of the buffer lie is the model's choice (log entry 18). -/
def Parts.MailboxCommands : Prop :=
  (∀ s, s.keystone.busy = true →
    (s.keystone.ready = true → ∃ t : State, exec .mailboxComplete s = .next t ∧ Quiet s t
      ∧ t.keystone = { s.keystone with
          busy := false, ready := false, done := true, doeWaiting := []
          doeReply := s.keystone.doeWaiting.foldl (fun m x => m.put x.1 (spdmAnswer s x.2)) s.keystone.doeReply })
    ∧ (s.keystone.ready = false → s.keystone.code.toNat ∉ [0x01, 0x10, 0x11, 0x12, 0x13, 0x20, 0x21, 0x22, 0x30, 0x31] →
      ∃ t : State, exec .mailboxComplete s = .next t ∧ Quiet s t ∧ t.keystone.busy = false ∧ t.keystone.done = true ∧ t.keystone.result = 1))
  ∧ (∀ s n who, Latched s 0x01 n who →
    Replies .spdm s 0 ((spdmAnswer s ((List.range n).map fun i => SMap.get 0 s.keystone.buf (0x100 + 0 + i))).take 65280) fun t => Quiet s t)
  ∧ (∀ s port req, port < 2 → s.portUp port = true →
    (s.keystone.busy = false → ∃ t : State, exec (.doeSpdmRequest port req) s = .next t ∧ Quiet s t
      ∧ SMap.find t.keystone.doeReply port = some (spdmAnswer s req) ∧ t.keystone.meas = s.keystone.meas)
    ∧ (s.keystone.busy = true → ∃ t : State, exec (.doeSpdmRequest port req) s = .next t ∧ Quiet s t
      ∧ t.keystone = { s.keystone with doeWaiting := s.keystone.doeWaiting ++ [(port, req)] }))
  ∧ (∀ s n who,
    let i := argument s 0 2
    let slot (t : State) (k : Nat) : KeySlot := SMap.get KeySlot.reset t.keystone.keys k
    let manager : Prop := who = .inl .firmware ∨ who = .inl .hypervisor
    (Latched s 0x10 n who → manager → 2 ≤ n → i < 2048 → s.keystone.lifecycle ≠ .decommissioned →
      (s.keyNamed i = true → Replies .keygen s 3 [] fun t => Quiet s t ∧ t.keystone.keys = s.keystone.keys)
      ∧ (s.keyNamed i = false → Replies .keygen s 0 [] fun t => Quiet s t ∧ slot t i = { gen := (slot s i).gen + 1, filled := true, cleared := false }
        ∧ (∀ k, k ≠ i → slot t k = slot s k) ∧ ∀ e ∈ t.copies, e.2.key ≠ i))
    ∧ (Latched s 0x11 n who → manager → 2 ≤ n → i < 2048 →
      (s.keyNamed i = true → Replies .keyclr s 3 [] fun t => Quiet s t ∧ t.keystone.keys = s.keystone.keys)
      ∧ (s.keyNamed i = false → Replies .keyclr s 0 [] fun t => Quiet s t ∧ slot t i = { gen := (slot s i).gen + 1, filled := false, cleared := true }
        ∧ (∀ k, k ≠ i → slot t k = slot s k) ∧ ∀ e ∈ t.copies, e.2.key ≠ i))
    ∧ (Latched s 0x12 n who → manager → 3 ≤ n → argument s 0 1 < 64 → argument s 1 2 < 2048 → Replies .tkeyset s 0 [] fun t => Quiet s t
      ∧ ∀ k, (SMap.get (0 : BitVec 11) t.keystone.tkey k).toNat = if k = argument s 0 1 then argument s 1 2 else (SMap.get (0 : BitVec 11) s.keystone.tkey k).toNat)
    ∧ (¬manager → (Latched s 0x10 n who → Replies .keygen s 3 [] fun t => Quiet s t ∧ t.keystone.keys = s.keystone.keys)
      ∧ (Latched s 0x11 n who → Replies .keyclr s 3 [] fun t => Quiet s t ∧ t.keystone.keys = s.keystone.keys)
      ∧ (Latched s 0x12 n who → Replies .tkeyset s 3 [] fun t => Quiet s t ∧ t.keystone.tkey = s.keystone.tkey)
      ∧ (Latched s 0x13 n who → Replies .dbgkey s 3 [] fun t => Quiet s t ∧ t.keystone.dbgKeys = s.keystone.dbgKeys)
      ∧ (Latched s 0x30 n who → Replies .lifecycle s 3 [] fun t => Quiet s t ∧ t.keystone.lifecycle = s.keystone.lifecycle)
      ∧ (Latched s 0x31 n who → Replies .conf s 3 [] fun t => Quiet s t ∧ t.keystone.confNext = s.keystone.confNext)))

/-- R338 to R344, R353, R354: the mailbox, the responder and the keys. -/
def Obligations.MailboxAndKeys : Prop := Parts.MailboxCommands ∧ Parts.TheResponderAnswers

/-- A session ended: it is gone, and the strands of its tenant, or of every tenant, that were halted run again (R346). -/
def Resumed (s t : State) (tenant : Option Nat) : Prop :=
  (∀ x ∈ t.keystone.sessions, x.tenant ≠ tenant) ∧ t.mem = s.mem ∧ t.pool = s.pool
    ∧ ∀ k, t.strandAt k = (s.strandAt k).map fun st => if tenant = none ∨ tenant = some (s.tenantOf st) then { st with halt := .running } else st

/-- R341, R346, R349, R353, R354: `DBGKEY` registers a tenant's public key, `DBGNONCE` answers a nonce of 32 bytes, and `DBGAUTH` opens the session of a token with that nonce and a signature that the lifecycle accepts, once; another nonce is RESULT
2. Device debug clears every key and ends every strand. `DBGEND`, or `sr.time` past NOTAFTER, ends a session and its halted strands resume. The lifecycle moves from open to locked
at once, and to decommissioned at the next package reset; confidentiality 1 is for the locked lifecycle and takes effect at the next package
reset. A session whose strand is stepping expires once the step is complete. The layout and the codes of the arguments are the model's choice (log
entry 18), and so are the number 64 of the device session and what ends with a session (log entry 34). -/
def Obligations.DebugSessionsAndLifecycle : Prop :=
  (∀ s n who, Latched s 0x13 n who → (who = .inl .firmware ∨ who = .inl .hypervisor) → 65 ≤ n → argument s 0 1 < 64 →
    Replies .dbgkey s 0 [] fun t => Quiet s t ∧ SMap.find t.keystone.dbgKeys (argument s 0 1) =
      some ((List.range 64).map fun i => SMap.get 0 s.keystone.buf (0x100 + 1 + i)))
  ∧ (∀ s n who, Latched s 0x20 n who → ∃ nonce, nonce.length = 32 ∧ Replies .dbgnonce s 0 nonce fun t => Quiet s t ∧ t.keystone.nonce = some nonce)
  ∧ (∀ s n, Latched s 0x21 n (.inl .hypervisor) → 29872 ≤ n →
    let tok := s.keystone.args 0 29872
    (tokenLevel tok = 1 ∨ tokenLevel tok = 2 → (s.keystone.nonce ≠ some (tokenNonce tok) ∨ s.keystone.signed tok = false) →
      Replies .dbgauth s 2 [] fun t => Quiet s t ∧ t.keystone.sessions = s.keystone.sessions ∧ t.keystone.nonce = none)
    ∧ (tokenLevel tok = 1 → s.keystone.nonce = some (tokenNonce tok) → s.keystone.signed tok = true →
      Replies .dbgauth s 0 [] fun t => Quiet s t ∧ t.keystone.nonce = none
        ∧ { tenant := some (tokenTenant tok), notAfter := tokenNotAfter tok } ∈ t.keystone.sessions)
    ∧ (tokenLevel tok = 2 → s.keystone.nonce = some (tokenNonce tok) → s.keystone.signed tok = true →
      Replies .dbgauth s 0 [] fun t => t.keystone.nonce = none ∧ t.strands = [] ∧ t.keystone.conf = false
        ∧ { tenant := none, notAfter := tokenNotAfter tok } ∈ t.keystone.sessions
        ∧ ∀ k, k < 2048 → (SMap.get KeySlot.reset t.keystone.keys k).filled = false ∧ (SMap.get KeySlot.reset t.keystone.keys k).cleared = true))
  ∧ (∀ s n, Latched s 0x22 n (.inl .hypervisor) → 1 ≤ n → argument s 0 1 < 64 →
    (∃ x ∈ s.keystone.sessions, x.tenant = some (argument s 0 1)) → Replies .dbgend s 0 [] fun t => Resumed s t (some (argument s 0 1)))
  ∧ (∀ s tenant x, s.keystone.sessions.find? (fun y => y.tenant == if tenant < 64 then some tenant else none) = some x →
    let steps : Prop := ∃ e ∈ s.strands, e.2.halt = .stepping ∧ (tenant < 64 → s.tenantOf e.2 = tenant)
    (¬steps → ∃ t : State, exec (.debugSessionExpiry tenant) s = .next t ∧ t.time = max s.time (x.notAfter + 1)
      ∧ Resumed s t (if tenant < 64 then some tenant else none))
    ∧ (steps → exec (.debugSessionExpiry tenant) s = .next s))
  ∧ (∀ s n who, Latched s 0x30 n who → (who = .inl .firmware ∨ who = .inl .hypervisor) → 1 ≤ n →
    (argument s 0 1 = 1 → s.keystone.lifecycle = .isOpen → Replies .lifecycle s 0 [] fun t => Quiet s t ∧ t.keystone.lifecycle = .locked)
    ∧ (argument s 0 1 = 2 → s.keystone.lifecycle = .locked → Replies .lifecycle s 0 [] fun t => Quiet s t ∧ t.keystone.lifecycle = .locked
      ∧ t.keystone.decommission = true ∧ t.keystone.confNext = false)
    ∧ (s.keystone.lifecycle = .decommissioned → argument s 0 1 ≤ 2 → Replies .lifecycle s 3 [] fun t => Quiet s t ∧ t.keystone.lifecycle = .decommissioned))
  ∧ (∀ s n who, Latched s 0x31 n who → (who = .inl .firmware ∨ who = .inl .hypervisor) → 1 ≤ n →
    (argument s 0 1 = 0 → Replies .conf s 0 [] fun t => Quiet s t ∧ t.keystone.confNext = false ∧ t.keystone.conf = s.keystone.conf)
    ∧ (argument s 0 1 = 1 → s.keystone.lifecycle = .locked → s.keystone.decommission = false → Replies .conf s 0 [] fun t => Quiet s t
      ∧ t.keystone.confNext = true ∧ t.keystone.conf = s.keystone.conf)
    ∧ (argument s 0 1 = 1 → s.keystone.lifecycle ≠ .locked → Replies .conf s 3 [] fun t => Quiet s t ∧ t.keystone.confNext = s.keystone.confNext))

/-! ### Debug ports and errors (spec/15_trust_debug_power.md R347, R348; spec/20_prog_topk.md R370; spec/22_faults_memory.md R383 to R402; spec/23_faults_system.md R418) -/

/-- A counter has counted one event (R372). -/
def Counted (s t : State) (pa : Nat) : Prop :=
  t.counterAt pa = { count := BitVec.ofNat 32 (min ((s.counterAt pa).count.toNat + 1) (2 ^ 32 - 1)), last := BitVec.ofNat 32 t.time }

/-- An event word and a KIND stand in the error log where it has room (R401, R404). -/
def Logged (s t : State) (word kind : Nat) : Prop :=
  (s.sys.eltail - s.sys.elhead).toNat < 1024 → t.sys.eltail = s.sys.eltail + 1
    ∧ (SMap.get 0 t.sys.log (s.sys.eltail.toNat % 1024)).extractLsb' 0 52 = BitVec.ofNat 52 word
    ∧ (SMap.get 0 t.sys.log (s.sys.eltail.toNat % 1024)).extractLsb' 68 4 = BitVec.ofNat 4 kind
    ∧ (SMap.get 0 t.sys.log (s.sys.eltail.toNat % 1024)).extractLsb' 128 64 = BitVec.ofNat 64 t.time

/-- The strand in a slot becomes u, and nothing else of cores, quads and memory changes. -/
def Touches (s t : State) (slot : Nat) (u : Strand) : Prop :=
  t.strandAt slot = some u ∧ (∀ k, k ≠ slot → t.strandAt k = s.strandAt k) ∧ t.mem = s.mem ∧ t.quads = s.quads ∧ t.acc = s.acc
    ∧ t.sett = s.sett ∧ t.localMem = s.localMem

/-- A debug port's request is refused: it has no effect and counts in DBGDENY (R418). -/
def Denied (i : Instr) (s : State) : Prop := ∃ t : State, exec i s = .next t ∧ Quiet s t ∧ t.keystone = s.keystone ∧ Counted s t 0xA300000092038

/-- R347, R348, R418: within an open session the port halts a strand, releases it for one instruction, and reads and writes its registers and its
program counter. A strand of a tenant that no session reaches is refused and counted, and so is a physical address without device debug. -/
def Parts.ThePortReachesStrands : Prop :=
  (∀ s slot st, s.strandAt slot = some st →
    let reached := s.keystone.sessions.any fun (x : Session) => (x.tenant == none || x.tenant == some (s.tenantOf st)) && decide (s.time ≤ x.notAfter)
    let Reads (q : DebugReq) (v : Nat) : Prop := ∃ t : State, exec (.debugPortRequest q) s = .next t ∧ Quiet s t ∧ SMap.get 0 t.replies 300 = BitVec.ofNat 64 v
    let Sets (i : Instr) (u : Strand) : Prop := ∃ t : State, exec i s = .next t ∧ Touches s t slot u ∧ t.pool = s.pool ∧ t.cores = s.cores
    (s.tenantOf st < 64 → reached = true →
      Sets (.debugHalt slot) { st with halt := .halted }
      ∧ (st.halt = .halted → Sets (.debugStep slot) { st with halt := .stepping })
      ∧ (∀ r, Reads (.readScalar slot r) (st.getG r).toNat)
      ∧ (∀ r v, ∃ (t : State) (u : Strand), exec (.debugPortRequest (.writeScalar slot r v)) s = .next t ∧ Touches s t slot u
        ∧ ∀ q, u.getG q = if q = r ∧ r ≠ 0 then v else st.getG q)
      ∧ Reads (.readPc slot) st.pc.toNat
      ∧ (∀ v, ∃ (t : State) (u : Strand), exec (.debugPortRequest (.writePc slot v)) s = .next t ∧ Touches s t slot u ∧ u.pc = v ∧ u.g = st.g)
      ∧ Reads (.readPredicates slot) (st.pw ||| 1).toNat)
    ∧ (reached = false → s.tenantOf st < 64 → Denied (.debugHalt slot) s ∧ Denied (.debugStep slot) s ∧ (∀ r, Denied (.debugPortRequest (.readScalar slot r)) s)
      ∧ (∀ r v, Denied (.debugPortRequest (.writeScalar slot r v)) s) ∧ (∀ v, Denied (.debugPortRequest (.writePc slot v)) s)
      ∧ ∀ r i, Denied (.debugPortRequest (.readVector slot r i)) s))
  ∧ (∀ s pa n v,
    ((∀ x ∈ s.keystone.sessions, x.tenant ≠ none ∨ x.notAfter < s.time) → Denied (.debugPortRequest (.readPhysical pa n)) s
      ∧ Denied (.debugPortRequest (.writePhysical pa n v)) s)
    ∧ ((∃ x ∈ s.keystone.sessions, x.tenant = none ∧ s.time ≤ x.notAfter) → s.decodes pa = true → isControl pa = true → n = 4 ∨ n = 8 → pa % n = 0 →
      ∃ t : State, exec (.debugPortRequest (.readPhysical pa n)) s = .next t ∧ Quiet s t
        ∧ SMap.get 0 t.replies 300 = BitVec.ofNat 64 (s.regRead pa n)))

/-- A session of a tenant, or of device debug for none, is open (R346). -/
def Opened (s : State) (session : Option Nat) : Prop := ∃ x ∈ s.keystone.sessions, x.tenant = session ∧ s.time ≤ x.notAfter

/-- R347, R348, R370, R418: an open session has four head comparators at each core; a match at the head of a strand that it reaches halts the strand
before the head and changes no register. `continue at t` writes the release comparator of the session: the strands that the session has halted run on at once
where t has passed, and otherwise none runs on yet. Without the session either is refused. That each session has a comparator of its own, and what it releases, is the
model's reading (log entry 34). -/
def Parts.BreakpointsAndTheReleaseComparator : Prop :=
  (∀ s session core a,
    (Opened s session →
      ((s.coreAt core).breaks.length < 4 → (session, a) ∉ (s.coreAt core).breaks →
        ∃ t : State, exec (.debugPortRequest (.setBreak session core a)) s = .next t ∧ t.strands = s.strands ∧ t.mem = s.mem
          ∧ (t.coreAt core).breaks = (s.coreAt core).breaks ++ [(session, a)])
      ∧ (4 ≤ (s.coreAt core).breaks.length → exec (.debugPortRequest (.setBreak session core a)) s = .next s)
      ∧ ∃ t : State, exec (.debugPortRequest (.deleteBreaks session core)) s = .next t ∧ t.strands = s.strands ∧ t.mem = s.mem
          ∧ ∀ b, b ∈ (t.coreAt core).breaks ↔ b ∈ (s.coreAt core).breaks ∧ b.1 ≠ session)
    ∧ (¬Opened s session → Denied (.debugPortRequest (.setBreak session core a)) s ∧ Denied (.debugPortRequest (.deleteBreaks session core)) s))
  ∧ (∀ s slot st, s.strandAt slot = some st →
    let at_ : Prop := (none, st.pc) ∈ (s.coreAt (coreOf slot)).breaks ∨ (some (s.tenantOf st), st.pc) ∈ (s.coreAt (coreOf slot)).breaks
    (st.halt = .running → at_ → ∃ t : State, exec (.breakpointMatch slot) s = .next t ∧ Touches s t slot { st with halt := .halted } ∧ t.pool = s.pool
      ∧ t.cores = s.cores)
    ∧ (¬at_ → exec (.breakpointMatch slot) s = .next s))
  ∧ (∀ s session n,
    (¬Opened s session → Denied (.continueAt ⟨session, n⟩) s)
    ∧ (Opened s session → ∃ t : State, exec (.continueAt ⟨session, n⟩) s = .next t ∧ t.time = s.time ∧ t.mem = s.mem ∧ t.pool = s.pool
      ∧ (n ≤ s.time → ∀ slot st, s.strandAt slot = some st → (∀ tenant, session = some tenant → s.tenantOf st = tenant) →
          t.strandAt slot = some { st with halt := if st.halt = .halted then .released else st.halt })
      ∧ (s.time < n → (session, n) ∈ t.keystone.releases
          ∧ ((∀ x ∈ s.keystone.releases, s.time < x.2) → t.strands = s.strands))))

/-- R347, R348, R370, R418: what the debug port does for an open session, and refuses without one. -/
def Obligations.DebugPortReachesItsTenants : Prop := Parts.ThePortReachesStrands ∧ Parts.BreakpointsAndTheReleaseComparator

/-- R386: an error in a register of a strand zeroes it and sets bit 0 of `sr.lost`; in a special register or the program counter it ends the strand with 0x80. A piece of local store, an accumulator
and a cell are zeroed too, and the strand, the bank's lost flag or the array's latch says so. Each counts for the tenant and for the structure. -/
def Obligations.PrivateStateErrorsZero : Prop :=
  (∀ s slot st, s.strandAt slot = some st →
    let Strikes (x : PrivateTarget) (P : State → Strand → Prop) : Prop := ∃ (t : State) (u : Strand), exec (.privateStateError x) s = .next t ∧ Touches s t slot u
      ∧ u.lost = st.lost ||| 1 ∧ Counted s t (0xA300000040000 + s.tenantOf st * 4096 + 0x20) ∧ Counted s t 0xA3000000800A8 ∧ P t u
    s.tenantOf st < 64 →
    (∀ r, Strikes (.scalar slot r) fun t u => (∀ q, u.getG q = if q = r then 0 else st.getG q) ∧ u.pw = st.pw ∧ u.masks = st.masks ∧ t.pool = s.pool)
    ∧ (∀ r : BitVec 5, r.toNat < st.vcount → Strikes (.vector slot r) fun t u => u.g = st.g ∧ u.pw = st.pw ∧ u.masks = st.masks
        ∧ ∀ q, q < st.vcount → t.getV slot u q = if q = r.toNat then 0 else s.getV slot st q)
    ∧ Strikes (.predicates slot) (fun t u => u.pw = 0 ∧ u.g = st.g ∧ u.masks = st.masks ∧ t.pool = s.pool)
    ∧ (∀ m, Strikes (.mask slot m) fun t u => (∀ q, u.getM q = if q = m ∧ m ≠ 0 then 0 else st.getM q) ∧ u.g = st.g ∧ u.pw = st.pw ∧ t.pool = s.pool)
    ∧ (∀ n, n < 3 → Strikes (.loopCounter slot n) fun t u => (∀ k, k < 3 → u.getLc k = if k = n then 0 else st.getLc k) ∧ u.g = st.g ∧ t.pool = s.pool)
    ∧ (∃ t : State, exec (.privateStateError (.special slot)) s = .next t ∧ t.strandAt slot = none ∧ t.mem = s.mem
        ∧ ∀ l, s.launchOf st.lid = some l → ∃ m, t.launchOf st.lid = some m ∧ m.xcode = l.xcode ||| 0x80))
  ∧ (∀ s core piece, core < 768 → piece < 2048 → ∃ t : State, exec (.privateStateError (.localStore core piece)) s = .next t ∧ t.mem = s.mem ∧ t.pool = s.pool
      ∧ (∀ off, off < 2 ^ 18 → t.getLocal core off = if off / 128 = piece then 0 else s.getLocal core off)
      ∧ Counted s t 0xA300000080098)
  ∧ (∀ s a bank row col, a < 192 → bank < 4 → row < 128 → col < 128 →
      ∃ t : State, exec (.privateStateError (.accumulator a bank row col)) s = .next t ∧ t.strands = s.strands ∧ t.mem = s.mem
        ∧ t.getAcc a bank row col = 0 ∧ (t.bankFlagsOf a bank).getLsbD 6 = true ∧ Counted s t 0xA3000000800B8
        ∧ ∀ r c, r < 128 → c < 128 → (r ≠ row ∨ c ≠ col) → t.getAcc a bank r c = s.getAcc a bank r c)
  ∧ (∀ s a cell, a < 192 → cell < 16384 → ∃ t : State, exec (.privateStateError (.settCell a cell)) s = .next t ∧ t.strands = s.strands ∧ t.mem = s.mem
      ∧ (t.getCell a cell).pad = true ∧ (t.getCell a cell).bits = 0 ∧ (t.quadAt a).sett.lostLatch = true ∧ Counted s t 0xA3000000800C8
      ∧ ∀ c, c < 16384 → c ≠ cell → t.getCell a c = s.getCell a c)

/-- R383 to R385, R398 to R402: an error that is corrected counts, also for the tenant whose request found it, and changes no value. One that is not makes a DRAM line, a modified
LLC line or a scratchpad piece lost: it reads as zeros and no other byte changes; a clean LLC line is dropped, and a line of an instruction cache is
dropped everywhere, loop buffers with it; in every structure the registers of strands, quads and cores stand.
Which copies of a clean line are dropped, and the log's KIND 0, are the model's readings (log entries 7, 21). -/
def Obligations.StructureErrors : Prop :=
  (∀ s struct pa a who, ∃ t : State, exec (.patrolScrub struct pa ⟨false, a, who⟩) s = .next t ∧ Quiet s t ∧ Counted s t (0xA300000080000 + 16 * struct.toNat)
    ∧ ∀ tenant, who = some tenant → tenant < 64 → Counted s t (0xA300000040000 + tenant * 4096))
  ∧ (∀ s struct pa a who, struct ≠ 7 → ∃ t : State, exec (.patrolScrub struct pa ⟨true, a, who⟩) s = .next t ∧ CoresStand s t ∧ t.quads = s.quads
      ∧ t.barriers = s.barriers)
  ∧ (∀ s pa a who,
    let Loses (struct : BitVec 4) : Prop := ∃ t : State, exec (.patrolScrub struct pa ⟨true, a, who⟩) s = .next t ∧ t.isLost pa = true
      ∧ (∀ x, t.mem.read x = if x / 128 = pa / 128 then 0 else s.mem.read x) ∧ Counted s t (0xA300000080000 + 16 * struct.toNat + 8)
    (isDevice pa = true → s.isLost pa = false → Loses 0) ∧ (isScratch pa = true → Loses 8)
    ∧ ∀ c, isDevice pa = true → s.isLost pa = false → SMap.find s.homes.llc (pa / 128) = some c →
      (c.modified = true → Loses 1)
      ∧ (c.modified = false → ∃ t : State, exec (.patrolScrub 1 pa ⟨true, a, who⟩) s = .next t ∧ Quiet s t ∧ SMap.find t.homes.llc (pa / 128) = none
        ∧ Counted s t 0xA300000080018))
  ∧ (∀ s pa a who, pa < 2 ^ 52 → ∃ t : State, exec (.patrolScrub 7 pa ⟨true, a, who⟩) s = .next t ∧ t.mem = s.mem ∧ Counted s t 0xA300000080078
      ∧ t.strands = s.strands ∧ t.pool = s.pool ∧ t.localMem = s.localMem ∧ t.quads = s.quads ∧ t.acc = s.acc ∧ t.sett = s.sett
      ∧ t.barriers = s.barriers ∧ (∀ core, SMap.find t.icache (2 ^ 46 * core + pa / 64) = none)
      ∧ ((s.cores.map Prod.fst).Nodup → ∀ core, t.coreAt core =
          { s.coreAt core with loopBuf := (s.coreAt core).loopBuf.filter fun x => x.1 ≠ pa / 64 }))

/-! ### Links, dies, time base and power (spec/14_host_peer.md R332 to R336; spec/15_trust_debug_power.md R337, R345, R350 to R355; spec/22_faults_memory.md R394; spec/23_faults_system.md R404 to R417) -/

/-- R404, R405: a replayed flit changes nothing. A module that retrains counts at both of its ends and is logged; it takes traffic again, or, failing three times in a row, is out of service at both
ends. -/
def Parts.ModulesRetrain : Prop :=
  (∀ s m, exec (.flitReplay m) s = .next s)
  ∧ (∀ s m, m < 144 → s.sys.modDown.getLsbD m = false →
    let k := min m (otherEnd m)
    (k ∉ s.sys.retraining → ∃ t : State, exec (.moduleRetrain m) s = .next t ∧ Quiet s t ∧ k ∈ t.sys.retraining ∧ Logged s t (16 * m) 11
      ∧ Counted s t (0xA300000092100 + 8 * m) ∧ Counted s t (0xA300000092100 + 8 * otherEnd m))
    ∧ (k ∈ s.sys.retraining →
      (∃ t : State, exec (.ucieRetrainComplete m true) s = .next t ∧ Quiet s t ∧ k ∉ t.sys.retraining ∧ SMap.find t.sys.modFails k = none
        ∧ t.sys.modDown = s.sys.modDown)
      ∧ (SMap.get 0 s.sys.modFails k < 2 → ∃ t : State, exec (.ucieRetrainComplete m false) s = .next t ∧ Quiet s t ∧ k ∉ t.sys.retraining
        ∧ SMap.get 0 t.sys.modFails k = SMap.get 0 s.sys.modFails k + 1 ∧ t.sys.modDown = s.sys.modDown)
      ∧ (SMap.get 0 s.sys.modFails k = 2 → ∃ t : State, exec (.ucieRetrainComplete m false) s = .next t ∧ t.sys.modDown.getLsbD m = true
        ∧ t.sys.modDown.getLsbD (otherEnd m) = true ∧ k ∉ t.sys.retraining)))

/-- A compute die is lost: no strand is left on it, and none of a launch that had one there (R408). That its local store and its accumulators
read as zeros from then on is the model's choice (log entry 22). -/
structure DieGone (s t : State) (d : Nat) : Prop where
  state : t.sys.cdie.toList.getD d .held = .lost
  strands : ∀ k u, t.strandAt k = some u → dieOf (agentOf (coreOf k)) ≠ d
  launches : ∀ k u, s.strandAt k = some u → dieOf (agentOf (coreOf k)) = d → ∀ j v, t.strandAt j = some v → v.lid ≠ u.lid
  stores : (∀ c, dieOf (agentOf c) = d → ∀ off, off < 2 ^ 18 → t.getLocal c off = 0) ∧ ∀ a, dieOf a = d → ∀ x, x < 2 ^ 16 → SMap.get 0 t.acc (2 ^ 16 * a + x) = 0

/-- R394, R407, R408, R410, R415: dies that answer every beat stand; one that misses its fourth, or whose dispatcher fails, is lost with all its strands, its local store and its accumulators then at 0, which is the model's choice (log entry 22). A difference of more than 4 cycles raises the lease alarm,
which stands until the counters are resynchronised. The watchdog counts 160,000,000 cycles from the last write, and then resets the management core, which is held where its image fails, as the model
has it (log entry 19). -/
def Parts.DiesAndTheTimeBase : Prop :=
  (∀ s answered, (∀ d, d < 10 → d ∈ answered) → ∃ t : State, exec (.dieStatusBeat answered) s = .next t ∧ Quiet s t
    ∧ t.time = max s.time (16000 * (s.sys.beats + 1)) ∧ t.sys.beats = s.sys.beats + 1 ∧ t.sys.cdie = s.sys.cdie ∧ t.sys.hdie = s.sys.hdie
    ∧ ∀ d, d < 10 → s.dieRuns d = true → SMap.get 0 t.sys.missedBeats d = 0)
  ∧ (∀ s answered d, d < 10 → s.dieRuns d = true → d ∉ answered → (∀ k, k < 10 → k ≠ d → k ∈ answered) →
    (SMap.get 0 s.sys.missedBeats d + 1 < 4 → ∃ t : State, exec (.dieStatusBeat answered) s = .next t ∧ Quiet s t
      ∧ SMap.get 0 t.sys.missedBeats d = SMap.get 0 s.sys.missedBeats d + 1)
    ∧ (SMap.get 0 s.sys.missedBeats d = 3 → ∃ t : State, exec (.dieStatusBeat answered) s = .next t
      ∧ (d < 4 → DieGone s t d) ∧ (4 ≤ d → t.sys.hdie.toList.getD (d - 4) .held = .lost)))
  ∧ (∀ s d, d < 4 → s.dieUp d = true → ∃ t : State, exec (.dispatcherUncorrectableError d) s = .next t ∧ DieGone s t d)
  ∧ (∀ s skews, s.sys.alarm = false →
    ((∃ x ∈ 0 :: skews, ∃ y ∈ 0 :: skews, 4 < x - y) → ∃ t : State, exec (.timeCompare skews) s = .next t ∧ Quiet s t ∧ t.sys.alarm = true
      ∧ t.time = max s.time (1600 * (s.sys.compares + 1)) ∧ Counted s t 0xA3000000800F8)
    ∧ ((∀ x ∈ 0 :: skews, ∀ y ∈ 0 :: skews, x - y ≤ 4) → ∃ t : State, exec (.timeCompare skews) s = .next t ∧ Quiet s t ∧ t.sys.alarm = false
      ∧ t.time = max s.time (1600 * (s.sys.compares + 1)) ∧ t.sys.counters = s.sys.counters))
  ∧ (∀ s, ∃ t : State, exec .counterResynchronisation s = .next t ∧ Quiet s t ∧ t.sys.alarm = false)
  ∧ (∀ s, s.sys.mcuHeld = false →
    (∃ t : State, exec .watchdogKick s = .next t ∧ Quiet s t ∧ t.sys.wdogAt = s.time)
    ∧ ∀ images, ∃ t : State, exec (.watchdogExpiry images) s = .next t ∧ Quiet s t ∧ t.time = max s.time (s.sys.wdogAt + 160000000)
      ∧ t.sys.mcuHeld = !imagePasses images 10 ∧ t.sys.wdogAt = t.time ∧ Counted s t 0xA300000092020)
  ∧ (∀ s images, s.sys.mcuHeld = true → exec (.watchdogExpiry images) s = .next s)

/-- R333 to R336, R404, R413: at a crossing each link that has been trained and has had no beat counts one missed, and at the third its peer is silent and fenced; a beat clears the count. A fence sets FENCED, is logged, drops what the device has asked for, and takes the device out of the pod barriers; clearing the bit
ends it. A link that is lost stops being up, and a trained one records its peer.
What is dropped at a fence is the model's choice in part (log entries 22, 36). -/
def Parts.PeerLinks : Prop :=
  (∀ s, ∃ t : State, exec .heartbeatCrossing s = .next t ∧ CoresStand s t ∧ t.mem = s.mem ∧ t.quads = s.quads
    ∧ ((∀ l, l < 8 → (SMap.find s.pod.peer l).isSome → s.pod.beat.getLsbD l = false → SMap.get (0 : BitVec 8) s.pod.missed l ≠ 2#8) → t.barriers = s.barriers)
    ∧ t.time = max s.time (160000 * (s.sys.crossings + 1)) ∧ t.sys.crossings = s.sys.crossings + 1
    ∧ (s.pod.enable = false → t.pod = s.pod)
    ∧ (s.pod.enable = true → t.pod.beat = 0 ∧ ∀ l, l < 8 →
      let n := (SMap.get (0 : BitVec 8) s.pod.missed l).toNat
      ((SMap.find s.pod.peer l).isSome → s.pod.beat.getLsbD l = false → SMap.get 0 t.pod.missed l = BitVec.ofNat 8 (min (n + 1) 255)
        ∧ (n = 2 → t.pod.silent.getLsbD l = true ∧ t.pod.fenced.getLsbD (SMap.get (0 : BitVec 6) s.pod.peer l).toNat = true))
      ∧ (SMap.find s.pod.peer l = none ∨ s.pod.beat.getLsbD l = true → SMap.get 0 t.pod.missed l = SMap.get (0 : BitVec 8) s.pod.missed l)))
  ∧ (∀ s l, l < 8 →
    (s.pod.enable = true → s.pod.up.getLsbD l = true → ∃ t : State, exec (.heartbeatReceive l) s = .next t ∧ Quiet s t ∧ SMap.get 0 t.pod.missed l = 0#8
      ∧ t.pod.silent.getLsbD l = false ∧ t.pod.beat.getLsbD l = true)
    ∧ (∃ t : State, exec (.peerLinkLoss l) s = .next t ∧ Quiet s t ∧ t.pod.up.getLsbD l = false ∧ (∀ k, k ≠ l → t.pod.up.getLsbD k = s.pod.up.getLsbD k)
      ∧ t.pod.peer = s.pod.peer)
    ∧ ∀ p, p < 64 → ∃ t : State, exec (.peerLinkTrained l p) s = .next t ∧ Quiet s t ∧ t.pod.up.getLsbD l = true ∧ SMap.get 0 t.pod.peer l = BitVec.ofNat 6 p)
  ∧ (∀ s d, d < 64 →
    (s.pod.fenced.getLsbD d = false → ∃ t : State, exec (.fenceArrival d) s = .next t ∧ CoresStand s t ∧ t.mem = s.mem ∧ t.quads = s.quads
      ∧ Logged s t (16 * d) 13 ∧ t.opsOf (16 + d) = [] ∧ (∀ p, p ≠ 16 + d → t.opsOf p = s.opsOf p) ∧ (∀ x ∈ t.pod.claims, x.device ≠ d)
      ∧ ((s.barriers.map Prod.fst).Nodup → ∀ k, (t.barrierAt k).claims = (s.barrierAt k).claims
        ∧ (t.barrierAt k).remote = (s.barrierAt k).remote.filter (fun x => x.1 ≠ d)
        ∧ ((∀ x ∈ (s.barrierAt k).remote, x.1 ≠ d) → t.barrierAt k = s.barrierAt k))
      ∧ ∀ k, t.pod.fenced.getLsbD k = (s.pod.fenced.getLsbD k || k == d))
    ∧ (s.pod.fenced.getLsbD d = true → exec (.fenceArrival d) s = .next s
      ∧ ∃ t : State, exec (.fenceClear d) s = .next t ∧ Quiet s t ∧ Logged s t (1 + 16 * d) 13
        ∧ ∀ k, t.pod.fenced.getLsbD k = (s.pod.fenced.getLsbD k && k != d)))

/-- R333 to R336, R394, R404 to R415: modules, dies, the time base and the peer links. -/
def Obligations.LinksDiesAndTheTimeBase : Prop := Parts.ModulesRetrain ∧ Parts.DiesAndTheTimeBase ∧ Parts.PeerLinks

/-- The module is off: no strand is left, and of memory only that of the hosts, whose own value of a line that the module owned stands (R397); what is lost reads 0, which is the model's choice for memory that nothing
has written (log entry 1). -/
def TurnsOff (i : Instr) (s : State) (cause : Nat) : Prop :=
  ∃ t : State, exec i s = .next t ∧ t.power.off = true ∧ t.strands = [] ∧ t.acc = [] ∧ t.copies = [] ∧ t.keystone.shutcause = BitVec.ofNat 8 cause
    ∧ t.keystone.lifecycle = s.keystone.lifecycle ∧ t.keystone.keys = []
    ∧ (∀ a, isHostMem a = false → t.mem.read a = 0)
    ∧ (∀ a, isHostMem a = true → (∀ e ∈ s.hub.snoop, e.1 = a / 128 → e.2.owned = false) → t.mem.read a = s.mem.read a)
    ∧ ∀ a, ∀ e ∈ s.hub.snoop, isHostMem a = true → e.1 = a / 128 → e.2.owned = true → (∀ f ∈ s.hub.snoop, f.1 = e.1 → f = e) →
      t.mem.read a = e.2.older.extractLsb' (8 * (a % 128)) 8

/-- R337, R345, R350 to R354, R416, R417: in P1 the duty falls by 1/16 above the cap, to 4/16, and rises below it. A power trip stands until 10 ms below the cap; a die at 105 °C throttles to 4/16 and rises again by 1/16; at 115 °C the module goes off
with the die in `SHUTCAUSE`, as it does when power is removed. Power-on checks and measures the images in order, holds the dies that fail, releases none when the hub's or Keystone's fails, and brings in the pending lifecycle and confidentiality. While the module is Off only a power-on has an effect, and no time passes. After 1 ms with an empty pool and no bay the package is
idle, unless a power trip is pending, and it and a sleeping quad wake at their times. What lost memory reads, that a trip ends the package's idle state, which of its dies' images a shared
block holds, and that a lost module runs nothing, are the model's choices (log entries 1, 19). -/
def Obligations.PowerStates : Prop :=
  (∀ s w, s.power.capen = true ∨ s.power.tripPending = true →
    let cap := if s.power.tripPending then min 2600 s.power.capw.toNat else s.power.capw.toNat
    ∃ t : State, exec (.powerSample w) s = .next t ∧ Quiet s t ∧ t.power.capw = s.power.capw
      ∧ t.power.duty = if cap < w then max 4 (s.power.duty - 1) else if w < cap then min 16 (s.power.duty + 1) else s.power.duty)
  ∧ (∀ s, ∃ t : State, exec .powerTrip s = .next t ∧ Quiet s t ∧ t.power.ptrip = true ∧ t.power.tripPending = true ∧ t.power.idle = false ∧ Logged s t 2 15)
  ∧ (∀ s, s.power.tripPending = true → ∃ t : State, exec .powerTripClear s = .next t ∧ Quiet s t ∧ t.power.tripPending = false ∧ t.power.ptrip = s.power.ptrip
      ∧ t.power.duty = if s.power.capen then s.power.duty else 16)
  ∧ (∀ s d, d < 12 →
    (∃ t : State, exec (.thermalThrottleTrip d) s = .next t ∧ Quiet s t ∧ t.power.ttrip.getLsbD d = true ∧ SMap.find t.power.dieDuty d = some 4
      ∧ Logged s t (1 + 16 * d) 15)
    ∧ (∀ n, SMap.find s.power.dieDuty d = some n → ∃ t : State, exec (.throttleLift d) s = .next t ∧ Quiet s t
      ∧ SMap.find t.power.dieDuty d = if s.power.duty ≤ n + 1 then none else some (n + 1))
    ∧ (s.power.off = false → TurnsOff (.thermalShutdown d) s (1 + 16 * d)))
  ∧ (∀ s, s.power.off = false → TurnsOff .powerRemoved s 0)
  ∧ (∀ s images, s.power.off = true →
    let ok := imagePasses images 11 && imagePasses images 10
    ∃ t : State, exec (.powerOn images) s = .next t ∧ t.power.off = (!ok) ∧ t.strands = s.strands ∧ t.mem = s.mem
      ∧ (ok = true → t.time = 0
        ∧ t.keystone.lifecycle = (if s.keystone.decommission then .decommissioned else s.keystone.lifecycle) ∧ t.keystone.decommission = false
        ∧ t.keystone.conf = s.keystone.confNext
        ∧ (∀ i, i < 4 → ∃ d, d < 12 ∧ imageBlock d = i ∧ SMap.get 0 t.keystone.meas (i + 1) = Config.shake256 (imageOf images d)
          ∧ (imagePasses images d = false ∨ ∀ e, e < 12 → imageBlock e = i → imagePasses images e = true))
        ∧ (∀ d, d < 4 → t.sys.cdie.toList.getD d .held = if imagePasses images d then s.sys.cdie.toList.getD d .held else .held)
        ∧ ∀ h, h < 6 → t.sys.hdie.toList.getD h .held = if imagePasses images (4 + h) then s.sys.hdie.toList.getD h .held else .held))
  ∧ (∀ s, s.power.tripPending = true → exec .packageIdleEntry s = .next s)
  ∧ (∀ s i r, s.power.off = true → s.keystone.releases = [] →
    (s.agenda = i :: r → (∀ x, i ≠ .powerOn x) → step s = .next { s with agenda := r, free := s.free + 1 })
    ∧ (s.agenda = [] → step s = .fault .poweredOff))
  ∧ (∀ s, s.power.pidle = true → s.power.idle = false → s.power.tripPending = false → s.noBays = true → s.poolSize = 0 → ∃ t : State, exec .packageIdleEntry s = .next t ∧ Quiet s t
      ∧ t.time = max s.time (s.hub.emptySince + 160000) ∧ t.power.idle = true)
  ∧ (∀ s r, s.power.readyAt = some r → ∃ t : State, exec .packageIdleExit s = .next t ∧ Quiet s t ∧ t.time = max s.time r ∧ t.power.idle = false
      ∧ t.power.readyAt = none)
  ∧ (∀ s a w, (s.quadAt a).wakeAt = some w → ∃ t : State, exec (.quadWake a) s = .next t ∧ t.time = max s.time w ∧ t.strands = s.strands ∧ t.mem = s.mem
      ∧ (t.quadAt a).asleep = false ∧ (t.quadAt a).wakeAt = none ∧ (t.quadAt a).cmds = (s.quadAt a).cmds
      ∧ ∀ b, b ≠ a → t.quadAt b = s.quadAt b)

/-! ### Reset, the invariant, the encoding and the step (spec/01_organisation.md R15; spec/07_encoding.md R161 to R177; spec/02_execution.md R59, R60) -/

/-- R15, R40, R67, R70, R277, R346, R351, R396: right after package reset `sr.time` is 0 and no strand exists; the default course is in force, with DRAINLEAD 20 and OVERLIM 50; every barrier
is unclaimed, every cell of Sett is a pad; no queue is enabled; the host time limits are 4,000 µs, the cap 2,600 W, and no debug session is open. The values that the
spec does not give are the model's (log entry 2), and this statement names none of them. -/
def Obligations.ResetState : Prop :=
  let s := State.reset
  s.time = 0 ∧ (∀ k, s.strandAt k = none) ∧ s.coursing.enable = false ∧ s.courseNow = .default ∧ s.coursing.drainlead = 20 ∧ s.coursing.overlim = 50
    ∧ (∀ c, c < 768 → s.holder c = some 0) ∧ (∀ k, (s.barrierAt k).claims = []) ∧ (∀ a c, (s.getCell a c).pad = true)
    ∧ (∀ n, (s.queueAt n).enable = false ∧ (s.queueAt n).head = 0 ∧ (s.queueAt n).tail = 0)
    ∧ s.sys.bito.toList = [4000, 4000] ∧ s.sys.bifail = 0 ∧ s.power.capw = 2600 ∧ s.power.capen = false ∧ s.keystone.sessions = []
    ∧ (∀ pa, s.counterAt pa = { count := 0, last := 0 }) ∧ s.hub.launches = [] ∧ ∀ line, s.reqsAt line = []

/-- The invariant at reset: memory, which lists nothing, is in its canonical form. -/
def Obligations.ResetMemoryIsCanonical : Prop := Sys2Proof.Inv State.reset

/-- Memory stays in its canonical form: whatever row of the opcode table a step runs, equal memories stay equal data. The form is the model's own
representation of the address map of R24, not a rule of the manual. -/
def Obligations.EveryStepKeepsMemoryCanonical : Prop := ∀ s t : State, Sys2Proof.Inv s → step s = .next t → Sys2Proof.Inv t

/-- R161 to R164, R169 to R177: the encoding of every well-formed instruction decodes to that instruction, with every operand at every value; a head and tail that
decode are the encoding of what they decode to, so no two instructions share one; and a line that holds it alone is legal and gives it back. -/
def Obligations.EncodingsHaveOneMeaning : Prop :=
  (∀ i c, i.wf = true → encode i = some c → decode c = .ok i ∧ c.tail.toNat < 256 ^ tailBytes (headTl c.head.toNat)
    ∧ checkLine (oneLine c) = .ok 1 ∧ lineCode (oneLine c) 0 = c)
  ∧ (∀ i c, c.tail.toNat < 256 ^ tailBytes (headTl c.head.toNat) → decode c = .ok i → i.wf = true ∧ encode i = some c)

/-- R172 to R174, R193, R238, R259, R260: words of the manual's worked encodings, and of its field tables, decode to the instructions that they stand for. -/
def Obligations.WordsDecode : Prop :=
  decode { head := 0x0945, tail := 0x0F03 } = .ok (.subTl2 { a := 4, b := 5, c := 0, imm := true, ty := 3, sat := true, k8 := 3 })
  ∧ decode { head := 0xB240, tail := 0x48018000 } = .ok (.ld { a := 4, dst := 9, lease := 0, ord := 0, scope := 0, t := 6, off := 0, hi := none })
  ∧ decode { head := 0xD745, tail := 0x0000586200219A60 }
      = .ok (.mma { a := 4, b := 5, c := 6, d := 10, e := 9, x := 0x21, hi := some 0x5862 })
  ∧ decode { head := 0x5215, tail := 0x520000C8 } = .ok (.cmpiTl4 1 5 5 2 200)
  ∧ decode { head := 0xE650, tail := 0x00000800 } = .ok (.hsend { a := 5, b := 0, c := 0, d := 8, e := 0, x := 0, hi := none })
  ∧ decode { head := 0x0000, tail := 0 } = .ok .nop
  ∧ decode { head := 0xFC00, tail := 0 } = .error .reservedMajor
  ∧ decode { head := 0x0945, tail := 0x1F03 } = .error .unusedField

/-- What passes with a step that leaves a state: a cycle of the package clock, the slice counters (R395), the bays that stay idle (R85) and the
counter of free values; while the module is Off only the last (R350; the cycle is the model's choice, log entry 6). -/
def Passes (t : State) : State :=
  if t.power.off then { t with free := t.free + 1 }
  else { t with
    time := t.time + 1, free := t.free + 1, sys := t.countCycle.sys
    coursing := if t.coursing.idleSince.isEmpty then t.coursing else { t.coursing with idleSince := t.idleBays } }

/-- R59, R60, R165, R168, R177, R370: release comparators whose time has come fire first. With nothing on the agenda and no turn of a unit, the next step runs the head at the program counter of the strand whose turn it is: that strand is ready (it
waits for nothing, its core runs, and no register that the head needs is still to be written), and no ready strand of its core comes sooner after the slot that issued last there. Its line is that of its fetch buffer, or, where that holds another, the line that it enters in the
instruction cache or the loop buffer of its core. Where the head
decodes to i, the step is i in that strand's slot, from which the core's next turn starts, and then one cycle passes, which the slice counters count (R395). A head that is no instruction takes the trap of an illegal instruction (cause 0x02), and an address that is no head of the line takes
the trap of an illegal line (cause 0x01). The cores take turns, those above the one that issued last first (the model's choice, log entry 3: the rules order the slots of one core only). -/
def Obligations.StepRunsTheDecodedInstruction : Prop :=
  (∀ s : State, step s = step s.fireReleases ∧ ∀ x ∈ s.fireReleases.keystone.releases, s.time < x.2)
  ∧ ∀ s slot st, (∀ x ∈ s.keystone.releases, s.time < x.2) → s.agenda = [] → s.power.off = false → s.eventTurn = false →
    s.nextSlot = some (slot, st) → s.strandAt slot = some st →
    let c := s.coreAt (coreOf slot)
    let focus : State := { s.setCore (coreOf slot) { c with last := slot % 16 } with cur := slot, eventTurn := true }
    let head (l : Line) := decode (lineCode l ((st.pc.toNat % 64 - 2) / 2))
    let runs (here : State) (l : Line) : Prop :=
      let traps (code value : Nat) : Prop := ∃ (t : State) (u : Strand), step s = .next t ∧ t.strandAt slot = some u ∧ u.cause = BitVec.ofNat 64 code ∧ u.tval = BitVec.ofNat 64 value
        ∧ u.epc = st.pc.setWidth 64 ∧ u.inh = true ∧ u.pc = st.tvec.setWidth 52 ∧ u.g = st.g ∧ t.mem = here.mem
      (isHead l st.pc.toNat = true → (s.pending slot).isEmpty = false → ∀ i, head l = .ok i → s.busyG slot (needs i).1 = false ∧ s.busyV slot (needs i).2 = false)
      ∧ (isHead l st.pc.toNat = true → ∀ i, head l = .ok i →
        (∀ t, exec i here = .next t → step s = .next (Passes t))
        ∧ (∀ f, exec i here = .fault f → step s = .fault f) ∧ ∀ r, exec i here = .refused r → step s = .refused r)
      ∧ (isHead l st.pc.toNat = true → NotFatal st → ∀ e, head l = .error e → traps 2 st.headValue)
      ∧ (isHead l st.pc.toNat = false → NotFatal st → traps 1 st.pc.toNat)
    st.ready = true ∧ c.phase = .running
      ∧ (∀ k v i j, s.strandAt k = some v → s.readyNow k v = true → coreOf k = coreOf slot → i < 16 → j < 16 → (c.last + 1 + i) % 16 = slot % 16 → (c.last + 1 + j) % 16 = k % 16 → i ≤ j)
      ∧ (∀ k v, s.strandAt k = some v → s.readyNow k v = true → coreOf s.cur < coreOf k → coreOf s.cur < coreOf slot)
      ∧ (∀ a l, st.fetch = some (a, l) → a.toNat = st.pc.toNat / 64 * 64 → runs focus l)
      ∧ ((∀ a l, st.fetch = some (a, l) → a.toNat ≠ st.pc.toNat / 64 * 64) → ∀ l here, focus.readLine slot st (st.pc.toNat / 64 * 64) = .ok (l, here) →
        let entered : Strand := { st with fetch := some (BitVec.ofNat 52 (st.pc.toNat / 64 * 64), l) }
        isHead l st.pc.toNat = true → ∀ i, head l = .ok i → ∀ t, exec i (here.setStrand slot entered) = .next t → step s = .next (Passes t))
end

