-- ==== Sys2Proof/Laws/State.lean ====
section
/-! SUPPORT. What each update of the state and of a strand leaves in every field, so that no proof unfolds a record update. -/

namespace Sys2Proof.Machine

@[simp] theorem State.setStrand_time (s : State) (k : Nat) (v : Strand) : (s.setStrand k v).time = s.time := rfl
@[simp] theorem State.setStrand_strands (s : State) (k : Nat) (v : Strand) : (s.setStrand k v).strands = s.strands.put k v := rfl
@[simp] theorem State.setStrand_cores (s : State) (k : Nat) (v : Strand) : (s.setStrand k v).cores = s.cores := rfl
@[simp] theorem State.setStrand_quads (s : State) (k : Nat) (v : Strand) : (s.setStrand k v).quads = s.quads := rfl
@[simp] theorem State.setStrand_pool (s : State) (k : Nat) (v : Strand) : (s.setStrand k v).pool = s.pool := rfl
@[simp] theorem State.setStrand_localMem (s : State) (k : Nat) (v : Strand) : (s.setStrand k v).localMem = s.localMem := rfl
@[simp] theorem State.setStrand_icache (s : State) (k : Nat) (v : Strand) : (s.setStrand k v).icache = s.icache := rfl
@[simp] theorem State.setStrand_utlb (s : State) (k : Nat) (v : Strand) : (s.setStrand k v).utlb = s.utlb := rfl
@[simp] theorem State.setStrand_qtlb (s : State) (k : Nat) (v : Strand) : (s.setStrand k v).qtlb = s.qtlb := rfl
@[simp] theorem State.setStrand_acc (s : State) (k : Nat) (v : Strand) : (s.setStrand k v).acc = s.acc := rfl
@[simp] theorem State.setStrand_sett (s : State) (k : Nat) (v : Strand) : (s.setStrand k v).sett = s.sett := rfl
@[simp] theorem State.setStrand_copies (s : State) (k : Nat) (v : Strand) : (s.setStrand k v).copies = s.copies := rfl
@[simp] theorem State.setStrand_recency (s : State) (k : Nat) (v : Strand) : (s.setStrand k v).recency = s.recency := rfl
@[simp] theorem State.setStrand_barriers (s : State) (k : Nat) (v : Strand) : (s.setStrand k v).barriers = s.barriers := rfl
@[simp] theorem State.setStrand_mem (s : State) (k : Nat) (v : Strand) : (s.setStrand k v).mem = s.mem := rfl
@[simp] theorem State.setStrand_homes (s : State) (k : Nat) (v : Strand) : (s.setStrand k v).homes = s.homes := rfl
@[simp] theorem State.setStrand_hub (s : State) (k : Nat) (v : Strand) : (s.setStrand k v).hub = s.hub := rfl
@[simp] theorem State.setStrand_pod (s : State) (k : Nat) (v : Strand) : (s.setStrand k v).pod = s.pod := rfl
@[simp] theorem State.setStrand_coursing (s : State) (k : Nat) (v : Strand) : (s.setStrand k v).coursing = s.coursing := rfl
@[simp] theorem State.setStrand_keystone (s : State) (k : Nat) (v : Strand) : (s.setStrand k v).keystone = s.keystone := rfl
@[simp] theorem State.setStrand_sys (s : State) (k : Nat) (v : Strand) : (s.setStrand k v).sys = s.sys := rfl
@[simp] theorem State.setStrand_power (s : State) (k : Nat) (v : Strand) : (s.setStrand k v).power = s.power := rfl
@[simp] theorem State.setStrand_agenda (s : State) (k : Nat) (v : Strand) : (s.setStrand k v).agenda = s.agenda := rfl
@[simp] theorem State.setStrand_cur (s : State) (k : Nat) (v : Strand) : (s.setStrand k v).cur = s.cur := rfl
@[simp] theorem State.setStrand_eventTurn (s : State) (k : Nat) (v : Strand) : (s.setStrand k v).eventTurn = s.eventTurn := rfl
@[simp] theorem State.setStrand_free (s : State) (k : Nat) (v : Strand) : (s.setStrand k v).free = s.free := rfl
@[simp] theorem State.setStrand_ids (s : State) (k : Nat) (v : Strand) : (s.setStrand k v).ids = s.ids := rfl
@[simp] theorem State.setStrand_replies (s : State) (k : Nat) (v : Strand) : (s.setStrand k v).replies = s.replies := rfl

@[simp] theorem State.dropStrand_time (s : State) (k : Nat) : (s.dropStrand k).time = s.time := rfl
@[simp] theorem State.dropStrand_strands (s : State) (k : Nat) : (s.dropStrand k).strands = s.strands.erase k := rfl
@[simp] theorem State.dropStrand_cores (s : State) (k : Nat) : (s.dropStrand k).cores = s.cores := rfl
@[simp] theorem State.dropStrand_quads (s : State) (k : Nat) : (s.dropStrand k).quads = s.quads := rfl
@[simp] theorem State.dropStrand_pool (s : State) (k : Nat) : (s.dropStrand k).pool = s.pool := rfl
@[simp] theorem State.dropStrand_localMem (s : State) (k : Nat) : (s.dropStrand k).localMem = s.localMem := rfl
@[simp] theorem State.dropStrand_icache (s : State) (k : Nat) : (s.dropStrand k).icache = s.icache := rfl
@[simp] theorem State.dropStrand_utlb (s : State) (k : Nat) : (s.dropStrand k).utlb = s.utlb := rfl
@[simp] theorem State.dropStrand_qtlb (s : State) (k : Nat) : (s.dropStrand k).qtlb = s.qtlb := rfl
@[simp] theorem State.dropStrand_acc (s : State) (k : Nat) : (s.dropStrand k).acc = s.acc := rfl
@[simp] theorem State.dropStrand_sett (s : State) (k : Nat) : (s.dropStrand k).sett = s.sett := rfl
@[simp] theorem State.dropStrand_copies (s : State) (k : Nat) : (s.dropStrand k).copies = s.copies := rfl
@[simp] theorem State.dropStrand_recency (s : State) (k : Nat) : (s.dropStrand k).recency = s.recency := rfl
@[simp] theorem State.dropStrand_barriers (s : State) (k : Nat) : (s.dropStrand k).barriers = s.barriers := rfl
@[simp] theorem State.dropStrand_mem (s : State) (k : Nat) : (s.dropStrand k).mem = s.mem := rfl
@[simp] theorem State.dropStrand_homes (s : State) (k : Nat) : (s.dropStrand k).homes = s.homes := rfl
@[simp] theorem State.dropStrand_hub (s : State) (k : Nat) : (s.dropStrand k).hub = s.hub := rfl
@[simp] theorem State.dropStrand_pod (s : State) (k : Nat) : (s.dropStrand k).pod = s.pod := rfl
@[simp] theorem State.dropStrand_coursing (s : State) (k : Nat) : (s.dropStrand k).coursing = s.coursing := rfl
@[simp] theorem State.dropStrand_keystone (s : State) (k : Nat) : (s.dropStrand k).keystone = s.keystone := rfl
@[simp] theorem State.dropStrand_sys (s : State) (k : Nat) : (s.dropStrand k).sys = s.sys := rfl
@[simp] theorem State.dropStrand_power (s : State) (k : Nat) : (s.dropStrand k).power = s.power := rfl
@[simp] theorem State.dropStrand_agenda (s : State) (k : Nat) : (s.dropStrand k).agenda = s.agenda := rfl
@[simp] theorem State.dropStrand_cur (s : State) (k : Nat) : (s.dropStrand k).cur = s.cur := rfl
@[simp] theorem State.dropStrand_eventTurn (s : State) (k : Nat) : (s.dropStrand k).eventTurn = s.eventTurn := rfl
@[simp] theorem State.dropStrand_free (s : State) (k : Nat) : (s.dropStrand k).free = s.free := rfl
@[simp] theorem State.dropStrand_ids (s : State) (k : Nat) : (s.dropStrand k).ids = s.ids := rfl
@[simp] theorem State.dropStrand_replies (s : State) (k : Nat) : (s.dropStrand k).replies = s.replies := rfl

@[simp] theorem State.setCore_time (s : State) (k : Nat) (v : CoreState) : (s.setCore k v).time = s.time := rfl
@[simp] theorem State.setCore_strands (s : State) (k : Nat) (v : CoreState) : (s.setCore k v).strands = s.strands := rfl
@[simp] theorem State.setCore_cores (s : State) (k : Nat) (v : CoreState) : (s.setCore k v).cores = s.cores.set CoreState.reset k v := rfl
@[simp] theorem State.setCore_quads (s : State) (k : Nat) (v : CoreState) : (s.setCore k v).quads = s.quads := rfl
@[simp] theorem State.setCore_pool (s : State) (k : Nat) (v : CoreState) : (s.setCore k v).pool = s.pool := rfl
@[simp] theorem State.setCore_localMem (s : State) (k : Nat) (v : CoreState) : (s.setCore k v).localMem = s.localMem := rfl
@[simp] theorem State.setCore_icache (s : State) (k : Nat) (v : CoreState) : (s.setCore k v).icache = s.icache := rfl
@[simp] theorem State.setCore_utlb (s : State) (k : Nat) (v : CoreState) : (s.setCore k v).utlb = s.utlb := rfl
@[simp] theorem State.setCore_qtlb (s : State) (k : Nat) (v : CoreState) : (s.setCore k v).qtlb = s.qtlb := rfl
@[simp] theorem State.setCore_acc (s : State) (k : Nat) (v : CoreState) : (s.setCore k v).acc = s.acc := rfl
@[simp] theorem State.setCore_sett (s : State) (k : Nat) (v : CoreState) : (s.setCore k v).sett = s.sett := rfl
@[simp] theorem State.setCore_copies (s : State) (k : Nat) (v : CoreState) : (s.setCore k v).copies = s.copies := rfl
@[simp] theorem State.setCore_recency (s : State) (k : Nat) (v : CoreState) : (s.setCore k v).recency = s.recency := rfl
@[simp] theorem State.setCore_barriers (s : State) (k : Nat) (v : CoreState) : (s.setCore k v).barriers = s.barriers := rfl
@[simp] theorem State.setCore_mem (s : State) (k : Nat) (v : CoreState) : (s.setCore k v).mem = s.mem := rfl
@[simp] theorem State.setCore_homes (s : State) (k : Nat) (v : CoreState) : (s.setCore k v).homes = s.homes := rfl
@[simp] theorem State.setCore_hub (s : State) (k : Nat) (v : CoreState) : (s.setCore k v).hub = s.hub := rfl
@[simp] theorem State.setCore_pod (s : State) (k : Nat) (v : CoreState) : (s.setCore k v).pod = s.pod := rfl
@[simp] theorem State.setCore_coursing (s : State) (k : Nat) (v : CoreState) : (s.setCore k v).coursing = s.coursing := rfl
@[simp] theorem State.setCore_keystone (s : State) (k : Nat) (v : CoreState) : (s.setCore k v).keystone = s.keystone := rfl
@[simp] theorem State.setCore_sys (s : State) (k : Nat) (v : CoreState) : (s.setCore k v).sys = s.sys := rfl
@[simp] theorem State.setCore_power (s : State) (k : Nat) (v : CoreState) : (s.setCore k v).power = s.power := rfl
@[simp] theorem State.setCore_agenda (s : State) (k : Nat) (v : CoreState) : (s.setCore k v).agenda = s.agenda := rfl
@[simp] theorem State.setCore_cur (s : State) (k : Nat) (v : CoreState) : (s.setCore k v).cur = s.cur := rfl
@[simp] theorem State.setCore_eventTurn (s : State) (k : Nat) (v : CoreState) : (s.setCore k v).eventTurn = s.eventTurn := rfl
@[simp] theorem State.setCore_free (s : State) (k : Nat) (v : CoreState) : (s.setCore k v).free = s.free := rfl
@[simp] theorem State.setCore_ids (s : State) (k : Nat) (v : CoreState) : (s.setCore k v).ids = s.ids := rfl
@[simp] theorem State.setCore_replies (s : State) (k : Nat) (v : CoreState) : (s.setCore k v).replies = s.replies := rfl

@[simp] theorem State.setQuad_time (s : State) (k : Nat) (v : QuadState) : (s.setQuad k v).time = s.time := rfl
@[simp] theorem State.setQuad_strands (s : State) (k : Nat) (v : QuadState) : (s.setQuad k v).strands = s.strands := rfl
@[simp] theorem State.setQuad_cores (s : State) (k : Nat) (v : QuadState) : (s.setQuad k v).cores = s.cores := rfl
@[simp] theorem State.setQuad_quads (s : State) (k : Nat) (v : QuadState) : (s.setQuad k v).quads = s.quads.set QuadState.reset k v := rfl
@[simp] theorem State.setQuad_pool (s : State) (k : Nat) (v : QuadState) : (s.setQuad k v).pool = s.pool := rfl
@[simp] theorem State.setQuad_localMem (s : State) (k : Nat) (v : QuadState) : (s.setQuad k v).localMem = s.localMem := rfl
@[simp] theorem State.setQuad_icache (s : State) (k : Nat) (v : QuadState) : (s.setQuad k v).icache = s.icache := rfl
@[simp] theorem State.setQuad_utlb (s : State) (k : Nat) (v : QuadState) : (s.setQuad k v).utlb = s.utlb := rfl
@[simp] theorem State.setQuad_qtlb (s : State) (k : Nat) (v : QuadState) : (s.setQuad k v).qtlb = s.qtlb := rfl
@[simp] theorem State.setQuad_acc (s : State) (k : Nat) (v : QuadState) : (s.setQuad k v).acc = s.acc := rfl
@[simp] theorem State.setQuad_sett (s : State) (k : Nat) (v : QuadState) : (s.setQuad k v).sett = s.sett := rfl
@[simp] theorem State.setQuad_copies (s : State) (k : Nat) (v : QuadState) : (s.setQuad k v).copies = s.copies := rfl
@[simp] theorem State.setQuad_recency (s : State) (k : Nat) (v : QuadState) : (s.setQuad k v).recency = s.recency := rfl
@[simp] theorem State.setQuad_barriers (s : State) (k : Nat) (v : QuadState) : (s.setQuad k v).barriers = s.barriers := rfl
@[simp] theorem State.setQuad_mem (s : State) (k : Nat) (v : QuadState) : (s.setQuad k v).mem = s.mem := rfl
@[simp] theorem State.setQuad_homes (s : State) (k : Nat) (v : QuadState) : (s.setQuad k v).homes = s.homes := rfl
@[simp] theorem State.setQuad_hub (s : State) (k : Nat) (v : QuadState) : (s.setQuad k v).hub = s.hub := rfl
@[simp] theorem State.setQuad_pod (s : State) (k : Nat) (v : QuadState) : (s.setQuad k v).pod = s.pod := rfl
@[simp] theorem State.setQuad_coursing (s : State) (k : Nat) (v : QuadState) : (s.setQuad k v).coursing = s.coursing := rfl
@[simp] theorem State.setQuad_keystone (s : State) (k : Nat) (v : QuadState) : (s.setQuad k v).keystone = s.keystone := rfl
@[simp] theorem State.setQuad_sys (s : State) (k : Nat) (v : QuadState) : (s.setQuad k v).sys = s.sys := rfl
@[simp] theorem State.setQuad_power (s : State) (k : Nat) (v : QuadState) : (s.setQuad k v).power = s.power := rfl
@[simp] theorem State.setQuad_agenda (s : State) (k : Nat) (v : QuadState) : (s.setQuad k v).agenda = s.agenda := rfl
@[simp] theorem State.setQuad_cur (s : State) (k : Nat) (v : QuadState) : (s.setQuad k v).cur = s.cur := rfl
@[simp] theorem State.setQuad_eventTurn (s : State) (k : Nat) (v : QuadState) : (s.setQuad k v).eventTurn = s.eventTurn := rfl
@[simp] theorem State.setQuad_free (s : State) (k : Nat) (v : QuadState) : (s.setQuad k v).free = s.free := rfl
@[simp] theorem State.setQuad_ids (s : State) (k : Nat) (v : QuadState) : (s.setQuad k v).ids = s.ids := rfl
@[simp] theorem State.setQuad_replies (s : State) (k : Nat) (v : QuadState) : (s.setQuad k v).replies = s.replies := rfl

@[simp] theorem State.setMem_time (s : State) (v : Memory) : (s.setMem v).time = s.time := rfl
@[simp] theorem State.setMem_strands (s : State) (v : Memory) : (s.setMem v).strands = s.strands := rfl
@[simp] theorem State.setMem_cores (s : State) (v : Memory) : (s.setMem v).cores = s.cores := rfl
@[simp] theorem State.setMem_quads (s : State) (v : Memory) : (s.setMem v).quads = s.quads := rfl
@[simp] theorem State.setMem_pool (s : State) (v : Memory) : (s.setMem v).pool = s.pool := rfl
@[simp] theorem State.setMem_localMem (s : State) (v : Memory) : (s.setMem v).localMem = s.localMem := rfl
@[simp] theorem State.setMem_icache (s : State) (v : Memory) : (s.setMem v).icache = s.icache := rfl
@[simp] theorem State.setMem_utlb (s : State) (v : Memory) : (s.setMem v).utlb = s.utlb := rfl
@[simp] theorem State.setMem_qtlb (s : State) (v : Memory) : (s.setMem v).qtlb = s.qtlb := rfl
@[simp] theorem State.setMem_acc (s : State) (v : Memory) : (s.setMem v).acc = s.acc := rfl
@[simp] theorem State.setMem_sett (s : State) (v : Memory) : (s.setMem v).sett = s.sett := rfl
@[simp] theorem State.setMem_copies (s : State) (v : Memory) : (s.setMem v).copies = s.copies := rfl
@[simp] theorem State.setMem_recency (s : State) (v : Memory) : (s.setMem v).recency = s.recency := rfl
@[simp] theorem State.setMem_barriers (s : State) (v : Memory) : (s.setMem v).barriers = s.barriers := rfl
@[simp] theorem State.setMem_mem (s : State) (v : Memory) : (s.setMem v).mem = v := rfl
@[simp] theorem State.setMem_homes (s : State) (v : Memory) : (s.setMem v).homes = s.homes := rfl
@[simp] theorem State.setMem_hub (s : State) (v : Memory) : (s.setMem v).hub = s.hub := rfl
@[simp] theorem State.setMem_pod (s : State) (v : Memory) : (s.setMem v).pod = s.pod := rfl
@[simp] theorem State.setMem_coursing (s : State) (v : Memory) : (s.setMem v).coursing = s.coursing := rfl
@[simp] theorem State.setMem_keystone (s : State) (v : Memory) : (s.setMem v).keystone = s.keystone := rfl
@[simp] theorem State.setMem_sys (s : State) (v : Memory) : (s.setMem v).sys = s.sys := rfl
@[simp] theorem State.setMem_power (s : State) (v : Memory) : (s.setMem v).power = s.power := rfl
@[simp] theorem State.setMem_agenda (s : State) (v : Memory) : (s.setMem v).agenda = s.agenda := rfl
@[simp] theorem State.setMem_cur (s : State) (v : Memory) : (s.setMem v).cur = s.cur := rfl
@[simp] theorem State.setMem_eventTurn (s : State) (v : Memory) : (s.setMem v).eventTurn = s.eventTurn := rfl
@[simp] theorem State.setMem_free (s : State) (v : Memory) : (s.setMem v).free = s.free := rfl
@[simp] theorem State.setMem_ids (s : State) (v : Memory) : (s.setMem v).ids = s.ids := rfl
@[simp] theorem State.setMem_replies (s : State) (v : Memory) : (s.setMem v).replies = s.replies := rfl

@[simp] theorem State.setHomes_time (s : State) (v : Homes) : (s.setHomes v).time = s.time := rfl
@[simp] theorem State.setHomes_strands (s : State) (v : Homes) : (s.setHomes v).strands = s.strands := rfl
@[simp] theorem State.setHomes_cores (s : State) (v : Homes) : (s.setHomes v).cores = s.cores := rfl
@[simp] theorem State.setHomes_quads (s : State) (v : Homes) : (s.setHomes v).quads = s.quads := rfl
@[simp] theorem State.setHomes_pool (s : State) (v : Homes) : (s.setHomes v).pool = s.pool := rfl
@[simp] theorem State.setHomes_localMem (s : State) (v : Homes) : (s.setHomes v).localMem = s.localMem := rfl
@[simp] theorem State.setHomes_icache (s : State) (v : Homes) : (s.setHomes v).icache = s.icache := rfl
@[simp] theorem State.setHomes_utlb (s : State) (v : Homes) : (s.setHomes v).utlb = s.utlb := rfl
@[simp] theorem State.setHomes_qtlb (s : State) (v : Homes) : (s.setHomes v).qtlb = s.qtlb := rfl
@[simp] theorem State.setHomes_acc (s : State) (v : Homes) : (s.setHomes v).acc = s.acc := rfl
@[simp] theorem State.setHomes_sett (s : State) (v : Homes) : (s.setHomes v).sett = s.sett := rfl
@[simp] theorem State.setHomes_copies (s : State) (v : Homes) : (s.setHomes v).copies = s.copies := rfl
@[simp] theorem State.setHomes_recency (s : State) (v : Homes) : (s.setHomes v).recency = s.recency := rfl
@[simp] theorem State.setHomes_barriers (s : State) (v : Homes) : (s.setHomes v).barriers = s.barriers := rfl
@[simp] theorem State.setHomes_mem (s : State) (v : Homes) : (s.setHomes v).mem = s.mem := rfl
@[simp] theorem State.setHomes_homes (s : State) (v : Homes) : (s.setHomes v).homes = v := rfl
@[simp] theorem State.setHomes_hub (s : State) (v : Homes) : (s.setHomes v).hub = s.hub := rfl
@[simp] theorem State.setHomes_pod (s : State) (v : Homes) : (s.setHomes v).pod = s.pod := rfl
@[simp] theorem State.setHomes_coursing (s : State) (v : Homes) : (s.setHomes v).coursing = s.coursing := rfl
@[simp] theorem State.setHomes_keystone (s : State) (v : Homes) : (s.setHomes v).keystone = s.keystone := rfl
@[simp] theorem State.setHomes_sys (s : State) (v : Homes) : (s.setHomes v).sys = s.sys := rfl
@[simp] theorem State.setHomes_power (s : State) (v : Homes) : (s.setHomes v).power = s.power := rfl
@[simp] theorem State.setHomes_agenda (s : State) (v : Homes) : (s.setHomes v).agenda = s.agenda := rfl
@[simp] theorem State.setHomes_cur (s : State) (v : Homes) : (s.setHomes v).cur = s.cur := rfl
@[simp] theorem State.setHomes_eventTurn (s : State) (v : Homes) : (s.setHomes v).eventTurn = s.eventTurn := rfl
@[simp] theorem State.setHomes_free (s : State) (v : Homes) : (s.setHomes v).free = s.free := rfl
@[simp] theorem State.setHomes_ids (s : State) (v : Homes) : (s.setHomes v).ids = s.ids := rfl
@[simp] theorem State.setHomes_replies (s : State) (v : Homes) : (s.setHomes v).replies = s.replies := rfl

@[simp] theorem State.setHub_time (s : State) (v : Hub) : (s.setHub v).time = s.time := rfl
@[simp] theorem State.setHub_strands (s : State) (v : Hub) : (s.setHub v).strands = s.strands := rfl
@[simp] theorem State.setHub_cores (s : State) (v : Hub) : (s.setHub v).cores = s.cores := rfl
@[simp] theorem State.setHub_quads (s : State) (v : Hub) : (s.setHub v).quads = s.quads := rfl
@[simp] theorem State.setHub_pool (s : State) (v : Hub) : (s.setHub v).pool = s.pool := rfl
@[simp] theorem State.setHub_localMem (s : State) (v : Hub) : (s.setHub v).localMem = s.localMem := rfl
@[simp] theorem State.setHub_icache (s : State) (v : Hub) : (s.setHub v).icache = s.icache := rfl
@[simp] theorem State.setHub_utlb (s : State) (v : Hub) : (s.setHub v).utlb = s.utlb := rfl
@[simp] theorem State.setHub_qtlb (s : State) (v : Hub) : (s.setHub v).qtlb = s.qtlb := rfl
@[simp] theorem State.setHub_acc (s : State) (v : Hub) : (s.setHub v).acc = s.acc := rfl
@[simp] theorem State.setHub_sett (s : State) (v : Hub) : (s.setHub v).sett = s.sett := rfl
@[simp] theorem State.setHub_copies (s : State) (v : Hub) : (s.setHub v).copies = s.copies := rfl
@[simp] theorem State.setHub_recency (s : State) (v : Hub) : (s.setHub v).recency = s.recency := rfl
@[simp] theorem State.setHub_barriers (s : State) (v : Hub) : (s.setHub v).barriers = s.barriers := rfl
@[simp] theorem State.setHub_mem (s : State) (v : Hub) : (s.setHub v).mem = s.mem := rfl
@[simp] theorem State.setHub_homes (s : State) (v : Hub) : (s.setHub v).homes = s.homes := rfl
@[simp] theorem State.setHub_hub (s : State) (v : Hub) : (s.setHub v).hub = v := rfl
@[simp] theorem State.setHub_pod (s : State) (v : Hub) : (s.setHub v).pod = s.pod := rfl
@[simp] theorem State.setHub_coursing (s : State) (v : Hub) : (s.setHub v).coursing = s.coursing := rfl
@[simp] theorem State.setHub_keystone (s : State) (v : Hub) : (s.setHub v).keystone = s.keystone := rfl
@[simp] theorem State.setHub_sys (s : State) (v : Hub) : (s.setHub v).sys = s.sys := rfl
@[simp] theorem State.setHub_power (s : State) (v : Hub) : (s.setHub v).power = s.power := rfl
@[simp] theorem State.setHub_agenda (s : State) (v : Hub) : (s.setHub v).agenda = s.agenda := rfl
@[simp] theorem State.setHub_cur (s : State) (v : Hub) : (s.setHub v).cur = s.cur := rfl
@[simp] theorem State.setHub_eventTurn (s : State) (v : Hub) : (s.setHub v).eventTurn = s.eventTurn := rfl
@[simp] theorem State.setHub_free (s : State) (v : Hub) : (s.setHub v).free = s.free := rfl
@[simp] theorem State.setHub_ids (s : State) (v : Hub) : (s.setHub v).ids = s.ids := rfl
@[simp] theorem State.setHub_replies (s : State) (v : Hub) : (s.setHub v).replies = s.replies := rfl

@[simp] theorem State.setPod_time (s : State) (v : Pod) : (s.setPod v).time = s.time := rfl
@[simp] theorem State.setPod_strands (s : State) (v : Pod) : (s.setPod v).strands = s.strands := rfl
@[simp] theorem State.setPod_cores (s : State) (v : Pod) : (s.setPod v).cores = s.cores := rfl
@[simp] theorem State.setPod_quads (s : State) (v : Pod) : (s.setPod v).quads = s.quads := rfl
@[simp] theorem State.setPod_pool (s : State) (v : Pod) : (s.setPod v).pool = s.pool := rfl
@[simp] theorem State.setPod_localMem (s : State) (v : Pod) : (s.setPod v).localMem = s.localMem := rfl
@[simp] theorem State.setPod_icache (s : State) (v : Pod) : (s.setPod v).icache = s.icache := rfl
@[simp] theorem State.setPod_utlb (s : State) (v : Pod) : (s.setPod v).utlb = s.utlb := rfl
@[simp] theorem State.setPod_qtlb (s : State) (v : Pod) : (s.setPod v).qtlb = s.qtlb := rfl
@[simp] theorem State.setPod_acc (s : State) (v : Pod) : (s.setPod v).acc = s.acc := rfl
@[simp] theorem State.setPod_sett (s : State) (v : Pod) : (s.setPod v).sett = s.sett := rfl
@[simp] theorem State.setPod_copies (s : State) (v : Pod) : (s.setPod v).copies = s.copies := rfl
@[simp] theorem State.setPod_recency (s : State) (v : Pod) : (s.setPod v).recency = s.recency := rfl
@[simp] theorem State.setPod_barriers (s : State) (v : Pod) : (s.setPod v).barriers = s.barriers := rfl
@[simp] theorem State.setPod_mem (s : State) (v : Pod) : (s.setPod v).mem = s.mem := rfl
@[simp] theorem State.setPod_homes (s : State) (v : Pod) : (s.setPod v).homes = s.homes := rfl
@[simp] theorem State.setPod_hub (s : State) (v : Pod) : (s.setPod v).hub = s.hub := rfl
@[simp] theorem State.setPod_pod (s : State) (v : Pod) : (s.setPod v).pod = v := rfl
@[simp] theorem State.setPod_coursing (s : State) (v : Pod) : (s.setPod v).coursing = s.coursing := rfl
@[simp] theorem State.setPod_keystone (s : State) (v : Pod) : (s.setPod v).keystone = s.keystone := rfl
@[simp] theorem State.setPod_sys (s : State) (v : Pod) : (s.setPod v).sys = s.sys := rfl
@[simp] theorem State.setPod_power (s : State) (v : Pod) : (s.setPod v).power = s.power := rfl
@[simp] theorem State.setPod_agenda (s : State) (v : Pod) : (s.setPod v).agenda = s.agenda := rfl
@[simp] theorem State.setPod_cur (s : State) (v : Pod) : (s.setPod v).cur = s.cur := rfl
@[simp] theorem State.setPod_eventTurn (s : State) (v : Pod) : (s.setPod v).eventTurn = s.eventTurn := rfl
@[simp] theorem State.setPod_free (s : State) (v : Pod) : (s.setPod v).free = s.free := rfl
@[simp] theorem State.setPod_ids (s : State) (v : Pod) : (s.setPod v).ids = s.ids := rfl
@[simp] theorem State.setPod_replies (s : State) (v : Pod) : (s.setPod v).replies = s.replies := rfl

@[simp] theorem State.setCoursing_time (s : State) (v : Coursing) : (s.setCoursing v).time = s.time := rfl
@[simp] theorem State.setCoursing_strands (s : State) (v : Coursing) : (s.setCoursing v).strands = s.strands := rfl
@[simp] theorem State.setCoursing_cores (s : State) (v : Coursing) : (s.setCoursing v).cores = s.cores := rfl
@[simp] theorem State.setCoursing_quads (s : State) (v : Coursing) : (s.setCoursing v).quads = s.quads := rfl
@[simp] theorem State.setCoursing_pool (s : State) (v : Coursing) : (s.setCoursing v).pool = s.pool := rfl
@[simp] theorem State.setCoursing_localMem (s : State) (v : Coursing) : (s.setCoursing v).localMem = s.localMem := rfl
@[simp] theorem State.setCoursing_icache (s : State) (v : Coursing) : (s.setCoursing v).icache = s.icache := rfl
@[simp] theorem State.setCoursing_utlb (s : State) (v : Coursing) : (s.setCoursing v).utlb = s.utlb := rfl
@[simp] theorem State.setCoursing_qtlb (s : State) (v : Coursing) : (s.setCoursing v).qtlb = s.qtlb := rfl
@[simp] theorem State.setCoursing_acc (s : State) (v : Coursing) : (s.setCoursing v).acc = s.acc := rfl
@[simp] theorem State.setCoursing_sett (s : State) (v : Coursing) : (s.setCoursing v).sett = s.sett := rfl
@[simp] theorem State.setCoursing_copies (s : State) (v : Coursing) : (s.setCoursing v).copies = s.copies := rfl
@[simp] theorem State.setCoursing_recency (s : State) (v : Coursing) : (s.setCoursing v).recency = s.recency := rfl
@[simp] theorem State.setCoursing_barriers (s : State) (v : Coursing) : (s.setCoursing v).barriers = s.barriers := rfl
@[simp] theorem State.setCoursing_mem (s : State) (v : Coursing) : (s.setCoursing v).mem = s.mem := rfl
@[simp] theorem State.setCoursing_homes (s : State) (v : Coursing) : (s.setCoursing v).homes = s.homes := rfl
@[simp] theorem State.setCoursing_hub (s : State) (v : Coursing) : (s.setCoursing v).hub = s.hub := rfl
@[simp] theorem State.setCoursing_pod (s : State) (v : Coursing) : (s.setCoursing v).pod = s.pod := rfl
@[simp] theorem State.setCoursing_coursing (s : State) (v : Coursing) : (s.setCoursing v).coursing = v := rfl
@[simp] theorem State.setCoursing_keystone (s : State) (v : Coursing) : (s.setCoursing v).keystone = s.keystone := rfl
@[simp] theorem State.setCoursing_sys (s : State) (v : Coursing) : (s.setCoursing v).sys = s.sys := rfl
@[simp] theorem State.setCoursing_power (s : State) (v : Coursing) : (s.setCoursing v).power = s.power := rfl
@[simp] theorem State.setCoursing_agenda (s : State) (v : Coursing) : (s.setCoursing v).agenda = s.agenda := rfl
@[simp] theorem State.setCoursing_cur (s : State) (v : Coursing) : (s.setCoursing v).cur = s.cur := rfl
@[simp] theorem State.setCoursing_eventTurn (s : State) (v : Coursing) : (s.setCoursing v).eventTurn = s.eventTurn := rfl
@[simp] theorem State.setCoursing_free (s : State) (v : Coursing) : (s.setCoursing v).free = s.free := rfl
@[simp] theorem State.setCoursing_ids (s : State) (v : Coursing) : (s.setCoursing v).ids = s.ids := rfl
@[simp] theorem State.setCoursing_replies (s : State) (v : Coursing) : (s.setCoursing v).replies = s.replies := rfl

@[simp] theorem State.setKeystone_time (s : State) (v : Keystone) : (s.setKeystone v).time = s.time := rfl
@[simp] theorem State.setKeystone_strands (s : State) (v : Keystone) : (s.setKeystone v).strands = s.strands := rfl
@[simp] theorem State.setKeystone_cores (s : State) (v : Keystone) : (s.setKeystone v).cores = s.cores := rfl
@[simp] theorem State.setKeystone_quads (s : State) (v : Keystone) : (s.setKeystone v).quads = s.quads := rfl
@[simp] theorem State.setKeystone_pool (s : State) (v : Keystone) : (s.setKeystone v).pool = s.pool := rfl
@[simp] theorem State.setKeystone_localMem (s : State) (v : Keystone) : (s.setKeystone v).localMem = s.localMem := rfl
@[simp] theorem State.setKeystone_icache (s : State) (v : Keystone) : (s.setKeystone v).icache = s.icache := rfl
@[simp] theorem State.setKeystone_utlb (s : State) (v : Keystone) : (s.setKeystone v).utlb = s.utlb := rfl
@[simp] theorem State.setKeystone_qtlb (s : State) (v : Keystone) : (s.setKeystone v).qtlb = s.qtlb := rfl
@[simp] theorem State.setKeystone_acc (s : State) (v : Keystone) : (s.setKeystone v).acc = s.acc := rfl
@[simp] theorem State.setKeystone_sett (s : State) (v : Keystone) : (s.setKeystone v).sett = s.sett := rfl
@[simp] theorem State.setKeystone_copies (s : State) (v : Keystone) : (s.setKeystone v).copies = s.copies := rfl
@[simp] theorem State.setKeystone_recency (s : State) (v : Keystone) : (s.setKeystone v).recency = s.recency := rfl
@[simp] theorem State.setKeystone_barriers (s : State) (v : Keystone) : (s.setKeystone v).barriers = s.barriers := rfl
@[simp] theorem State.setKeystone_mem (s : State) (v : Keystone) : (s.setKeystone v).mem = s.mem := rfl
@[simp] theorem State.setKeystone_homes (s : State) (v : Keystone) : (s.setKeystone v).homes = s.homes := rfl
@[simp] theorem State.setKeystone_hub (s : State) (v : Keystone) : (s.setKeystone v).hub = s.hub := rfl
@[simp] theorem State.setKeystone_pod (s : State) (v : Keystone) : (s.setKeystone v).pod = s.pod := rfl
@[simp] theorem State.setKeystone_coursing (s : State) (v : Keystone) : (s.setKeystone v).coursing = s.coursing := rfl
@[simp] theorem State.setKeystone_keystone (s : State) (v : Keystone) : (s.setKeystone v).keystone = v := rfl
@[simp] theorem State.setKeystone_sys (s : State) (v : Keystone) : (s.setKeystone v).sys = s.sys := rfl
@[simp] theorem State.setKeystone_power (s : State) (v : Keystone) : (s.setKeystone v).power = s.power := rfl
@[simp] theorem State.setKeystone_agenda (s : State) (v : Keystone) : (s.setKeystone v).agenda = s.agenda := rfl
@[simp] theorem State.setKeystone_cur (s : State) (v : Keystone) : (s.setKeystone v).cur = s.cur := rfl
@[simp] theorem State.setKeystone_eventTurn (s : State) (v : Keystone) : (s.setKeystone v).eventTurn = s.eventTurn := rfl
@[simp] theorem State.setKeystone_free (s : State) (v : Keystone) : (s.setKeystone v).free = s.free := rfl
@[simp] theorem State.setKeystone_ids (s : State) (v : Keystone) : (s.setKeystone v).ids = s.ids := rfl
@[simp] theorem State.setKeystone_replies (s : State) (v : Keystone) : (s.setKeystone v).replies = s.replies := rfl

@[simp] theorem State.setSys_time (s : State) (v : Sys) : (s.setSys v).time = s.time := rfl
@[simp] theorem State.setSys_strands (s : State) (v : Sys) : (s.setSys v).strands = s.strands := rfl
@[simp] theorem State.setSys_cores (s : State) (v : Sys) : (s.setSys v).cores = s.cores := rfl
@[simp] theorem State.setSys_quads (s : State) (v : Sys) : (s.setSys v).quads = s.quads := rfl
@[simp] theorem State.setSys_pool (s : State) (v : Sys) : (s.setSys v).pool = s.pool := rfl
@[simp] theorem State.setSys_localMem (s : State) (v : Sys) : (s.setSys v).localMem = s.localMem := rfl
@[simp] theorem State.setSys_icache (s : State) (v : Sys) : (s.setSys v).icache = s.icache := rfl
@[simp] theorem State.setSys_utlb (s : State) (v : Sys) : (s.setSys v).utlb = s.utlb := rfl
@[simp] theorem State.setSys_qtlb (s : State) (v : Sys) : (s.setSys v).qtlb = s.qtlb := rfl
@[simp] theorem State.setSys_acc (s : State) (v : Sys) : (s.setSys v).acc = s.acc := rfl
@[simp] theorem State.setSys_sett (s : State) (v : Sys) : (s.setSys v).sett = s.sett := rfl
@[simp] theorem State.setSys_copies (s : State) (v : Sys) : (s.setSys v).copies = s.copies := rfl
@[simp] theorem State.setSys_recency (s : State) (v : Sys) : (s.setSys v).recency = s.recency := rfl
@[simp] theorem State.setSys_barriers (s : State) (v : Sys) : (s.setSys v).barriers = s.barriers := rfl
@[simp] theorem State.setSys_mem (s : State) (v : Sys) : (s.setSys v).mem = s.mem := rfl
@[simp] theorem State.setSys_homes (s : State) (v : Sys) : (s.setSys v).homes = s.homes := rfl
@[simp] theorem State.setSys_hub (s : State) (v : Sys) : (s.setSys v).hub = s.hub := rfl
@[simp] theorem State.setSys_pod (s : State) (v : Sys) : (s.setSys v).pod = s.pod := rfl
@[simp] theorem State.setSys_coursing (s : State) (v : Sys) : (s.setSys v).coursing = s.coursing := rfl
@[simp] theorem State.setSys_keystone (s : State) (v : Sys) : (s.setSys v).keystone = s.keystone := rfl
@[simp] theorem State.setSys_sys (s : State) (v : Sys) : (s.setSys v).sys = v := rfl
@[simp] theorem State.setSys_power (s : State) (v : Sys) : (s.setSys v).power = s.power := rfl
@[simp] theorem State.setSys_agenda (s : State) (v : Sys) : (s.setSys v).agenda = s.agenda := rfl
@[simp] theorem State.setSys_cur (s : State) (v : Sys) : (s.setSys v).cur = s.cur := rfl
@[simp] theorem State.setSys_eventTurn (s : State) (v : Sys) : (s.setSys v).eventTurn = s.eventTurn := rfl
@[simp] theorem State.setSys_free (s : State) (v : Sys) : (s.setSys v).free = s.free := rfl
@[simp] theorem State.setSys_ids (s : State) (v : Sys) : (s.setSys v).ids = s.ids := rfl
@[simp] theorem State.setSys_replies (s : State) (v : Sys) : (s.setSys v).replies = s.replies := rfl

@[simp] theorem State.setPower_time (s : State) (v : Power) : (s.setPower v).time = s.time := rfl
@[simp] theorem State.setPower_strands (s : State) (v : Power) : (s.setPower v).strands = s.strands := rfl
@[simp] theorem State.setPower_cores (s : State) (v : Power) : (s.setPower v).cores = s.cores := rfl
@[simp] theorem State.setPower_quads (s : State) (v : Power) : (s.setPower v).quads = s.quads := rfl
@[simp] theorem State.setPower_pool (s : State) (v : Power) : (s.setPower v).pool = s.pool := rfl
@[simp] theorem State.setPower_localMem (s : State) (v : Power) : (s.setPower v).localMem = s.localMem := rfl
@[simp] theorem State.setPower_icache (s : State) (v : Power) : (s.setPower v).icache = s.icache := rfl
@[simp] theorem State.setPower_utlb (s : State) (v : Power) : (s.setPower v).utlb = s.utlb := rfl
@[simp] theorem State.setPower_qtlb (s : State) (v : Power) : (s.setPower v).qtlb = s.qtlb := rfl
@[simp] theorem State.setPower_acc (s : State) (v : Power) : (s.setPower v).acc = s.acc := rfl
@[simp] theorem State.setPower_sett (s : State) (v : Power) : (s.setPower v).sett = s.sett := rfl
@[simp] theorem State.setPower_copies (s : State) (v : Power) : (s.setPower v).copies = s.copies := rfl
@[simp] theorem State.setPower_recency (s : State) (v : Power) : (s.setPower v).recency = s.recency := rfl
@[simp] theorem State.setPower_barriers (s : State) (v : Power) : (s.setPower v).barriers = s.barriers := rfl
@[simp] theorem State.setPower_mem (s : State) (v : Power) : (s.setPower v).mem = s.mem := rfl
@[simp] theorem State.setPower_homes (s : State) (v : Power) : (s.setPower v).homes = s.homes := rfl
@[simp] theorem State.setPower_hub (s : State) (v : Power) : (s.setPower v).hub = s.hub := rfl
@[simp] theorem State.setPower_pod (s : State) (v : Power) : (s.setPower v).pod = s.pod := rfl
@[simp] theorem State.setPower_coursing (s : State) (v : Power) : (s.setPower v).coursing = s.coursing := rfl
@[simp] theorem State.setPower_keystone (s : State) (v : Power) : (s.setPower v).keystone = s.keystone := rfl
@[simp] theorem State.setPower_sys (s : State) (v : Power) : (s.setPower v).sys = s.sys := rfl
@[simp] theorem State.setPower_power (s : State) (v : Power) : (s.setPower v).power = v := rfl
@[simp] theorem State.setPower_agenda (s : State) (v : Power) : (s.setPower v).agenda = s.agenda := rfl
@[simp] theorem State.setPower_cur (s : State) (v : Power) : (s.setPower v).cur = s.cur := rfl
@[simp] theorem State.setPower_eventTurn (s : State) (v : Power) : (s.setPower v).eventTurn = s.eventTurn := rfl
@[simp] theorem State.setPower_free (s : State) (v : Power) : (s.setPower v).free = s.free := rfl
@[simp] theorem State.setPower_ids (s : State) (v : Power) : (s.setPower v).ids = s.ids := rfl
@[simp] theorem State.setPower_replies (s : State) (v : Power) : (s.setPower v).replies = s.replies := rfl

@[simp] theorem State.setV_time (s : State) (k : Nat) (st : Strand) (r : Nat) (v : VReg) : (s.setV k st r v).time = s.time := rfl
@[simp] theorem State.setV_strands (s : State) (k : Nat) (st : Strand) (r : Nat) (v : VReg) : (s.setV k st r v).strands = s.strands := rfl
@[simp] theorem State.setV_cores (s : State) (k : Nat) (st : Strand) (r : Nat) (v : VReg) : (s.setV k st r v).cores = s.cores := rfl
@[simp] theorem State.setV_quads (s : State) (k : Nat) (st : Strand) (r : Nat) (v : VReg) : (s.setV k st r v).quads = s.quads := rfl
@[simp] theorem State.setV_pool (s : State) (k : Nat) (st : Strand) (r : Nat) (v : VReg) : (s.setV k st r v).pool = s.pool.set 0 (64 * coreOf k + st.vbase + r) v := rfl
@[simp] theorem State.setV_localMem (s : State) (k : Nat) (st : Strand) (r : Nat) (v : VReg) : (s.setV k st r v).localMem = s.localMem := rfl
@[simp] theorem State.setV_icache (s : State) (k : Nat) (st : Strand) (r : Nat) (v : VReg) : (s.setV k st r v).icache = s.icache := rfl
@[simp] theorem State.setV_utlb (s : State) (k : Nat) (st : Strand) (r : Nat) (v : VReg) : (s.setV k st r v).utlb = s.utlb := rfl
@[simp] theorem State.setV_qtlb (s : State) (k : Nat) (st : Strand) (r : Nat) (v : VReg) : (s.setV k st r v).qtlb = s.qtlb := rfl
@[simp] theorem State.setV_acc (s : State) (k : Nat) (st : Strand) (r : Nat) (v : VReg) : (s.setV k st r v).acc = s.acc := rfl
@[simp] theorem State.setV_sett (s : State) (k : Nat) (st : Strand) (r : Nat) (v : VReg) : (s.setV k st r v).sett = s.sett := rfl
@[simp] theorem State.setV_copies (s : State) (k : Nat) (st : Strand) (r : Nat) (v : VReg) : (s.setV k st r v).copies = s.copies := rfl
@[simp] theorem State.setV_recency (s : State) (k : Nat) (st : Strand) (r : Nat) (v : VReg) : (s.setV k st r v).recency = s.recency := rfl
@[simp] theorem State.setV_barriers (s : State) (k : Nat) (st : Strand) (r : Nat) (v : VReg) : (s.setV k st r v).barriers = s.barriers := rfl
@[simp] theorem State.setV_mem (s : State) (k : Nat) (st : Strand) (r : Nat) (v : VReg) : (s.setV k st r v).mem = s.mem := rfl
@[simp] theorem State.setV_homes (s : State) (k : Nat) (st : Strand) (r : Nat) (v : VReg) : (s.setV k st r v).homes = s.homes := rfl
@[simp] theorem State.setV_hub (s : State) (k : Nat) (st : Strand) (r : Nat) (v : VReg) : (s.setV k st r v).hub = s.hub := rfl
@[simp] theorem State.setV_pod (s : State) (k : Nat) (st : Strand) (r : Nat) (v : VReg) : (s.setV k st r v).pod = s.pod := rfl
@[simp] theorem State.setV_coursing (s : State) (k : Nat) (st : Strand) (r : Nat) (v : VReg) : (s.setV k st r v).coursing = s.coursing := rfl
@[simp] theorem State.setV_keystone (s : State) (k : Nat) (st : Strand) (r : Nat) (v : VReg) : (s.setV k st r v).keystone = s.keystone := rfl
@[simp] theorem State.setV_sys (s : State) (k : Nat) (st : Strand) (r : Nat) (v : VReg) : (s.setV k st r v).sys = s.sys := rfl
@[simp] theorem State.setV_power (s : State) (k : Nat) (st : Strand) (r : Nat) (v : VReg) : (s.setV k st r v).power = s.power := rfl
@[simp] theorem State.setV_agenda (s : State) (k : Nat) (st : Strand) (r : Nat) (v : VReg) : (s.setV k st r v).agenda = s.agenda := rfl
@[simp] theorem State.setV_cur (s : State) (k : Nat) (st : Strand) (r : Nat) (v : VReg) : (s.setV k st r v).cur = s.cur := rfl
@[simp] theorem State.setV_eventTurn (s : State) (k : Nat) (st : Strand) (r : Nat) (v : VReg) : (s.setV k st r v).eventTurn = s.eventTurn := rfl
@[simp] theorem State.setV_free (s : State) (k : Nat) (st : Strand) (r : Nat) (v : VReg) : (s.setV k st r v).free = s.free := rfl
@[simp] theorem State.setV_ids (s : State) (k : Nat) (st : Strand) (r : Nat) (v : VReg) : (s.setV k st r v).ids = s.ids := rfl
@[simp] theorem State.setV_replies (s : State) (k : Nat) (st : Strand) (r : Nat) (v : VReg) : (s.setV k st r v).replies = s.replies := rfl

@[simp] theorem State.setLocal_time (s : State) (k o : Nat) (b : Byte) : (s.setLocal k o b).time = s.time := rfl
@[simp] theorem State.setLocal_strands (s : State) (k o : Nat) (b : Byte) : (s.setLocal k o b).strands = s.strands := rfl
@[simp] theorem State.setLocal_cores (s : State) (k o : Nat) (b : Byte) : (s.setLocal k o b).cores = s.cores := rfl
@[simp] theorem State.setLocal_quads (s : State) (k o : Nat) (b : Byte) : (s.setLocal k o b).quads = s.quads := rfl
@[simp] theorem State.setLocal_pool (s : State) (k o : Nat) (b : Byte) : (s.setLocal k o b).pool = s.pool := rfl
@[simp] theorem State.setLocal_localMem (s : State) (k o : Nat) (b : Byte) : (s.setLocal k o b).localMem = s.localMem.set 0 (2 ^ 18 * k + o) b := rfl
@[simp] theorem State.setLocal_icache (s : State) (k o : Nat) (b : Byte) : (s.setLocal k o b).icache = s.icache := rfl
@[simp] theorem State.setLocal_utlb (s : State) (k o : Nat) (b : Byte) : (s.setLocal k o b).utlb = s.utlb := rfl
@[simp] theorem State.setLocal_qtlb (s : State) (k o : Nat) (b : Byte) : (s.setLocal k o b).qtlb = s.qtlb := rfl
@[simp] theorem State.setLocal_acc (s : State) (k o : Nat) (b : Byte) : (s.setLocal k o b).acc = s.acc := rfl
@[simp] theorem State.setLocal_sett (s : State) (k o : Nat) (b : Byte) : (s.setLocal k o b).sett = s.sett := rfl
@[simp] theorem State.setLocal_copies (s : State) (k o : Nat) (b : Byte) : (s.setLocal k o b).copies = s.copies := rfl
@[simp] theorem State.setLocal_recency (s : State) (k o : Nat) (b : Byte) : (s.setLocal k o b).recency = s.recency := rfl
@[simp] theorem State.setLocal_barriers (s : State) (k o : Nat) (b : Byte) : (s.setLocal k o b).barriers = s.barriers := rfl
@[simp] theorem State.setLocal_mem (s : State) (k o : Nat) (b : Byte) : (s.setLocal k o b).mem = s.mem := rfl
@[simp] theorem State.setLocal_homes (s : State) (k o : Nat) (b : Byte) : (s.setLocal k o b).homes = s.homes := rfl
@[simp] theorem State.setLocal_hub (s : State) (k o : Nat) (b : Byte) : (s.setLocal k o b).hub = s.hub := rfl
@[simp] theorem State.setLocal_pod (s : State) (k o : Nat) (b : Byte) : (s.setLocal k o b).pod = s.pod := rfl
@[simp] theorem State.setLocal_coursing (s : State) (k o : Nat) (b : Byte) : (s.setLocal k o b).coursing = s.coursing := rfl
@[simp] theorem State.setLocal_keystone (s : State) (k o : Nat) (b : Byte) : (s.setLocal k o b).keystone = s.keystone := rfl
@[simp] theorem State.setLocal_sys (s : State) (k o : Nat) (b : Byte) : (s.setLocal k o b).sys = s.sys := rfl
@[simp] theorem State.setLocal_power (s : State) (k o : Nat) (b : Byte) : (s.setLocal k o b).power = s.power := rfl
@[simp] theorem State.setLocal_agenda (s : State) (k o : Nat) (b : Byte) : (s.setLocal k o b).agenda = s.agenda := rfl
@[simp] theorem State.setLocal_cur (s : State) (k o : Nat) (b : Byte) : (s.setLocal k o b).cur = s.cur := rfl
@[simp] theorem State.setLocal_eventTurn (s : State) (k o : Nat) (b : Byte) : (s.setLocal k o b).eventTurn = s.eventTurn := rfl
@[simp] theorem State.setLocal_free (s : State) (k o : Nat) (b : Byte) : (s.setLocal k o b).free = s.free := rfl
@[simp] theorem State.setLocal_ids (s : State) (k o : Nat) (b : Byte) : (s.setLocal k o b).ids = s.ids := rfl
@[simp] theorem State.setLocal_replies (s : State) (k o : Nat) (b : Byte) : (s.setLocal k o b).replies = s.replies := rfl

@[simp] theorem State.tick_time (s : State) : (s.tick).time = s.time + 1 := rfl
@[simp] theorem State.tick_strands (s : State) : (s.tick).strands = s.strands := rfl
@[simp] theorem State.tick_cores (s : State) : (s.tick).cores = s.cores := rfl
@[simp] theorem State.tick_quads (s : State) : (s.tick).quads = s.quads := rfl
@[simp] theorem State.tick_pool (s : State) : (s.tick).pool = s.pool := rfl
@[simp] theorem State.tick_localMem (s : State) : (s.tick).localMem = s.localMem := rfl
@[simp] theorem State.tick_icache (s : State) : (s.tick).icache = s.icache := rfl
@[simp] theorem State.tick_utlb (s : State) : (s.tick).utlb = s.utlb := rfl
@[simp] theorem State.tick_qtlb (s : State) : (s.tick).qtlb = s.qtlb := rfl
@[simp] theorem State.tick_acc (s : State) : (s.tick).acc = s.acc := rfl
@[simp] theorem State.tick_sett (s : State) : (s.tick).sett = s.sett := rfl
@[simp] theorem State.tick_copies (s : State) : (s.tick).copies = s.copies := rfl
@[simp] theorem State.tick_recency (s : State) : (s.tick).recency = s.recency := rfl
@[simp] theorem State.tick_barriers (s : State) : (s.tick).barriers = s.barriers := rfl
@[simp] theorem State.tick_mem (s : State) : (s.tick).mem = s.mem := rfl
@[simp] theorem State.tick_homes (s : State) : (s.tick).homes = s.homes := rfl
@[simp] theorem State.tick_hub (s : State) : (s.tick).hub = s.hub := rfl
@[simp] theorem State.tick_pod (s : State) : (s.tick).pod = s.pod := rfl
@[simp] theorem State.tick_coursing (s : State) : (s.tick).coursing = (if s.coursing.idleSince.isEmpty then s.coursing else { s.coursing with idleSince := s.idleBays }) := rfl
@[simp] theorem State.tick_keystone (s : State) : (s.tick).keystone = s.keystone := rfl
@[simp] theorem State.tick_sys (s : State) : (s.tick).sys = s.countCycle.sys := rfl
@[simp] theorem State.tick_power (s : State) : (s.tick).power = s.power := rfl
@[simp] theorem State.tick_agenda (s : State) : (s.tick).agenda = s.agenda := rfl
@[simp] theorem State.tick_cur (s : State) : (s.tick).cur = s.cur := rfl
@[simp] theorem State.tick_eventTurn (s : State) : (s.tick).eventTurn = s.eventTurn := rfl
@[simp] theorem State.tick_free (s : State) : (s.tick).free = s.free + 1 := rfl
@[simp] theorem State.tick_ids (s : State) : (s.tick).ids = s.ids := rfl
@[simp] theorem State.tick_replies (s : State) : (s.tick).replies = s.replies := rfl

@[simp] theorem Strand.raise_lid (st : Strand) (f : FFlags) : (st.raise f).lid = st.lid := rfl
@[simp] theorem Strand.raise_pc (st : Strand) (f : FFlags) : (st.raise f).pc = st.pc := rfl
@[simp] theorem Strand.raise_g (st : Strand) (f : FFlags) : (st.raise f).g = st.g := rfl
@[simp] theorem Strand.raise_pw (st : Strand) (f : FFlags) : (st.raise f).pw = st.pw := rfl
@[simp] theorem Strand.raise_masks (st : Strand) (f : FFlags) : (st.raise f).masks = st.masks := rfl
@[simp] theorem Strand.raise_vbase (st : Strand) (f : FFlags) : (st.raise f).vbase = st.vbase := rfl
@[simp] theorem Strand.raise_vcount (st : Strand) (f : FFlags) : (st.raise f).vcount = st.vcount := rfl
@[simp] theorem Strand.raise_lsbase (st : Strand) (f : FFlags) : (st.raise f).lsbase = st.lsbase := rfl
@[simp] theorem Strand.raise_lslen (st : Strand) (f : FFlags) : (st.raise f).lslen = st.lslen := rfl
@[simp] theorem Strand.raise_rf (st : Strand) (f : FFlags) : (st.raise f).rf = st.rf := rfl
@[simp] theorem Strand.raise_ls (st : Strand) (f : FFlags) : (st.raise f).ls = st.ls := rfl
@[simp] theorem Strand.raise_loops (st : Strand) (f : FFlags) : (st.raise f).loops = st.loops := rfl
@[simp] theorem Strand.raise_lc (st : Strand) (f : FFlags) : (st.raise f).lc = st.lc := rfl
@[simp] theorem Strand.raise_fflags (st : Strand) (f : FFlags) : (st.raise f).fflags = st.fflags ||| f := rfl
@[simp] theorem Strand.raise_lost (st : Strand) (f : FFlags) : (st.raise f).lost = st.lost := rfl
@[simp] theorem Strand.raise_wsp (st : Strand) (f : FFlags) : (st.raise f).wsp = st.wsp := rfl
@[simp] theorem Strand.raise_wdepth (st : Strand) (f : FFlags) : (st.raise f).wdepth = st.wdepth := rfl
@[simp] theorem Strand.raise_shape (st : Strand) (f : FFlags) : (st.raise f).shape = st.shape := rfl
@[simp] theorem Strand.raise_tvec (st : Strand) (f : FFlags) : (st.raise f).tvec = st.tvec := rfl
@[simp] theorem Strand.raise_epc (st : Strand) (f : FFlags) : (st.raise f).epc = st.epc := rfl
@[simp] theorem Strand.raise_cause (st : Strand) (f : FFlags) : (st.raise f).cause = st.cause := rfl
@[simp] theorem Strand.raise_tval (st : Strand) (f : FFlags) : (st.raise f).tval = st.tval := rfl
@[simp] theorem Strand.raise_priv (st : Strand) (f : FFlags) : (st.raise f).priv = st.priv := rfl
@[simp] theorem Strand.raise_inh (st : Strand) (f : FFlags) : (st.raise f).inh = st.inh := rfl
@[simp] theorem Strand.raise_gen (st : Strand) (f : FFlags) : (st.raise f).gen = st.gen := rfl
@[simp] theorem Strand.raise_ordDie (st : Strand) (f : FFlags) : (st.raise f).ordDie = st.ordDie := rfl
@[simp] theorem Strand.raise_ordQuad (st : Strand) (f : FFlags) : (st.raise f).ordQuad = st.ordQuad := rfl
@[simp] theorem Strand.raise_ordCore (st : Strand) (f : FFlags) : (st.raise f).ordCore = st.ordCore := rfl
@[simp] theorem Strand.raise_ordStrand (st : Strand) (f : FFlags) : (st.raise f).ordStrand = st.ordStrand := rfl
@[simp] theorem Strand.raise_bond (st : Strand) (f : FFlags) : (st.raise f).bond = st.bond := rfl
@[simp] theorem Strand.raise_wait (st : Strand) (f : FFlags) : (st.raise f).wait = st.wait := rfl
@[simp] theorem Strand.raise_rrec (st : Strand) (f : FFlags) : (st.raise f).rrec = st.rrec := rfl
@[simp] theorem Strand.raise_since (st : Strand) (f : FFlags) : (st.raise f).since = st.since := rfl
@[simp] theorem Strand.raise_next (st : Strand) (f : FFlags) : (st.raise f).next = st.next := rfl
@[simp] theorem Strand.raise_fetch (st : Strand) (f : FFlags) : (st.raise f).fetch = st.fetch := rfl
@[simp] theorem Strand.raise_halt (st : Strand) (f : FFlags) : (st.raise f).halt = st.halt := rfl

@[simp] theorem Strand.setLost_lid (st : Strand) (l : BitVec 2) : (st.setLost l).lid = st.lid := rfl
@[simp] theorem Strand.setLost_pc (st : Strand) (l : BitVec 2) : (st.setLost l).pc = st.pc := rfl
@[simp] theorem Strand.setLost_g (st : Strand) (l : BitVec 2) : (st.setLost l).g = st.g := rfl
@[simp] theorem Strand.setLost_pw (st : Strand) (l : BitVec 2) : (st.setLost l).pw = st.pw := rfl
@[simp] theorem Strand.setLost_masks (st : Strand) (l : BitVec 2) : (st.setLost l).masks = st.masks := rfl
@[simp] theorem Strand.setLost_vbase (st : Strand) (l : BitVec 2) : (st.setLost l).vbase = st.vbase := rfl
@[simp] theorem Strand.setLost_vcount (st : Strand) (l : BitVec 2) : (st.setLost l).vcount = st.vcount := rfl
@[simp] theorem Strand.setLost_lsbase (st : Strand) (l : BitVec 2) : (st.setLost l).lsbase = st.lsbase := rfl
@[simp] theorem Strand.setLost_lslen (st : Strand) (l : BitVec 2) : (st.setLost l).lslen = st.lslen := rfl
@[simp] theorem Strand.setLost_rf (st : Strand) (l : BitVec 2) : (st.setLost l).rf = st.rf := rfl
@[simp] theorem Strand.setLost_ls (st : Strand) (l : BitVec 2) : (st.setLost l).ls = st.ls := rfl
@[simp] theorem Strand.setLost_loops (st : Strand) (l : BitVec 2) : (st.setLost l).loops = st.loops := rfl
@[simp] theorem Strand.setLost_lc (st : Strand) (l : BitVec 2) : (st.setLost l).lc = st.lc := rfl
@[simp] theorem Strand.setLost_fflags (st : Strand) (l : BitVec 2) : (st.setLost l).fflags = st.fflags := rfl
@[simp] theorem Strand.setLost_lost (st : Strand) (l : BitVec 2) : (st.setLost l).lost = st.lost ||| l := rfl
@[simp] theorem Strand.setLost_wsp (st : Strand) (l : BitVec 2) : (st.setLost l).wsp = st.wsp := rfl
@[simp] theorem Strand.setLost_wdepth (st : Strand) (l : BitVec 2) : (st.setLost l).wdepth = st.wdepth := rfl
@[simp] theorem Strand.setLost_shape (st : Strand) (l : BitVec 2) : (st.setLost l).shape = st.shape := rfl
@[simp] theorem Strand.setLost_tvec (st : Strand) (l : BitVec 2) : (st.setLost l).tvec = st.tvec := rfl
@[simp] theorem Strand.setLost_epc (st : Strand) (l : BitVec 2) : (st.setLost l).epc = st.epc := rfl
@[simp] theorem Strand.setLost_cause (st : Strand) (l : BitVec 2) : (st.setLost l).cause = st.cause := rfl
@[simp] theorem Strand.setLost_tval (st : Strand) (l : BitVec 2) : (st.setLost l).tval = st.tval := rfl
@[simp] theorem Strand.setLost_priv (st : Strand) (l : BitVec 2) : (st.setLost l).priv = st.priv := rfl
@[simp] theorem Strand.setLost_inh (st : Strand) (l : BitVec 2) : (st.setLost l).inh = st.inh := rfl
@[simp] theorem Strand.setLost_gen (st : Strand) (l : BitVec 2) : (st.setLost l).gen = st.gen := rfl
@[simp] theorem Strand.setLost_ordDie (st : Strand) (l : BitVec 2) : (st.setLost l).ordDie = st.ordDie := rfl
@[simp] theorem Strand.setLost_ordQuad (st : Strand) (l : BitVec 2) : (st.setLost l).ordQuad = st.ordQuad := rfl
@[simp] theorem Strand.setLost_ordCore (st : Strand) (l : BitVec 2) : (st.setLost l).ordCore = st.ordCore := rfl
@[simp] theorem Strand.setLost_ordStrand (st : Strand) (l : BitVec 2) : (st.setLost l).ordStrand = st.ordStrand := rfl
@[simp] theorem Strand.setLost_bond (st : Strand) (l : BitVec 2) : (st.setLost l).bond = st.bond := rfl
@[simp] theorem Strand.setLost_wait (st : Strand) (l : BitVec 2) : (st.setLost l).wait = st.wait := rfl
@[simp] theorem Strand.setLost_rrec (st : Strand) (l : BitVec 2) : (st.setLost l).rrec = st.rrec := rfl
@[simp] theorem Strand.setLost_since (st : Strand) (l : BitVec 2) : (st.setLost l).since = st.since := rfl
@[simp] theorem Strand.setLost_next (st : Strand) (l : BitVec 2) : (st.setLost l).next = st.next := rfl
@[simp] theorem Strand.setLost_fetch (st : Strand) (l : BitVec 2) : (st.setLost l).fetch = st.fetch := rfl
@[simp] theorem Strand.setLost_halt (st : Strand) (l : BitVec 2) : (st.setLost l).halt = st.halt := rfl

@[simp] theorem Strand.setPc_lid (st : Strand) (v : VAddr) : (st.setPc v).lid = st.lid := rfl
@[simp] theorem Strand.setPc_pc (st : Strand) (v : VAddr) : (st.setPc v).pc = v := rfl
@[simp] theorem Strand.setPc_g (st : Strand) (v : VAddr) : (st.setPc v).g = st.g := rfl
@[simp] theorem Strand.setPc_pw (st : Strand) (v : VAddr) : (st.setPc v).pw = st.pw := rfl
@[simp] theorem Strand.setPc_masks (st : Strand) (v : VAddr) : (st.setPc v).masks = st.masks := rfl
@[simp] theorem Strand.setPc_vbase (st : Strand) (v : VAddr) : (st.setPc v).vbase = st.vbase := rfl
@[simp] theorem Strand.setPc_vcount (st : Strand) (v : VAddr) : (st.setPc v).vcount = st.vcount := rfl
@[simp] theorem Strand.setPc_lsbase (st : Strand) (v : VAddr) : (st.setPc v).lsbase = st.lsbase := rfl
@[simp] theorem Strand.setPc_lslen (st : Strand) (v : VAddr) : (st.setPc v).lslen = st.lslen := rfl
@[simp] theorem Strand.setPc_rf (st : Strand) (v : VAddr) : (st.setPc v).rf = st.rf := rfl
@[simp] theorem Strand.setPc_ls (st : Strand) (v : VAddr) : (st.setPc v).ls = st.ls := rfl
@[simp] theorem Strand.setPc_loops (st : Strand) (v : VAddr) : (st.setPc v).loops = st.loops := rfl
@[simp] theorem Strand.setPc_lc (st : Strand) (v : VAddr) : (st.setPc v).lc = st.lc := rfl
@[simp] theorem Strand.setPc_fflags (st : Strand) (v : VAddr) : (st.setPc v).fflags = st.fflags := rfl
@[simp] theorem Strand.setPc_lost (st : Strand) (v : VAddr) : (st.setPc v).lost = st.lost := rfl
@[simp] theorem Strand.setPc_wsp (st : Strand) (v : VAddr) : (st.setPc v).wsp = st.wsp := rfl
@[simp] theorem Strand.setPc_wdepth (st : Strand) (v : VAddr) : (st.setPc v).wdepth = st.wdepth := rfl
@[simp] theorem Strand.setPc_shape (st : Strand) (v : VAddr) : (st.setPc v).shape = st.shape := rfl
@[simp] theorem Strand.setPc_tvec (st : Strand) (v : VAddr) : (st.setPc v).tvec = st.tvec := rfl
@[simp] theorem Strand.setPc_epc (st : Strand) (v : VAddr) : (st.setPc v).epc = st.epc := rfl
@[simp] theorem Strand.setPc_cause (st : Strand) (v : VAddr) : (st.setPc v).cause = st.cause := rfl
@[simp] theorem Strand.setPc_tval (st : Strand) (v : VAddr) : (st.setPc v).tval = st.tval := rfl
@[simp] theorem Strand.setPc_priv (st : Strand) (v : VAddr) : (st.setPc v).priv = st.priv := rfl
@[simp] theorem Strand.setPc_inh (st : Strand) (v : VAddr) : (st.setPc v).inh = st.inh := rfl
@[simp] theorem Strand.setPc_gen (st : Strand) (v : VAddr) : (st.setPc v).gen = st.gen := rfl
@[simp] theorem Strand.setPc_ordDie (st : Strand) (v : VAddr) : (st.setPc v).ordDie = st.ordDie := rfl
@[simp] theorem Strand.setPc_ordQuad (st : Strand) (v : VAddr) : (st.setPc v).ordQuad = st.ordQuad := rfl
@[simp] theorem Strand.setPc_ordCore (st : Strand) (v : VAddr) : (st.setPc v).ordCore = st.ordCore := rfl
@[simp] theorem Strand.setPc_ordStrand (st : Strand) (v : VAddr) : (st.setPc v).ordStrand = st.ordStrand := rfl
@[simp] theorem Strand.setPc_bond (st : Strand) (v : VAddr) : (st.setPc v).bond = st.bond := rfl
@[simp] theorem Strand.setPc_wait (st : Strand) (v : VAddr) : (st.setPc v).wait = st.wait := rfl
@[simp] theorem Strand.setPc_rrec (st : Strand) (v : VAddr) : (st.setPc v).rrec = st.rrec := rfl
@[simp] theorem Strand.setPc_since (st : Strand) (v : VAddr) : (st.setPc v).since = none := rfl
@[simp] theorem Strand.setPc_next (st : Strand) (v : VAddr) : (st.setPc v).next = none := rfl
@[simp] theorem Strand.setPc_halt (st : Strand) (v : VAddr) : (st.setPc v).halt = st.halt := rfl

@[simp] theorem Strand.touchV_lid (st : Strand) (r : Nat) : (st.touchV r).lid = st.lid := rfl
@[simp] theorem Strand.touchV_pc (st : Strand) (r : Nat) : (st.touchV r).pc = st.pc := rfl
@[simp] theorem Strand.touchV_g (st : Strand) (r : Nat) : (st.touchV r).g = st.g := rfl
@[simp] theorem Strand.touchV_pw (st : Strand) (r : Nat) : (st.touchV r).pw = st.pw := rfl
@[simp] theorem Strand.touchV_masks (st : Strand) (r : Nat) : (st.touchV r).masks = st.masks := rfl
@[simp] theorem Strand.touchV_vbase (st : Strand) (r : Nat) : (st.touchV r).vbase = st.vbase := rfl
@[simp] theorem Strand.touchV_vcount (st : Strand) (r : Nat) : (st.touchV r).vcount = st.vcount := rfl
@[simp] theorem Strand.touchV_lsbase (st : Strand) (r : Nat) : (st.touchV r).lsbase = st.lsbase := rfl
@[simp] theorem Strand.touchV_lslen (st : Strand) (r : Nat) : (st.touchV r).lslen = st.lslen := rfl
@[simp] theorem Strand.touchV_rf (st : Strand) (r : Nat) : (st.touchV r).rf = st.rf := rfl
@[simp] theorem Strand.touchV_ls (st : Strand) (r : Nat) : (st.touchV r).ls = st.ls := rfl
@[simp] theorem Strand.touchV_loops (st : Strand) (r : Nat) : (st.touchV r).loops = st.loops := rfl
@[simp] theorem Strand.touchV_lc (st : Strand) (r : Nat) : (st.touchV r).lc = st.lc := rfl
@[simp] theorem Strand.touchV_fflags (st : Strand) (r : Nat) : (st.touchV r).fflags = st.fflags := rfl
@[simp] theorem Strand.touchV_lost (st : Strand) (r : Nat) : (st.touchV r).lost = st.lost := rfl
@[simp] theorem Strand.touchV_wsp (st : Strand) (r : Nat) : (st.touchV r).wsp = st.wsp := rfl
@[simp] theorem Strand.touchV_wdepth (st : Strand) (r : Nat) : (st.touchV r).wdepth = st.wdepth := rfl
@[simp] theorem Strand.touchV_shape (st : Strand) (r : Nat) : (st.touchV r).shape = st.shape := rfl
@[simp] theorem Strand.touchV_tvec (st : Strand) (r : Nat) : (st.touchV r).tvec = st.tvec := rfl
@[simp] theorem Strand.touchV_epc (st : Strand) (r : Nat) : (st.touchV r).epc = st.epc := rfl
@[simp] theorem Strand.touchV_cause (st : Strand) (r : Nat) : (st.touchV r).cause = st.cause := rfl
@[simp] theorem Strand.touchV_tval (st : Strand) (r : Nat) : (st.touchV r).tval = st.tval := rfl
@[simp] theorem Strand.touchV_priv (st : Strand) (r : Nat) : (st.touchV r).priv = st.priv := rfl
@[simp] theorem Strand.touchV_inh (st : Strand) (r : Nat) : (st.touchV r).inh = st.inh := rfl
@[simp] theorem Strand.touchV_gen (st : Strand) (r : Nat) : (st.touchV r).gen = st.gen := rfl
@[simp] theorem Strand.touchV_ordDie (st : Strand) (r : Nat) : (st.touchV r).ordDie = st.ordDie := rfl
@[simp] theorem Strand.touchV_ordQuad (st : Strand) (r : Nat) : (st.touchV r).ordQuad = st.ordQuad := rfl
@[simp] theorem Strand.touchV_ordCore (st : Strand) (r : Nat) : (st.touchV r).ordCore = st.ordCore := rfl
@[simp] theorem Strand.touchV_ordStrand (st : Strand) (r : Nat) : (st.touchV r).ordStrand = st.ordStrand := rfl
@[simp] theorem Strand.touchV_bond (st : Strand) (r : Nat) : (st.touchV r).bond = st.bond := rfl
@[simp] theorem Strand.touchV_wait (st : Strand) (r : Nat) : (st.touchV r).wait = st.wait := rfl
@[simp] theorem Strand.touchV_since (st : Strand) (r : Nat) : (st.touchV r).since = st.since := rfl
@[simp] theorem Strand.touchV_next (st : Strand) (r : Nat) : (st.touchV r).next = st.next := rfl
@[simp] theorem Strand.touchV_fetch (st : Strand) (r : Nat) : (st.touchV r).fetch = st.fetch := rfl
@[simp] theorem Strand.touchV_halt (st : Strand) (r : Nat) : (st.touchV r).halt = st.halt := rfl

@[simp] theorem Strand.setG_lid (st : Strand) (r : BitVec 4) (v : Word) : (st.setG r v).lid = st.lid := by unfold Strand.setG; split <;> rfl
@[simp] theorem Strand.setG_pc (st : Strand) (r : BitVec 4) (v : Word) : (st.setG r v).pc = st.pc := by unfold Strand.setG; split <;> rfl
@[simp] theorem Strand.setG_pw (st : Strand) (r : BitVec 4) (v : Word) : (st.setG r v).pw = st.pw := by unfold Strand.setG; split <;> rfl
@[simp] theorem Strand.setG_masks (st : Strand) (r : BitVec 4) (v : Word) : (st.setG r v).masks = st.masks := by unfold Strand.setG; split <;> rfl
@[simp] theorem Strand.setG_vbase (st : Strand) (r : BitVec 4) (v : Word) : (st.setG r v).vbase = st.vbase := by unfold Strand.setG; split <;> rfl
@[simp] theorem Strand.setG_vcount (st : Strand) (r : BitVec 4) (v : Word) : (st.setG r v).vcount = st.vcount := by unfold Strand.setG; split <;> rfl
@[simp] theorem Strand.setG_lsbase (st : Strand) (r : BitVec 4) (v : Word) : (st.setG r v).lsbase = st.lsbase := by unfold Strand.setG; split <;> rfl
@[simp] theorem Strand.setG_lslen (st : Strand) (r : BitVec 4) (v : Word) : (st.setG r v).lslen = st.lslen := by unfold Strand.setG; split <;> rfl
@[simp] theorem Strand.setG_rf (st : Strand) (r : BitVec 4) (v : Word) : (st.setG r v).rf = st.rf := by unfold Strand.setG; split <;> rfl
@[simp] theorem Strand.setG_ls (st : Strand) (r : BitVec 4) (v : Word) : (st.setG r v).ls = st.ls := by unfold Strand.setG; split <;> rfl
@[simp] theorem Strand.setG_loops (st : Strand) (r : BitVec 4) (v : Word) : (st.setG r v).loops = st.loops := by unfold Strand.setG; split <;> rfl
@[simp] theorem Strand.setG_lc (st : Strand) (r : BitVec 4) (v : Word) : (st.setG r v).lc = st.lc := by unfold Strand.setG; split <;> rfl
@[simp] theorem Strand.setG_fflags (st : Strand) (r : BitVec 4) (v : Word) : (st.setG r v).fflags = st.fflags := by unfold Strand.setG; split <;> rfl
@[simp] theorem Strand.setG_lost (st : Strand) (r : BitVec 4) (v : Word) : (st.setG r v).lost = st.lost := by unfold Strand.setG; split <;> rfl
@[simp] theorem Strand.setG_wsp (st : Strand) (r : BitVec 4) (v : Word) : (st.setG r v).wsp = st.wsp := by unfold Strand.setG; split <;> rfl
@[simp] theorem Strand.setG_wdepth (st : Strand) (r : BitVec 4) (v : Word) : (st.setG r v).wdepth = st.wdepth := by unfold Strand.setG; split <;> rfl
@[simp] theorem Strand.setG_shape (st : Strand) (r : BitVec 4) (v : Word) : (st.setG r v).shape = st.shape := by unfold Strand.setG; split <;> rfl
@[simp] theorem Strand.setG_tvec (st : Strand) (r : BitVec 4) (v : Word) : (st.setG r v).tvec = st.tvec := by unfold Strand.setG; split <;> rfl
@[simp] theorem Strand.setG_epc (st : Strand) (r : BitVec 4) (v : Word) : (st.setG r v).epc = st.epc := by unfold Strand.setG; split <;> rfl
@[simp] theorem Strand.setG_cause (st : Strand) (r : BitVec 4) (v : Word) : (st.setG r v).cause = st.cause := by unfold Strand.setG; split <;> rfl
@[simp] theorem Strand.setG_tval (st : Strand) (r : BitVec 4) (v : Word) : (st.setG r v).tval = st.tval := by unfold Strand.setG; split <;> rfl
@[simp] theorem Strand.setG_priv (st : Strand) (r : BitVec 4) (v : Word) : (st.setG r v).priv = st.priv := by unfold Strand.setG; split <;> rfl
@[simp] theorem Strand.setG_inh (st : Strand) (r : BitVec 4) (v : Word) : (st.setG r v).inh = st.inh := by unfold Strand.setG; split <;> rfl
@[simp] theorem Strand.setG_gen (st : Strand) (r : BitVec 4) (v : Word) : (st.setG r v).gen = st.gen := by unfold Strand.setG; split <;> rfl
@[simp] theorem Strand.setG_ordDie (st : Strand) (r : BitVec 4) (v : Word) : (st.setG r v).ordDie = st.ordDie := by unfold Strand.setG; split <;> rfl
@[simp] theorem Strand.setG_ordQuad (st : Strand) (r : BitVec 4) (v : Word) : (st.setG r v).ordQuad = st.ordQuad := by unfold Strand.setG; split <;> rfl
@[simp] theorem Strand.setG_ordCore (st : Strand) (r : BitVec 4) (v : Word) : (st.setG r v).ordCore = st.ordCore := by unfold Strand.setG; split <;> rfl
@[simp] theorem Strand.setG_ordStrand (st : Strand) (r : BitVec 4) (v : Word) : (st.setG r v).ordStrand = st.ordStrand := by unfold Strand.setG; split <;> rfl
@[simp] theorem Strand.setG_bond (st : Strand) (r : BitVec 4) (v : Word) : (st.setG r v).bond = st.bond := by unfold Strand.setG; split <;> rfl
@[simp] theorem Strand.setG_wait (st : Strand) (r : BitVec 4) (v : Word) : (st.setG r v).wait = st.wait := by unfold Strand.setG; split <;> rfl
@[simp] theorem Strand.setG_since (st : Strand) (r : BitVec 4) (v : Word) : (st.setG r v).since = st.since := by unfold Strand.setG; split <;> rfl
@[simp] theorem Strand.setG_next (st : Strand) (r : BitVec 4) (v : Word) : (st.setG r v).next = st.next := by unfold Strand.setG; split <;> rfl
@[simp] theorem Strand.setG_fetch (st : Strand) (r : BitVec 4) (v : Word) : (st.setG r v).fetch = st.fetch := by unfold Strand.setG; split <;> rfl
@[simp] theorem Strand.setG_halt (st : Strand) (r : BitVec 4) (v : Word) : (st.setG r v).halt = st.halt := by unfold Strand.setG; split <;> rfl

@[simp] theorem Strand.setP_lid (st : Strand) (p : BitVec 3) (v : Bool) : (st.setP p v).lid = st.lid := by unfold Strand.setP; split <;> rfl
@[simp] theorem Strand.setP_pc (st : Strand) (p : BitVec 3) (v : Bool) : (st.setP p v).pc = st.pc := by unfold Strand.setP; split <;> rfl
@[simp] theorem Strand.setP_g (st : Strand) (p : BitVec 3) (v : Bool) : (st.setP p v).g = st.g := by unfold Strand.setP; split <;> rfl
@[simp] theorem Strand.setP_masks (st : Strand) (p : BitVec 3) (v : Bool) : (st.setP p v).masks = st.masks := by unfold Strand.setP; split <;> rfl
@[simp] theorem Strand.setP_vbase (st : Strand) (p : BitVec 3) (v : Bool) : (st.setP p v).vbase = st.vbase := by unfold Strand.setP; split <;> rfl
@[simp] theorem Strand.setP_vcount (st : Strand) (p : BitVec 3) (v : Bool) : (st.setP p v).vcount = st.vcount := by unfold Strand.setP; split <;> rfl
@[simp] theorem Strand.setP_lsbase (st : Strand) (p : BitVec 3) (v : Bool) : (st.setP p v).lsbase = st.lsbase := by unfold Strand.setP; split <;> rfl
@[simp] theorem Strand.setP_lslen (st : Strand) (p : BitVec 3) (v : Bool) : (st.setP p v).lslen = st.lslen := by unfold Strand.setP; split <;> rfl
@[simp] theorem Strand.setP_rf (st : Strand) (p : BitVec 3) (v : Bool) : (st.setP p v).rf = st.rf := by unfold Strand.setP; split <;> rfl
@[simp] theorem Strand.setP_ls (st : Strand) (p : BitVec 3) (v : Bool) : (st.setP p v).ls = st.ls := by unfold Strand.setP; split <;> rfl
@[simp] theorem Strand.setP_loops (st : Strand) (p : BitVec 3) (v : Bool) : (st.setP p v).loops = st.loops := by unfold Strand.setP; split <;> rfl
@[simp] theorem Strand.setP_lc (st : Strand) (p : BitVec 3) (v : Bool) : (st.setP p v).lc = st.lc := by unfold Strand.setP; split <;> rfl
@[simp] theorem Strand.setP_fflags (st : Strand) (p : BitVec 3) (v : Bool) : (st.setP p v).fflags = st.fflags := by unfold Strand.setP; split <;> rfl
@[simp] theorem Strand.setP_lost (st : Strand) (p : BitVec 3) (v : Bool) : (st.setP p v).lost = st.lost := by unfold Strand.setP; split <;> rfl
@[simp] theorem Strand.setP_wsp (st : Strand) (p : BitVec 3) (v : Bool) : (st.setP p v).wsp = st.wsp := by unfold Strand.setP; split <;> rfl
@[simp] theorem Strand.setP_wdepth (st : Strand) (p : BitVec 3) (v : Bool) : (st.setP p v).wdepth = st.wdepth := by unfold Strand.setP; split <;> rfl
@[simp] theorem Strand.setP_shape (st : Strand) (p : BitVec 3) (v : Bool) : (st.setP p v).shape = st.shape := by unfold Strand.setP; split <;> rfl
@[simp] theorem Strand.setP_tvec (st : Strand) (p : BitVec 3) (v : Bool) : (st.setP p v).tvec = st.tvec := by unfold Strand.setP; split <;> rfl
@[simp] theorem Strand.setP_epc (st : Strand) (p : BitVec 3) (v : Bool) : (st.setP p v).epc = st.epc := by unfold Strand.setP; split <;> rfl
@[simp] theorem Strand.setP_cause (st : Strand) (p : BitVec 3) (v : Bool) : (st.setP p v).cause = st.cause := by unfold Strand.setP; split <;> rfl
@[simp] theorem Strand.setP_tval (st : Strand) (p : BitVec 3) (v : Bool) : (st.setP p v).tval = st.tval := by unfold Strand.setP; split <;> rfl
@[simp] theorem Strand.setP_priv (st : Strand) (p : BitVec 3) (v : Bool) : (st.setP p v).priv = st.priv := by unfold Strand.setP; split <;> rfl
@[simp] theorem Strand.setP_inh (st : Strand) (p : BitVec 3) (v : Bool) : (st.setP p v).inh = st.inh := by unfold Strand.setP; split <;> rfl
@[simp] theorem Strand.setP_gen (st : Strand) (p : BitVec 3) (v : Bool) : (st.setP p v).gen = st.gen := by unfold Strand.setP; split <;> rfl
@[simp] theorem Strand.setP_ordDie (st : Strand) (p : BitVec 3) (v : Bool) : (st.setP p v).ordDie = st.ordDie := by unfold Strand.setP; split <;> rfl
@[simp] theorem Strand.setP_ordQuad (st : Strand) (p : BitVec 3) (v : Bool) : (st.setP p v).ordQuad = st.ordQuad := by unfold Strand.setP; split <;> rfl
@[simp] theorem Strand.setP_ordCore (st : Strand) (p : BitVec 3) (v : Bool) : (st.setP p v).ordCore = st.ordCore := by unfold Strand.setP; split <;> rfl
@[simp] theorem Strand.setP_ordStrand (st : Strand) (p : BitVec 3) (v : Bool) : (st.setP p v).ordStrand = st.ordStrand := by unfold Strand.setP; split <;> rfl
@[simp] theorem Strand.setP_bond (st : Strand) (p : BitVec 3) (v : Bool) : (st.setP p v).bond = st.bond := by unfold Strand.setP; split <;> rfl
@[simp] theorem Strand.setP_wait (st : Strand) (p : BitVec 3) (v : Bool) : (st.setP p v).wait = st.wait := by unfold Strand.setP; split <;> rfl
@[simp] theorem Strand.setP_rrec (st : Strand) (p : BitVec 3) (v : Bool) : (st.setP p v).rrec = st.rrec := by unfold Strand.setP; split <;> rfl
@[simp] theorem Strand.setP_since (st : Strand) (p : BitVec 3) (v : Bool) : (st.setP p v).since = st.since := by unfold Strand.setP; split <;> rfl
@[simp] theorem Strand.setP_next (st : Strand) (p : BitVec 3) (v : Bool) : (st.setP p v).next = st.next := by unfold Strand.setP; split <;> rfl
@[simp] theorem Strand.setP_fetch (st : Strand) (p : BitVec 3) (v : Bool) : (st.setP p v).fetch = st.fetch := by unfold Strand.setP; split <;> rfl
@[simp] theorem Strand.setP_halt (st : Strand) (p : BitVec 3) (v : Bool) : (st.setP p v).halt = st.halt := by unfold Strand.setP; split <;> rfl

@[simp] theorem Strand.setM_lid (st : Strand) (m : BitVec 3) (v : Mask) : (st.setM m v).lid = st.lid := by unfold Strand.setM; split <;> rfl
@[simp] theorem Strand.setM_pc (st : Strand) (m : BitVec 3) (v : Mask) : (st.setM m v).pc = st.pc := by unfold Strand.setM; split <;> rfl
@[simp] theorem Strand.setM_g (st : Strand) (m : BitVec 3) (v : Mask) : (st.setM m v).g = st.g := by unfold Strand.setM; split <;> rfl
@[simp] theorem Strand.setM_pw (st : Strand) (m : BitVec 3) (v : Mask) : (st.setM m v).pw = st.pw := by unfold Strand.setM; split <;> rfl
@[simp] theorem Strand.setM_vbase (st : Strand) (m : BitVec 3) (v : Mask) : (st.setM m v).vbase = st.vbase := by unfold Strand.setM; split <;> rfl
@[simp] theorem Strand.setM_vcount (st : Strand) (m : BitVec 3) (v : Mask) : (st.setM m v).vcount = st.vcount := by unfold Strand.setM; split <;> rfl
@[simp] theorem Strand.setM_lsbase (st : Strand) (m : BitVec 3) (v : Mask) : (st.setM m v).lsbase = st.lsbase := by unfold Strand.setM; split <;> rfl
@[simp] theorem Strand.setM_lslen (st : Strand) (m : BitVec 3) (v : Mask) : (st.setM m v).lslen = st.lslen := by unfold Strand.setM; split <;> rfl
@[simp] theorem Strand.setM_rf (st : Strand) (m : BitVec 3) (v : Mask) : (st.setM m v).rf = st.rf := by unfold Strand.setM; split <;> rfl
@[simp] theorem Strand.setM_ls (st : Strand) (m : BitVec 3) (v : Mask) : (st.setM m v).ls = st.ls := by unfold Strand.setM; split <;> rfl
@[simp] theorem Strand.setM_loops (st : Strand) (m : BitVec 3) (v : Mask) : (st.setM m v).loops = st.loops := by unfold Strand.setM; split <;> rfl
@[simp] theorem Strand.setM_lc (st : Strand) (m : BitVec 3) (v : Mask) : (st.setM m v).lc = st.lc := by unfold Strand.setM; split <;> rfl
@[simp] theorem Strand.setM_fflags (st : Strand) (m : BitVec 3) (v : Mask) : (st.setM m v).fflags = st.fflags := by unfold Strand.setM; split <;> rfl
@[simp] theorem Strand.setM_lost (st : Strand) (m : BitVec 3) (v : Mask) : (st.setM m v).lost = st.lost := by unfold Strand.setM; split <;> rfl
@[simp] theorem Strand.setM_wsp (st : Strand) (m : BitVec 3) (v : Mask) : (st.setM m v).wsp = st.wsp := by unfold Strand.setM; split <;> rfl
@[simp] theorem Strand.setM_wdepth (st : Strand) (m : BitVec 3) (v : Mask) : (st.setM m v).wdepth = st.wdepth := by unfold Strand.setM; split <;> rfl
@[simp] theorem Strand.setM_shape (st : Strand) (m : BitVec 3) (v : Mask) : (st.setM m v).shape = st.shape := by unfold Strand.setM; split <;> rfl
@[simp] theorem Strand.setM_tvec (st : Strand) (m : BitVec 3) (v : Mask) : (st.setM m v).tvec = st.tvec := by unfold Strand.setM; split <;> rfl
@[simp] theorem Strand.setM_epc (st : Strand) (m : BitVec 3) (v : Mask) : (st.setM m v).epc = st.epc := by unfold Strand.setM; split <;> rfl
@[simp] theorem Strand.setM_cause (st : Strand) (m : BitVec 3) (v : Mask) : (st.setM m v).cause = st.cause := by unfold Strand.setM; split <;> rfl
@[simp] theorem Strand.setM_tval (st : Strand) (m : BitVec 3) (v : Mask) : (st.setM m v).tval = st.tval := by unfold Strand.setM; split <;> rfl
@[simp] theorem Strand.setM_priv (st : Strand) (m : BitVec 3) (v : Mask) : (st.setM m v).priv = st.priv := by unfold Strand.setM; split <;> rfl
@[simp] theorem Strand.setM_inh (st : Strand) (m : BitVec 3) (v : Mask) : (st.setM m v).inh = st.inh := by unfold Strand.setM; split <;> rfl
@[simp] theorem Strand.setM_gen (st : Strand) (m : BitVec 3) (v : Mask) : (st.setM m v).gen = st.gen := by unfold Strand.setM; split <;> rfl
@[simp] theorem Strand.setM_ordDie (st : Strand) (m : BitVec 3) (v : Mask) : (st.setM m v).ordDie = st.ordDie := by unfold Strand.setM; split <;> rfl
@[simp] theorem Strand.setM_ordQuad (st : Strand) (m : BitVec 3) (v : Mask) : (st.setM m v).ordQuad = st.ordQuad := by unfold Strand.setM; split <;> rfl
@[simp] theorem Strand.setM_ordCore (st : Strand) (m : BitVec 3) (v : Mask) : (st.setM m v).ordCore = st.ordCore := by unfold Strand.setM; split <;> rfl
@[simp] theorem Strand.setM_ordStrand (st : Strand) (m : BitVec 3) (v : Mask) : (st.setM m v).ordStrand = st.ordStrand := by unfold Strand.setM; split <;> rfl
@[simp] theorem Strand.setM_bond (st : Strand) (m : BitVec 3) (v : Mask) : (st.setM m v).bond = st.bond := by unfold Strand.setM; split <;> rfl
@[simp] theorem Strand.setM_wait (st : Strand) (m : BitVec 3) (v : Mask) : (st.setM m v).wait = st.wait := by unfold Strand.setM; split <;> rfl
@[simp] theorem Strand.setM_rrec (st : Strand) (m : BitVec 3) (v : Mask) : (st.setM m v).rrec = st.rrec := by unfold Strand.setM; split <;> rfl
@[simp] theorem Strand.setM_since (st : Strand) (m : BitVec 3) (v : Mask) : (st.setM m v).since = st.since := by unfold Strand.setM; split <;> rfl
@[simp] theorem Strand.setM_next (st : Strand) (m : BitVec 3) (v : Mask) : (st.setM m v).next = st.next := by unfold Strand.setM; split <;> rfl
@[simp] theorem Strand.setM_fetch (st : Strand) (m : BitVec 3) (v : Mask) : (st.setM m v).fetch = st.fetch := by unfold Strand.setM; split <;> rfl
@[simp] theorem Strand.setM_halt (st : Strand) (m : BitVec 3) (v : Mask) : (st.setM m v).halt = st.halt := by unfold Strand.setM; split <;> rfl

@[simp] theorem Strand.setLc_lid (st : Strand) (d : Nat) (v : Word) : (st.setLc d v).lid = st.lid := by unfold Strand.setLc; split <;> rfl
@[simp] theorem Strand.setLc_pc (st : Strand) (d : Nat) (v : Word) : (st.setLc d v).pc = st.pc := by unfold Strand.setLc; split <;> rfl
@[simp] theorem Strand.setLc_g (st : Strand) (d : Nat) (v : Word) : (st.setLc d v).g = st.g := by unfold Strand.setLc; split <;> rfl
@[simp] theorem Strand.setLc_pw (st : Strand) (d : Nat) (v : Word) : (st.setLc d v).pw = st.pw := by unfold Strand.setLc; split <;> rfl
@[simp] theorem Strand.setLc_masks (st : Strand) (d : Nat) (v : Word) : (st.setLc d v).masks = st.masks := by unfold Strand.setLc; split <;> rfl
@[simp] theorem Strand.setLc_vbase (st : Strand) (d : Nat) (v : Word) : (st.setLc d v).vbase = st.vbase := by unfold Strand.setLc; split <;> rfl
@[simp] theorem Strand.setLc_vcount (st : Strand) (d : Nat) (v : Word) : (st.setLc d v).vcount = st.vcount := by unfold Strand.setLc; split <;> rfl
@[simp] theorem Strand.setLc_lsbase (st : Strand) (d : Nat) (v : Word) : (st.setLc d v).lsbase = st.lsbase := by unfold Strand.setLc; split <;> rfl
@[simp] theorem Strand.setLc_lslen (st : Strand) (d : Nat) (v : Word) : (st.setLc d v).lslen = st.lslen := by unfold Strand.setLc; split <;> rfl
@[simp] theorem Strand.setLc_rf (st : Strand) (d : Nat) (v : Word) : (st.setLc d v).rf = st.rf := by unfold Strand.setLc; split <;> rfl
@[simp] theorem Strand.setLc_ls (st : Strand) (d : Nat) (v : Word) : (st.setLc d v).ls = st.ls := by unfold Strand.setLc; split <;> rfl
@[simp] theorem Strand.setLc_loops (st : Strand) (d : Nat) (v : Word) : (st.setLc d v).loops = st.loops := by unfold Strand.setLc; split <;> rfl
@[simp] theorem Strand.setLc_fflags (st : Strand) (d : Nat) (v : Word) : (st.setLc d v).fflags = st.fflags := by unfold Strand.setLc; split <;> rfl
@[simp] theorem Strand.setLc_lost (st : Strand) (d : Nat) (v : Word) : (st.setLc d v).lost = st.lost := by unfold Strand.setLc; split <;> rfl
@[simp] theorem Strand.setLc_wsp (st : Strand) (d : Nat) (v : Word) : (st.setLc d v).wsp = st.wsp := by unfold Strand.setLc; split <;> rfl
@[simp] theorem Strand.setLc_wdepth (st : Strand) (d : Nat) (v : Word) : (st.setLc d v).wdepth = st.wdepth := by unfold Strand.setLc; split <;> rfl
@[simp] theorem Strand.setLc_shape (st : Strand) (d : Nat) (v : Word) : (st.setLc d v).shape = st.shape := by unfold Strand.setLc; split <;> rfl
@[simp] theorem Strand.setLc_tvec (st : Strand) (d : Nat) (v : Word) : (st.setLc d v).tvec = st.tvec := by unfold Strand.setLc; split <;> rfl
@[simp] theorem Strand.setLc_epc (st : Strand) (d : Nat) (v : Word) : (st.setLc d v).epc = st.epc := by unfold Strand.setLc; split <;> rfl
@[simp] theorem Strand.setLc_cause (st : Strand) (d : Nat) (v : Word) : (st.setLc d v).cause = st.cause := by unfold Strand.setLc; split <;> rfl
@[simp] theorem Strand.setLc_tval (st : Strand) (d : Nat) (v : Word) : (st.setLc d v).tval = st.tval := by unfold Strand.setLc; split <;> rfl
@[simp] theorem Strand.setLc_priv (st : Strand) (d : Nat) (v : Word) : (st.setLc d v).priv = st.priv := by unfold Strand.setLc; split <;> rfl
@[simp] theorem Strand.setLc_inh (st : Strand) (d : Nat) (v : Word) : (st.setLc d v).inh = st.inh := by unfold Strand.setLc; split <;> rfl
@[simp] theorem Strand.setLc_gen (st : Strand) (d : Nat) (v : Word) : (st.setLc d v).gen = st.gen := by unfold Strand.setLc; split <;> rfl
@[simp] theorem Strand.setLc_ordDie (st : Strand) (d : Nat) (v : Word) : (st.setLc d v).ordDie = st.ordDie := by unfold Strand.setLc; split <;> rfl
@[simp] theorem Strand.setLc_ordQuad (st : Strand) (d : Nat) (v : Word) : (st.setLc d v).ordQuad = st.ordQuad := by unfold Strand.setLc; split <;> rfl
@[simp] theorem Strand.setLc_ordCore (st : Strand) (d : Nat) (v : Word) : (st.setLc d v).ordCore = st.ordCore := by unfold Strand.setLc; split <;> rfl
@[simp] theorem Strand.setLc_ordStrand (st : Strand) (d : Nat) (v : Word) : (st.setLc d v).ordStrand = st.ordStrand := by unfold Strand.setLc; split <;> rfl
@[simp] theorem Strand.setLc_bond (st : Strand) (d : Nat) (v : Word) : (st.setLc d v).bond = st.bond := by unfold Strand.setLc; split <;> rfl
@[simp] theorem Strand.setLc_wait (st : Strand) (d : Nat) (v : Word) : (st.setLc d v).wait = st.wait := by unfold Strand.setLc; split <;> rfl
@[simp] theorem Strand.setLc_rrec (st : Strand) (d : Nat) (v : Word) : (st.setLc d v).rrec = st.rrec := by unfold Strand.setLc; split <;> rfl
@[simp] theorem Strand.setLc_since (st : Strand) (d : Nat) (v : Word) : (st.setLc d v).since = st.since := by unfold Strand.setLc; split <;> rfl
@[simp] theorem Strand.setLc_next (st : Strand) (d : Nat) (v : Word) : (st.setLc d v).next = st.next := by unfold Strand.setLc; split <;> rfl
@[simp] theorem Strand.setLc_fetch (st : Strand) (d : Nat) (v : Word) : (st.setLc d v).fetch = st.fetch := by unfold Strand.setLc; split <;> rfl
@[simp] theorem Strand.setLc_halt (st : Strand) (d : Nat) (v : Word) : (st.setLc d v).halt = st.halt := by unfold Strand.setLc; split <;> rfl

@[simp] theorem Strand.sawIssue_lid (k : Nat) (st : Strand) : (st.sawIssue k).lid = st.lid := by unfold Strand.sawIssue; split <;> rfl
@[simp] theorem Strand.sawIssue_pc (k : Nat) (st : Strand) : (st.sawIssue k).pc = st.pc := by unfold Strand.sawIssue; split <;> rfl
@[simp] theorem Strand.sawIssue_g (k : Nat) (st : Strand) : (st.sawIssue k).g = st.g := by unfold Strand.sawIssue; split <;> rfl
@[simp] theorem Strand.sawIssue_pw (k : Nat) (st : Strand) : (st.sawIssue k).pw = st.pw := by unfold Strand.sawIssue; split <;> rfl
@[simp] theorem Strand.sawIssue_masks (k : Nat) (st : Strand) : (st.sawIssue k).masks = st.masks := by unfold Strand.sawIssue; split <;> rfl
@[simp] theorem Strand.sawIssue_vbase (k : Nat) (st : Strand) : (st.sawIssue k).vbase = st.vbase := by unfold Strand.sawIssue; split <;> rfl
@[simp] theorem Strand.sawIssue_vcount (k : Nat) (st : Strand) : (st.sawIssue k).vcount = st.vcount := by unfold Strand.sawIssue; split <;> rfl
@[simp] theorem Strand.sawIssue_lsbase (k : Nat) (st : Strand) : (st.sawIssue k).lsbase = st.lsbase := by unfold Strand.sawIssue; split <;> rfl
@[simp] theorem Strand.sawIssue_lslen (k : Nat) (st : Strand) : (st.sawIssue k).lslen = st.lslen := by unfold Strand.sawIssue; split <;> rfl
@[simp] theorem Strand.sawIssue_rf (k : Nat) (st : Strand) : (st.sawIssue k).rf = st.rf := by unfold Strand.sawIssue; split <;> rfl
@[simp] theorem Strand.sawIssue_ls (k : Nat) (st : Strand) : (st.sawIssue k).ls = st.ls := by unfold Strand.sawIssue; split <;> rfl
@[simp] theorem Strand.sawIssue_loops (k : Nat) (st : Strand) : (st.sawIssue k).loops = st.loops := by unfold Strand.sawIssue; split <;> rfl
@[simp] theorem Strand.sawIssue_lc (k : Nat) (st : Strand) : (st.sawIssue k).lc = st.lc := by unfold Strand.sawIssue; split <;> rfl
@[simp] theorem Strand.sawIssue_fflags (k : Nat) (st : Strand) : (st.sawIssue k).fflags = st.fflags := by unfold Strand.sawIssue; split <;> rfl
@[simp] theorem Strand.sawIssue_lost (k : Nat) (st : Strand) : (st.sawIssue k).lost = st.lost := by unfold Strand.sawIssue; split <;> rfl
@[simp] theorem Strand.sawIssue_wsp (k : Nat) (st : Strand) : (st.sawIssue k).wsp = st.wsp := by unfold Strand.sawIssue; split <;> rfl
@[simp] theorem Strand.sawIssue_wdepth (k : Nat) (st : Strand) : (st.sawIssue k).wdepth = st.wdepth := by unfold Strand.sawIssue; split <;> rfl
@[simp] theorem Strand.sawIssue_shape (k : Nat) (st : Strand) : (st.sawIssue k).shape = st.shape := by unfold Strand.sawIssue; split <;> rfl
@[simp] theorem Strand.sawIssue_tvec (k : Nat) (st : Strand) : (st.sawIssue k).tvec = st.tvec := by unfold Strand.sawIssue; split <;> rfl
@[simp] theorem Strand.sawIssue_epc (k : Nat) (st : Strand) : (st.sawIssue k).epc = st.epc := by unfold Strand.sawIssue; split <;> rfl
@[simp] theorem Strand.sawIssue_cause (k : Nat) (st : Strand) : (st.sawIssue k).cause = st.cause := by unfold Strand.sawIssue; split <;> rfl
@[simp] theorem Strand.sawIssue_tval (k : Nat) (st : Strand) : (st.sawIssue k).tval = st.tval := by unfold Strand.sawIssue; split <;> rfl
@[simp] theorem Strand.sawIssue_priv (k : Nat) (st : Strand) : (st.sawIssue k).priv = st.priv := by unfold Strand.sawIssue; split <;> rfl
@[simp] theorem Strand.sawIssue_inh (k : Nat) (st : Strand) : (st.sawIssue k).inh = st.inh := by unfold Strand.sawIssue; split <;> rfl
@[simp] theorem Strand.sawIssue_gen (k : Nat) (st : Strand) : (st.sawIssue k).gen = st.gen := by unfold Strand.sawIssue; split <;> rfl
@[simp] theorem Strand.sawIssue_ordDie (k : Nat) (st : Strand) : (st.sawIssue k).ordDie = st.ordDie := by unfold Strand.sawIssue; split <;> rfl
@[simp] theorem Strand.sawIssue_ordQuad (k : Nat) (st : Strand) : (st.sawIssue k).ordQuad = st.ordQuad := by unfold Strand.sawIssue; split <;> rfl
@[simp] theorem Strand.sawIssue_ordCore (k : Nat) (st : Strand) : (st.sawIssue k).ordCore = st.ordCore := by unfold Strand.sawIssue; split <;> rfl
@[simp] theorem Strand.sawIssue_ordStrand (k : Nat) (st : Strand) : (st.sawIssue k).ordStrand = st.ordStrand := by unfold Strand.sawIssue; split <;> rfl
@[simp] theorem Strand.sawIssue_bond (k : Nat) (st : Strand) : (st.sawIssue k).bond = st.bond := by unfold Strand.sawIssue; split <;> rfl
@[simp] theorem Strand.sawIssue_rrec (k : Nat) (st : Strand) : (st.sawIssue k).rrec = st.rrec := by unfold Strand.sawIssue; split <;> rfl
@[simp] theorem Strand.sawIssue_since (k : Nat) (st : Strand) : (st.sawIssue k).since = st.since := by unfold Strand.sawIssue; split <;> rfl
@[simp] theorem Strand.sawIssue_next (k : Nat) (st : Strand) : (st.sawIssue k).next = st.next := by unfold Strand.sawIssue; split <;> rfl
@[simp] theorem Strand.sawIssue_fetch (k : Nat) (st : Strand) : (st.sawIssue k).fetch = st.fetch := by unfold Strand.sawIssue; split <;> rfl
@[simp] theorem Strand.sawIssue_halt (k : Nat) (st : Strand) : (st.sawIssue k).halt = st.halt := by unfold Strand.sawIssue; split <;> rfl

theorem State.pass_of_on (s : State) (h : s.power.off = false) : s.pass = s.tick := by simp [State.pass, h]

theorem State.fireReleases_of_none (s : State) (h : s.keystone.releases = []) : s.fireReleases = s := by simp [State.fireReleases, h]

end Sys2Proof.Machine
end

