-- ==== Sys2Proof/Laws/Store.lean ====
section
/-! SUPPORT. The laws of sparse storage: a read after a write at the same key gives the value written, a write leaves every
other key alone, and every memory operation keeps the canonical form. -/

namespace Sys2Proof.Machine

variable {α : Type}

/-! ### Finding a key -/

theorem SMap.find_erase_same (m : SMap α) (k : Nat) : SMap.find (m.erase k) k = none := by
  induction m with
  | nil => rfl
  | cons e r ih =>
    obtain ⟨j, v⟩ := e
    by_cases h : j = k
    · subst h; simpa [SMap.erase, SMap.find] using ih
    · simpa [SMap.erase, SMap.find, h] using ih

theorem SMap.find_erase_other (m : SMap α) {k j : Nat} (h : j ≠ k) : SMap.find (m.erase k) j = SMap.find m j := by
  induction m with
  | nil => rfl
  | cons e r ih =>
    obtain ⟨i, v⟩ := e
    by_cases hk : i = k
    · subst hk; simpa [SMap.erase, SMap.find, h.symm] using ih
    · simp only [SMap.erase] at ih
      simp [SMap.erase, SMap.find, hk, ih]

theorem SMap.find_insert_same (m : SMap α) (k : Nat) (v : α) (h : SMap.find m k = none) :
    SMap.find (SMap.insertSorted k v m) k = some v := by
  induction m with
  | nil => simp [SMap.insertSorted, SMap.find]
  | cons e r ih =>
    obtain ⟨i, w⟩ := e
    have hik : i ≠ k := by rintro rfl; simp [SMap.find] at h
    have hr : SMap.find r k = none := by simpa [SMap.find, hik] using h
    by_cases hlt : k < i
    · simp [SMap.insertSorted, SMap.find, hlt]
    · simp [SMap.insertSorted, SMap.find, hlt, hik, ih hr]

theorem SMap.find_insert_other (m : SMap α) {k j : Nat} (v : α) (h : j ≠ k) :
    SMap.find (SMap.insertSorted k v m) j = SMap.find m j := by
  induction m with
  | nil => simp [SMap.insertSorted, SMap.find, h.symm]
  | cons e r ih =>
    obtain ⟨i, w⟩ := e
    by_cases hlt : k < i
    · simp [SMap.insertSorted, SMap.find, hlt, h.symm]
    · simp [SMap.insertSorted, SMap.find, hlt, ih]

@[simp] theorem SMap.find_put_same (m : SMap α) (k : Nat) (v : α) : SMap.find (m.put k v) k = some v :=
  SMap.find_insert_same _ _ _ (SMap.find_erase_same m k)

theorem SMap.find_put_other (m : SMap α) {k j : Nat} (v : α) (h : j ≠ k) : SMap.find (m.put k v) j = SMap.find m j := by
  rw [SMap.put, SMap.find_insert_other _ _ h, SMap.find_erase_other _ h]

theorem SMap.find_put (m : SMap α) (k j : Nat) (v : α) :
    SMap.find (m.put k v) j = if j = k then some v else SMap.find m j := by
  split
  · subst j; simp
  · exact SMap.find_put_other m v ‹_›

theorem SMap.find_map (m : SMap α) (f : Nat → α → α) (k : Nat) :
    SMap.find (m.map fun e => (e.1, f e.1 e.2)) k = (SMap.find m k).map (f k) := by
  induction m with
  | nil => rfl
  | cons e r ih =>
    obtain ⟨i, w⟩ := e
    by_cases h : i = k
    · subst h; simp [SMap.find]
    · simp [SMap.find, h, ih]

/-! ### Reading a key -/

theorem SMap.get_eq_find (d : α) (m : SMap α) (k : Nat) : SMap.get d m k = (SMap.find m k).getD d := by
  induction m with
  | nil => rfl
  | cons e r ih =>
    obtain ⟨i, w⟩ := e
    by_cases h : i = k
    · simp [SMap.get, SMap.find, h]
    · simp [SMap.get, SMap.find, h, ih]

theorem SMap.get_put (d : α) (m : SMap α) (k j : Nat) (v : α) :
    SMap.get d (m.put k v) j = if j = k then v else SMap.get d m j := by
  rw [SMap.get_eq_find, SMap.find_put, SMap.get_eq_find]
  split <;> rfl

theorem SMap.get_set [DecidableEq α] (d : α) (m : SMap α) (k j : Nat) (v : α) :
    SMap.get d (SMap.set d m k v) j = if j = k then v else SMap.get d m j := by
  rw [SMap.set]
  split
  · subst v
    rw [SMap.get_eq_find]
    split
    · subst j; simp [SMap.find_erase_same]
    · rw [SMap.find_erase_other m ‹_›, SMap.get_eq_find]
  · exact SMap.get_put d m k j v

@[simp] theorem SMap.get_set_same [DecidableEq α] (d : α) (m : SMap α) (k : Nat) (v : α) :
    SMap.get d (SMap.set d m k v) k = v := by simp [SMap.get_set]

theorem SMap.get_set_other [DecidableEq α] (d : α) (m : SMap α) {k j : Nat} (v : α) (h : j ≠ k) :
    SMap.get d (SMap.set d m k v) j = SMap.get d m j := by simp [SMap.get_set, h]

/-! ### The canonical form -/

theorem SMap.wf_iff [DecidableEq α] (d : α) (m : SMap α) :
    SMap.wf d m = true ↔ (m.map Prod.fst).Pairwise (· < ·) ∧ ∀ e ∈ m, e.2 ≠ d := by
  simp [SMap.wf]

theorem SMap.mem_insert (m : SMap α) (k : Nat) (v : α) (e : Nat × α) :
    e ∈ SMap.insertSorted k v m ↔ e = (k, v) ∨ e ∈ m := by
  induction m with
  | nil => simp [SMap.insertSorted]
  | cons x r ih =>
    by_cases h : k < x.1
    · simp [SMap.insertSorted, h]
    · simp only [SMap.insertSorted, h, if_false, List.mem_cons, ih]; tauto

theorem SMap.sorted_insert (m : SMap α) (k : Nat) (v : α) (hs : (m.map Prod.fst).Pairwise (· < ·))
    (hk : ∀ e ∈ m, e.1 ≠ k) : ((SMap.insertSorted k v m).map Prod.fst).Pairwise (· < ·) := by
  induction m with
  | nil => simp [SMap.insertSorted]
  | cons x r ih =>
    simp only [List.map_cons, List.pairwise_cons] at hs
    by_cases h : k < x.1
    · simp only [SMap.insertSorted, h, if_true, List.map_cons, List.pairwise_cons]
      refine ⟨fun a ha => ?_, hs⟩
      simp only [List.mem_cons] at ha
      rcases ha with rfl | ha
      · exact h
      · exact h.trans (hs.1 a ha)
    · simp only [SMap.insertSorted, h, if_false, List.map_cons, List.pairwise_cons]
      refine ⟨fun a ha => ?_, ih hs.2 fun e he => hk e (List.mem_cons_of_mem _ he)⟩
      obtain ⟨e, he, rfl⟩ := List.mem_map.1 ha
      rcases (SMap.mem_insert r k v e).1 he with rfl | he
      · have := hk x (List.mem_cons_self ..)
        simp only; omega
      · exact hs.1 _ (List.mem_map_of_mem he)

theorem SMap.sorted_erase (m : SMap α) (k : Nat) (hs : (m.map Prod.fst).Pairwise (· < ·)) :
    ((m.erase k).map Prod.fst).Pairwise (· < ·) :=
  hs.sublist ((List.filter_sublist).map _)

theorem SMap.mem_erase (m : SMap α) (k : Nat) (e : Nat × α) : e ∈ m.erase k ↔ e ∈ m ∧ e.1 ≠ k := by
  simp [SMap.erase]

theorem SMap.wf_set [DecidableEq α] {d : α} {m : SMap α} (h : SMap.wf d m = true) (k : Nat) (v : α) :
    SMap.wf d (SMap.set d m k v) = true := by
  rw [SMap.wf_iff] at h ⊢
  obtain ⟨hs, hd⟩ := h
  have he : ∀ e ∈ m.erase k, e.2 ≠ d := fun e he => hd e ((SMap.mem_erase m k e).1 he).1
  rw [SMap.set]
  split
  · exact ⟨SMap.sorted_erase m k hs, he⟩
  · refine ⟨SMap.sorted_insert _ k v (SMap.sorted_erase m k hs) fun e h => ((SMap.mem_erase m k e).1 h).2, fun e h => ?_⟩
    rcases (SMap.mem_insert _ k v e).1 h with rfl | h
    · assumption
    · exact he e h

theorem SMap.wf_filter [DecidableEq α] {d : α} {m : SMap α} (h : SMap.wf d m = true) (p : Nat × α → Bool) :
    SMap.wf d (m.filter p) = true := by
  rw [SMap.wf_iff] at h ⊢
  exact ⟨h.1.sublist ((List.filter_sublist).map _), fun e he => h.2 e (List.mem_filter.1 he).1⟩

/-! ### Memory -/

theorem Memory.read_write (m : Memory) (a c : Nat) (b : Byte) : (m.write a b).read c = if c = a then b else m.read c :=
  SMap.get_set _ _ _ _ _

@[simp] theorem Memory.read_write_same (m : Memory) (a : Nat) (b : Byte) : (m.write a b).read a = b := by
  simp [Memory.read_write]

theorem Memory.read_write_other (m : Memory) {a c : Nat} (b : Byte) (h : c ≠ a) : (m.write a b).read c = m.read c := by
  simp [Memory.read_write, h]

theorem Memory.wf_write {m : Memory} (h : m.wf = true) (a : Nat) (b : Byte) : (m.write a b).wf = true := SMap.wf_set h a b

theorem Memory.wf_writeLe {m : Memory} (h : m.wf = true) (a n v : Nat) : (m.writeLe a n v).wf = true := by
  induction n generalizing m a v with
  | zero => exact h
  | succ n ih => exact ih (Memory.wf_write h _ _) _ _

theorem Memory.wf_writeBytes {m : Memory} (h : m.wf = true) (a : Nat) (l : List Byte) : (m.writeBytes a l).wf = true := by
  induction l generalizing m a with
  | nil => exact h
  | cons b r ih => exact ih (Memory.wf_write h _ _) _

theorem Memory.wf_filter {m : Memory} (h : m.wf = true) (p : Nat × Byte → Bool) : Memory.wf (m.filter p) = true :=
  SMap.wf_filter h p

theorem Memory.read_writeLe_outside (m : Memory) (a n v c : Nat) (h : c < a ∨ a + n ≤ c) :
    (m.writeLe a n v).read c = m.read c := by
  induction n generalizing m a v with
  | zero => rfl
  | succ n ih =>
    rw [Memory.writeLe, ih _ _ _ (by omega), Memory.read_write_other _ _ (by omega)]

theorem Memory.read_writeBytes_outside (m : Memory) (a c : Nat) (l : List Byte) (h : c < a ∨ a + l.length ≤ c) :
    (m.writeBytes a l).read c = m.read c := by
  induction l generalizing m a with
  | nil => rfl
  | cons b r ih =>
    simp only [List.length_cons] at h
    rw [Memory.writeBytes, ih _ _ (by omega), Memory.read_write_other _ _ (by omega)]

theorem Memory.readLe_writeLe (m : Memory) (a n v : Nat) : (m.writeLe a n v).readLe a n = v % 256 ^ n := by
  induction n generalizing m a v with
  | zero => simp [Memory.readLe, Nat.mod_one]
  | succ n ih =>
    rw [Memory.writeLe, Memory.readLe, ih, Memory.read_writeLe_outside _ _ _ _ _ (by omega), Memory.read_write_same]
    have h : (BitVec.ofNat 8 v).toNat = v % 256 := by simp
    rw [h, pow_succ, mul_comm (256 ^ n) 256, Nat.mod_mul]

end Sys2Proof.Machine
end

