-- ==== Sys2Proof/Laws/Ops.lean ====
section
/-! SUPPORT. One law for each shared operation: reads after writes of registers, predicates, masks, strands, cores and quads; the
end test; completing an instruction; running one; trap entry. -/

namespace Sys2Proof.Machine

/-! ### Strands, cores, quads by number -/

theorem State.strandAt_setStrand (s : State) (k j : Nat) (v : Strand) :
    (s.setStrand k v).strandAt j = if j = k then some v else s.strandAt j := SMap.find_put _ _ _ _

@[simp] theorem State.strandAt_setStrand_same (s : State) (k : Nat) (v : Strand) : (s.setStrand k v).strandAt k = some v := by
  simp [State.strandAt_setStrand]

theorem State.strandAt_dropStrand (s : State) (k j : Nat) :
    (s.dropStrand k).strandAt j = if j = k then none else s.strandAt j := by
  split
  · subst j; exact SMap.find_erase_same _ _
  · exact SMap.find_erase_other _ ‹_›

theorem State.coreAt_setCore (s : State) (k j : Nat) (v : CoreState) :
    (s.setCore k v).coreAt j = if j = k then v else s.coreAt j := SMap.get_set _ _ _ _ _

theorem State.quadAt_setQuad (s : State) (k j : Nat) (v : QuadState) :
    (s.setQuad k v).quadAt j = if j = k then v else s.quadAt j := SMap.get_set _ _ _ _ _

@[simp] theorem State.coreAt_setStrand (s : State) (k : Nat) (v : Strand) (c : Nat) :
    (s.setStrand k v).coreAt c = s.coreAt c := rfl

@[simp] theorem State.strandAt_setCore (s : State) (k : Nat) (v : CoreState) (c : Nat) :
    (s.setCore k v).strandAt c = s.strandAt c := rfl

/-! ### Registers of a strand -/

theorem Strand.getG_zero (st : Strand) : st.getG 0 = 0 := by simp [Strand.getG]

theorem Strand.getG_setG (st : Strand) (r q : BitVec 4) (v : Word) :
    (st.setG r v).getG q = if q = r ∧ r ≠ 0 then v else st.getG q := by
  by_cases hr : r = 0
  · rw [Strand.setG, if_pos hr, if_neg fun h => h.2 hr]
  · by_cases hq : q = r
    · subst hq
      rw [if_pos ⟨rfl, hr⟩, Strand.setG, if_neg hr, Strand.getG, if_neg hr]
      exact Vector.getElem_set_self q.isLt
    · rw [if_neg fun h => hq h.1, Strand.setG, if_neg hr, Strand.getG, Strand.getG]
      have : r.toNat ≠ q.toNat := fun h => hq (BitVec.eq_of_toNat_eq h.symm)
      split
      · rfl
      · exact Vector.getElem_set_ne r.isLt q.isLt this

theorem Strand.getP_zero (st : Strand) : st.getP 0 = true := by simp [Strand.getP]

theorem Strand.getP_setP (st : Strand) (p q : BitVec 3) (v : Bool) :
    (st.setP p v).getP q = if q = p ∧ p ≠ 0 then v else st.getP q := by
  by_cases hp : p = 0
  · simp [Strand.setP, hp]
  · simp only [Strand.setP, Strand.getP, hp, if_false]
    generalize st.pw = w
    revert hp v w
    revert p q
    decide +kernel

theorem Strand.getM_zero (st : Strand) : st.getM 0 = BitVec.allOnes 1024 := by simp [Strand.getM]

theorem Strand.getM_setM (st : Strand) (m q : BitVec 3) (v : Mask) :
    (st.setM m v).getM q = if q = m ∧ m ≠ 0 then v else st.getM q := by
  by_cases hr : m = 0
  · rw [Strand.setM, if_pos hr, if_neg fun h => h.2 hr]
  · by_cases hq : q = m
    · subst hq
      rw [if_pos ⟨rfl, hr⟩, Strand.setM, if_neg hr, Strand.getM, if_neg hr]
      exact Vector.getElem_set_self q.isLt
    · rw [if_neg fun h => hq h.1, Strand.setM, if_neg hr, Strand.getM, Strand.getM]
      have : m.toNat ≠ q.toNat := fun h => hq (BitVec.eq_of_toNat_eq h.symm)
      split
      · rfl
      · exact Vector.getElem_set_ne m.isLt q.isLt this

/-- A vector register after a write of one, of the same strand's allocation. -/
theorem State.getV_setV (s : State) (slot : Nat) (st : Strand) (r q : Nat) (v : VReg) :
    (s.setV slot st r v).getV slot st q = if q = r then v else s.getV slot st q := by
  simp only [State.getV, State.setV, SMap.get_set]
  congr 1
  simp only [eq_iff_iff]
  omega

/-! ### The end test and the next head (R208) -/

/-- What the end test can change of a strand: its loop counts, and its loop levels. -/
theorem endTest_keeps (a : VAddr) (l : List LoopLevel) (st : Strand) :
    ∃ lc loops, (endTest a l st).1 = { st with lc := lc, loops := loops } := by
  induction l generalizing st with
  | nil => exact ⟨st.lc, [], rfl⟩
  | cons e r ih =>
    have hset : ∀ v, ∃ lc, st.setLc r.length v = { st with lc := lc } := by
      intro v; unfold Strand.setLc; split
      · exact ⟨_, rfl⟩
      · exact ⟨st.lc, rfl⟩
    unfold endTest
    split
    · exact ⟨st.lc, _, rfl⟩
    · split
      · obtain ⟨lc, h⟩ := hset (st.getLc r.length - 1)
        exact ⟨lc, _, by rw [h]⟩
      · obtain ⟨lc, h⟩ := hset 0
        obtain ⟨lc', loops', h'⟩ := ih (st.setLc r.length 0)
        exact ⟨lc', loops', by rw [h', h]⟩

/-- Where no level ends at the program counter, the end test changes nothing. -/
theorem endTest_none (a : VAddr) (l : List LoopLevel) (st : Strand) (hl : l.reverse = st.loops)
    (h : ∀ e ∈ l, e.finish ≠ a) : endTest a l st = (st, none) := by
  cases l with
  | nil => cases st; simp only [List.reverse_nil] at hl; subst hl; rfl
  | cons e r => simp [endTest, h e (List.mem_cons_self ..), hl]

/-- Completing an instruction changes the program counter, the fetch buffer, the mark of a wait, and what the end test changes. -/
theorem Strand.advance_keeps (st : Strand) :
    ∃ lc loops pc fetch, st.advance = { st with lc := lc, loops := loops, pc := pc, fetch := fetch, since := none, next := none } := by
  obtain ⟨lc, loops, h⟩ := endTest_keeps st.pc st.loops.reverse st
  exact ⟨lc, loops, _, _, by simp only [Strand.advance, Strand.advanceTo, h, Strand.setPc]; rfl⟩

theorem Strand.advance_noLoop (st : Strand) (h : ∀ e ∈ st.loops, e.finish ≠ st.pc) :
    st.advance = st.setPc st.nextHead := by
  simp [Strand.advance, Strand.advanceTo, endTest_none st.pc st.loops.reverse st (by simp) (by simpa using h)]

/-! ### Issue -/

theorem State.strandAt_issued (s : State) (k j : Nat) :
    (s.issued k).strandAt j =
      (s.strandAt j).map fun v =>
        if coreOf j = coreOf k then
          if j = k then { v.sawIssue k with halt := (v.sawIssue k).halt.issued } else v.sawIssue k
        else v := by
  refine Eq.trans ?_ (SMap.find_map s.strands (fun i (v : Strand) => if coreOf i = coreOf k then
      if i = k then { v.sawIssue k with halt := (v.sawIssue k).halt.issued } else v.sawIssue k else v) j)
  simp only [State.strandAt, State.issued]
  congr 1
  apply List.map_congr_left
  intro e _
  split <;> simp_all

theorem State.coreAt_issued (s : State) (k c : Nat) :
    (s.issued k).coreAt c = if c = coreOf k then { s.coreAt c with last := k % 16 } else s.coreAt c := by
  have : (s.issued k).coreAt c = (s.setCore (coreOf k) { s.coreAt (coreOf k) with last := k % 16 }).coreAt c := rfl
  rw [this, State.coreAt_setCore]
  split
  · subst c; rfl
  · rfl

/-- Issuing changes the strands, the issuing core's pointer, and the idle times of the bays. -/
theorem State.issued_keeps (s : State) (k : Nat) :
    ∃ strands cores, s.issued k = { s with strands := strands, cores := cores, coursing := { s.coursing with idleSince := s.stillIdle (coreOf k) } } :=
  ⟨_, _, rfl⟩

/-- A strand that is ready and completes stays ready. -/
theorem Strand.sawIssue_ready (k : Nat) (st : Strand) (h : st.wait = .ready) : st.sawIssue k = st := by
  simp [Strand.sawIssue, h]

/-! ### Running an instruction of the strand in focus -/

theorem State.run_free (s : State) {gs : List (BitVec 4)} {vs : List (BitVec 5)} (f : Nat → Strand → Out) {st : Strand}
    (h : s.strandAt s.cur = some st) (hg : s.busyG s.cur gs = false) (hv : s.busyV s.cur vs = false) :
    s.run gs vs f = f s.cur st := by
  simp [State.run, h, hg, hv]

/-- While a named register is awaited, nothing changes. -/
theorem State.run_busy (s : State) {gs : List (BitVec 4)} {vs : List (BitVec 5)} (f : Nat → Strand → Out) {st : Strand}
    (h : s.strandAt s.cur = some st) (hb : s.busyG s.cur gs = true ∨ s.busyV s.cur vs = true) :
    s.run gs vs f = .next s := by
  rcases hb with hb | hb <;> simp [State.run, h, hb]

/-- The only stop of an instruction of a strand is an empty slot in focus. -/
theorem State.run_noStrand (s : State) (gs : List (BitVec 4)) (vs : List (BitVec 5)) (f : Nat → Strand → Out)
    (h : s.strandAt s.cur = none) : s.run gs vs f = .fault .noStrand := by
  simp [State.run, h]

end Sys2Proof.Machine
end

