-- ==== Sys2Proof/Laws/Complete.lean ====
section
/-! SUPPORT. What completing an instruction of a strand does, in the terms of the statements: the frame outside the strand, the
strand after, a jump, and a trap that is not fatal. -/

namespace Sys2Proof.Machine

/-- The strand in a slot after the slot has issued. -/
def Strand.afterIssue (slot : Nat) (v : Strand) : Strand :=
  { v.sawIssue slot with halt := (v.sawIssue slot).halt.issued }

/-- Completing changes the strand in focus alone, and what issuing changes. -/
theorem State.issued_outside (s : State) (v : Strand) : Outside s ((s.setStrand s.cur v).issued s.cur) where
  memory _ := rfl
  sameMemory := rfl
  others k hk := by rw [State.strandAt_issued, State.strandAt_setStrand, if_neg hk]; simp [hk]
  cores c := by rw [State.coreAt_issued]; rfl
  quads := rfl
  localMem := rfl
  icache := rfl
  utlb := rfl
  qtlb := rfl
  acc := rfl
  sett := rfl
  copies := rfl
  recency := rfl
  barriers := rfl
  homes := rfl
  hub := rfl
  pod := rfl
  coursing := rfl
  keystone := rfl
  sys := rfl
  power := rfl
  model := ⟨rfl, rfl, rfl, rfl, rfl, rfl, rfl⟩

theorem State.issued_here (s : State) (v : Strand) :
    ((s.setStrand s.cur v).issued s.cur).strandAt s.cur = some (v.afterIssue s.cur) := by
  rw [State.strandAt_issued, State.strandAt_setStrand_same]; simp [Strand.afterIssue]

theorem Strand.afterIssue_ready (k : Nat) (v : Strand) (h : v.wait = .ready) :
    v.afterIssue k = { v with halt := v.halt.issued } := by
  simp [Strand.afterIssue, Strand.sawIssue_ready k v h]

/-- A strand that differs from `st` in the registers that instructions write, completed, keeps the others and flows on. -/
theorem Strand.advance_kept {st v : Strand} (hv : Kept st v) (hr : st.wait = .ready) (hp : v.pc = st.pc)
    (hl : v.loops = st.loops) (hc : v.lc = st.lc) (hf : v.fetch = st.fetch) (hh : v.halt = st.halt) (k : Nat) :
    Kept st (v.advance.afterIssue k) ∧ Flow st (v.advance.afterIssue k) := by
  obtain ⟨lc, loops, pc, fetch, h⟩ := v.advance_keeps
  have hw : v.advance.wait = .ready := by rw [h]; exact hv.wait.trans hr
  rw [Strand.afterIssue_ready _ _ hw]
  constructor
  · rw [h]; exact ⟨hv.1, hv.2, hv.3, hv.4, hv.5, hv.6, hv.7, hv.8, hv.9, hv.10, hv.11, hv.12⟩
  · refine ⟨fun hn => ?_, ?_, by rw [h]; exact ⟨rfl, rfl⟩⟩
    · rw [Strand.advance_noLoop v (by rw [hl, hp]; exact hn)]
      refine ⟨?_, by simpa using hl, by simpa using hc⟩
      simp [Strand.nextHead, hf, hp]
    · rw [h]; simp [hh]

/-- The registers that the end test cannot change, after completion. -/
theorem Strand.afterAdvance_same {v : Strand} (hr : v.wait = .ready) (k : Nat) :
    (v.advance.afterIssue k).g = v.g ∧ (v.advance.afterIssue k).fflags = v.fflags ∧ (v.advance.afterIssue k).pw = v.pw
    ∧ (v.advance.afterIssue k).masks = v.masks ∧ (v.advance.afterIssue k).gen = v.gen
    ∧ (v.advance.afterIssue k).rrec = v.rrec := by
  obtain ⟨lc, loops, pc, fetch, h⟩ := v.advance_keeps
  have hw : v.advance.wait = .ready := by rw [h]; exact hr
  rw [Strand.afterIssue_ready _ _ hw, h]
  exact ⟨rfl, rfl, rfl, rfl, rfl, rfl⟩

theorem Strand.getG_congr {u v : Strand} (h : u.g = v.g) (r : BitVec 4) : u.getG r = v.getG r := by
  simp only [Strand.getG, h]

theorem Strand.getP_congr {u v : Strand} (h : u.pw = v.pw) (r : BitVec 3) : u.getP r = v.getP r := by
  simp only [Strand.getP, h]

theorem Strand.setG_rrec (st : Strand) (a : BitVec 4) (v : Word) : (st.setG a v).rrec = recordAfterG st a := by
  unfold Strand.setG recordAfterG
  by_cases h : a = 0
  · rw [if_pos h]; cases st.rrec <;> simp [h]
  · rw [if_neg h]; simp only [h, false_or] <;> rfl

/-- An instruction whose meaning ends in `setResult` writes its register and completes. -/
theorem writesG_of {i : Instr} {s : State} {st : Strand} {gs vs} {a : BitVec 4} {v : Word} {f : FFlags} (hF : Focus s st gs vs)
    (h : exec i s = .next (s.setResult s.cur st a (v, f))) : WritesG i s st a v f := by
  set w := (st.setG a v).raise f with hw
  have hk : Kept st w := by constructor <;> simp [hw]
  have hready : w.wait = .ready := by simpa [hw] using hF.ready
  obtain ⟨k1, k2⟩ := Strand.advance_kept hk hF.ready (by simp [hw]) (by simp [hw]) (by simp [hw]) (by simp [hw]) (by simp [hw])
    s.cur
  obtain ⟨g1, g2, g3, g4, g5, g6⟩ := Strand.afterAdvance_same hready s.cur
  refine ⟨_, _, h, State.issued_here s w.advance, fun r => ?_, ?_, ?_, ?_, ?_, ?_, k1, k2, rfl, State.issued_outside s _⟩
  · rw [Strand.getG_congr g1, hw, Strand.getG_congr (u := (st.setG a v).raise f) (v := st.setG a v) rfl, Strand.getG_setG]
  · rw [g2]; simp [hw]
  · rw [g3]; simp [hw]
  · rw [g4]; simp [hw]
  · rw [g5]; simp [hw]
  · rw [g6]; simp [hw, Strand.setG_rrec]

theorem Strand.raise_zero (st : Strand) : st.raise 0 = st := by
  unfold Strand.raise
  have : st.fflags ||| 0 = st.fflags := BitVec.or_zero
  rw [this]

theorem State.setWord_eq (s : State) (slot : Nat) (st : Strand) (a : BitVec 4) (v : Word) :
    s.setWord slot st a v = s.setResult slot st a (v, 0) := by
  rw [State.setWord, State.setResult, Strand.raise_zero]

/-- An instruction whose meaning ends in `setWord` writes its register, raises no flag, and completes. -/
theorem writesG_of_word {i : Instr} {s : State} {st : Strand} {gs vs} {a : BitVec 4} {v : Word} (hF : Focus s st gs vs)
    (h : exec i s = .next (s.setWord s.cur st a v)) : WritesG i s st a v 0 :=
  writesG_of hF (by rw [h, State.setWord_eq])

/-- An instruction whose meaning writes a predicate. -/
theorem writesP_of {i : Instr} {s : State} {st : Strand} {gs vs} {p : BitVec 3} {v : Bool} (hF : Focus s st gs vs)
    (h : exec i s = .next (s.retire s.cur (st.setP p v))) : WritesP i s st p v := by
  have hk : Kept st (st.setP p v) := by constructor <;> simp
  obtain ⟨k1, k2⟩ := Strand.advance_kept hk hF.ready (by simp) (by simp) (by simp) (by simp) (by simp) s.cur
  obtain ⟨g1, g2, g3, g4, g5, g6⟩ := Strand.afterAdvance_same (v := st.setP p v) (by simpa using hF.ready) s.cur
  refine ⟨_, _, h, State.issued_here s _, fun r => ?_, ?_, ?_, ?_, ?_, ?_, k1, k2, rfl, State.issued_outside s _⟩
  · rw [Strand.getP_congr g3, Strand.getP_setP]
  · rw [g1]; simp
  · rw [g2]; simp
  · rw [g4]; simp
  · rw [g5]; simp
  · rw [g6]; simp

/-- An instruction whose meaning jumps. -/
theorem jumpsTo_of {i : Instr} {s : State} {st : Strand} {gs vs} {v : VAddr} (hF : Focus s st gs vs)
    (h : exec i s = .next (s.jump s.cur st v)) : JumpsTo i s st v := by
  have hw : (st.setPc v).wait = .ready := by simpa using hF.ready
  have he := Strand.afterIssue_ready s.cur _ hw
  refine ⟨_, (st.setPc v).afterIssue s.cur, h, State.issued_here s _, ?_⟩
  rw [he]
  exact ⟨rfl, rfl, rfl, rfl, rfl, rfl, rfl, rfl, rfl, rfl, rfl, rfl, ⟨rfl, ⟨rfl, rfl⟩, ⟨rfl, rfl⟩, ⟨rfl, rfl⟩, ⟨rfl, rfl⟩, rfl, rfl,
    ⟨rfl, rfl, rfl, rfl⟩, ⟨rfl, rfl⟩, ⟨rfl, rfl, rfl, rfl⟩, rfl, rfl⟩, rfl, State.issued_outside s _⟩

/-- A counter after one event. -/
theorem State.counterAt_count1 (s : State) (a pa : Nat) :
    (s.count1 a).counterAt pa = if pa = a then
        { count := BitVec.ofNat 32 (min ((s.counterAt pa).count.toNat + 1) (2 ^ 32 - 1)), last := BitVec.ofNat 32 s.time }
      else s.counterAt pa := by
  unfold State.count1 State.countN
  rw [if_neg (by decide)]
  simp only [State.counterAt, State.setSys_sys, SMap.get_set]
  split
  · subst pa; rfl
  · rfl

/-- An instruction whose meaning takes a trap that is not fatal, and that no malformed entry of a page table makes. -/
theorem takesTrap_of {i : Instr} {s : State} {st : Strand} {gs vs} {t : Trap} (_hF : Focus s st gs vs) (hn : NotFatal st)
    (hc : t.code ≠ heldWalk) (hb : t.badpte = false) (h : exec i s = .next (s.trap s.cur st t)) : TakesTrap i s st t.cause (BitVec.ofNat 64 t.tval) := by
  have hf : st.trapIsFatal = false := by simp only [Strand.trapIsFatal, hn.1, Bool.false_or]; exact beq_false_of_ne hn.2
  have ht : s.trap s.cur st t =
      (((s.count1 (execCounter (s.tenantOf st) 0)).setStrand s.cur (st.enter t st.pc)).issued s.cur) := by
    simp [State.trap, State.takeTrap, State.countWalk, hc, hb, hf]
  rw [ht] at h
  have hw : (st.enter t st.pc).wait = .ready := rfl
  have hcur : (s.count1 (execCounter (s.tenantOf st) 0)).cur = s.cur := by
    unfold State.count1 State.countN; split <;> rfl
  have hh := State.issued_here (s.count1 (execCounter (s.tenantOf st) 0)) (st.enter t st.pc)
  rw [hcur, Strand.afterIssue_ready _ _ hw] at hh
  have hkeep : ∀ (k : Nat) (v : Strand), let t := ((s.count1 (execCounter (s.tenantOf st) 0)).setStrand k v).issued k
      t.mem = s.mem ∧ t.pool = s.pool ∧ t.localMem = s.localMem ∧ t.acc = s.acc := by
    intro k v; unfold State.count1 State.countN; split <;> exact ⟨rfl, rfl, rfl, rfl⟩
  obtain ⟨m1, m2, m3, m4⟩ := hkeep s.cur (st.enter t st.pc)
  refine ⟨_, _, h, hh, rfl, rfl, rfl, rfl, rfl, rfl, rfl, rfl, rfl, rfl, rfl, rfl, rfl, rfl, rfl, rfl, rfl, rfl, rfl, rfl, rfl,
    rfl, m1, fun a => by rw [m1], m2, m3, m4, fun pa => ?_⟩
  exact State.counterAt_count1 s _ pa

end Sys2Proof.Machine
end

