-- ==== Sys2Proof/Laws/Vector.lean ====
section
/-! SUPPORT. The laws of packed elements and of the vector frame (R213 to R217): what an element of a packed register is, what the frame
gives for each element, its flags and its draws, and what writing a group of registers leaves. -/

namespace Sys2Proof.Machine

/-! ### Packed elements -/

theorem packElems_lt (w : Nat) (l : List Nat) : packElems w l < 2 ^ (w * l.length) := by
  induction l with
  | nil => simp [packElems]
  | cons e r ih =>
    have h1 : e % 2 ^ w < 2 ^ w := Nat.mod_lt _ (by positivity)
    have h2 : 2 ^ (w * (r.length + 1)) = 2 ^ w * 2 ^ (w * r.length) := by rw [← pow_add]; congr 1; ring
    simp only [packElems, List.length_cons, h2]
    calc e % 2 ^ w + 2 ^ w * packElems w r < 2 ^ w + 2 ^ w * packElems w r := by omega
      _ = 2 ^ w * (packElems w r + 1) := by ring
      _ ≤ 2 ^ w * 2 ^ (w * r.length) := Nat.mul_le_mul_left _ ih

theorem elemOf_packElems (w : Nat) (l : List Nat) (k : Nat) (hk : k < l.length) : elemOf (packElems w l) w k = l[k] % 2 ^ w := by
  induction l generalizing k with
  | nil => simp at hk
  | cons e r ih =>
    have h1 : e % 2 ^ w < 2 ^ w := Nat.mod_lt _ (by positivity)
    cases k with
    | zero =>
      simp only [elemOf, packElems, Nat.mul_zero, pow_zero, Nat.div_one, List.getElem_cons_zero]
      rw [Nat.add_mul_mod_self_left, Nat.mod_mod]
    | succ k =>
      simp only [List.length_cons, Nat.add_lt_add_iff_right] at hk
      have := ih k hk
      simp only [elemOf, packElems, List.getElem_cons_succ] at this ⊢
      rw [← this, show w * (k + 1) = w + w * k by ring, pow_add, ← Nat.div_div_eq_div_mul,
        Nat.add_mul_div_left _ _ (by positivity), Nat.div_eq_of_lt h1, Nat.zero_add]

theorem elemOf_lt (x w i : Nat) : elemOf x w i < 2 ^ w := Nat.mod_lt _ (by positivity)

/-- An element of a register of packed elements, where they fill no more than the register. -/
theorem elemOf_packV (w : Nat) (l : List Nat) (hl : w * l.length ≤ 4096) (k : Nat) (hk : k < l.length) :
    elemOf (packV w l).toNat w k = l[k] % 2 ^ w := by
  have h (n : Nat) (hn : w * l.length ≤ n) : packElems w l < 2 ^ n :=
    (packElems_lt w l).trans_le (Nat.pow_le_pow_right (by norm_num) hn)
  rw [packV, BitVec.toNat_ofNat, Nat.mod_eq_of_lt (h _ hl), elemOf_packElems w l k hk]

theorem typeBits_pos (t : Nat) : 0 < typeBits t := by unfold typeBits; split <;> norm_num

theorem typeBits_mul_count (t : Nat) : typeBits t * elemCount t = 4096 := by
  unfold elemCount typeBits; split <;> norm_num

/-! ### The vector frame -/

/-- The draw that the frame gives element i + k. -/
def frameDraw (mode : Nat) (active : Nat → Bool) (i : Nat) (g : Word) (k : Nat) : Nat :=
  if mode = 5 then genDraw (Nat.iterate genStep ((List.range k).countP (fun j => active (i + j)) + 1) g) else 0

theorem frameElems_length (mode : Nat) (active : Nat → Bool) (old : Nat → Nat) (f : Nat → Nat → Nat × FFlags) (n i : Nat)
    (g : Word) : (frameElems mode active old f n i g).1.length = n := by
  induction n generalizing i g with
  | zero => rfl
  | succ n ih => unfold frameElems; split <;> simp [ih]

theorem countP_range_succ (active : Nat → Bool) (i k : Nat) :
    (List.range (k + 1)).countP (fun j => active (i + j)) =
      (if active i then 1 else 0) + (List.range k).countP (fun j => active (i + 1 + j)) := by
  rw [List.range_succ_eq_map, List.countP_cons, List.countP_map]
  simp only [Nat.add_zero, Function.comp_def]
  rw [Nat.add_comm]
  congr 2
  funext j
  congr 1
  omega

/-- Each element of the frame: the old one where it is inactive, and where it is active the result with its draw. -/
theorem frameElems_getElem (mode : Nat) (active : Nat → Bool) (old : Nat → Nat) (f : Nat → Nat → Nat × FFlags) (n i : Nat)
    (g : Word) (k : Nat) (hk : k < n) :
    (frameElems mode active old f n i g).1[k]'(by rw [frameElems_length]; exact hk) =
      if active (i + k) then (f (i + k) (frameDraw mode active i g k)).1 else old (i + k) := by
  induction n generalizing i g k with
  | zero => omega
  | succ n ih =>
    by_cases ha : active i = true
    · simp only [frameElems, ha, if_true]
      cases k with
      | zero => simp only [List.getElem_cons_zero, Nat.add_zero, ha, if_true, frameDraw, List.range_zero, List.countP_nil, Nat.zero_add, Function.iterate_one]; split <;> rfl
      | succ k =>
        simp only [List.getElem_cons_succ]
        rw [ih (i + 1) _ k (by omega), show i + 1 + k = i + (k + 1) by omega]
        congr 2
        simp only [frameDraw]
        split
        · rw [countP_range_succ, if_pos ha, Nat.add_comm 1]; rfl
        · rfl
    · simp only [frameElems, ha]
      cases k with
      | zero => simp [ha]
      | succ k =>
        simp only [Bool.false_eq_true, if_false, List.getElem_cons_succ]
        rw [ih (i + 1) _ k (by omega), show i + 1 + k = i + (k + 1) by omega]
        congr 2
        simp only [frameDraw]
        split
        · rw [countP_range_succ, if_neg ha, Nat.zero_add]
        · rfl

/-- The generator after the frame: one step for each active element under rsr. -/
theorem frameElems_gen (mode : Nat) (active : Nat → Bool) (old : Nat → Nat) (f : Nat → Nat → Nat × FFlags) (n i : Nat) (g : Word) :
    (frameElems mode active old f n i g).2.2 =
      if mode = 5 then Nat.iterate genStep ((List.range n).countP fun j => active (i + j)) g else g := by
  induction n generalizing i g with
  | zero => simp [frameElems]
  | succ n ih =>
    rw [countP_range_succ]
    by_cases ha : active i = true
    · simp only [frameElems, ha, if_true, ih]
      split
      · rw [Nat.add_comm 1, Function.iterate_succ_apply]
      · rfl
    · simp only [frameElems, ha, Bool.false_eq_true, if_false, ih, Nat.zero_add]

/-- The flags of the frame: those of the active elements, together. -/
theorem frameElems_flags (mode : Nat) (active : Nat → Bool) (old : Nat → Nat) (f : Nat → Nat → Nat × FFlags) (n i : Nat) (g : Word) :
    (frameElems mode active old f n i g).2.1 =
      (List.range n).foldr
        (fun k a => if active (i + k) then (f (i + k) (frameDraw mode active i g k)).2 ||| a else a) 0 := by
  induction n generalizing i g with
  | zero => rfl
  | succ n ih =>
    rw [List.range_succ_eq_map, List.foldr_cons, List.foldr_map]
    by_cases ha : active i = true
    · simp only [frameElems, ha, if_true, ih, Nat.add_zero]
      congr 1
      · simp only [frameDraw, List.range_zero, List.countP_nil, Nat.zero_add, Function.iterate_one]
        split <;> rfl
      apply List.foldr_ext
      intro k _ a
      rw [show i + 1 + k = i + (k + 1) by omega]
      congr 3
      simp only [frameDraw]
      split
      · rw [countP_range_succ, if_pos ha, Nat.add_comm 1]; rfl
      · rfl
    · simp only [frameElems, ha, Bool.false_eq_true, if_false, ih, Nat.add_zero]
      apply List.foldr_ext
      intro k _ a
      rw [show i + 1 + k = i + (k + 1) by omega]
      congr 3
      simp only [frameDraw]
      split
      · rw [countP_range_succ, if_neg ha, Nat.zero_add]
      · rfl

/-! ### Writing registers of the pool -/

theorem State.pool_setV (s : State) (slot : Nat) (st : Strand) (r : Nat) (v : VReg) (j : Nat) :
    SMap.get 0 (s.setV slot st r v).pool j = if j = 64 * coreOf slot + st.vbase + r then v else SMap.get 0 s.pool j := by
  rw [State.setV_pool, SMap.get_set]

/-- A group of registers written (R214): the registers of the group take the elements in group order, and every other one stands. -/
theorem pool_setGroup (s : State) (slot : Nat) (st : Strand) (base k w : Nat) (l : List Nat) (j : Nat) :
    SMap.get 0 (setGroup s slot st base k w l).pool j =
      if 64 * coreOf slot + st.vbase + base ≤ j ∧ j < 64 * coreOf slot + st.vbase + base + k then
        packV w ((List.range (4096 / w)).map fun i => l.getD (i * k + (j - (64 * coreOf slot + st.vbase + base))) 0)
      else SMap.get 0 s.pool j := by
  unfold setGroup
  generalize hg : (fun d => packV w ((List.range (4096 / w)).map fun i => l.getD (i * k + d) 0)) = g
  have key : ∀ m (s : State), SMap.get 0 ((List.range m).foldl (fun s d => s.setV slot st (base + d) (g d)) s).pool j =
      if 64 * coreOf slot + st.vbase + base ≤ j ∧ j < 64 * coreOf slot + st.vbase + base + m then
        g (j - (64 * coreOf slot + st.vbase + base)) else SMap.get 0 s.pool j := by
    intro m
    induction m with
    | zero => intro s; rw [if_neg (by omega)]; rfl
    | succ m ih =>
      intro s
      rw [List.range_succ, List.foldl_append]
      simp only [List.foldl_cons, List.foldl_nil]
      rw [State.pool_setV]
      by_cases h : j = 64 * coreOf slot + st.vbase + (base + m)
      · rw [if_pos h, if_pos (by omega)]
        congr 1
        omega
      · rw [if_neg h, ih]
        by_cases h2 : 64 * coreOf slot + st.vbase + base ≤ j ∧ j < 64 * coreOf slot + st.vbase + base + m
        · rw [if_pos h2, if_pos (by omega)]
        · rw [if_neg h2, if_neg (by omega)]
  subst hg
  exact key k s

theorem setGroup_eq (s : State) (slot : Nat) (st : Strand) (base k w : Nat) (l : List Nat) :
    ∃ pool, setGroup s slot st base k w l = { s with pool := pool } := by
  unfold setGroup
  have key : ∀ (g : Nat → VReg) (m : Nat),
      ∃ pool, (List.range m).foldl (fun s d => s.setV slot st (base + d) (g d)) s = { s with pool := pool } := by
    intro g m
    induction m with
    | zero => exact ⟨s.pool, rfl⟩
    | succ m ih =>
      rw [List.range_succ, List.foldl_append]
      obtain ⟨pool, h⟩ := ih
      simp only [List.foldl_cons, List.foldl_nil, h]
      exact ⟨_, rfl⟩
  exact key (fun d => packV w ((List.range (4096 / w)).map fun i => l.getD (i * k + d) 0)) k

end Sys2Proof.Machine
end

