-- ==== Sys2Proof/Tests/Slice0.lean ====
section
/-! SUPPORT. The model's own tests: terms that are not well formed, words written out from the encodings of spec/, single steps
whose results are worked out by hand from the rules, and for the statements a state and operands that meet their hypotheses. -/

namespace Sys2Proof.Tests

set_option Elab.async false

open Machine

/-! ### Terms that the checks of WellFormed refuse (R177) -/

def op2 : TwoSrc2 := { a := 4, b := 5, c := 0, imm := true, ty := 0, sat := false, k8 := 3 }
def op4 : TwoSrc4 := { a := 4, b := 5, ty := 0, sat := false, i24 := 3 }
def vop : VecOps := { a := 0, b := 0, vd := 4, vs1 := 5, vs2 := 6, m := 0, t := 4, src := 0, x := 0, ext := none }
def ext0 : VecExt := { vs3 := 0, rnd := 0, sat := false, i20 := 0 }
def mop : MemOps := { a := 4, dst := 9, lease := 0, ord := 0, scope := 0, t := 6, off := 0, hi := none }
def eop : EngOps := { a := 4, b := 5, c := 6, d := 0, e := 10, x := 0, hi := none }

/-- An immediate with a register C, and a register source with a K8 (R193). -/
theorem test_wf_two_sources : (Instr.addTl2 op2).wf = true ∧ (Instr.addTl2 { op2 with c := 1 }).wf = false
    ∧ (Instr.addTl2 { op2 with imm := false, k8 := 1 }).wf = false := by decide
/-- `AND` takes no type, `SHR` no saturation (R193). -/
theorem test_wf_type_and_saturation : (Instr.andTl2 { op2 with ty := 1 }).wf = false ∧ (Instr.shrTl2 { op2 with sat := true }).wf = false
    ∧ (Instr.andTl4 { op4 with ty := 2 }).wf = false ∧ (Instr.shrTl4 { op4 with sat := true }).wf = false
    ∧ (Instr.addTl4 { op4 with ty := 2, sat := true }).wf = true := by decide
/-- SRC 3; SRC 2 without the long tail; an unused VS2, A, B, X, SAT or VS3 (R172, R215). -/
theorem test_wf_vector : (Instr.vadd vop).wf = true ∧ (Instr.vadd { vop with src := 3 }).wf = false ∧ (Instr.vadd { vop with src := 2, vs2 := 0 }).wf = false
    ∧ (Instr.vadd { vop with src := 1 }).wf = false ∧ (Instr.vadd { vop with a := 1 }).wf = false ∧ (Instr.vadd { vop with b := 1 }).wf = false
    ∧ (Instr.vadd { vop with x := 1 }).wf = false ∧ (Instr.vadd { vop with ext := some { ext0 with vs3 := 1 } }).wf = false
    ∧ (Instr.vadd { vop with ext := some { ext0 with rnd := 1 } }).wf = false ∧ (Instr.vand { vop with ext := some { ext0 with sat := true } }).wf = false
    ∧ (Instr.vadd { vop with ext := some { ext0 with i20 := 1 } }).wf = false ∧ (Instr.vabs vop).wf = false := by decide
/-- Masks of instructions that name masks; VD and M where they are unused (R223). -/
theorem test_wf_masks : (Instr.vcmp { vop with vd := 8 }).wf = false ∧ (Instr.mlog { vop with t := 0, vd := 1, vs1 := 8, vs2 := 0 }).wf = false
    ∧ (Instr.mlog { vop with t := 0, vd := 1, vs1 := 1, vs2 := 8 }).wf = false ∧ (Instr.mlog { vop with t := 4, vd := 1, vs1 := 1, vs2 := 1 }).wf = false
    ∧ (Instr.mlog { vop with t := 0, vd := 1, vs1 := 1, vs2 := 1, m := 1 }).wf = false ∧ (Instr.vpopm { vop with vs1 := 1, vs2 := 0 }).wf = false := by decide
/-- `VSCAN` with operation 3, `VBCAST` with a VS1, `VMOVS` with the register of the other direction (R231, R234). -/
theorem test_wf_scan_broadcast_move : (Instr.vscan { vop with x := 3 }).wf = false ∧ (Instr.vscan { vop with x := 6 }).wf = true
    ∧ (Instr.vbcast { vop with vs2 := 0, src := 1 }).wf = false ∧ (Instr.vmovs { vop with vs2 := 0, src := 1 }).wf = false
    ∧ (Instr.vmovs { vop with vs2 := 0, src := 1, x := 1 }).wf = false ∧ (Instr.vmovs { vop with vs2 := 0, src := 1, vd := 0 }).wf = true := by decide
/-- A fifth bit of a scalar DST; OFF14 beside a byte offset; I32 where it is not permitted, with bits it has not, or missing (R173, R237). -/
theorem test_wf_memory : (Instr.ld mop).wf = true ∧ (Instr.ld { mop with dst := 16 }).wf = false ∧ (Instr.ld { mop with off := 1, hi := some 0 }).wf = false
    ∧ (Instr.fence { mop with dst := 0, a := 0, hi := some 0 }).wf = false ∧ (Instr.vld { mop with hi := some 8 }).wf = false
    ∧ (Instr.vlds mop).wf = false ∧ (Instr.pref { mop with dst := 2 }).wf = false ∧ (Instr.lzero mop).wf = false := by decide
/-- `FENCE`, `BARA` and `BAR` with a gA (R248, R253). -/
theorem test_wf_fence_and_barriers : (Instr.fence { mop with dst := 0 }).wf = false ∧ (Instr.fence { mop with dst := 0, a := 0, off := 1 }).wf = false
    ∧ (Instr.bara mop).wf = false ∧ (Instr.bar { mop with dst := 0 }).wf = false ∧ (Instr.bara { mop with a := 0 }).wf = true := by decide
/-- Registers, X16 bits and I32 bits that an engine instruction does not use; `MMA` without its I32 (R260). -/
theorem test_wf_engine : (Instr.shape { eop with e := 0 }).wf = true ∧ (Instr.shape eop).wf = false ∧ (Instr.shape { eop with e := 0, d := 1 }).wf = false
    ∧ (Instr.shape { eop with e := 0, x := 1 }).wf = false ∧ (Instr.mma eop).wf = false ∧ (Instr.mma { eop with hi := some 0x100000 }).wf = false
    ∧ (Instr.mma { eop with hi := some 0xFFFFF }).wf = true ∧ (Instr.sload { eop with e := 0, c := 0, hi := some 0 }).wf = false
    ∧ (Instr.sstat { eop with a := 1, b := 0, c := 0, e := 0 }).wf = false ∧ (Instr.hcopy { eop with a := 1, b := 1, c := 0, e := 0 }).wf = false
    ∧ (Instr.hcopy { eop with a := 1, b := 0, c := 1, e := 0 }).wf = false := by decide

/-! ### Words written out from the encodings (files 08 to 12) -/

/-- R193: `sub.n32.sat g4, g5, 3`: MAJ 000010, TL 01, A 0100, B 0101; C 0000, IMM 1, TY 11, SAT 1, K8 3. -/
theorem test_word_sub : decode { head := 0b000010_01_0100_0101, tail := 0b0000_1_11_1_00000011 }
    = .ok (.subTl2 { a := 4, b := 5, c := 0, imm := true, ty := 3, sat := true, k8 := 3 }) := by decide +kernel
/-- R193: `add g4, g5` head only; R170: `NOP`. -/
theorem test_word_head_only : decode { head := 0b000001_00_0100_0101, tail := 0 } = .ok (.addHeadOnly 4 5) ∧ decode { head := 0, tail := 0 } = .ok .nop := by
  decide +kernel
/-- R201: `cmpi.n32 p1, g5, 200 (cc=lt)`, the manual's words. -/
theorem test_word_cmpi : decode { head := 0x5215, tail := 0x520000C8 } = .ok (.cmpiTl4 1 5 5 2 200) := by decide +kernel
/-- R203: `BZ g4` with I24 all ones: MAJ 010111, TL 10, A 0100, B 0000; C 0000, F 0001. -/
theorem test_word_bz : decode { head := 0b010111_10_0100_0000, tail := 0x01FFFFFF } = .ok (.bz 4 0xFFFFFF) := by decide +kernel
/-- R210: `srd g4, sr.quad`: MAJ 011101, TL 01, A 4, B 0; C 0, F 0, K8 2. -/
theorem test_word_srd : decode { head := 0b011101_01_0100_0000, tail := 0x0002 } = .ok (.srd 4 2) := by decide +kernel
/-- R218: `vadd v4, v5, v6, m2`, the manual's words. -/
theorem test_word_vadd : decode { head := 0x7A00, tail := 0x214CA000 }
    = .ok (.vadd { a := 0, b := 0, vd := 4, vs1 := 5, vs2 := 6, m := 2, t := 8, src := 0, x := 0, ext := none }) := by decide +kernel
/-- R242: `ld g9, [g4]` and `ld g8, [g6 + 16]`, the manual's words. -/
theorem test_word_ld : decode { head := 0xB240, tail := 0x48018000 } = .ok (.ld mop)
    ∧ decode { head := 0xB260, tail := 0x40018002 } = .ok (.ld { mop with a := 6, dst := 8, off := 2 }) := by decide +kernel
/-- R248: `fence.rel.die`, the manual's words. -/
theorem test_word_fence : decode { head := 0xC600, tail := 0x00480000 }
    = .ok (.fence { a := 0, dst := 0, lease := 0, ord := 2, scope := 2, t := 0, off := 0, hi := none }) := by decide +kernel
/-- R266: `bbinit.die g5, g6`, the manual's words. -/
theorem test_word_bbinit : decode { head := 0xEA56, tail := 0x00020000 }
    = .ok (.bbinit { a := 5, b := 6, c := 0, d := 0, e := 0, x := 2, hi := none }) := by decide +kernel
/-- R271 and R285: the manual's words of `MMA` and `HSEND`. -/
theorem test_word_engines : decode { head := 0xD745, tail := 0x0000586200219A60 }
      = .ok (.mma { a := 4, b := 5, c := 6, d := 10, e := 9, x := 0x21, hi := some 0x5862 })
    ∧ decode { head := 0xE650, tail := 0x00000800 } = .ok (.hsend { a := 5, b := 0, c := 0, d := 8, e := 0, x := 0, hi := none }) := by decide +kernel
/-- R169, R170, R176: major 0x3F, a tail that the major does not permit, a reserved F. -/
theorem test_word_refused : decode { head := 0xFC00, tail := 0 } = .error .reservedMajor ∧ decode { head := 0x2400, tail := 0 } = .error .tailLength
    ∧ decode { head := 0x3945, tail := 0x0700 } = .error .functionCode := by decide +kernel
/-- R163: H 0, a nonzero bit of the line word, a nonzero gap byte; five `NOP` heads are a legal line. -/
theorem test_lines : checkLine 0 = .error .noHead ∧ checkLine 0x0801 = .error .lineWord ∧ checkLine (0x0800 + 2 ^ 40) = .error .gap
    ∧ checkLine 0x2800 = .ok 5 := by decide +kernel

/-! ### A small machine: one strand of tenant 0 in slot 0, at the first head of a line of five `NOP` -/

/-- The strand, with registers written. -/
def strandWith (l : List (BitVec 4 × Word)) : Strand :=
  l.foldl (fun st e => st.setG e.1 e.2)
    { placedStrand 0 with tvec := 0x200002, fetch := some (0x100000, 0x2800) }

/-- The machine with a strand in focus, its launch, and page 16 of its address space mapped to itself with every right. -/
def machine (st : Strand) : State :=
  { State.reset with
    strands := [(0, st)], cur := 0
    hub := { State.reset.hub with launches := [placedLaunch 0 0] }
    utlb := [(0, [{ asid := 0, level := 2, page := 16, entry := placedLeaf }])] }

/-- The same machine with page 16 at offset 0x10_0000 of quad 0's scratchpad (R24, R25), whose bytes no cache holds. -/
def scratchLeaf : Word := 0x800000010003F
def scratchMachine (st : Strand) : State := { machine st with utlb := [(0, [{ asid := 0, level := 2, page := 16, entry := scratchLeaf }])] }

/-- A shared copy of a line in a quad's L2 that core 0 fetched for tenant 0. -/
def sharedCopy : L2Copy := { st := .shared, presence := 1, modified := none, tenant := 0, key := 0, way := 0, reserved := 0, data := none }

/-- The strand after an instruction. -/
def after (i : Instr) (s : State) : Option Strand :=
  match exec i s with
  | .next t => t.strandAt s.cur
  | _ => none

/-- A register after an instruction on registers, and the flags. -/
def result (i : Instr) (l : List (BitVec 4 × Word)) (r : BitVec 4) : Option (Word × FFlags) :=
  (after i (machine (strandWith l))).map fun u => (u.getG r, u.fflags)

/-- A vector register of 32-bit elements that are all the same, and element 0 of v4 after an instruction with v5 and v6 given. -/
def splat (x : Nat) : VReg := BitVec.ofNat 4096 (x * ((2 ^ 4096 - 1) / (2 ^ 32 - 1)))
def vectors (x y : Nat) : State := { machine (strandWith []) with pool := [(5, splat x), (6, splat y)] }
def vresult (i : Instr) (x y : Nat) : Option (Nat × FFlags) :=
  match exec i (vectors x y) with
  | .next t => (t.strandAt 0).map fun u => (((t.getV 0 u 4).extractLsb' 32 32).toNat, u.fflags)
  | _ => none

/-! ### Single steps, worked out from the rules -/

/-- R192, R193: −1 + 1 wraps to 0 with no flag; the greatest s64 plus 1 saturates with SA. -/
theorem test_add : result (.addHeadOnly 4 5) [(4, BitVec.allOnes 64), (5, 1)] 4 = some (0, 0)
    ∧ result (.addTl2 { op2 with sat := true, k8 := 1 }) [(5, 0x7FFFFFFFFFFFFFFF)] 4 = some (0x7FFFFFFFFFFFFFFF, flagSA) := by decide +kernel
/-- R193: 2 − 3 as n32 saturates to 0; the destination may be a source. -/
theorem test_sub : result (.subTl2 { op2 with ty := 3, sat := true }) [(5, 2)] 4 = some (0, flagSA)
    ∧ result (.subHeadOnly 4 4) [(4, 9)] 4 = some (0, 0) := by decide +kernel
/-- R193: 2^16 × 2^16 as n32 wraps to 0; `SHL` of 1 by 31 as s32 is sign-extended, and by 32 shifts by 0. -/
theorem test_mul_shl : result (.mulTl4 { op4 with ty := 3, i24 := 0x10000 }) [(5, 0x10000)] 4 = some (0, 0)
    ∧ result (.shlTl2 { op2 with ty := 2, k8 := 31 }) [(5, 1)] 4 = some (0xFFFFFFFF80000000, 0)
    ∧ result (.shlTl2 { op2 with ty := 2, k8 := 32 }) [(5, 1)] 4 = some (1, 0) := by decide +kernel
/-- R193: −8 shifted right by 1, unsigned and signed, and `ROL` of n32. -/
theorem test_right_shifts : result (.shrTl2 { op2 with k8 := 1 }) [(5, 0xFFFFFFFFFFFFFFF8)] 4 = some (0x7FFFFFFFFFFFFFFC, 0)
    ∧ result (.sarTl2 { op2 with k8 := 1 }) [(5, 0xFFFFFFFFFFFFFFF8)] 4 = some (0xFFFFFFFFFFFFFFFC, 0)
    ∧ result (.rolTl2 { op2 with ty := 3, k8 := 1 }) [(5, 0x80000001)] 4 = some (3, 0) := by decide +kernel
/-- R193: K8 is sign-extended as a second source of the logic. -/
theorem test_logic : result (.andTl2 { op2 with k8 := 0xF0 }) [(5, 0x1234)] 4 = some (0x1230, 0)
    ∧ result (.orHeadOnly 4 5) [(4, 5), (5, 10)] 4 = some (15, 0) ∧ result (.xorHeadOnly 4 5) [(4, 6), (5, 3)] 4 = some (5, 0)
    ∧ result (.andnTl2 4 5 6) [(5, 15), (6, 5)] 4 = some (10, 0) := by decide +kernel
/-- R194: the high half as n64 and s64; −7 / 2 toward zero; division by zero as n32. -/
theorem test_mulh_div : result (.mulh 4 5 5 1) [(5, BitVec.allOnes 64)] 4 = some (0xFFFFFFFFFFFFFFFE, 0)
    ∧ result (.mulh 4 5 5 0) [(5, BitVec.allOnes 64)] 4 = some (0, 0) ∧ result (.div 4 5 6 0) [(5, -7), (6, 2)] 4 = some (-3, 0)
    ∧ result (.div 4 5 6 3) [(5, 7)] 4 = some (0xFFFFFFFF, flagDZ) := by decide +kernel
/-- R194: the most negative number by −1; the remainder has the sign of the dividend, and by zero is the dividend. -/
theorem test_rem : result (.div 4 5 6 0) [(5, 0x8000000000000000), (6, -1)] 4 = some (0x8000000000000000, 0)
    ∧ result (.rem 4 5 6 0) [(5, -7), (6, 2)] 4 = some (-1, 0) ∧ result (.rem 4 5 6 2) [(5, -7)] 4 = some (-7, flagDZ) := by decide +kernel
/-- R195: −1 is the least as s64 and the greatest as n64. -/
theorem test_min_max : result (.minTl2 4 5 6 0) [(5, -1), (6, 1)] 4 = some (-1, 0) ∧ result (.maxTl4 4 5 1 1) [(5, -1)] 4 = some (-1, 0)
    ∧ result (.maxTl2 4 5 6 0) [(5, -1), (6, 1)] 4 = some (1, 0) ∧ result (.minTl4 4 5 1 1) [(5, -1)] 4 = some (1, 0) := by decide +kernel
/-- R196: counts at w and of zero, and the reversals. -/
theorem test_bit_operations : result (.clz 4 5 5) [(5, 1)] 4 = some (31, 0) ∧ result (.clz 4 5 5) [] 4 = some (32, 0) ∧ result (.ctz 4 5 7) [(5, 8)] 4 = some (3, 0)
    ∧ result (.popc 4 5 5) [(5, 0xF0000000F)] 4 = some (4, 0) ∧ result (.brev 4 5 4) [(5, 1)] 4 = some (0xFFFFFFFF80000000, 0)
    ∧ result (.bswap 4 5 3) [(5, 0x1234)] 4 = some (0x3412, 0) := by decide +kernel
/-- R196: 4 bits sign-extended and zero-extended; a width of 0 is the illegal-operand trap. -/
theorem test_extensions : result (.sext 4 5 4) [(5, 0x18)] 4 = some (0xFFFFFFFFFFFFFFF8, 0) ∧ result (.zext 4 5 4) [(5, 0x18)] 4 = some (8, 0)
    ∧ (after (.sext 4 5 0) (machine (strandWith []))).map (·.cause) = some 3 := by decide +kernel
/-- R189, R197: the literals are sign-extended, and a write of g0 is discarded. -/
theorem test_moves : result (.liTl2 4 0xFF) [] 4 = some (-1, 0) ∧ result (.liTl4 4 0x800000) [] 4 = some (-0x800000, 0) ∧ result (.limm 4 7) [] 4 = some (7, 0)
    ∧ result (.mov 4 5) [(5, 9)] 4 = some (9, 0) ∧ result (.limm 0 7) [] 0 = some (0, 0) := by decide +kernel
/-- R198: the 52-bit address wraps under its tag. -/
theorem test_adda : result (.addaHeadOnly 4 5) [(4, 0x854FFFFFFFFFFFFF), (5, 1)] 4 = some (0x8540000000000000, 0) := by decide +kernel
/-- R199, R200: tags, and the manual's example of `EIDX`: e = 75. -/
theorem test_tags : result (.tagTl4 4 5 0x21 5) [(5, 0x1000)] 4 = some (0x8540000000001000, 0) ∧ result (.untag 4 5) [(5, 0x8540000000001000)] 4 = some (0x1000, 0)
    ∧ result (.tagof 4 5) [(5, 0x8540000000001000)] 4 = some (0x215, 0)
    ∧ result (.eidxTl4 4 5 75) [(5, 0x8540001234560000)] 4 = some (0x8540001234560031, 0) := by decide +kernel
/-- R201: −1 is less than 1 as s64 and not as n64; the test for a bit; p0 stays 1. -/
theorem test_compares : (after (.cmp 1 5 6 6 2) (machine (strandWith [(5, -1), (6, 1)]))).map (·.getP 1) = some true
    ∧ (after (.cmp 1 5 6 7 2) (machine (strandWith [(5, -1), (6, 1)]))).map (·.getP 1) = some false
    ∧ (after (.cmpiTl2 2 5 7 6 4) (machine (strandWith [(5, 6)]))).map (·.getP 2) = some true
    ∧ (after (.cmpiTl4 0 5 7 1 6) (machine (strandWith [(5, 6)]))).map (·.getP 0) = some true := by decide +kernel
/-- R202: NOT through the table, selection, and the predicate word. -/
theorem test_predicates : (after (.plog 1 0 2 0x3) (machine (strandWith []))).map (·.getP 1) = some false ∧ result (.sel 4 5 6 0 true) [(5, 1), (6, 2)] 4 = some (2, 0)
    ∧ result (.pmovToScalar 4) [] 4 = some (1, 0) ∧ (after (.pmovFromScalar 5) (machine (strandWith [(5, 0x82)]))).map (fun u => (u.getP 0, u.getP 1, u.getP 7))
      = some (true, true, true) := by decide +kernel
/-- R167, R203: one line back, head 1; a branch not taken goes to the next head. -/
theorem test_branches : (after (.br 0xFFFFE1) (machine (strandWith []))).map (·.pc) = some 0xFFFC4 ∧ (after (.bz 4 0x20) (machine (strandWith [(4, 1)]))).map (·.pc) = some 0x100004
    ∧ (after (.bnz 4 0x20) (machine (strandWith [(4, 1)]))).map (·.pc) = some 0x100042 ∧ (after (.bp 0 false 0x20) (machine (strandWith []))).map (·.pc) = some 0x100042
    ∧ (after (.jmpr 4) (machine (strandWith [(4, 0xFFF0000000300002)]))).map (·.pc) = some 0x300002 := by decide +kernel
/-- R190, R203: a call moves g12 to g4 and links in g7; `RET` at depth 0 is the underflow trap. -/
theorem test_calls : (after (.call 0x20) (machine (strandWith [(12, 5)]))).map (fun u => (u.getG 4, u.getG 7, u.getG 12, u.pc, u.wdepth)) = some (5, 0x100004, 0, 0x100042, 1)
    ∧ (after (.callr 4) (machine (strandWith [(4, 0x300002)]))).map (·.pc) = some 0x300002
    ∧ (after .ret (machine (strandWith []))).map (fun u => (u.cause, u.pc, u.inh)) = some (0x0B, 0x200002, true) := by decide +kernel
/-- R207: a body of two heads in this line; a count of 0 skips it. -/
theorem test_loops : (after (.loop 4 1) (machine (strandWith [(4, 3)]))).map (fun u => (u.loops, u.getLc 0)) = some ([{ start := 0x100004, finish := 0x100006 }], 3)
    ∧ (after (.loopi 0 1) (machine (strandWith []))).map (fun u => (u.loops, u.pc)) = some ([], 0x100008) := by decide +kernel
/-- R208: the end head with a count of 2 goes back to the start; `LBRK` leaves the level. -/
theorem test_end_test :
    let st := { strandWith [] with loops := [{ start := 0x100008, finish := 0x100002 }], lc := #v[2, 0, 0] }
    (after .nop (machine st)).map (fun u => (u.pc, u.getLc 0)) = some (0x100008, 1)
      ∧ (after (.lbrk 0 false) (machine { st with loops := [{ start := 0x100002, finish := 0x100006 }] })).map (fun u => (u.pc, u.loops)) = some (0x100008, []) := by
  decide +kernel
/-- R205: `FLUSHW` with nothing to flush; `SETWS` with an unaligned base. -/
theorem test_window_stack : (after .flushw (machine (strandWith []))).map (·.pc) = some 0x100004
    ∧ (after (.setws 4 5) (machine (strandWith [(4, 0x1001)]))).map (·.cause) = some 3
    ∧ (after (.setws 4 5) (machine (strandWith [(4, 0x1000), (5, 2)]))).map (fun u => (u.wsp, u.wdepth)) = some (0x1000, 2) := by decide +kernel
/-- R210, R288: `sr.status` of an S strand, `sr.tvec` without S rights, a number that names nothing. -/
theorem test_special_registers : result (.srd 4 0x09) [] 4 = some (1, 0) ∧ (after (.srd 4 0x06) (machine (strandWith []))).map (·.cause) = some 3
    ∧ (after (.srd 4 0x18) (machine { strandWith [] with priv := false })).map (fun u => (u.cause, u.epc)) = some (4, 0x100002)
    ∧ (after (.swr 4 0x0A) (machine (strandWith [(4, 0xFFFF)]))).map (·.fflags) = some 0x3F := by decide +kernel
/-- R210: `YIELD` sleeps 8 × K8 cycles. -/
theorem test_yield : (after (.yield 2) (machine (strandWith []))).map (·.wait) = some (.yielding 16 []) := by decide +kernel

/-- R217, R220: 1 + 2 and 3 × −2 as f32; a sum that overflows s32 wraps. -/
theorem test_vector_arithmetic : vresult (.vadd { vop with t := 8 }) 0x3F800000 0x40000000 = some (0x40400000, 0)
    ∧ vresult (.vmul { vop with t := 8 }) 0x40400000 0xC0000000 = some (0xC0C00000, 0)
    ∧ vresult (.vadd vop) 0x7FFFFFFF 1 = some (0x80000000, 0) ∧ vresult (.vsub vop) 1 2 = some (0xFFFFFFFF, 0) := by decide +kernel
/-- R220: v4 holds zeros, so the fused rows give the product, and its negative. -/
theorem test_vector_fused : vresult (.vfma vop) 3 5 = some (15, 0) ∧ vresult (.vfms vop) 3 5 = some (15, 0) ∧ vresult (.vfnma vop) 3 5 = some (0xFFFFFFF1, 0) := by
  decide +kernel
/-- R221, R222: minimum as s32 and n32, the shifts, a bitwise row. -/
theorem test_vector_logic : vresult (.vmin vop) 0xFFFFFFFF 1 = some (0xFFFFFFFF, 0) ∧ vresult (.vmin { vop with t := 5 }) 0xFFFFFFFF 1 = some (1, 0)
    ∧ vresult (.vmax vop) 0xFFFFFFFF 1 = some (1, 0) ∧ vresult (.vand vop) 12 10 = some (8, 0) ∧ vresult (.vor vop) 12 10 = some (14, 0)
    ∧ vresult (.vxor vop) 12 10 = some (6, 0) ∧ vresult (.vshl vop) 1 4 = some (16, 0) ∧ vresult (.vshr vop) 0x80000000 4 = some (0x08000000, 0)
    ∧ vresult (.vsar vop) 0x80000000 4 = some (0xF8000000, 0) := by decide +kernel
/-- R97, R101, R226 to R228: 1 / 0 is an infinity with DZ, the root of 4 is 2, −0 negated is +0. -/
theorem test_vector_special : vresult (.vdiv { vop with t := 8 }) 0x3F800000 0 = some (0x7F800000, flagDZ)
    ∧ vresult (.vsqrt { vop with t := 8, vs2 := 0 }) 0x40800000 0 = some (0x40000000, 0)
    ∧ vresult (.vneg { vop with t := 8, vs2 := 0 }) 0x80000000 0 = some (0, 0) ∧ vresult (.vabs { vop with vs2 := 0 }) 0xFFFFFFFE 0 = some (2, 0) := by
  decide +kernel

/-- The queue of core 0 after an instruction: the physical address, size, value and kind of its pieces. -/
def issuedBy (i : Instr) (l : List (BitVec 4 × Word)) : Option (List (Nat × Nat × Nat × AccessKind)) :=
  match exec i (machine (strandWith l)) with
  | .next t => some ((t.coreAt 0).queue.flatMap fun a => a.pieces.map fun p => (p.pa, p.bytes, p.val, a.kind))
  | _ => none

/-- R139, R238, R242: `st g9, [g4 + 16]` as s64, and an unaligned n16 as two bytes. -/
theorem test_store_issues : issuedBy (.st { mop with off := 2 }) [(4, 0x100100), (9, 7)] = some [(0x100110, 8, 7, .store)]
    ∧ issuedBy (.st { mop with t := 3 }) [(4, 0x100101), (9, 0x1234)] = some [(0x100101, 1, 0x34, .store), (0x100102, 1, 0x12, .store)] := by decide +kernel
/-- R239, R242, R305: a load issues; an unaligned ordered load is the misaligned trap; an unmapped page is a page fault that carries its access kind. -/
theorem test_load_issues : issuedBy (.ld mop) [(4, 0x100100)] = some [(0x100100, 8, 0, .load)]
    ∧ (after (.ld { mop with ord := 1 }) (machine (strandWith [(4, 0x100101)]))).map (fun u => (u.cause, u.tval)) = some (0x205, 0x100101)
    ∧ (after (.ld mop) (machine (strandWith [(4, 0x900000)]))).map (fun u => (u.cause, u.tval)) = some (0x206, 0x900000) := by decide +kernel
/-- R247: `AADD` issues one access that carries its operand. -/
theorem test_atomic_issues : issuedBy (.aadd mop) [(4, 0x100100), (9, 7)] = some [(0x100100, 8, 0, .atomic .add 7 0)] := by decide +kernel
/-- R242: local store from offset 0 to LOCAL × 4 KiB − 1. -/
theorem test_local_store : (after (.ldl mop) (machine (strandWith [(4, 0xFF8)]))).map (·.cause) = some 0
    ∧ (after (.ldl mop) (machine (strandWith [(4, 0xFF9)]))).map (fun u => (u.cause, u.tval)) = some (0x20A, 0xFF9) := by decide +kernel
/-- R141, R248: a fence waits for the strand's store. -/
theorem test_fence : (after (.fence { mop with a := 0, dst := 0, t := 0, ord := 2, scope := 2 }) (machine (strandWith []))).map (·.pc) = some 0x100004 := by
  decide +kernel
/-- R40, R253: an index that nobody has claimed is the barrier trap. -/
theorem test_barrier_trap : (after (.bara { mop with a := 0, t := 0, off := 3, scope := 3 }) (machine (strandWith []))).map (fun u => (u.cause, u.tval))
    = some (0x0D, 0x30003) := by decide +kernel
/-- R268: a grant is clamped to 128 × 128 and K to a multiple of 8. -/
theorem test_shape : (after (.shape { eop with e := 0 }) (machine (strandWith [(4, 200), (5, 16), (6, 9)]))).map (·.shape) = some 0xC0100F7F := by decide +kernel
/-- R295, R296, R297: the software trap, the return from it, and the end of a strand. -/
theorem test_traps : (after (.trap { eop with a := 0, b := 0, c := 0, e := 0, x := 0x42 }) (machine (strandWith []))).map
      (fun u => (u.cause, u.tval, u.epc, u.pc, u.inh)) = some (0x0F, 0x42, 0x100004, 0x200002, true)
    ∧ (after (.eret { eop with a := 0, b := 0, c := 0, e := 0 }) (machine { strandWith [] with inh := true, epc := 0x300002 })).map (fun u => (u.pc, u.inh))
      = some (0x300002, false)
    ∧ (after (.exit { eop with a := 0, b := 0, c := 0, e := 0 }) (machine (strandWith []))) = none := by decide +kernel
/-- R119, R289: `LAUNCH` whose record the quad's L2 does not hold asks for the line and stays where it is; read from the scratchpad and posted to a queue that is not
enabled it gives bit 63 and code 1. -/
theorem test_launch : result (.launch { eop with c := 0, d := 9, e := 0 }) [(4, 0x100100), (5, 3)] 9 = some (0, 0)
    ∧ (after (.launch { eop with c := 0, d := 9, e := 0 }) (scratchMachine (strandWith [(4, 0x100100), (5, 3)]))).map (fun u => (u.getG 9, u.pc))
      = some (0x8000000000000001, 0x100004) := by decide +kernel

/-- R59, R165: the step after reset with an instruction placed runs it and lets one cycle pass. -/
theorem test_step_runs_placed : (match step (State.reset.withFetchWord 32 0x3D4000FF) with
    | .next t => (t.strandAt 0).map fun u => (u.getG 4, u.pc, t.time)
    | _ => none) = some (0xFFFFFFFFFFFFFFFF, 0x100042, 1) := by decide +kernel

/-! ### States that meet the hypotheses of the statements -/

theorem focusOf {s : State} {st : Strand} (h : s.strandAt s.cur = some st) (w : st.wait = .ready)
    (q : (s.coreAt (coreOf s.cur)).queue = []) (gs : List (BitVec 4)) (vs : List (BitVec 5)) : Focus s st gs vs :=
  ⟨h, w, by simp [State.busyG, State.pending, q], by simp [State.busyV, State.pending, q]⟩

theorem focusMachine (st : Strand) (w : st.wait = .ready) (gs : List (BitVec 4)) (vs : List (BitVec 5)) : Focus (machine st) st gs vs :=
  focusOf rfl w rfl gs vs

theorem focusScratch (st : Strand) (w : st.wait = .ready) (gs : List (BitVec 4)) (vs : List (BitVec 5)) : Focus (scratchMachine st) st gs vs :=
  focusOf rfl w rfl gs vs

theorem notFatal {st : Strand} (h : (st.inh == false && st.tvec != 0) = true) : NotFatal st := by
  simpa [NotFatal] using h

/-- What a walk over heads answers. -/
def walks (r : Except FetchStop (Nat × Nat × State)) (fin aft : Nat) : Bool :=
  match r with
  | .ok x => x.1 == fin && x.2.1 == aft
  | .error _ => false

theorem walkOf {r : Except FetchStop (Nat × Nat × State)} {fin aft : Nat} (h : walks r fin aft = true) : ∃ s1, r = .ok (fin, aft, s1) := by
  cases r with
  | ok x =>
    obtain ⟨a, b, c⟩ := x
    simp only [walks, Bool.and_eq_true, beq_iff_eq] at h
    exact ⟨c, by rw [h.1, h.2]⟩
  | error e => simp [walks] at h

def reaches (r : Except FetchStop (Nat × State)) (aft : Nat) : Bool :=
  match r with
  | .ok x => x.1 == aft
  | .error _ => false

theorem reachOf {r : Except FetchStop (Nat × State)} {aft : Nat} (h : reaches r aft = true) : ∃ s1, r = .ok (aft, s1) := by
  cases r with
  | ok x =>
    obtain ⟨a, c⟩ := x
    simp only [reaches, beq_iff_eq] at h
    exact ⟨c, by rw [h]⟩
  | error e => simp [reaches] at h

/-- A strand of 32 vector registers whose traps are not fatal, for the statements that ask for no more than an instruction that is well formed and a
strand in focus. -/
theorem witness_focus : ∃ s st, NotFatal st ∧ ∀ gs vs, Focus s st gs vs :=
  ⟨machine (strandWith []), strandWith [], notFatal (by decide +kernel), focusMachine _ rfl⟩

/-- Every form of the two-source instructions, at an end of each field. -/
theorem witness_SumsShiftsProductsAndQuotients : ∃ s st, (∀ gs vs, Focus s st gs vs) ∧
    (∀ mk ∈ [Instr.addTl2, .subTl2, .mulTl2, .shlTl2], ∀ o ∈ [{ op2 with ty := 3, sat := true, k8 := 255 }, { op2 with imm := false, c := 15, k8 := 0 }], (mk o).wf = true)
    ∧ (∀ mk ∈ [Instr.shrTl2, .sarTl2, .rolTl2], ∀ o ∈ [{ op2 with ty := 3, k8 := 255 }, { op2 with imm := false, c := 15, k8 := 0 }], (mk o).wf = true)
    ∧ (∀ mk ∈ [Instr.addTl4, .subTl4, .mulTl4, .shlTl4], (mk { op4 with ty := 3, sat := true, i24 := 0x800000 }).wf = true)
    ∧ ∀ mk ∈ [Instr.shrTl4, .sarTl4, .rolTl4], (mk { op4 with ty := 3 }).wf = true :=
  ⟨machine (strandWith []), strandWith [], focusMachine _ rfl, by decide, by decide, by decide, by decide⟩

theorem witness_LogicAndBitOperations : ∃ s st, (∀ gs vs, Focus s st gs vs) ∧ NotFatal st ∧
    (∀ mk ∈ [Instr.andTl2, .orTl2, .xorTl2, .addaTl2], (mk op2).wf = true) ∧ ∀ mk ∈ [Instr.andTl4, .orTl4, .xorTl4, .addaTl4], (mk op4).wf = true :=
  ⟨machine (strandWith []), strandWith [], focusMachine _ rfl, notFatal (by decide +kernel), by decide, by decide⟩

/-- A compare with a comparison that exists and with the two that do not, on predicates at an end of their range. -/
theorem witness_ComparesAndPredicates : ∃ s st, (∀ gs vs, Focus s st gs vs) ∧ NotFatal st ∧ (Instr.cmp 7 15 15 7 7).wf = true ∧ (Instr.cmpiTl2 0 5 5 0 255).wf = true
    ∧ (Instr.plog 7 7 7 15).wf = true ∧ (Instr.sel 15 15 15 7 true).wf = true :=
  ⟨machine (strandWith []), strandWith [], focusMachine _ rfl, notFatal (by decide +kernel), by decide, by decide, by decide, by decide⟩

/-- `EIDX` on a plain pointer, on a group pointer, and on each of the five bad tags. -/
theorem witness_MovesTagsAndElementIndexing :
    (∃ s st, (∀ gs vs, Focus s st gs vs) ∧ ¬BadTag (st.getG 4) ∧ ¬BadTag (st.getG 5) ∧ fmtOfPtr (st.getG 5) = 33)
    ∧ ∃ s st, (∀ gs vs, Focus s st gs vs) ∧ NotFatal st ∧ ∀ r ∈ [4#4, 5, 6, 7, 8], BadTag (st.getG r) := by
  refine ⟨⟨machine (strandWith [(4, 0x1000), (5, 0x8540001234560000)]), _, focusMachine _ rfl, ?_, ?_, ?_⟩,
    machine (strandWith [(4, 0x4400000000000000), (5, 0x8400000000000000), (6, 0x0040000000000000), (7, 0x0010000000000000), (8, 0x8540000000000002)]), _,
    focusMachine _ rfl, ?_, ?_⟩
  · unfold BadTag fmtOfPtr blogOfPtr vaOfPtr; decide +kernel
  · unfold BadTag fmtOfPtr blogOfPtr vaOfPtr; decide +kernel
  · decide +kernel
  · exact notFatal (by decide +kernel)
  · unfold BadTag fmtOfPtr blogOfPtr vaOfPtr; decide +kernel

/-- `BP`, `BZ` and `BNZ` taken and not taken. -/
theorem witness_BranchesAndJumps : ∃ s st, (∀ gs vs, Focus s st gs vs) ∧ (st.getP 0 ^^ false) = true ∧ (st.getP 1 ^^ false) = false ∧ st.getG 4 = 0 ∧ st.getG 5 ≠ 0 :=
  ⟨machine (strandWith [(5, 1)]), _, focusMachine _ rfl, by decide +kernel, by decide +kernel, by decide +kernel, by decide +kernel⟩

/-- A strand with two frames in the register file, and one in local store, at window depth 2. -/
def deep : Strand := { strandWith [] with rf := [1, 2], ls := [3], wdepth := 2 }

theorem witness_CallsAndReturns :
    (∃ s st, (∀ gs vs, Focus s st gs vs) ∧ st.rf.length < 3 ∧ st.wdepth ≠ 0 ∧ st.rf = [1] ++ [2])
    ∧ (∃ s st, (∀ gs vs, Focus s st gs vs) ∧ st.wdepth = 0 ∧ NotFatal st)
    ∧ ∃ s st t u, (∀ gs vs, Focus s st gs vs) ∧ st.rf.length < 3 ∧ st.wdepth ≠ BitVec.allOnes 64 ∧ exec (.call 0x20) s = .next t ∧ t.strandAt t.cur = some u := by
  refine ⟨⟨machine deep, _, focusMachine _ rfl, by decide +kernel, by decide +kernel, rfl⟩,
    ⟨machine (strandWith []), _, focusMachine _ rfl, by decide +kernel, notFatal (by decide +kernel)⟩, ?_⟩
  have h : (match exec (.call 0x20) (machine deep) with | .next t => (t.strandAt t.cur).isSome | _ => false) = true := by decide +kernel
  split at h
  next t ht =>
    obtain ⟨u, hu⟩ := Option.isSome_iff_exists.mp h
    exact ⟨machine deep, deep, t, u, focusMachine _ rfl, by decide +kernel, by decide +kernel, ht, hu⟩
  next => cases h

/-- What a frame's store or a plain load of blocks answers. -/
def isOk : FrameResult → Strand → Bool
  | .ok _ st _, u => decide (st = u)
  | _, _ => false

theorem okOf {r : FrameResult} {u : Strand} (h : isOk r u = true) : ∃ s1 v, r = .ok s1 u v := by
  cases r with
  | ok s1 st v => simp only [isOk, decide_eq_true_eq] at h; exact ⟨s1, v, by rw [h]⟩
  | _ => simp [isOk] at h

def isFlushed : FrameResult → Bool
  | .ok _ _ _ => true
  | _ => false

theorem flushedOf {r : FrameResult} (h : isFlushed r = true) : ∃ s1 st1 v, r = .ok s1 st1 v := by
  cases r with
  | ok s1 st v => exact ⟨s1, st, v, rfl⟩
  | _ => simp [isFlushed] at h

def flushing : Strand := { strandWith [] with rf := [5], wdepth := 1, wsp := 0x100400 }

theorem witness_WindowFrames :
    (∃ s st, (∀ gs vs, Focus s st gs vs) ∧ ¬(st.rf.length < 3) ∧ st.ls.length < 64)
    ∧ (∃ (s : State) (st : Strand), s.strandAt 0 = some st ∧ st.rf.length < 3 ∧ st.ls = [] ++ [3] ∧ st.rf = 1 :: [2])
    ∧ (∃ s st, (∀ gs vs, Focus s st gs vs) ∧ st.rf = [] ∧ st.ls = [])
    ∧ (∃ s st s1 st1 v pa e, (∀ gs vs, Focus s st gs vs) ∧ st.rf = [5] ∧ st.ls = [] ∧ s.flushFrames s.cur 67 st = .ok s1 st1 v
      ∧ s.physOf (s.ctxOf s.cur st) (st.wsp.toNat % 2 ^ 52) .write = .ok (pa, e) ∧ PlainStore s pa (s.keyOfAsid (s.asidOf st)))
    ∧ (∃ s st, (∀ gs vs, Focus s st gs vs) ∧ (st.getG 4).toNat % 64 = 0 ∧ st.rf = [] ∧ st.ls = [] ∧ (st.getG 5).toNat % 64 ≠ 0 ∧ NotFatal st) := by
  refine ⟨⟨machine { deep with rf := [1, 2, 3] }, _, focusMachine _ rfl, by decide, by decide⟩, ⟨machine deep, _, rfl, by decide, rfl, rfl⟩,
    ⟨machine (strandWith []), _, focusMachine _ rfl, by decide +kernel, by decide +kernel⟩, ?_,
    machine (strandWith [(4, 0x1000), (5, 0x1001)]), _, focusMachine _ rfl, by decide +kernel, by decide +kernel, by decide +kernel, by decide +kernel, notFatal (by decide +kernel)⟩
  obtain ⟨s1, st1, v, h⟩ := flushedOf (r := (scratchMachine flushing).flushFrames 0 67 flushing) (by decide +kernel)
  refine ⟨scratchMachine flushing, flushing, s1, st1, v, 0x8000000100400, { asid := 0, level := 2, page := 16, entry := scratchLeaf }, focusScratch _ rfl, rfl, rfl, h, ?_, ?_⟩
  · decide +kernel
  · unfold PlainStore; decide +kernel

def looping : Strand := { strandWith [(4, 3)] with loops := [{ start := 0x100002, finish := 0x100008 }], lc := #v[2, 0, 0] }

theorem witness_HardwareLoops :
    (∃ s st fin aft s1, (∀ gs vs, Focus s st gs vs) ∧ s.walkHeads s.cur st 2 st.nextHead.toNat = .ok (fin, aft, s1) ∧ st.getG 5 = 0 ∧ st.getG 4 ≠ 0
      ∧ st.loops.length < 3 ∧ (∀ l ∈ st.loops, l.finish ≠ st.pc) ∧ BitVec.ofNat 52 fin ≠ st.pc)
    ∧ (∃ s st, (∀ gs vs, Focus s st gs vs) ∧ NotFatal st ∧ st.getG 4 ≠ 0 ∧ 3 ≤ st.loops.length)
    ∧ (∃ (s : State) (st : Strand) (a : VAddr) (l : Line), st.fetch = some (a, l) ∧ a.toNat = st.pc.toNat / 64 * 64 ∧ (checkLine l).isOk = true
      ∧ 1 + 3 < lineHeadCount l ∧ a.toNat + 64 < 2 ^ 52 ∧ s.strandAt 0 = some st)
    ∧ (∃ s st l, (∀ gs vs, Focus s st gs vs) ∧ st.loops = [] ++ [l] ∧ l.finish = st.pc ∧ 1 < (st.getLc 0).toNat)
    ∧ (∃ s st l, (∀ gs vs, Focus s st gs vs) ∧ st.loops = [] ++ [l] ∧ l.finish = st.pc ∧ (st.getLc 0).toNat ≤ 1)
    ∧ ∃ s st l aft s1, (∀ gs vs, Focus s st gs vs) ∧ st.loops = [] ++ [l] ∧ (st.getP 0 ^^ false) = true ∧ l.finish ≠ st.pc
      ∧ s.headAfterAt s.cur st l.finish = .ok (aft, s1) := by
  obtain ⟨s1, h1⟩ := walkOf (r := (machine (strandWith [(4, 3)])).walkHeads 0 (strandWith [(4, 3)]) 2 (strandWith [(4, 3)]).nextHead.toNat)
    (fin := 0x100006) (aft := 0x100008) (by decide +kernel)
  obtain ⟨s2, h2⟩ := reachOf (r := (machine looping).headAfterAt 0 looping 0x100008) (aft := 0x10000A) (by decide +kernel)
  refine ⟨⟨machine (strandWith [(4, 3)]), _, 0x100006, 0x100008, s1, focusMachine _ rfl, h1, by decide +kernel, by decide +kernel, by decide +kernel, by decide +kernel,
      by decide +kernel⟩,
    ⟨machine { looping with loops := looping.loops ++ looping.loops ++ looping.loops }, _, focusMachine _ rfl, notFatal (by decide +kernel), by decide +kernel, by decide +kernel⟩,
    ⟨machine (strandWith []), strandWith [], 0x100000, 0x2800, rfl, by decide +kernel, by decide +kernel, by decide +kernel, by decide +kernel, rfl⟩,
    ⟨machine { looping with loops := [{ start := 0x100008, finish := 0x100002 }] }, _, _, focusMachine _ rfl, rfl, by decide +kernel, by decide +kernel⟩,
    ⟨machine { looping with loops := [{ start := 0x100008, finish := 0x100002 }], lc := #v[1, 0, 0] }, _, _, focusMachine _ rfl, rfl, by decide +kernel, by decide +kernel⟩,
    machine looping, looping, _, 0x10000A, s2, focusMachine _ rfl, rfl, by decide +kernel, by decide +kernel, h2⟩

theorem witness_SpecialRegistersAndYield :
    (∃ s st, (∀ gs vs, Focus s st gs vs) ∧ NotFatal st ∧ s.drained s.cur = true ∧ (st.priv = true ∨ st.inh = true))
    ∧ (∃ s st, (∀ gs vs, Focus s st gs vs) ∧ NotFatal st ∧ st.priv = false)
    ∧ ∃ (s : State) (st : Strand) (t : Nat), s.strandAt 0 = some st ∧ st.wait = .yielding t [] :=
  ⟨⟨machine (strandWith []), _, focusMachine _ rfl, notFatal (by decide +kernel), by decide +kernel, Or.inl rfl⟩,
    ⟨machine { strandWith [] with priv := false }, _, focusMachine _ rfl, notFatal (by decide +kernel), rfl⟩,
    machine { strandWith [] with wait := .yielding 16 [] }, _, 16, rfl, rfl⟩

/-! Vector operands that the instructions of a shape accept, at the ends of their lists; every one is met by the strand of `witness_focus`. -/

def vImm : VecOps := { vop with src := 2, vs2 := 0, ext := some { ext0 with i20 := 0x80000 } }
def vReg : VecOps := { vop with src := 1, vs2 := 0, b := 15 }
def v1 : VecOps := { vop with vs2 := 0 }

/-- The strand accepts the operands, and the instruction is well formed. -/
def AllAccept (mks : List (VecOps → Instr)) (os : List VecOps) (types src : List Nat) (regs : VecOps → List (BitVec 5)) : Prop :=
  ∀ mk ∈ mks, ∀ o ∈ os, (mk o).wf = true ∧ Accepted o (strandWith []) types src (regs o)

def acceptAll (mks : List (VecOps → Instr)) (os : List VecOps) (types src : List Nat) (regs : VecOps → List (BitVec 5)) : Bool :=
  mks.all fun mk => os.all fun o => (mk o).wf && types.contains o.tn && src.contains o.src.toNat && !(o.src == 2 && typeFloat o.tn) && decide (o.rnd < 6)
    && (regs o).all fun r => decide (r.toNat < (strandWith []).vcount)

theorem accepted {mks : List (VecOps → Instr)} {os : List VecOps} {types src : List Nat} {regs : VecOps → List (BitVec 5)}
    (h : acceptAll mks os types src regs = true) : AllAccept mks os types src regs := by
  intro mk hm o ho
  have := List.all_eq_true.mp (List.all_eq_true.mp h mk hm) o ho
  simp only [Bool.and_eq_true, List.contains_iff_mem, Bool.not_eq_true', decide_eq_true_eq, List.all_eq_true] at this
  obtain ⟨⟨⟨⟨⟨a, b⟩, c⟩, d⟩, e⟩, f⟩ := this
  refine ⟨a, b, c, ?_, e, f⟩
  rintro ⟨x, y⟩
  simp [x, y] at d

theorem witness_VectorIntegerArithmetic :
    AllAccept [.vadd, .vsub, .vmul, .vshl] [vop, { vop with t := 0, vd := 31 }, { vop with t := 7 }, vReg, vImm] INT [0, 1, 2] elemRegs
    ∧ AllAccept [.vfma, .vfms, .vfnma] [vop, { vop with t := 7, ext := some { ext0 with vs3 := 31, sat := true } }, vReg] INT [0, 1] (fun o => thirdReg o :: elemRegs o)
    ∧ AllAccept [.vabs, .vneg] [v1, { v1 with t := 0 }, { v1 with t := 7 }] INT [0] elemRegs :=
  ⟨accepted (by decide +kernel), accepted (by decide +kernel), accepted (by decide +kernel)⟩

theorem witness_VectorFloatingPointRows :
    AllAccept [.vadd, .vsub, .vmul, .vdiv, .vrcps, .vrsqs] [{ vop with t := 8 }, { vReg with t := 10 }, { vop with t := 8, ext := some { ext0 with rnd := 5 } }] FLT [0, 1] elemRegs
    ∧ AllAccept [.vadd, .vsub, .vmul] [{ vop with t := 9 }] FLT [0, 1, 2] elemRegs
    ∧ AllAccept [.vfma, .vfms, .vfnma] [{ vop with t := 8 }, { vop with t := 10, ext := some { ext0 with vs3 := 31, sat := true, rnd := 5 } }] FLT [0, 1]
      (fun o => thirdReg o :: elemRegs o)
    ∧ AllAccept [.vsqrt, .vrcp, .vrsq, .vexp2, .vlog2, .vtanh] [{ v1 with t := 8 }, { v1 with t := 10 }] FLT [0] elemRegs :=
  ⟨accepted (by decide +kernel), accepted (by decide +kernel), accepted (by decide +kernel), accepted (by decide +kernel)⟩

theorem witness_VectorLogicOrderAndMovement :
    AllAccept [.vand, .vor, .vxor] [vop, { vop with t := 15 }, vReg, vImm] ANY [0, 1, 2] elemRegs
    ∧ AllAccept [.vshr, .vsar] [{ vop with t := 0 }, { vop with t := 7 }, vReg, vImm] INT [0, 1, 2] elemRegs
    ∧ AllAccept [.vabs, .vneg] [{ v1 with t := 8 }, { v1 with t := 10 }] FLT [0] elemRegs
    ∧ AllAccept [.vmin, .vmax, .vminn, .vmaxn] [vop, { vop with t := 10 }, vReg, vImm] NUM [0, 1, 2] elemRegs
    ∧ AllAccept [.viota] [{ v1 with vs1 := 7 }] INT [0] (fun o => [o.vd])
    ∧ AllAccept [.vbcast] [{ vReg with vs1 := 0 }, { vImm with vs1 := 0, t := 15 }] ANY [1, 2] (fun o => [o.vd])
    ∧ AllAccept [.vslide] [vReg, vImm] ANY [1, 2] (fun o => [o.vd, o.vs1])
    ∧ AllAccept [.vperm] [vop, { vop with t := 0, ext := some { ext0 with vs3 := 31 } }] ANY [0]
      (fun o => o.vd :: (if o.vs3 = 0 then [o.vs1] else [o.vs1, BitVec.ofNat 5 o.vs3]) ++ [o.vs2, o.vs2 + 1])
    ∧ 6 % 2 = 0 :=
  ⟨accepted (by decide +kernel), accepted (by decide +kernel), accepted (by decide +kernel), accepted (by decide +kernel), accepted (by decide +kernel), accepted (by decide +kernel), accepted (by decide +kernel), accepted (by decide +kernel), by decide⟩

theorem witness_ConversionAndWidening :
    AllAccept [.vcvt] [{ v1 with vs1 := 8, t := 4, x := 6 }, { v1 with vs1 := 8, t := 6, x := 0 }, { v1 with vd := 8, t := 0, x := 6 }] ANY [0, 1]
      (fun o => groupOf o.vd (if o.x = 6 then (if o.t = 0 then 8 else 2) else 1) ++ groupOf o.vs1 (if o.x = 0 then 8 else 1))
    ∧ AllAccept [.vwadd, .vwmul, .vwmacc] [{ vop with t := 0 }, { vop with t := 5 }, { vReg with t := 4 }, { vImm with t := 4 }] [0, 1, 2, 3, 4, 5] [0, 1, 2]
      (fun o => groupOf o.vd 2 ++ [o.vs1] ++ if o.src = 0 then [o.vs2] else [])
    ∧ AllAccept [.vwadd, .vwmul, .vwmacc] [{ vop with t := 9 }, { vop with t := 10 }] [9, 10] [0, 1, 2]
      (fun o => groupOf o.vd 2 ++ [o.vs1] ++ if o.src = 0 then [o.vs2] else [])
    ∧ AllAccept [.vdot4] [{ vop with t := 0 }, { vop with t := 3 }, { vop with t := 14 }, { vop with t := 15 }, { vReg with t := 1 }, { vImm with t := 2 }] ANY [0, 1, 2] elemRegs
    ∧ AllAccept [.vdot4] [{ vop with t := 11 }, { vReg with t := 12 }, { vop with t := 12, ext := some { ext0 with sat := true, rnd := 5 } }] [11, 12] [0, 1] elemRegs
    ∧ vop.vd.toNat % 2 = 0 :=
  ⟨accepted (by decide +kernel), accepted (by decide +kernel), accepted (by decide +kernel), accepted (by decide +kernel), accepted (by decide +kernel), by decide⟩

/-- The least s8, the greatest n64, and −2 in e5m2 are values of their types. -/
theorem witness_ExtremesAndExactValues : (0 ∈ INT ∧ 0x80 < 2 ^ typeBits 0) ∧ (7 ∈ INT ∧ 2 ^ 64 - 1 < 2 ^ typeBits 7)
    ∧ (12 ∈ [8, 9, 10, 11, 12] ∧ 0xC0 < 2 ^ typeBits 12 ∧ (decodeFloat 0xC0 12).isNan = false ∧ 5 < 6) := by decide +kernel

theorem witness_ReductionsAndScan :
    AllAccept [.vredsum, .vredmax, .vredmin, .vscan] [vop, { vop with t := 0 }, { vop with t := 7 }, vReg, vImm] INT [0, 1, 2] elemRegs
    ∧ AllAccept [.vscan] [{ vop with x := 4 }] INT [0, 1, 2] elemRegs
    ∧ AllAccept [.vredsum, .vredmax, .vredmin, .vscan] [{ vop with t := 10 }, { vReg with t := 8 }] NUM [0, 1, 2] elemRegs
    ∧ vop.sat = false ∧ vop.x.extractLsb' 0 2 = 0#2 ∧ (4#4).extractLsb' 0 2 = 0#2 ∧ vop.rnd ≠ 5 :=
  ⟨accepted (by decide +kernel), accepted (by decide +kernel), accepted (by decide +kernel), by decide, by decide, by decide, by decide⟩

theorem witness_MasksCompressionAndMoves :
    AllAccept [.vcmp] [{ vop with x := 7 }, { vop with t := 8, x := 9 }, { vReg with x := 6 }, { vImm with x := 0 }] NUM [0, 1, 2]
      (fun o => [o.vs1] ++ if o.src = 0 then [o.vs2] else [])
    ∧ AllAccept [.vsel] [vop, { vop with t := 15 }, vReg, vImm] ANY [0, 1, 2] elemRegs
    ∧ AllAccept [.mlog] [{ vop with t := 0, vd := 1, vs1 := 7, vs2 := 7, x := 15 }] ANY [0] (fun _ => [])
    ∧ AllAccept [.vpopm] [{ v1 with vd := 0, vs1 := 7, a := 4 }] ANY [0] (fun _ => [])
    ∧ AllAccept [.vcomp] [{ v1 with a := 4 }] ANY [0] (fun o => [o.vd, o.vs1])
    ∧ AllAccept [.vmovs] [{ vReg with vd := 0, a := 4 }, { vImm with vd := 0, a := 4, t := 15 }] ANY [1, 2] (fun o => [o.vs1])
    ∧ AllAccept [.vmovs] [{ vReg with vs1 := 0, a := 4, x := 1 }] ANY [1, 2] (fun o => [o.vd])
    ∧ AllAccept [.vsisx] [{ vop with a := 4, b := 5 }] INT [0] (fun o => [o.vs1, o.vs2])
    ∧ AllAccept [.vxsum] [{ v1 with ext := some { ext0 with i20 := 8 } }] NUM [0] (fun o => [o.vd, o.vs1]) :=
  ⟨accepted (by decide +kernel), accepted (by decide +kernel), accepted (by decide +kernel), accepted (by decide +kernel), accepted (by decide +kernel), accepted (by decide +kernel), accepted (by decide +kernel), accepted (by decide +kernel), accepted (by decide +kernel)⟩

/-- A type beyond the list, a register beyond an allocation of four, and an immediate with a floating-point type. -/
theorem witness_VectorIllegalOperandsTrap : ∃ s st, (∀ gs vs, Focus s st gs vs) ∧ NotFatal st ∧ 10 < ({ vop with t := 11 } : VecOps).tn ∧ st.vcount ≤ vop.vd.toNat
    ∧ ({ vImm with t := 8 } : VecOps).src = 2 ∧ typeFloat ({ vImm with t := 8 } : VecOps).tn = true :=
  ⟨machine { strandWith [] with vcount := 4 }, _, focusMachine _ rfl, notFatal (by decide +kernel), by decide, by decide, rfl, by decide⟩

/-! Accesses -/

/-- The pieces where every page is mapped to itself. -/
def same (ps : List PrePiece) : List Piece :=
  ps.map fun p => { elem := p.elem, pa := p.va, bytes := p.bytes, val := p.val, nib := p.nib, done := false, refused := false }

def placedSame (s : State) (c : Ctx) (r : Right) (ctl : Bool) (ps : List PrePiece) : Bool :=
  ps.all fun p => match s.translate c p.va r with
    | .ok e => decide (s.physical c (leafPa e.level e.entry.toNat p.va) (r == .write || r == .readWrite) = some p.va)
      && (!isControl p.va || (ctl && (p.bytes == 4 || p.bytes == 8)))
    | .error _ => false

theorem placedOf {s : State} {c : Ctx} {r : Right} {ctl : Bool} : ∀ {ps : List PrePiece}, placedSame s c r ctl ps = true → Placed s c r ctl ps (same ps)
  | [], _ => .nil
  | p :: ps, h => by
    simp only [placedSame, List.all_cons, Bool.and_eq_true] at h
    refine .cons ?_ (placedOf h.2)
    have h1 := h.1
    split at h1
    next e he =>
      simp only [Bool.and_eq_true, decide_eq_true_eq, Bool.or_eq_true, Bool.not_eq_true', beq_iff_eq] at h1
      refine ⟨e, he, h1.1, ?_, rfl, rfl, rfl, rfl, rfl, rfl, rfl⟩
      intro hc
      rcases h1.2 with h2 | h2
      · simp [h2] at hc
      · exact h2
    next => cases h1

/-- The access may issue: its pieces are placed, it does not move the strand, and no inbox refuses it. -/
def Issuable (s : State) (st : Strand) (kind : AccessKind) (r : Right) (ctl : Bool) (ps : List PrePiece) (post : List Piece → List Piece) : Prop :=
  ∃ qs, Placed s (s.ctxOf s.cur st) r ctl ps qs ∧ Stays s st qs ∧ s.storesRefused (coreOf s.cur) kind (post qs) = false

theorem issuableOf {s : State} {st : Strand} {kind : AccessKind} {r : Right} {ctl : Bool} {ps : List PrePiece} {post : List Piece → List Piece}
    (h : (placedSame s (s.ctxOf s.cur st) r ctl ps && !st.eligible && !s.storesRefused (coreOf s.cur) kind (post (same ps))) = true) :
    Issuable s st kind r ctl ps post := by
  simp only [Bool.and_eq_true, Bool.not_eq_true'] at h
  exact ⟨same ps, placedOf h.1.1, Or.inl h.1.2, h.2⟩

theorem legalOf {o : MemOps} {types ords : List Nat} {lease : Bool}
    (h : (types.contains o.tn && ords.contains o.ord.toNat && (o.lease == 0 || (lease && o.ord == 0)) && decide (o.scope.toNat < 6)
      && (o.ord != 0 || o.scope == 0) && (typeBits o.tn != 4 || o.off.toNat % 2 == 0)) = true) : MemLegal o types ords lease := by
  simp only [Bool.and_eq_true, List.contains_iff_mem, Bool.or_eq_true, beq_iff_eq, bne_iff_ne, decide_eq_true_eq] at h
  obtain ⟨⟨⟨⟨⟨a, b⟩, c⟩, d⟩, e⟩, f⟩ := h
  exact ⟨a, b, c, ⟨d, fun x => e.resolve_left (by simp [x])⟩, fun x => f.resolve_left (by simp [x])⟩

/-- Registers for accesses: a base in the mapped page, a value, a stride, and a bound. -/
def base4 : Strand := strandWith [(4, 0x100100), (5, 0x100101), (6, 0x900000), (9, 7), (10, 16), (11, 64), (12, 0x8000000000100100), (13, 0x1000000000100100), (14, 0x0040000000100100)]

theorem witness_ScalarAccessesIssue : ∃ (s : State) (st : Strand), (∀ gs vs, Focus s st gs vs)
    ∧ (∀ o ∈ [mop, { mop with a := 5, t := 3, lease := 7 }, { mop with ord := 1, scope := 5 }], MemLegal o [0, 1, 2, 3, 4, 5, 6, 7] [0, 1, 4] true
      ∧ (o.ord = 0 ∨ eaOf st o true % (typeBits o.tn / 8) = 0) ∧ Issuable s st .load .read true (elemPieces 0 (eaOf st o true) (typeBits o.tn / 8) 0) id)
    ∧ (∀ o ∈ [mop, { mop with a := 5, t := 3 }, { mop with ord := 4, scope := 5 }], MemLegal o [0, 1, 2, 3, 4, 5, 6, 7] [0, 2, 4] false
      ∧ (o.ord = 0 ∨ eaOf st o true % (typeBits o.tn / 8) = 0)
      ∧ Issuable s st .store .write true (elemPieces 0 (eaOf st o true) (typeBits o.tn / 8) (st.getG (dstG o)).toNat) id)
    ∧ (MemLegal { mop with dst := 0, t := 0, off := 0x80 } [0] [0, 2] false ∧ eaOf st { mop with dst := 0, t := 0, off := 0x80 } true % 128 = 0
      ∧ Issuable s st .store .write false (elemPieces 0 (eaOf st { mop with dst := 0, t := 0, off := 0x80 } true) 128 0)
        (fun qs => qs.flatMap fun q => if isHostMem q.pa || isPeer q.pa then
          (List.range 16).map fun i => { q with elem := i, pa := q.pa + 8 * i, bytes := 8 } else [q])) := by
  refine ⟨machine base4, base4, focusMachine _ rfl, ?_, ?_, legalOf (by decide +kernel), by decide +kernel, issuableOf (by decide +kernel)⟩
  · simp only [List.mem_cons, List.not_mem_nil, or_false, forall_eq_or_imp, forall_eq]
    exact ⟨⟨legalOf (by decide +kernel), by decide +kernel, issuableOf (by decide +kernel)⟩, ⟨legalOf (by decide +kernel), by decide +kernel, issuableOf (by decide +kernel)⟩,
      legalOf (by decide +kernel), by decide +kernel, issuableOf (by decide +kernel)⟩
  · simp only [List.mem_cons, List.not_mem_nil, or_false, forall_eq_or_imp, forall_eq]
    exact ⟨⟨legalOf (by decide +kernel), by decide +kernel, issuableOf (by decide +kernel)⟩, ⟨legalOf (by decide +kernel), by decide +kernel, issuableOf (by decide +kernel)⟩,
      legalOf (by decide +kernel), by decide +kernel, issuableOf (by decide +kernel)⟩

/-- A translation that fails, and what it answers. -/
def fails (r : Except Trap TlbEntry) (code : Nat) : Bool :=
  match r with
  | .ok _ => false
  | .error e => e.code == code

theorem failOf {r : Except Trap TlbEntry} {code : Nat} (h : fails r code = true) : ∃ (e : Trap), r = .error e := by
  cases r with
  | ok e => simp [fails] at h
  | error e => exact ⟨e, rfl⟩

/-- A page mapped to the physical hole above the home dies' windows. -/
def holed : State := { machine base4 with utlb := [(0, [{ asid := 0, level := 2, page := 0x90, entry := 0x000700000000003F }])] }

/-- Misaligned, unmapped, and mapped to an address that the windows refuse. -/
theorem witness_FaultsOfAccessesAreTakenAtIssue :
    (∃ (s : State) (st : Strand), (∀ gs vs, Focus s st gs vs) ∧ NotFatal st
      ∧ (let o := { mop with a := 5, ord := 4 }
        MemLegal o [0, 1, 2, 3, 4, 5, 6, 7] [0, 1, 4] false ∧ MemLegal o [0, 1, 2, 3, 4, 5, 6, 7] [0, 2, 4] false ∧ o.ord ≠ 0 ∧ eaOf st o true % 8 ≠ 0)
      ∧ MemLegal { mop with t := 0 } [0] [0, 2] false ∧ eaOf st { mop with a := 5, t := 0 } true % 128 ≠ 0
      ∧ (let o := { mop with a := 6 }
        MemLegal o [0, 1, 2, 3, 4, 5, 6, 7] [0, 1, 4] true ∧ eaOf st o true % 8 = 0 ∧ (∃ (e : Trap), s.translate (s.ctxOf s.cur st) (eaOf st o true) .read = .error e)
          ∧ s.tlbFind 0 0 (eaOf st o true) = none ∧ s.walk 0 (eaOf st o true) = .error .invalid))
    ∧ ∃ (s : State) (st : Strand) (e : TlbEntry), (∀ gs vs, Focus s st gs vs) ∧ s.translate (s.ctxOf s.cur st) (eaOf st { mop with a := 6 } true) .read = .ok e
      ∧ s.physical (s.ctxOf s.cur st) (leafPa e.level e.entry.toNat (eaOf st { mop with a := 6 } true)) false = none
      ∧ s.translate (s.ctxOf s.cur st) (eaOf st { mop with a := 6 } true) .write = .ok e
      ∧ s.physical (s.ctxOf s.cur st) (leafPa e.level e.entry.toNat (eaOf st { mop with a := 6 } true)) true = none := by
  refine ⟨⟨machine base4, base4, focusMachine _ rfl, notFatal (by decide +kernel), ⟨legalOf (by decide +kernel), legalOf (by decide +kernel), by decide, by decide +kernel⟩,
      legalOf (by decide +kernel), by decide +kernel, legalOf (by decide +kernel), by decide +kernel, failOf (code := 6) (by decide +kernel), by decide +kernel, by decide +kernel⟩,
    holed, base4, { asid := 0, level := 2, page := 0x90, entry := 0x000700000000003F }, focusOf rfl rfl rfl, by decide +kernel, by decide +kernel, by decide +kernel, by decide +kernel⟩

/-- A host holds the line of the address space's root table in O, so that the walk waits. -/
def heldTable : State :=
  { machine base4 with
    utlb := [], mem := (((Memory.writeLe [] 0x400000 16 0x410001).writeLe 0x410000 8 0x420001).writeLe 0x420000 8 0x430001).writeLe 0x430080 8 0x10003F
    hub := { State.reset.hub with launches := [placedLaunch 0 0], atbase := 0x400000 }
    homes := { State.reset.homes with dir := [((0x400000 : Nat) / 512, { DirEntry.reset with lines := #v[.O, .I, .I, .I], ptrs := [(200, 1)] })] } }

theorem witness_FaultsOfAccessesAreTakenAtIssue_HeldWalk : ∃ (s : State) (st : Strand), (∀ gs vs, Focus s st gs vs) ∧ NotFatal st
    ∧ (∃ (e : Machine.Trap), s.translate (s.ctxOf s.cur st) (eaOf st mop true) .read = .error e ∧ e.code = heldWalk)
    ∧ s.tlbFind 0 0 (eaOf st { mop with a := 6 } true) = none ∧ ∃ p, s.walkHeld 0 (eaOf st mop true) = some p := by
  refine ⟨heldTable, base4, focusOf rfl rfl rfl, notFatal (by decide +kernel), ?_, by decide +kernel, 0x400000, by decide +kernel⟩
  have h : (match heldTable.translate (heldTable.ctxOf heldTable.cur base4) (eaOf base4 mop true) .read with | .ok _ => false | .error e => e.code == heldWalk) = true := by decide +kernel
  split at h
  next => cases h
  next e he => exact ⟨e, he, by simpa using h⟩

theorem witness_LocalStoreAccesses : ∃ (s : State) (st : Strand), (∀ gs vs, Focus s st gs vs) ∧ NotFatal st
    ∧ (∀ o ∈ [{ mop with a := 0, off := 0x1FF }, { mop with a := 10, ord := 4, scope := 5 }], MemLegal o [0, 1, 2, 3, 4, 5, 6, 7] [0, 1, 4] false
      ∧ MemLegal o [0, 1, 2, 3, 4, 5, 6, 7] [0, 2, 4] false ∧ (o.ord = 0 ∨ eaOf st o true % 8 = 0) ∧ eaOf st o true + 8 ≤ (st.lslen - 1) * 4096)
    ∧ ((s.coreAt (coreOf s.cur)).queue.all fun a => a.slot != s.cur && !a.kind.touches) = true
    ∧ (st.lslen - 1) * 4096 < eaOf st { mop with a := 0, off := 0x200 } true + 8 := by
  refine ⟨machine base4, base4, focusMachine _ rfl, notFatal (by decide +kernel), ?_, by decide +kernel, by decide +kernel⟩
  simp only [List.mem_cons, List.not_mem_nil, or_false, forall_eq_or_imp, forall_eq]
  exact ⟨⟨legalOf (by decide +kernel), legalOf (by decide +kernel), by decide +kernel, by decide +kernel⟩,
    legalOf (by decide +kernel), legalOf (by decide +kernel), by decide +kernel, by decide +kernel⟩

/-- Accesses in a queue. -/
def access (kind : AccessKind) (t : Nat) (ps : List Piece) (d : Dest) : Access :=
  { id := 1, slot := 0, kind := kind, t := t, pieces := ps, dest := d, ord := 0, scope := 0, lease := 0, lid := 0, tenant := 0, asid := 0, key := 0, sright := true, lost := 0 }
def piece8 : Piece := { elem := 0, pa := 0x8000000000100, bytes := 8, val := 7, nib := none, done := false, refused := false }
def queued (a : Access) : State := { machine base4 with cores := [(0, { CoreState.reset with queue := [a] })] }

theorem witness_FencesPrefetchesAndFlushes :
    (∃ (s : State) (st : Strand) (q : Piece), (∀ gs vs, Focus s st gs vs)
      ∧ (∀ o ∈ [{ mop with t := 0, ord := 1, scope := 0 }, { mop with t := 0, ord := 1, scope := 2 }, { mop with t := 0, ord := 2, scope := 2 }, { mop with t := 0, ord := 3, scope := 2 }, { mop with t := 0, ord := 4, scope := 5 }],
        MemLegal o [0] [1, 2, 3, 4] false)
      ∧ (∀ a ∈ (s.coreAt (coreOf s.cur)).queue, a.slot ≠ s.cur ∧ a.kind.touches = false) ∧ MemLegal { mop with t := 0, lease := 3 } [0] [0] true
      ∧ MemLegal { mop with t := 0 } [0] [0] false ∧ Placed s (s.ctxOf s.cur st) .read false (elemPieces 0 (eaOf st { mop with t := 0 } true) 1 0) [q]
      ∧ s.overlapsQueue (coreOf s.cur) (q.pa / 128 * 128) 128 = false ∧ isDevice q.pa = true)
    ∧ (∃ (s : State) (st : Strand), Focus s st [4] [] ∧ (∀ a ∈ (s.coreAt (coreOf s.cur)).queue, a.slot = s.cur → a.kind.reads = false)
      ∧ ¬(∀ a ∈ (s.coreAt (coreOf s.cur)).queue, a.slot ≠ s.cur ∧ a.kind.touches = false))
    ∧ (∃ (s : State) (st : Strand), Focus s st [4] [] ∧ ¬(∀ a ∈ (s.coreAt (coreOf s.cur)).queue, a.slot = s.cur → a.kind.reads = false))
    ∧ (∃ (s : State) (x a : Access), (s.coreAt 0).queue = [x] ++ a :: [] ∧ x.id ≠ a.id ∧ x.slot = a.slot ∧ x.kind = .fence ∧ a.kind.writes = true)
    ∧ (∃ (s : State) (x a : Access), (s.coreAt 0).queue = [x] ++ a :: [] ∧ x.id ≠ a.id ∧ x.slot = a.slot ∧ x.scope ≠ 0 ∧ x.kind.reads = true ∧ x.ord = 1)
    ∧ (∃ (s : State) (x a : Access), (s.coreAt 0).queue = [x] ++ a :: [] ∧ x.id ≠ a.id ∧ x.slot = a.slot ∧ x.scope ≠ 0 ∧ x.kind = .store ∧ x.ord = 4)
    ∧ ∃ (s : State) (core : Nat) (a : Access) (rest : List Access), (s.coreAt core).queue = a :: rest ∧ (∀ x ∈ rest, x.id ≠ a.id) ∧ a.kind = .flush
      ∧ ∀ p ∈ a.pieces, s.anyReq (p.pa / 128) (Request.isPutO (agentOf core)) = false := by
  let two (x : Access) : State := { machine base4 with cores := [(0, { CoreState.reset with queue := [x, { access .store 6 [piece8] .none with id := 2 }] })] }
  refine ⟨⟨machine base4, base4, _, focusMachine _ rfl, ?_, by decide +kernel, legalOf (by decide +kernel), legalOf (by decide +kernel),
      placedOf (ps := [_]) (by decide +kernel), by decide +kernel, by decide +kernel⟩,
    ⟨queued (access .store 6 [piece8] .none), base4, ⟨rfl, rfl, by decide +kernel, by decide +kernel⟩, by decide +kernel, by decide +kernel⟩,
    ⟨queued { access .load 6 [piece8] (.scalar 9 6) with ord := 1, scope := 2 }, base4, ⟨rfl, rfl, by decide +kernel, by decide +kernel⟩, by decide +kernel⟩,
    ⟨two (access .fence 0 [] .none), _, _, rfl, by decide, rfl, rfl, rfl⟩,
    ⟨two { access .load 6 [piece8] (.scalar 9 6) with ord := 1, scope := 2 }, _, _, rfl, by decide, rfl, by decide, rfl, rfl⟩,
    ⟨two { access .store 6 [piece8] .none with ord := 4, scope := 2 }, _, _, rfl, by decide, rfl, by decide, rfl, rfl⟩,
    queued (access .flush 0 [piece8] .none), 0, _, [], rfl, by decide +kernel, rfl, by decide +kernel⟩
  simp only [List.mem_cons, List.not_mem_nil, or_false, forall_eq_or_imp, forall_eq]
  exact ⟨legalOf (by decide +kernel), legalOf (by decide +kernel), legalOf (by decide +kernel), legalOf (by decide +kernel), legalOf (by decide +kernel)⟩

/-- A load of another strand of the core is outstanding: a release beyond the core waits, and an acquiring load holds the core's later accesses back. -/
def neighbour : Access := { access .load 6 [piece8] (.scalar 9 6) with id := 7, slot := 3 }
theorem witness_LocalStoreAccesses_Wait : ∃ (s : State) (st : Strand), Focus s st [10, 9] [] ∧ MemLegal { mop with a := 10, ord := 4, scope := 5 } [0, 1, 2, 3, 4, 5, 6, 7] [0, 1, 4] false
    ∧ ((s.coreAt (coreOf s.cur)).queue.all fun a => a.slot != s.cur && !a.kind.touches) = false :=
  ⟨queued neighbour, base4, ⟨rfl, rfl, by decide +kernel, by decide +kernel⟩, legalOf (by decide +kernel), by decide +kernel⟩

theorem witness_FencesOrderAccesses_OfTheCore :
    (∃ (s : State) (x a : Access), (s.coreAt 0).queue = [x] ++ a :: [] ∧ x.id ≠ a.id ∧ x.slot ≠ a.slot ∧ x.scope ≠ 0 ∧ x.kind.reads = true ∧ x.ord = 1)
    ∧ ∃ (s : State) (x a : Access), (s.coreAt 0).queue = [x] ++ a :: [] ∧ x.id ≠ a.id ∧ x.slot ≠ a.slot ∧ a.scope ≠ 0 ∧ a.ord = 2 ∧ x.kind.touches = true := by
  let two (x a : Access) : State := { machine base4 with cores := [(0, { CoreState.reset with queue := [x, a] })] }
  exact ⟨⟨two { neighbour with ord := 1, scope := 2 } (access .store 6 [piece8] .none), _, _, rfl, by decide, by decide, by decide, rfl, rfl⟩,
    two neighbour { access .store 6 [piece8] .none with ord := 2, scope := 2 }, _, _, rfl, by decide, by decide, by decide, rfl, rfl⟩

/-- A page of another device's memory: a flush of one of its lines. -/
theorem witness_PrefetchesAndFlushes_OfPeers : ∃ (s : State) (st : Strand) (q : Piece), (∀ gs vs, Focus s st gs vs) ∧ MemLegal { mop with a := 6, t := 0 } [0] [0] false
    ∧ Placed s (s.ctxOf s.cur st) .read false (elemPieces 0 (eaOf st { mop with a := 6, t := 0 } true) 1 0) [q] ∧ isPeer q.pa = true
    ∧ s.overlapsQueue (coreOf s.cur) (q.pa / 128 * 128) 128 = false := by
  let s : State := { machine base4 with utlb := [(0, [{ asid := 0, level := 2, page := 0x90, entry := 0x000E04000000003F }])], pod := { State.reset.pod with enable := true } }
  refine ⟨s, base4, { elem := 0, pa := 0xE040000000000, bytes := 1, val := 0, nib := none, done := false, refused := false }, focusOf rfl rfl rfl, legalOf (by decide +kernel), ?_, rfl, by decide +kernel⟩
  exact .cons ⟨{ asid := 0, level := 2, page := 0x90, entry := 0x000E04000000003F }, by decide +kernel, by decide +kernel, (fun h => absurd h (by decide)), rfl, rfl, by decide +kernel, rfl, rfl, rfl, rfl⟩ .nil

/-- Plain, half, strided, indexed and tagged accesses of the first lane alone, with mask 1. -/
def lanes1 : Strand := { base4 with masks := #v[0, 1, 0, 0, 0, 0, 0, 0] }
def vmem : MemOps := { a := 4, dst := 4, lease := 0, ord := 0, scope := 0, t := 4, off := 0, hi := some 1 }

theorem witness_VectorAndIndexedAccessesIssue : ∃ (s : State) (st : Strand), (∀ gs vs, Focus s st gs vs) ∧ NotFatal st ∧ vmem.dst.toNat < st.vcount
    ∧ (∀ o ∈ [vmem, { vmem with t := 13 }], MemLegal o ANY [0, 1] true ∧ MemLegal o ANY [0, 2] false)
    ∧ Issuable s st .load .read false (lanePieces vmem (eaOf st vmem false) 4 (laneMask vmem st) fun _ => 0) id
    ∧ Issuable s st .store .write false (lanePieces vmem (eaOf st vmem false) 4 (laneMask vmem st) (velem s st 4 32)) id
    ∧ Issuable s st .load .read false (nibblePieces (eaOf st { vmem with t := 13 } false) (laneMask { vmem with t := 13 } st) fun _ => 0) id
    ∧ Issuable s st .load .read false (lanePieces vmem (eaOf st vmem false) (st.getG (strideG { vmem with hi := some 0xA1 })).toInt (laneMask vmem st) fun _ => 0) id
    ∧ (let o := { vmem with hi := some 0x5881 }
      MemLegal o [4, 5, 6, 7, 8] [0, 1] true ∧ MemLegal o [4, 5, 6, 7, 8] [0, 2] false ∧ (indexV o).toNat < st.vcount ∧ (st.getG (boundG o)).toNat = 64
        ∧ inBound s st o 0 = true ∧ Issuable s st .load .read false (gatherPieces s st o fun _ => 0) id)
    ∧ (let o := { vmem with a := 12, t := 8 }
      MemLegal o FLT [0, 1] true ∧ ¬BadTag (st.getG o.a) ∧ fmtOfPtr (st.getG o.a) ≠ 0
        ∧ Issuable s st .load .read false ((lanes o (laneMask o st)).flatMap fun i => (taggedElems (st.getG o.a) o.off.toInt i).flatMap fun x =>
          elemPieces x.1 x.2.1 x.2.2.1 x.2.2.2) id)
    ∧ BadTag (st.getG 14) ∧ fmtOfPtr (st.getG 4) = 0 := by
  refine ⟨machine { lanes1 with g := (lanes1.setG 12 0x1400000000100100).g }, { lanes1 with g := (lanes1.setG 12 0x1400000000100100).g }, focusMachine _ rfl, notFatal (by decide +kernel), by decide +kernel, ?_, issuableOf (by decide +kernel), issuableOf (by decide +kernel), issuableOf (by decide +kernel),
    issuableOf (by decide +kernel), ⟨legalOf (by decide +kernel), legalOf (by decide +kernel), by decide +kernel, by decide +kernel, by decide +kernel, issuableOf (by decide +kernel)⟩,
    ⟨legalOf (by decide +kernel), ?_, by decide +kernel, issuableOf (by decide +kernel)⟩, ?_, by decide +kernel⟩
  · simp only [List.mem_cons, List.not_mem_nil, or_false, forall_eq_or_imp, forall_eq]
    exact ⟨⟨legalOf (by decide +kernel), legalOf (by decide +kernel)⟩, legalOf (by decide +kernel), legalOf (by decide +kernel)⟩
  · unfold BadTag fmtOfPtr blogOfPtr vaOfPtr; decide +kernel
  · unfold BadTag fmtOfPtr blogOfPtr vaOfPtr; decide +kernel

/-- A queue whose front access may be performed. -/
theorem atFront {a : Access} (h : (a.slot == 0 && a.lost == 0 && a.pieces.all fun p => !p.done && !p.refused && !(queued a).isLost p.pa && !isPeer p.pa && !isDevice p.pa
      && !isControl p.pa && decide (p.pa % 128 + p.bytes ≤ 128) && (queued a).lineReady 0 p.pa a.tenant a.key a.kind.writes && !isHostMem p.pa
      && (queued a).quadServes a.tenant (p.pa / 2 ^ 24 % 256) (p.pa % 2 ^ 24) p.bytes (agentOf 0 == p.pa / 2 ^ 24 % 256) (a.kind == .load) (a.kind == .store) && !(queued a).scratchGone p.pa) = true) :
    AtFront (queued a) 0 a [] base4 := by
  simp only [Bool.and_eq_true, beq_iff_eq, List.all_eq_true, Bool.not_eq_true', decide_eq_true_eq] at h
  obtain ⟨⟨hs, hl⟩, hp⟩ := h
  refine ⟨by decide, rfl, by simp, hl, by rw [hs]; rfl, fun p m => ?_⟩
  obtain ⟨⟨⟨⟨⟨⟨⟨⟨⟨⟨a1, a2⟩, a3⟩, a4⟩, a5⟩, a6⟩, a7⟩, a8⟩, a9⟩, a10⟩, a11⟩ := hp p m
  exact ⟨⟨a1, a2⟩, ⟨⟨a3, a4, fun x => by simp [a5] at x⟩, a6⟩, a7, a8, fun _ => a10, a11, fun x => by simp [a9] at x⟩

theorem witness_AtomicsIssueAndComplete :
    (∃ (s : State) (st : Strand), (∀ gs vs, Focus s st gs vs) ∧ NotFatal st
      ∧ (∀ o ∈ [{ mop with t := 7 }, { mop with t := 4, ord := 4, scope := 5, hi := some 0x9A }], MemLegal o [4, 5, 6, 7] [0, 1, 2, 3, 4] false
        ∧ eaOf st o false % (typeBits o.tn / 8) = 0 ∧ Issuable s st (.atomic .add 7 0) .readWrite false (elemPieces 0 (eaOf st o false) (typeBits o.tn / 8) 0) id)
      ∧ MemLegal { mop with t := 8 } [8, 10] [0, 1, 2, 3, 4] false ∧ eaOf st { mop with a := 5, t := 7 } false % 8 ≠ 0)
    ∧ ∀ op ∈ [AtomicOp.add, .and, .or, .xor, .min, .max, .swap, .cas], ∃ (s : State) (core : Nat) (a : Access) (rest : List Access) (st : Strand) (r : BitVec 4) (p : Piece), AtFront s core a rest st ∧ a.kind = .atomic op 7 9 ∧ a.pieces = [p]
      ∧ p.nib = none ∧ a.t < 11 ∧ p.bytes = typeBits a.t / 8 ∧ a.dest = .scalar r a.t ∧ 7 < 2 ^ typeBits a.t ∧ 9 < 2 ^ typeBits a.t := by
  refine ⟨⟨machine base4, base4, focusMachine _ rfl, notFatal (by decide +kernel), ?_, legalOf (by decide +kernel), by decide +kernel⟩, ?_⟩
  · simp only [List.mem_cons, List.not_mem_nil, or_false, forall_eq_or_imp, forall_eq]
    exact ⟨⟨legalOf (by decide +kernel), by decide +kernel, issuableOf (by decide +kernel)⟩, legalOf (by decide +kernel), by decide +kernel, issuableOf (by decide +kernel)⟩
  · intro op h
    refine ⟨_, 0, access (.atomic op 7 9) 7 [piece8] (.scalar 5 7), [], base4, 5, piece8, atFront ?_, rfl, rfl, rfl, by show 7 < 11; decide, by show 8 = typeBits 7 / 8; decide, rfl, by show 7 < 2 ^ typeBits 7; decide, by show 9 < 2 ^ typeBits 7; decide⟩
    revert h; revert op
    decide +kernel

/-- Loads into a scalar register, a vector register, of nibbles, and decoded; stores of bytes and of a nibble. -/
theorem witness_LoadsAndStoresMoveTheirBytes :
    (∃ (s : State) (core : Nat) (a : Access) (rest : List Access) (st : Strand), AtFront s core a rest st ∧ a.kind = .load ∧ a.dest = .scalar 5 6)
    ∧ (∃ (s : State) (core : Nat) (a : Access) (rest : List Access) (st : Strand), AtFront s core a rest st ∧ a.kind = .load ∧ a.dest = .vector 4 6 ∧ typeBits 6 ≠ 4)
    ∧ (∃ (s : State) (core : Nat) (a : Access) (rest : List Access) (st : Strand), AtFront s core a rest st ∧ a.kind = .load ∧ a.dest = .vector 4 13 ∧ a.pieces.Pairwise (fun p q => p.elem / 2 ≠ q.elem / 2)
      ∧ ∀ p ∈ a.pieces, p.bytes = 1 ∧ p.elem < 1024 ∧ (p.nib = none → p.elem % 2 = 0) ∧ (p.nib = some false → p.elem % 2 = 0) ∧ (p.nib = some true → p.elem % 2 = 1))
    ∧ (∃ (s : State) (core : Nat) (a : Access) (rest : List Access) (st : Strand), AtFront s core a rest st ∧ a.kind = .load ∧ a.dest = .tagged 4 8 13 0 0 ∧ 8 ∈ FLT)
    ∧ (∃ (s : State) (core : Nat) (a : Access) (rest : List Access) (st : Strand), AtFront s core a rest st ∧ a.kind = .store ∧ a.dest = .none ∧ ∀ p ∈ a.pieces, p.nib = none)
    ∧ ∀ hi, ∃ (s : State) (core : Nat) (a : Access) (rest : List Access) (st : Strand) (p : Piece), AtFront s core a rest st ∧ a.kind = .store ∧ a.dest = .none ∧ a.pieces = [p] ∧ p.nib = some hi ∧ p.bytes = 1 := by
  refine ⟨⟨_, 0, access .load 6 [piece8] (.scalar 5 6), [], base4, atFront (by decide +kernel), rfl, rfl⟩,
    ⟨_, 0, access .load 6 [piece8] (.vector 4 6), [], base4, atFront (by decide +kernel), rfl, rfl, by decide⟩,
    ⟨_, 0, access .load 13 [{ piece8 with bytes := 1 }, { piece8 with elem := 3, bytes := 1, nib := some true }] (.vector 4 13), [], base4, atFront (by decide +kernel), rfl, rfl, by decide, by decide⟩,
    ⟨_, 0, access .load 8 [piece8] (.tagged 4 8 13 0 0), [], base4, atFront (by decide +kernel), rfl, rfl, by decide⟩,
    ⟨_, 0, access .store 6 [piece8] .none, [], base4, atFront (by decide +kernel), rfl, rfl, by decide⟩, ?_⟩
  intro hi
  exact ⟨_, 0, access .store 13 [{ piece8 with bytes := 1, nib := some hi }] .none, [], base4, { piece8 with bytes := 1, nib := some hi }, atFront (by cases hi <;> decide +kernel), rfl, rfl, rfl, rfl, rfl⟩

/-! Waits, barriers, tiles and migration -/

/-- A strand that waits, in a machine whose pages 16 to 18 are mapped to device memory, to the scratchpad of quad 0 and to that of quad 1. -/
def pages : List TlbEntry :=
  [{ asid := 0, level := 2, page := 16, entry := placedLeaf }, { asid := 0, level := 2, page := 17, entry := 0x000800000000003F },
   { asid := 0, level := 2, page := 18, entry := 0x000800000100003F }]
def paged (st : Strand) : State := { machine st with utlb := [(0, pages)] }
def sp0 : Nat := 0x8000000000000

theorem focusPaged (st : Strand) (w : st.wait = .ready) (gs : List (BitVec 4)) (vs : List (BitVec 5)) : Focus (paged st) st gs vs := focusOf rfl w rfl gs vs

theorem mayRead {s : State} {st : Strand} (h1 : s.strandAt 0 = some st) (h2 : st.next = some 0x100004) (pa n : Nat)
    (h3 : (s.coreAt 0).phase = .running) (h4 : (s.coreAt 0).queue = []) : MayRead s 0 st 0x100004 pa n := by
  refine ⟨h1, h2, h3, ?_, ?_⟩
  · show s.overlapsQueue 0 pa n = false
    simp [State.overlapsQueue, h4]
  · intro a ha
    rw [show coreOf 0 = 0 from rfl, h4] at ha
    cases ha

def waiting (w : Wait) : Strand := { strandWith [(4, 0x100100), (5, 0x100101), (9, 0)] with wait := w, next := some 0x100004 }

theorem witness_MonitorWaits :
    (∃ (s : State) (st : Strand) (q : Piece), (∀ gs vs, Focus s st gs vs) ∧ NotFatal st ∧ MemLegal { mop with hi := some 0xFFFFFFFF } [0, 1, 2, 3, 4, 5, 6, 7] [0, 1] false
      ∧ eaOf st { mop with hi := some 0xFFFFFFFF } false % 8 = 0
      ∧ Placed s (s.ctxOf s.cur st) .read false (elemPieces 0 (eaOf st { mop with hi := some 0xFFFFFFFF } false) 8 0) [q] ∧ eaOf st { mop with a := 5 } false % 8 ≠ 0)
    ∧ (∀ e dl, ∃ (s : State) (st : Strand), st.wait = .monitor (sp0 + 256) e 6 0 0 dl 9 none ∧ MayRead s 0 st 0x100004 (sp0 + 256) 8 ∧ AtHand s 0 st (sp0 + 256) 8 ∧ s.mem.readLe (sp0 + 256) 8 = 0)
    ∧ (∃ (s : State) (st : Strand) (d : Nat), st.wait = .monitor (sp0 + 256) 0 6 0 0 (some d) 9 none ∧ MayRead { s with time := max s.time d } 0 st 0x100004 (sp0 + 256) 8
      ∧ AtHand { s with time := max s.time d } 0 st (sp0 + 256) 8)
    ∧ ∃ (s : State) (st : Strand), st.wait = .monitor 0xE000000000000 0 6 0 0 none 9 (some 1024) ∧ MayRead s 0 st 0x100004 0xE000000000000 8 ∧ isPeer 0xE000000000000 = true
      ∧ s.isFenced 0xE000000000000 = false ∧ s.pod.enable = true ∧ 8 ≤ (List.replicate 8 (0 : Byte)).length := by
  have hand (w : Wait) (time : Nat) : AtHand { paged (waiting w) with time := time } 0 (waiting w) (sp0 + 256) 8 := by
    have key : ({ paged (waiting w) with time := time } : State).keyOfAsid (({ paged (waiting w) with time := time } : State).asidOf (waiting w)) = 0 := rfl
    refine ⟨⟨?_, rfl, by decide⟩, ?_, fun _ => ?_, rfl, fun h => ?_⟩
    · exact ⟨rfl, rfl, fun h => absurd h (by decide)⟩
    · rfl
    · rfl
    · exact absurd h (by decide)
  refine ⟨⟨paged (waiting .ready), waiting .ready, _, focusPaged _ rfl, notFatal (by decide +kernel), legalOf (by decide +kernel), by decide +kernel,
      placedOf (ps := [_]) (by decide +kernel), by decide +kernel⟩, ?_, ?_, ?_⟩
  · exact fun e dl => ⟨paged (waiting (.monitor (sp0 + 256) e 6 0 0 dl 9 none)), _, rfl, mayRead rfl rfl _ _ rfl rfl, hand _ 0, rfl⟩
  · exact ⟨paged (waiting (.monitor (sp0 + 256) 0 6 0 0 (some 5) 9 none)), _, 5, rfl, mayRead rfl rfl _ _ rfl rfl, hand _ _⟩
  · exact ⟨{ paged (waiting (.monitor 0xE000000000000 0 6 0 0 none 9 (some 1024))) with pod := { State.reset.pod with enable := true } }, _, rfl, mayRead rfl rfl _ _ rfl rfl, rfl, rfl, rfl, by decide⟩

/-- Offsets, counts and phases of a byte barrier: 0x100 in g4, 64 in g5, 0 in g6, 2^32 in g7. -/
def bbStrand : Strand := strandWith [(4, 0x100), (5, 64), (6, 0), (7, 0x100000000), (8, 1)]

theorem witness_ByteBarrierInstructions :
    (∃ (s : State) (st : Strand), (∀ gs vs, Focus s st gs vs) ∧ HoldsQuad s st ∧ NotFatal st ∧ BarrierAtHand s (st.getG 4).toNat
      ∧ 1 ≤ (st.getG 5).toNat ∧ (st.getG 5).toNat < 2 ^ 32 ∧ (5#16).toNat % 8 < 6 ∧ (st.getG 6).toNat = 0 ∧ 2 ^ 32 ≤ (st.getG 7).toNat ∧ 6 ≤ (6#16).toNat % 8
      ∧ (barrierBytes s 0 0x100).testBit 64 = (st.getG 6).getLsbD 0 ∧ (barrierBytes s 0 0x100).testBit 64 ≠ (st.getG 8).getLsbD 0)
    ∧ ∀ ph dl, ∃ (s : State) (st : Strand), st.wait = .byteBarrier 0x100 ph dl 9 ∧ MayRead s 0 st 0x100004 (sp0 + 0x100) 16 ∧ BarrierPlace 0x100
      ∧ s.quadServes (s.tenantOf st) 0 0x100 16 true true false = true ∧ s.isLost (sp0 + 0x100) = false ∧ (barrierBytes s 0 0x100).testBit 64 = false := by
  refine ⟨⟨machine bbStrand, _, focusMachine _ rfl, rfl, notFatal (by decide +kernel), ⟨⟨by decide +kernel, by decide +kernel⟩, by decide +kernel, by decide +kernel⟩,
      by decide +kernel, by decide +kernel, by decide, by decide +kernel, by decide +kernel, by decide, by decide +kernel, by decide +kernel⟩, ?_⟩
  exact fun ph dl => ⟨paged (waiting (.byteBarrier 0x100 ph dl 9)), _, rfl, mayRead rfl rfl _ _ rfl rfl, ⟨by decide, by decide⟩, rfl, rfl, by
    show (Memory.readLe [] (8 * 2 ^ 48 + 0 * 2 ^ 24 + 0x100) 16).testBit 64 = false; decide +kernel⟩

/-- A release fence of the strand is pending in its core's queue, behind a load. -/
theorem witness_ByteBarrierInstructions_BehindAFence : ∃ (s : State) (st : Strand), Focus s st [4, 5, 6, 7, 8] [] ∧ HoldsQuad s st ∧ BarrierAtHand s (st.getG 4).toNat ∧ s.fencePending s.cur = true
    ∧ 1 ≤ (st.getG 5).toNat ∧ (st.getG 5).toNat < 2 ^ 32 :=
  ⟨{ machine bbStrand with cores := [(0, { CoreState.reset with queue := [access .load 6 [{ piece8 with pa := 0x8000000000400 }] (.scalar 9 6), { access .fence 0 [] .none with id := 2 }] })] }, _, ⟨rfl, rfl, by decide +kernel, by decide +kernel⟩, rfl,
    ⟨⟨by decide +kernel, by decide +kernel⟩, by decide +kernel, by decide +kernel⟩, by decide +kernel, by decide +kernel, by decide +kernel⟩

/-- Barriers: the last index of the pod level, claimed by the strand's launch or by another. -/
def barOps : MemOps := { a := 4, dst := 9, lease := 0, ord := 0, scope := 3, t := 0, off := 63, hi := none }
def barKey : Nat := barrierNo 0 3 63
def withBarrier (l : List (BitVec 4 × Word)) (b : Barrier) : State := { machine (strandWith l) with barriers := [(barKey, b)] }
def claimed (e counter : BitVec 16) (lid : Nat) : Barrier := { e := e, counter := counter, phase := false, claims := [lid], tenant := 0, remote := [] }

/-- A pod barrier that a launch of device 1 has joined, on a device with traffic enabled, and a claim of device 1 on pod barrier 0. -/
def podOps : MemOps := { barOps with scope := 4, off := 0 }
def joined : Barrier := { e := 1, counter := 0, phase := false, claims := [], tenant := 0, remote := [(1, 5)] }
def claim1 (tenant : Nat) : PodClaim := { device := 1, index := 0, launch := 5, tenant := tenant, e := 1 }
def inPod (l : List PodClaim) (b : List (Nat × Barrier)) : State :=
  { machine (strandWith [(4, 1)]) with pod := { State.reset.pod with enable := true, self := 2, claims := l }, barriers := b }

/-- An arrival beyond the core, while a load of another strand of the core is outstanding. -/
theorem witness_BarrierInstructions_Wait : ∃ (s : State) (st : Strand), Focus s st [4, 9] [] ∧ BarrierNamed barOps ∧ st.lid ∈ (s.barrierAt barKey).claims ∧ barOps.scope ≠ 0
    ∧ ¬(∀ a ∈ (s.coreAt (coreOf s.cur)).queue, a.slot ≠ s.cur ∧ a.kind.touches = false) :=
  ⟨{ withBarrier [] (claimed 3 0 0) with cores := [(0, { CoreState.reset with queue := [neighbour] })] }, _, ⟨rfl, rfl, by decide +kernel, by decide +kernel⟩, ⟨rfl, rfl, rfl, by decide⟩, by decide +kernel, by decide, by decide +kernel⟩

theorem witness_BarriersOfEveryLevel :
    (∃ (s : State) (st : Strand), (∀ gs vs, Focus s st gs vs) ∧ BarrierNamed barOps ∧ st.lid ∈ (s.barrierAt barKey).claims
      ∧ (∀ x ∈ (s.coreAt (coreOf s.cur)).queue, x.slot ≠ s.cur ∧ x.kind.touches = false) ∧ (s.barrierAt barKey).phase = (st.getG 4).getLsbD 0
      ∧ (s.barrierAt barKey).phase ≠ (st.getG 5).getLsbD 0 ∧ (arrived (s.barrierAt barKey)).phase ≠ (s.barrierAt barKey).phase)
    ∧ (∃ (s : State) (st : Strand), (∀ gs vs, Focus s st gs vs) ∧ NotFatal st ∧ st.lid ∈ (s.barrierAt barKey).claims ∧ (arrived (s.barrierAt barKey)).phase = (s.barrierAt barKey).phase
      ∧ 1 ≤ (st.getG 6).toNat ∧ (st.getG 6).toNat ≤ 65535 ∧ (s.barrierAt barKey).e ≠ (st.getG 6).extractLsb' 0 16 ∧ (s.barrierAt barKey).counter ≠ 0)
    ∧ (∃ (s : State) (st : Strand), (∀ gs vs, Focus s st gs vs) ∧ (s.barrierAt barKey).claims = [] ∧ (s.barrierAt barKey).remote = [] ∧ 1 ≤ (st.getG 5).toNat)
    ∧ (∃ (s : State) (st : Strand), (∀ gs vs, Focus s st gs vs) ∧ st.lid ∈ (s.barrierAt barKey).claims ∧ (s.barrierAt barKey).counter = 0)
    ∧ (∃ (s : State) (st : Strand), (∀ gs vs, Focus s st gs vs) ∧ NotFatal st ∧ st.lid ∉ (s.barrierAt barKey).claims ∧ (s.barrierAt barKey).claims ≠ [] ∧ barOps.scope ≠ 4)
    ∧ (∃ (s : State) (st : Strand), (∀ gs vs, Focus s st gs vs) ∧ BarrierNamed podOps ∧ s.claimsOn 0 = [] ∧ (s.barrierAt (barrierNo 0 4 0)).remote ≠ []
      ∧ (s.barrierAt (barrierNo 0 4 0)).tenant = s.tenantOf st ∧ (s.barrierAt (barrierNo 0 4 0)).counter = 0)
    ∧ (∀ w ∈ [Wait.barrier barKey true, Wait.flipped barKey true], ∃ (s : State) (st : Strand), st.wait = w ∧ s.strandAt 0 = some st ∧ st.next = some 0x100004
      ∧ (s.coreAt (coreOf 0)).phase = .running ∧ (s.barrierAt barKey).phase ≠ true)
    ∧ (∃ (s : State) (c : PodClaim), s.podReaches c.device = true ∧ c.index < 16 ∧ c.e ≠ 0 ∧ s.claimsOn c.index = [c] ∧ (s.barrierAt (barrierNo 0 4 c.index)).claims = []
      ∧ (s.barrierAt (barrierNo 0 4 c.index)).remote = [])
    ∧ (∃ (s : State) (st : Strand) (c : PodClaim), (∀ gs vs, Focus s st gs vs) ∧ NotFatal st ∧ BarrierNamed podOps ∧ 1 ≤ (st.getG 4).toNat ∧ s.claimsOn 0 = [c] ∧ c.device < s.pod.self.toNat
      ∧ (s.barrierAt (barrierNo s.cur 4 0)).claims = [] ∧ (s.barrierAt (barrierNo s.cur 4 0)).remote = [] ∧ c.tenant ≠ s.tenantOf st)
    ∧ ∃ (s : State), s.podReaches 1 = true ∧ (∃ l, (1, l) ∈ (s.barrierAt (barrierNo 0 4 0)).remote) ∧ (arrived (s.barrierAt (barrierNo 0 4 0))).phase ≠ (s.barrierAt (barrierNo 0 4 0)).phase
      ∧ s.podReaches 2 = false := by
  have named : BarrierNamed podOps := ⟨rfl, rfl, rfl, by decide⟩
  refine ⟨⟨withBarrier [(4, 0), (5, 1)] (claimed 1 0 0), _, focusOf rfl rfl rfl, ⟨rfl, rfl, rfl, by decide⟩, by decide +kernel, by decide +kernel, by decide +kernel, by decide +kernel, by decide +kernel⟩,
    ⟨withBarrier [(6, 65535)] (claimed 3 1 0), _, focusOf rfl rfl rfl, notFatal (by decide +kernel), by decide +kernel, by decide +kernel, by decide +kernel, by decide +kernel, by decide +kernel,
      by decide +kernel⟩,
    ⟨machine (strandWith [(5, 1)]), _, focusMachine _ rfl, rfl, rfl, by decide +kernel⟩,
    ⟨withBarrier [] (claimed 3 0 0), _, focusOf rfl rfl rfl, by decide +kernel, by decide +kernel⟩,
    ⟨withBarrier [] (claimed 3 0 7), _, focusOf rfl rfl rfl, notFatal (by decide +kernel), by decide +kernel, by decide +kernel, by decide⟩,
    ⟨inPod [] [(barrierNo 0 4 0, joined)], _, focusOf rfl rfl rfl, named, by decide +kernel, by decide +kernel, by decide +kernel, by decide +kernel⟩,
    fun w _ => ⟨{ machine (waiting w) with barriers := [(barKey, claimed 3 0 0)] }, _, rfl, rfl, rfl, rfl, by show (claimed 3 0 0).phase ≠ true; decide⟩,
    ⟨inPod [claim1 3] [], claim1 3, by decide +kernel, by decide, by decide, by decide +kernel, rfl, rfl⟩,
    ⟨inPod [claim1 3] [], _, claim1 3, focusOf rfl rfl rfl, notFatal (by decide +kernel), named, by decide +kernel, by decide +kernel, by decide, rfl, rfl, by decide +kernel⟩,
    inPod [] [(barrierNo 0 4 0, joined)], by decide +kernel, ⟨5, by decide +kernel⟩, by decide +kernel, by decide +kernel⟩

/-- A tile of one row of 128 bytes at 0x100100 rounded to its line, and one held by quad 0 or by quad 1. -/
def tileStrand : Strand := strandWith [(4, 0x100100), (5, 0x120000), (6, 0), (9, 128)]
def tileOps : MemOps := { a := 4, dst := 9, lease := 0, ord := 0, scope := 0, t := 0, off := 0, hi := some 0x7F00 }
def tileHeld (holder : Nat) : State :=
  { paged tileStrand with homes := { State.reset.homes with tiles := [(256 * sliceOf 0x100100, { tileRecord holder 0 0x100100 1 128 128 false with present := true })], dir := [(0x100100 / 512, { DirEntry.reset with tb := 4, tid := BitVec.ofNat 16 (256 * sliceOf 0x100100) })] } }

/-- The tile of quad 0, with a request for its line that came before. -/
def tileAsked : State :=
  { tileHeld 0 with homes := { (tileHeld 0).homes with arrivals := 1, reqs := [(0x100100 / 128, [{ agent := 3, kind := .getS, core := 0, tenant := 0, key := 0, issued := 0, phase := .waiting, no := 0 }])] } }

def leaf : TlbEntry := { asid := 0, level := 2, page := 16, entry := placedLeaf }

theorem tlbOf {r : Except Trap TlbEntry} {e : TlbEntry} (h : (match r with | .ok x => decide (x = e) | .error _ => false) = true) : r = .ok e := by
  cases r with
  | ok x => simp only [decide_eq_true_eq] at h; rw [h]
  | error x => cases h

theorem witness_TilesAreDeclaredFreedAndForwarded :
    (∃ (s : State) (st : Strand) (e : TlbEntry), (∀ gs vs, Focus s st gs vs) ∧ MemLegal tileOps [0] [0] false ∧ 128 ≤ (st.getG (dstG tileOps)).toNat
      ∧ ¬(128 ≤ (st.getG (dstG { tileOps with dst := 6 })).toNat)
      ∧ s.translate (s.ctxOf s.cur st) (eaOf st tileOps false) .read = .ok e ∧ s.translate (s.ctxOf s.cur st) ((eaOf st tileOps false + 127) % 2 ^ 52) .read = .ok e
      ∧ leafPa e.level e.entry.toNat ((eaOf st tileOps false + 127) % 2 ^ 52) = leafPa e.level e.entry.toNat (eaOf st tileOps false) + 127
      ∧ isDevice (leafPa e.level e.entry.toNat (eaOf st tileOps false)) = true
      ∧ (s.physical (s.ctxOf s.cur st) (leafPa e.level e.entry.toNat (eaOf st tileOps false)) false).isSome
      ∧ (let rec_ := tileRecord 0 0 0x100100 1 128 128 false
        (∀ l ∈ rec_.lines, (s.dirAt (l / 4)).tb = 0) ∧ s.linesBusy rec_.lines s.homes.arrivals = false ∧ s.tileHorizon rec_ ≤ s.time
          ∧ SMap.find s.homes.tiles (256 * sliceOf 0x100100) = none ∧ ((s.fillAll 0 [e, e]).waysFor rec_.lines).2 = true
          ∧ ((s.fillAll 0 [e, e]).waysFor rec_.lines).1.othersOf 0 rec_.lines = [])
      ∧ s.tileOf (leafPa e.level e.entry.toNat (eaOf st tileOps false) / 128) = none ∧ SMap.find s.homes.tileOps s.cur = none)
    ∧ (∃ (s : State) (st : Strand) (tid : Nat) (r : TileRec), (∀ gs vs, Focus s st gs vs) ∧ s.translate (s.ctxOf s.cur st) (eaOf st tileOps true) .read = .ok leaf ∧ s.tileOf (0x100100 / 128) = some (tid, r)
      ∧ r.holder = (s.ctxOf s.cur st).agent ∧ SMap.find s.homes.tileOps s.cur = none ∧ s.linesBusy r.lines s.homes.arrivals = false ∧ s.demoteRecalls tid r = []
      ∧ (s.tlbFill 0 leaf).forwardTarget (s.ctxOf s.cur st) r (st.getG 6).toNat = none ∧ (s.tlbFill 0 leaf).forwardTarget (s.ctxOf s.cur st) r (st.getG 5).toNat = some 1)
    ∧ (∃ (s : State) (st : Strand) (tid : Nat) (r : TileRec), (∀ gs vs, Focus s st gs vs) ∧ s.translate (s.ctxOf s.cur st) (eaOf st tileOps true) .read = .ok leaf ∧ s.tileOf (0x100100 / 128) = some (tid, r)
      ∧ r.holder = (s.ctxOf s.cur st).agent ∧ SMap.find s.homes.tileOps s.cur = none ∧ s.linesBusy r.lines s.homes.arrivals = true)
    ∧ ∃ (s : State) (st : Strand) (tid : Nat) (r : TileRec), (∀ gs vs, Focus s st gs vs) ∧ s.translate (s.ctxOf s.cur st) (eaOf st tileOps true) .read = .ok leaf ∧ s.tileOf (0x100100 / 128) = some (tid, r)
      ∧ r.holder ≠ (s.ctxOf s.cur st).agent ∧ SMap.find s.homes.tileOps s.cur = none := by
  refine ⟨⟨paged tileStrand, _, leaf, focusPaged _ rfl, legalOf (by decide +kernel), by decide +kernel, by decide +kernel, tlbOf (by decide +kernel), tlbOf (by decide +kernel),
      by decide +kernel, by decide +kernel, by decide +kernel, ⟨by decide +kernel, by decide +kernel, by decide +kernel, rfl, by decide +kernel, by decide +kernel⟩, by decide +kernel, rfl⟩,
    ⟨tileHeld 0, tileStrand, 256 * sliceOf 0x100100, { tileRecord 0 0 0x100100 1 128 128 false with present := true }, focusOf rfl rfl rfl, tlbOf (by decide +kernel), by decide +kernel,
      by decide +kernel, rfl, by decide +kernel, by decide +kernel, by decide +kernel, by decide +kernel⟩,
    ⟨tileAsked, tileStrand, 256 * sliceOf 0x100100, { tileRecord 0 0 0x100100 1 128 128 false with present := true }, focusOf rfl rfl rfl, tlbOf (by decide +kernel), by decide +kernel,
      by decide +kernel, rfl, by decide +kernel⟩,
    tileHeld 1, tileStrand, 256 * sliceOf 0x100100, { tileRecord 1 0 0x100100 1 128 128 false with present := true }, focusOf rfl rfl rfl, tlbOf (by decide +kernel), by decide +kernel, by decide +kernel, rfl⟩

/-- A strand that may migrate: no vector registers, 4 KiB of local store, no loop level; g5 names the scratchpad of quad 1. -/
def mover : Strand := { tileStrand with vcount := 0, lslen := 1 }
def packet : Packet := { source := 0, strand := { mover with fetch := none }, dst := some 9 }

theorem witness_MigrationMovesAStrand :
    (∃ (s : State) (st : Strand) (e : TlbEntry), (∀ gs vs, Focus s st gs vs) ∧ MemLegal { tileOps with hi := none } [0] [0] false
      ∧ s.translate (s.ctxOf s.cur st) (eaOf st { tileOps with hi := none } true) .read = .ok e
      ∧ s.quadNamed (s.ctxOf s.cur st) (leafPa e.level e.entry.toNat (eaOf st { tileOps with hi := none } true)) = none)
    ∧ (∃ (s : State) (st : Strand) (e : TlbEntry) (q core : Nat), (∀ gs vs, Focus s st gs vs) ∧ s.translate (s.ctxOf s.cur st) (eaOf st { tileOps with a := 5, hi := none } true) .read = .ok e
      ∧ s.quadNamed (s.ctxOf s.cur st) (leafPa e.level e.entry.toNat (eaOf st { tileOps with a := 5, hi := none } true)) = some q
      ∧ st.vcount = 0 ∧ st.lslen = 1 ∧ st.loops = [] ∧ s.migrationTarget (s.tenantOf st) (coreOf s.cur) q = some core
      ∧ (∀ a ∈ (s.coreAt (coreOf s.cur)).queue, a.slot ≠ s.cur ∧ a.kind.touches = false) ∧ st.rf = [] ∧ st.ls = [] ∧ st.masksUsed = false)
    ∧ ∃ (s : State) (core : Nat) (p : Packet) (rest : List Packet) (slot l : Nat), (s.coreAt core).inbox = p :: rest ∧ (s.coreAt core).phase = .running ∧ s.freeSlot core = some slot
      ∧ freeRange (s.usedL core) 64 1 = some l ∧ p.strand.masksUsed = false ∧ coreOf p.source ≠ core
      ∧ ∃ v, s.strandAt p.source = some v ∧ v.wait = .migrating core ∧ v.lid = p.strand.lid := by
  refine ⟨⟨paged tileStrand, _, leaf, focusPaged _ rfl, legalOf (by decide +kernel), tlbOf (by decide +kernel), by decide +kernel⟩,
    ⟨paged mover, _, { asid := 0, level := 2, page := 18, entry := 0x000800000100003F }, 1, 4, focusPaged _ rfl, tlbOf (by decide +kernel), by decide +kernel, rfl, rfl, rfl, by decide +kernel,
      by decide +kernel, rfl, rfl, by decide +kernel⟩,
    { machine { mover with wait := .migrating 4 } with cores := [(4, { CoreState.reset with inbox := [packet] })] }, 4, packet, [], 64, 0, rfl, rfl, by decide +kernel, by decide +kernel,
      by decide +kernel, by decide +kernel, _, rfl, rfl, rfl⟩

/-! Engines -/

/-- A strand with the greatest grant of 128 rows, 128 columns and K = 128, in a bond; and one whose launch is another tenant's. -/
def engStrand : Strand := { strandWith [(4, 0), (5, 0x10000), (6, 0x8000000080), (8, 2), (9, 0x80), (11, 0x1001)] with shape := 0x80807F7F, bond := 0 }
def foreign (st : Strand) : State := { machine st with hub := { State.reset.hub with launches := [{ placedLaunch 0 0 with tenant := 5 }] } }
/-- MMA of s8 by s8; with bank 1 as its source; and of u4 groups of 128. -/
def products : List (EngOps × BitVec 32) :=
  [({ eop with hi := some 0x41 }, 0x41), ({ eop with x := 0xC, hi := some 0x50041 }, 0x50041), ({ eop with hi := some 0x7861 }, 0x7861)]

theorem witness_MatrixInstructionsEnterTheUnit :
    (∃ (s : State) (st : Strand), (∀ gs vs, Focus s st gs vs) ∧ NotFatal st ∧ MayEnter s st 1 ∧ PlaceLegal st (st.getG 10) ∧ BarrierField st 0 ∧ BarrierField st 9
      ∧ st.bond ≠ BitVec.allOnes 64 ∧ RowsInPad (st.getG 4).toNat (placeEm st 0) 128 (4 * placeEn st 0)
      ∧ RowsInPad (st.getG 4).toNat (placeEm st 0) 128 (placeEn st 0 * typeBits 0 + 7) ∧ (st.getG 5).toNat % 4 = 0 ∧ InPad (st.getG 5).toNat 4
      ∧ (∀ x ∈ products, x.1.hi = some x.2 ∧ ProductLegal s st x.1 x.2) ∧ ¬PlaceLegal st (st.getG 9))
    ∧ ∃ (s : State) (st : Strand), (∀ gs vs, Focus s st gs vs) ∧ NotFatal st ∧ PlaceLegal st (st.getG 10) ∧ BarrierField st 0 ∧ ¬HoldsQuad s st := by
  refine ⟨⟨machine engStrand, engStrand, focusMachine _ rfl, notFatal (by decide +kernel), ⟨rfl, by decide +kernel⟩, ?_, Or.inl rfl, Or.inr ⟨?_, ?_⟩, by decide +kernel,
      ⟨?_, ?_⟩, ⟨?_, ?_⟩, by decide +kernel, ⟨?_, ?_⟩, ?_, ?_⟩,
    foreign engStrand, engStrand, focusOf rfl rfl rfl, notFatal (by decide +kernel), ?_, Or.inl rfl, by unfold HoldsQuad; decide +kernel⟩
  case refine_10 =>
    simp only [products, List.mem_cons, List.not_mem_nil, or_false, forall_eq_or_imp, forall_eq]
    refine ⟨⟨trivial, ?_⟩, ⟨trivial, ?_⟩, trivial, ?_⟩ <;> constructor <;> (try unfold PlaceLegal) <;> (try unfold FormatsPair) <;> (try unfold RowsInPad InPad) <;> first | decide +kernel | exact Or.inl rfl
  all_goals first | (unfold PlaceLegal; decide +kernel) | decide +kernel

/-- What a plain load of blocks answers, with a property of its bytes. -/
def readsAs (r : FrameResult) (u : Strand) (p : State → Nat → Bool) : Bool :=
  match r with
  | .ok s st d => decide (st = u) && p s d
  | _ => false

theorem readOf {r : FrameResult} {u : Strand} {p : State → Nat → Bool} (h : readsAs r u p = true) : ∃ s d, r = .ok s u d ∧ p s d = true := by
  cases r with
  | ok s st d =>
    simp only [readsAs, Bool.and_eq_true, decide_eq_true_eq] at h
    exact ⟨s, d, by rw [h.1], h.2⟩
  | _ => simp [readsAs] at h

/-- Descriptors in the scratchpad of quad 0, whose bytes no cache holds: 128 bytes of device memory to device memory, a matrix follow-on after them; a copy that decodes f8e5m2 to f32; a push to quad 1; a gather of one row of 4096 bytes. -/
def copyD : Nat := 0x100200 + 0x100400 * 2 ^ 64 + 128 * 2 ^ 128 + 2 ^ 160 + 2 ^ 176
def followD : Nat := 0x10000 * 2 ^ 64 + 0x8000000080 * 2 ^ 128 + 0x41 * 2 ^ 272 + 0xFFFFFFFF * 2 ^ 320
def bothD : Nat := copyD + 2 ^ 512 * followD
def decodeD : Nat := 0x4000000000100200 + 0x100400 * 2 ^ 64 + 16 * 2 ^ 128 + 2 ^ 160 + 2 ^ 176 + 8 * 2 ^ 320 + 2 ^ 324
def sendD : Nat := 0x110000 + 0x120000 * 2 ^ 64 + 128 * 2 ^ 128 + 2 ^ 160 + 2 ^ 176
def padD : Nat := 0x110000 + 0x110400 * 2 ^ 64 + 128 * 2 ^ 128 + 2 ^ 160 + 2 ^ 176
def gatherD : Nat := 0x100200 + 0x100400 * 2 ^ 64 + 4096 * 2 ^ 128 + 2 ^ 160 + 2 ^ 176 + 0x101000 * 2 ^ 192 + 5 * 2 ^ 320
/-- Base addresses of the descriptors, an unaligned one, and the operands of a load of 16384 cells. -/
def hodStrand : Strand := { strandWith [(4, 0x110100), (5, 0x110180), (6, 0x1101C0), (7, 0x110240), (8, 0x110280), (9, 16384), (10, 0x3E0000), (11, 0x1F8000)] with shape := 0x80807F7F }
def hodMachine : State :=
  { paged hodStrand with
    mem := ((((Memory.writeLe [] (sp0 + 0x100) 64 copyD).writeLe (sp0 + 0x140) 64 followD).writeLe (sp0 + 0x180) 64 decodeD).writeLe (sp0 + 0x1C0) 64 sendD).writeLe (sp0 + 0x240) 64 gatherD }

/-- A sort that the unit accepted before the strand's `SSTAT`. -/
def sorting : State :=
  (machine engStrand).setQuad 0 { (machine engStrand).quadAt 0 with
    cmds := [{ newCmd (machine engStrand) 0 engStrand (some .sett) (.ssort 5 true false 1) none [] 0 0 0 with seq := 3 }], nextSeq := 4 }

theorem bothLegal : CopyLegal (bothD % 2 ^ 512) ∧ TagLegal (bothD % 2 ^ 512) ∧ followOk 0 hodStrand bothD = true := by
  have h : bothD % 2 ^ 512 = copyD := by decide +kernel
  rw [h]
  exact ⟨by unfold CopyLegal; decide +kernel, by unfold TagLegal; exact fun h => absurd h (by decide +kernel), by decide +kernel⟩

theorem witness_SortAndCopyInstructionsEnterTheUnit :
    (∃ (s : State) (st : Strand), (∀ gs vs, Focus s st gs vs) ∧ NotFatal st ∧ MayEnter s st 2 ∧ BarrierField st 0 ∧ (st.getG 9).toNat ≤ 16384
      ∧ InPad (st.getG 10).toNat (8 * (st.getG 9).toNat) ∧ InPad (st.getG 11).toNat (2 * (st.getG 9).toNat)
      ∧ (∃ s1 d, DescriptorRead s st 1 0x110100 s1 d ∧ CopyLegal d ∧ TagLegal d ∧ s.heldPage (s.ctxOf s.cur st) (copyPages d) = none) ∧ (∃ s1 d, DescriptorRead s st 1 0x110180 s1 d ∧ CopyLegal d ∧ TagLegal d ∧ d / 2 ^ 324 % 2 = 1)
      ∧ (∃ s1 d, DescriptorRead s st 1 0x1101C0 s1 d ∧ CopyLegal d ∧ d / 2 ^ 324 % 2 = 0 ∧ s1.sendsHome (s1.ctxOf s.cur st) d = false ∧ s.heldPage (s.ctxOf s.cur st) (copyPages d) = none)
      ∧ (∃ s1 d, DescriptorRead s st 1 0x110240 s1 d ∧ d / 2 ^ 328 % 2 ^ 184 = 0 ∧ 1 ≤ d / 2 ^ 128 % 2 ^ 32 ∧ d / 2 ^ 128 % 2 ^ 32 = 4096 ∧ d / 2 ^ 160 % 2 ^ 16 ≠ 0
        ∧ d / 2 ^ 176 % 2 ^ 16 = 1 ∧ d / 2 ^ 324 % 2 = 0 ∧ d / 2 ^ 320 % 16 = 5 ∧ s.heldPage (s.ctxOf s.cur st) (gatherPages d) = none)
      ∧ (∃ s1 d, DescriptorRead s st 2 0x110100 s1 d ∧ CopyLegal (d % 2 ^ 512) ∧ TagLegal (d % 2 ^ 512) ∧ followOk s.cur st d = true)
      ∧ 0x110281 % 64 ≠ 0 ∧ (∃ pa e, s.physOf (s.ctxOf s.cur st) 0x110100 .read = .ok (pa, e) ∧ isControl pa = false ∧ s.plainReady s.cur (s.ctxOf s.cur st) (s.keyOfAsid (s.ctxOf s.cur st).asid) pa 64 false = true
        ∧ PlainStore s pa (s.keyOfAsid (s.asidOf st)) ∧ pa % 128 + 64 ≤ 128)
      ∧ (∀ x ∈ (s.quadAt 0).cmds, x.engine = some .sett → st.since.getD (s.quadAt 0).nextSeq ≤ x.seq) ∧ InPad 0x3FFFFC 4 ∧ s.spWaits s.cur 0x3FFFFC 4 = false ∧ s.isLost (padAddr 0 0x3FFFFC) = false)
    ∧ (∃ (s : State) (st : Strand), (∀ gs vs, Focus s st gs vs) ∧ HoldsQuad s st ∧ ∃ x ∈ (s.quadAt 0).cmds, x.engine = some .sett ∧ x.seq < st.since.getD (s.quadAt 0).nextSeq)
    ∧ ∃ (s : State) (st : Strand), (∀ gs vs, Focus s st gs vs) ∧ NotFatal st ∧ ¬HoldsQuad s st := by
  have read {va k : Nat} {p : State → Nat → Bool} (h : readsAs (hodMachine.loadBlocks 0 hodStrand 64 k va) hodStrand p = true) :
      ∃ s1 d, DescriptorRead hodMachine hodStrand k va s1 d ∧ p s1 d = true := readOf h
  refine ⟨⟨hodMachine, hodStrand, focusOf rfl rfl rfl, notFatal (by decide +kernel), ⟨by unfold HoldsQuad; decide +kernel, by decide +kernel⟩, Or.inl rfl, by decide +kernel,
    ⟨by decide +kernel, by decide +kernel⟩, ⟨by decide +kernel, by decide +kernel⟩, ?_, ?_, ?_, ?_, ?_, by decide, ?_, ?_, ⟨by decide, by decide⟩, by decide +kernel, by decide +kernel⟩,
    ⟨sorting, engStrand, focusOf rfl rfl rfl, by unfold HoldsQuad; decide +kernel, by decide +kernel⟩,
    foreign engStrand, engStrand, focusOf rfl rfl rfl, notFatal (by decide +kernel), by unfold HoldsQuad; decide +kernel⟩
  · obtain ⟨s1, d, h, hp⟩ := read (va := 0x110100) (k := 1) (p := fun _ d => decide (d = copyD)) (by decide +kernel)
    obtain rfl := of_decide_eq_true hp
    exact ⟨s1, _, h, by unfold CopyLegal; decide +kernel, (fun h => absurd h (by decide +kernel)), by decide +kernel⟩
  · obtain ⟨s1, d, h, hp⟩ := read (va := 0x110180) (k := 1) (p := fun _ d => decide (d = decodeD)) (by decide +kernel)
    obtain rfl := of_decide_eq_true hp
    exact ⟨s1, _, h, by unfold CopyLegal; decide +kernel, by unfold TagLegal BadTag fmtOfPtr blogOfPtr vaOfPtr; decide +kernel, by decide +kernel⟩
  · obtain ⟨s1, d, h, hp⟩ := read (va := 0x1101C0) (k := 1) (p := fun s d => decide (d = sendD) && !s.sendsHome (s.ctxOf 0 hodStrand) sendD) (by decide +kernel)
    simp only [Bool.and_eq_true, decide_eq_true_eq, Bool.not_eq_true'] at hp
    obtain ⟨rfl, hs⟩ := hp
    exact ⟨s1, _, h, by unfold CopyLegal; decide +kernel, by decide +kernel, hs, by decide +kernel⟩
  · obtain ⟨s1, d, h, hp⟩ := read (va := 0x110240) (k := 1) (p := fun _ d => decide (d = gatherD)) (by decide +kernel)
    obtain rfl := of_decide_eq_true hp
    exact ⟨s1, _, h, by decide +kernel⟩
  · obtain ⟨s1, d, h, hp⟩ := read (va := 0x110100) (k := 2) (p := fun _ d => decide (d = bothD)) (by decide +kernel)
    have e : d = bothD := of_decide_eq_true hp
    rw [e] at h
    exact ⟨s1, bothD, h, bothLegal⟩
  · exact ⟨sp0 + 0x100, { asid := 0, level := 2, page := 17, entry := 0x000800000000003F }, by decide +kernel, by decide, by decide +kernel, by unfold PlainStore; decide +kernel, by decide⟩
  · decide +kernel

/-- Copies whose source page has its table in a line that a host holds in O. -/
theorem witness_SortAndCopyInstructionsEnterTheUnit_HeldPage : ∃ (s : State) (p : Nat), s.heldPage (s.ctxOf s.cur hodStrand) (copyPages copyD) = some p :=
  ⟨{ hodMachine with utlb := [], mem := heldTable.mem, hub := heldTable.hub, homes := heldTable.homes }, 0x400000, by decide +kernel⟩

/-- The hypotheses of the engine instructions that both parts share, met together: a strand of the tenant that holds the quad, and one that does not. -/
theorem witness_EngineInstructionsEnterTheUnit :
    (∃ (s : State) (st : Strand), (∀ gs vs, Focus s st gs vs) ∧ NotFatal st ∧ MayEnter s st 1)
    ∧ ∃ (s : State) (st : Strand), (∀ gs vs, Focus s st gs vs) ∧ NotFatal st ∧ ¬HoldsQuad s st := by
  obtain ⟨⟨s, st, h⟩, s', st', h'⟩ := witness_MatrixInstructionsEnterTheUnit
  exact ⟨⟨s, st, h.1, h.2.1, h.2.2.1⟩, s', st', h'.1, h'.2.1, h'.2.2.2.2⟩

/-- A command of quad 0 without a barrier, and the machine in which it is the quad's only one. -/
def cmdOf (e : Option Engine) (op : CmdOp) (st : CmdState) : Cmd :=
  { newCmd (machine engStrand) 0 engStrand e op none [] 0 0 0 with seq := 3, state := st }
def holding (c : Cmd) : State := (machine engStrand).setQuad 0 { (machine engStrand).quadAt 0 with cmds := [c] }
def product (joint : Bool) : MatOp := { matrixOp engStrand eop joint with i := 0x41 }
/-- An `MST` whose rows are 1,024 bytes apart, with its status word behind them. -/
def stored : MatOp := { product false with a := 0, b := 0x3F0000, pitch := 1024 }
theorem storedFits : StoreFits stored :=
  ⟨⟨by decide +kernel, by decide +kernel⟩, by decide +kernel, by decide +kernel, by unfold Apart; decide +kernel, by decide +kernel⟩

theorem padWhole {s : State} (h : s.homes.lost = []) {off : Nat} (ho : off < 2 ^ 22) : s.isLost (padAddr 0 off) = false := by
  have w : window (padAddr 0 off) = 8 := by simp only [window, padAddr]; omega
  simp [State.isLost, State.homeLost, isDevice, w, h]

theorem runsOf {c : Cmd} (h : (c.state == .running && c.engine != some .hod && decide (c.seq = 3)) = true) : Runs (holding c) 0 c := by
  simp only [Bool.and_eq_true, beq_iff_eq, bne_iff_ne, decide_eq_true_eq] at h
  refine ⟨by decide, ?_, ⟨h.1.1, h.1.2⟩, rfl, fun _ h => padWhole rfl h⟩
  show (List.find? (fun x => x.seq == c.seq) [c]) = some c
  simp

theorem witness_EngineCommandsFinish :
    (∀ op ∈ [CmdOp.mzero (product false), .mld (product false), .mma (product false), .mst (product false), .sload 0 16384, .sstore 0x3E0000 16384 0 false true, .ssort 5 true false 1],
      ∃ (s : State) (c : Cmd), Runs s 0 c ∧ c.bb = none ∧ c.op = op)
    ∧ InBank (product false) ∧ (∀ i, i < (product false).em → (product false).a.toNat + i * ((product false).pitch.extractLsb' 0 32).toNat + 4 * (product false).en ≤ 2 ^ 22)
    ∧ StoreFits stored
    ∧ (∃ (s : State) (c : Cmd) (off : Nat), (s.quadAt 0).cmdOf c.seq = some c ∧ c.op = .marker ∧ c.state = .queued ∧ c.held = false ∧ (s.quadAt 0).phase = .running
      ∧ (s.quadAt 0).released c = true ∧ (∀ id ∈ c.behind, s.accessOut 0 id = false) ∧ c.bb = some off ∧ BarrierPlace off ∧ s.isLost (padAddr 0 off) = false)
    ∧ ∃ (s : State) (c : Cmd) (l : List (Nat × Cmd × MatOp)), c.op = .mma (product true) ∧ (product true).joint = true ∧ Runs s 0 c ∧ c.bb = none
      ∧ s.jointMembers (0 / 48) (bondOf (0 % 48)) c.lid c.jointNo = some l ∧ ∀ x ∈ l, x.2.1.state = .running ∧ x.2.1.bb = none ∧ InBank x.2.2 ∧ shapeK x.2.2.shape = shapeK (product true).shape := by
  refine ⟨fun op _ => ⟨holding (cmdOf (some .sett) op .running), _, runsOf rfl, rfl, rfl⟩, ⟨by decide +kernel, by decide +kernel⟩, by decide +kernel, storedFits,
    ⟨holding { cmdOf none .marker .queued with bb := some 0x3FFFF0 }, { cmdOf none .marker .queued with bb := some 0x3FFFF0 }, 0x3FFFF0, by decide +kernel, rfl, rfl, rfl, rfl,
      by decide +kernel, by decide +kernel, rfl, ⟨by decide, by decide⟩, rfl⟩, ?_⟩
  let c := cmdOf (some .ashlar) (.mma (product true)) .running
  let at' (a : Nat) (s : State) : State := s.setQuad a { s.quadAt a with cmds := [c] }
  exact ⟨at' 8 (at' 9 (at' 1 (holding c))), c, [(0, c, product true), (1, c, product true), (9, c, product true), (8, c, product true)], rfl, rfl,
    ⟨by decide, by decide +kernel, ⟨rfl, by decide⟩, rfl, fun _ h => padWhole rfl h⟩, rfl, by decide +kernel, by
      intro x hx
      simp only [List.mem_cons, List.not_mem_nil, or_false] at hx
      rcases hx with rfl | rfl | rfl | rfl <;> exact ⟨rfl, rfl, ⟨by decide +kernel, by decide +kernel⟩, rfl⟩⟩

/-- The same commands with a barrier, apart from what they store; the arrays stored with their positions, in either order. -/
theorem witness_FinishedCommandsCountTheirBytes :
    (∀ op ∈ [CmdOp.mzero (product false), .mld (product false), .mma (product false), .sload 0 16384, .ssort 5 true false 1, .mst stored, .sstore 0x3C0000 16384 0x3E0000 true false, .sstore 0x3C0000 16384 0 false true],
      ∃ (s : State) (c : Cmd), Runs s 0 c ∧ c.bb = some 0x3FFFF0 ∧ BarrierPlace 0x3FFFF0 ∧ c.op = op ∧ (s.quadAt 0).sett.lostLatch = false)
    ∧ (product false).joint = false ∧ StoreFits stored ∧ Apart stored.b.toNat 4 0x3FFFF0 16 ∧ (∀ i, i < stored.em → Apart (rowOff stored i) stored.rowBytes 0x3FFFF0 16)
    ∧ 0x3C0000 + 8 * 16384 ≤ 2 ^ 22 ∧ Apart 0x3C0000 (8 * 16384) 0x3FFFF0 16 ∧ Apart 0x3C0000 (8 * 16384) 0x3E0000 (2 * 16384) ∧ Apart 0x3E0000 (2 * 16384) 0x3FFFF0 16 := by
  refine ⟨fun op _ => ⟨holding { cmdOf (some .sett) op .running with bb := some 0x3FFFF0 }, _, runsOf rfl, rfl, ⟨by decide, by decide⟩, rfl, rfl⟩, by decide +kernel, storedFits, ?_⟩
  unfold Apart
  decide +kernel

theorem witness_EnginesStartAndPiecesLand_Others :
    (∃ (s : State) (l : List (Nat × Cmd × MatOp)) (rest : List (List (Nat × Cmd × MatOp))), s.jointSets 0 0 = l :: rest ∧ membersAgree l = false)
    ∧ ∃ (s : State) (c : Cmd), (s.quadAt 0).cmds = [] ++ c :: [] ∧ c.engine = some .hod ∧ c.op.piece c.next = none ∧ c.after = none ∧ c.op.isJoint = false ∧ Releasable s 0 c := by
  let c := cmdOf (some .ashlar) (.mma (product true)) .queued
  let d := cmdOf (some .ashlar) (.mma { product true with i := 0x43 }) .queued
  let at' (a : Nat) (c : Cmd) (s : State) : State := s.setQuad a { s.quadAt a with cmds := [c] }
  exact ⟨⟨at' 8 c (at' 9 d (at' 1 c (holding c))), [(0, c, product true), (1, c, product true), (9, d, { product true with i := 0x43 }), (8, c, product true)], [], by decide +kernel, by decide +kernel⟩,
    holding { cmdOf (some .hod) (.hcopy copyD) .queued with next := 1 }, _, rfl, rfl, by decide +kernel, rfl, rfl, rfl, rfl, rfl, by decide +kernel, by decide +kernel⟩

theorem witness_EnginesStartAndPiecesLand :
    (∃ (s : State) (c : Cmd), (s.quadAt 0).cmds = [] ++ c :: [] ∧ (∀ x ∈ (s.quadAt 0).cmds, x.engine = some .sett → x.state ≠ .running)
      ∧ c.engine = some .sett ∧ c.after = none ∧ c.op.isJoint = false ∧ Releasable s 0 c
      ∧ (∀ ty d z n, c.op = .ssort ty d z n → (s.quadAt 0).sett.loaded = true ∧ (s.quadAt 0).sett.latched = false))
    ∧ (∃ (s : State) (c x : Cmd), (s.quadAt 0).cmds = [x] ++ c :: [] ∧ x.seq ≠ c.seq ∧ x.engine = c.engine ∧ s.startable 0 x = true ∧ s.cmdPrio c < s.cmdPrio x
      ∧ c.after = none ∧ Releasable s 0 c)
    ∧ (∃ (s : State) (c x : Cmd), (s.quadAt 0).cmds = [x] ++ c :: [] ∧ x.seq ≠ c.seq ∧ c.after = some 2 ∧ c.engine = some .ashlar ∧ FirstOf s c [x] 0
      ∧ (∀ x ∈ (s.quadAt 0).cmds, x.engine = some .ashlar → x.state ≠ .running) ∧ c.op.isJoint = false
      ∧ (∀ ty d z k, c.op ≠ .ssort ty d z k) ∧ Releasable s 0 c)
    ∧ (∃ (s : State) (l : List (Nat × Cmd × MatOp)) (rest : List (List (Nat × Cmd × MatOp))), s.jointSets 0 0 = l :: rest ∧ l.length = 4 ∧ (∀ x ∈ l, s.memberReady x = true)
      ∧ (∀ y ∈ l :: rest, membersAgree y = true) ∧ ∀ y ∈ rest, s.jointPrio l ≤ s.jointPrio y)
    ∧ ∃ (s : State) (c : Cmd) (p : HodPiece) (d : PieceData) (pa : Nat), (s.quadAt 0).cmdOf c.seq = some c ∧ c.state = .running ∧ c.engine = some .hod
      ∧ (s.quadAt 0).phase = .running ∧ c.op.piece 0 = some p ∧ c.mayLand 0 = true ∧ c.refused = [] ∧ c.failed = none ∧ c.bb = none ∧ s.pieceData 0 c p = .ok d
      ∧ s.pieceDst 0 c p = .ok pa ∧ s.dstOpen 0 c.tenant pa = true ∧ s.pieceLines 0 c p pa d.index = true ∧ PlainStore s pa (s.keyOfAsid c.asid) ∧ pa % 128 + p.len ≤ 128
      ∧ 0 < p.len := by
  refine ⟨?_, ?_, ?_, ?_, ?_⟩
  · exact ⟨holding (cmdOf (some .sett) (.sload 0 5) .queued), cmdOf (some .sett) (.sload 0 5) .queued, rfl, by decide +kernel, rfl, rfl, rfl,
      ⟨rfl, rfl, rfl, by decide +kernel, by decide +kernel⟩, fun _ _ _ _ h => by cases h⟩
  · let x : Cmd := { cmdOf (some .sett) (.sload 0 5) .queued with seq := 1, lid := 1 }
    let c : Cmd := cmdOf (some .sett) (.sload 0 5) .queued
    let s : State := { machine engStrand with hub := { State.reset.hub with launches := [placedLaunch 0 0, { placedLaunch 1 0 with prio := 5 }] } }
    exact ⟨s.setQuad 0 { s.quadAt 0 with cmds := [x, c] }, c, x, rfl, by decide, rfl, by decide +kernel, by decide +kernel, rfl, ⟨rfl, rfl, rfl, by decide +kernel, by decide +kernel⟩⟩
  · let x : Cmd := { cmdOf (some .hod) (.hcopy copyD) .running with seq := 1 }
    let c : Cmd := { cmdOf (some .ashlar) (.mma (product false)) .queued with after := some 2 }
    exact ⟨(machine engStrand).setQuad 0 { (machine engStrand).quadAt 0 with cmds := [x, c] }, c, x, rfl, by decide, rfl, rfl, by unfold FirstOf; decide +kernel, by decide +kernel, rfl,
      (fun _ _ _ _ h => by cases h), ⟨rfl, rfl, rfl, by decide +kernel, by decide +kernel⟩⟩
  · let c := cmdOf (some .ashlar) (.mma (product true)) .queued
    let at' (a : Nat) (s : State) : State := s.setQuad a { s.quadAt a with cmds := [c] }
    exact ⟨at' 8 (at' 9 (at' 1 (holding c))), [(0, c, product true), (1, c, product true), (9, c, product true), (8, c, product true)], [], by decide +kernel, rfl, by decide +kernel,
      by decide +kernel, fun y hy => by cases hy⟩
  · let c := cmdOf (some .hod) (.hcopy padD) .running
    let s : State := { holding c with qtlb := (paged engStrand).utlb }
    have h : (match s.pieceData 0 c { row := 0, first := 0, len := 128, linear := 0 } with
      | .ok d => s.pieceLines 0 c { row := 0, first := 0, len := 128, linear := 0 } (sp0 + 0x400) d.index | .error _ => false) = true := by decide +kernel
    split at h
    next d hd =>
      exact ⟨s, c, { row := 0, first := 0, len := 128, linear := 0 }, d, sp0 + 0x400, by decide +kernel, rfl, rfl, rfl, by decide +kernel, by decide +kernel, rfl, rfl, rfl, hd,
        by decide +kernel, by decide +kernel, h, by unfold PlainStore; decide +kernel, by decide, by decide⟩
    next => cases h
/-! System instructions -/

/-- The tables of address space 0 in memory: page 16 of tenant 0 is mapped to itself. -/
def tableMem : Memory :=
  (((Memory.writeLe [] 0x400000 16 0x410001).writeLe 0x410000 8 0x420001).writeLe 0x420000 8 0x430001).writeLe 0x430080 8 0x10003F
/-- Eight descriptors of 64 bytes at 0x100400, read. -/
def ftD : Nat := 0x100400 + 64 * 2 ^ 64 + 2 ^ 96
def ftAll : Nat := ((List.range 8).map fun i => ftD * 2 ^ (256 * i)).sum
/-- Queue 0 is full, queue 62 is another tenant's, queue 63 has room for one record at its last place; the pending pool holds n posts. -/
def postStrand : Strand := strandWith [(4, 0x110100), (5, 61), (6, 62), (7, 63), (8, 64), (9, 8), (10, 0x110300), (11, 0x110301), (12, 0x700000)]
def someTask : TaskPost := { record := 0, lid := 0, asid := 0, tenant := 0, queue := 0, sright := false, tvec := 0, prio := 0 }
def postMachine (n : Nat) : State :=
  { paged postStrand with
    mem := (tableMem.writeLe (sp0 + 0x100) 64 (2 ^ 500 + 7)).writeLe (sp0 + 0x300) 256 ftAll
    hub := { State.reset.hub with
      launches := [placedLaunch 0 0], atbase := 0x400000, tasks := List.replicate n someTask
      queues := [(0, { Queue.reset with enable := true, tail := 1 }), (62, { Queue.reset with enable := true, tenant := 63 }),
        (63, { Queue.reset with enable := true, logn := 5, base := 0x100400, head := 0xFFFFFFE0, tail := 0xFFFFFFFF })] } }

theorem witness_PostsAndMarkers :
    (∃ (s : State) (st : Strand), (∀ gs vs, Focus s st gs vs) ∧ NotFatal st ∧ MayEnter s st 1 ∧ BarrierField st 0 ∧ (st.getG 4).toNat = 0x110100 ∧ (st.getG 9).toNat = 8
      ∧ (∃ s1 r, s.loadBlock s.cur st 0x110100 64 = .ok s1 st r ∧ (s1.queueAt 61).enable = false
        ∧ (s1.queueAt 62).enable = true ∧ (s1.queueAt 62).tenant.toNat ≠ s.tenantOf st
        ∧ (s1.queueAt 0).enable = true ∧ (s1.queueAt 0).tenant.toNat = s.tenantOf st ∧ ((s1.queueAt 0).tail - (s1.queueAt 0).head).toNat = 2 ^ (s1.queueAt 0).logn.toNat
        ∧ (let q := s1.queueAt 63
          q.enable = true ∧ q.tenant.toNat = s.tenantOf st ∧ (q.tail - q.head).toNat ≠ 2 ^ q.logn.toNat
            ∧ s1.hubPa q.tenant.toNat q.asid.toNat (q.base.toNat + q.tail.toNat % 2 ^ q.logn.toNat * 64) .write = some 0x100BC0
            ∧ s1.isLost 0x100BC0 = false ∧ s1.keyCleared (s1.keyOfAsid q.asid.toNat) = false ∧ s1.lineKey (0x100BC0 / 128) = s1.keyNow (s1.keyOfAsid q.asid.toNat)
            ∧ 0x100BC0 % 128 + 64 ≤ 128 ∧ s1.homeQuiet (0x100BC0 / 128) true = true))
      ∧ (∃ s1 d, s.loadBlocks s.cur st 32 8 0x110300 = .ok s1 st d ∧
        ∀ f ∈ (List.range 8).map fun i => d / 2 ^ (256 * i) % 2 ^ 256, ftOk f = true ∧ s1.ftFault (s1.ctxOf s.cur st) f = none)
      ∧ (∃ s1 d, s.loadBlocks s.cur st 32 8 0x110400 = .ok s1 st d ∧ ∃ f ∈ (List.range 8).map fun i => d / 2 ^ (256 * i) % 2 ^ 256, ftOk f = false)
      ∧ (∃ f, s.loadBlock s.cur st 0x700000 64 = .trap s st f ∧ f.badpte = false ∧ f.spill = false ∧ f.acc < 4 ∧ f.code < 256)
      ∧ (s.hub.launches.filter fun l => l.state == .pending).length + s.hub.tasks.length = 511)
    ∧ ∃ (s : State) (st : Strand), (∀ gs vs, Focus s st gs vs) ∧ (∃ s1 r, s.loadBlock s.cur st 0x110100 64 = .ok s1 st r)
      ∧ (s.hub.launches.filter fun l => l.state == .pending).length + s.hub.tasks.length = 512 := by
  refine ⟨⟨postMachine 511, postStrand, focusOf rfl rfl rfl, notFatal (by decide +kernel), ⟨by unfold HoldsQuad; decide +kernel, by decide +kernel⟩, Or.inl rfl, by decide +kernel,
    by decide +kernel, ?_, ?_, ?_, ?_, by decide +kernel⟩, postMachine 512, postStrand, focusOf rfl rfl rfl, ?_, by decide +kernel⟩
  · obtain ⟨s1, d, h, hp⟩ := readOf (r := (postMachine 511).loadBlock 0 postStrand 0x110100 64) (u := postStrand) (p := fun s1 _ => decide ((s1.queueAt 61).enable = false
        ∧ (s1.queueAt 62).enable = true ∧ (s1.queueAt 62).tenant.toNat ≠ 0
        ∧ (s1.queueAt 0).enable = true ∧ (s1.queueAt 0).tenant.toNat = 0 ∧ ((s1.queueAt 0).tail - (s1.queueAt 0).head).toNat = 2 ^ (s1.queueAt 0).logn.toNat
        ∧ (let q := s1.queueAt 63
          q.enable = true ∧ q.tenant.toNat = 0 ∧ (q.tail - q.head).toNat ≠ 2 ^ q.logn.toNat
            ∧ s1.hubPa q.tenant.toNat q.asid.toNat (q.base.toNat + q.tail.toNat % 2 ^ q.logn.toNat * 64) .write = some 0x100BC0
            ∧ s1.isLost 0x100BC0 = false ∧ s1.keyCleared (s1.keyOfAsid q.asid.toNat) = false ∧ s1.lineKey (0x100BC0 / 128) = s1.keyNow (s1.keyOfAsid q.asid.toNat)
            ∧ 0x100BC0 % 128 + 64 ≤ 128 ∧ s1.homeQuiet (0x100BC0 / 128) true = true))) (by decide +kernel)
    exact ⟨s1, d, h, of_decide_eq_true hp⟩
  · obtain ⟨s1, d, h, hp⟩ := readOf (r := (postMachine 511).loadBlocks 0 postStrand 32 8 0x110300) (u := postStrand) (p := fun s1 d =>
        ((List.range 8).map fun i => d / 2 ^ (256 * i) % 2 ^ 256).all fun f => ftOk f && (s1.ftFault (s1.ctxOf 0 postStrand) f).isNone) (by decide +kernel)
    refine ⟨s1, d, h, fun f hf => ?_⟩
    have x := List.all_eq_true.mp hp f hf
    simp only [Bool.and_eq_true, Option.isNone_iff_eq_none] at x
    exact x
  · obtain ⟨s1, d, h, hp⟩ := readOf (r := (postMachine 511).loadBlocks 0 postStrand 32 8 0x110400) (u := postStrand) (p := fun _ d =>
        ((List.range 8).map fun i => d / 2 ^ (256 * i) % 2 ^ 256).any fun f => !ftOk f) (by decide +kernel)
    obtain ⟨f, hf, x⟩ := List.any_eq_true.mp hp
    exact ⟨s1, d, h, f, hf, by simpa using x⟩
  · have h : (postMachine 511).physOf ((postMachine 511).ctxOf 0 postStrand) (0x700000 % 2 ^ 52) .read = .error (trapOf 0x06 accRead 0x700000) := by decide +kernel
    exact ⟨trapOf 0x06 accRead 0x700000, by show State.loadBlock _ 0 _ _ _ = _; simp only [State.loadBlock, h], rfl, rfl, by decide, by decide⟩
  · obtain ⟨s1, d, h, -⟩ := readOf (r := (postMachine 512).loadBlock 0 postStrand 0x110100 64) (u := postStrand) (p := fun _ _ => true) (by decide +kernel)
    exact ⟨s1, d, h⟩


/-- An earlier store of the strand is outstanding: its posts wait. -/
theorem witness_PostsAndMarkers_Wait :
    (∃ (s : State) (st : Strand), (∀ gs vs, Focus s st gs vs) ∧ ∀ a ∈ (s.coreAt (coreOf s.cur)).queue, a.slot ≠ s.cur ∧ a.kind.touches = false)
    ∧ ∃ (s : State) (st : Strand), Focus s st [4, 7] [] ∧ ¬(∀ a ∈ (s.coreAt (coreOf s.cur)).queue, a.slot ≠ s.cur ∧ a.kind.touches = false) :=
  ⟨⟨postMachine 511, _, focusOf rfl rfl rfl, by decide +kernel⟩,
    { postMachine 511 with cores := [(0, { CoreState.reset with queue := [access .store 6 [piece8] .none] })] }, _, ⟨rfl, rfl, by decide +kernel, by decide +kernel⟩, by decide +kernel⟩

theorem witness_TrapsReturnsAndExits :
    (∃ (s : State) (st : Strand), Focus s st [] [] ∧ NotFatal st ∧ (∀ l ∈ st.loops, l.finish ≠ st.pc) ∧ st.priv = true ∧ (∀ a ∈ (s.coreAt (coreOf s.cur)).queue, a.slot ≠ s.cur)
      ∧ s.launchOf st.lid = some (placedLaunch 0 0))
    ∧ (∃ (s : State) (st : Strand), Focus s st [] [] ∧ NotFatal st ∧ st.priv = false)
    ∧ (∃ (s : State) (st : Strand), Focus s st [] [] ∧ st.inh = true ∧ ¬NotFatal st ∧ s.tenantOf st < 64 ∧ (∀ a ∈ (s.coreAt (coreOf s.cur)).queue, a.slot ≠ s.cur)
      ∧ (s.counterAt (execCounter (s.tenantOf st) 0)).count = 0)
    ∧ ∃ (s : State) (st : Strand), Focus s st [] [] ∧ ∃ a ∈ (s.coreAt (coreOf s.cur)).queue, a.slot = s.cur := by
  have none' (st : Strand) : ∀ a ∈ ((machine st).coreAt (coreOf (machine st).cur)).queue, a.slot ≠ (machine st).cur := by
    show ∀ a ∈ ([] : List Access), _
    intro a h; cases h
  refine ⟨⟨machine (strandWith []), _, focusMachine _ rfl _ _, notFatal (by decide +kernel), by decide +kernel, rfl, none' _, rfl⟩,
    ⟨machine { strandWith [] with priv := false }, _, focusMachine _ rfl _ _, notFatal (by decide +kernel), rfl⟩,
    ⟨machine { strandWith [] with inh := true }, _, focusMachine _ rfl _ _, rfl, fun h => by simp [NotFatal] at h, by decide +kernel, none' _, by decide +kernel⟩,
    queued (access .load 6 [piece8] .none), base4, ⟨rfl, rfl, by decide +kernel, by decide +kernel⟩, access .load 6 [piece8] .none, by decide +kernel, rfl⟩

/-- A stopped Hod command of tenant 0, job 7, in quad 0; descriptors in its scratchpad. -/
def stoppedMachine (st : Strand) : State :=
  let s := (machine st).setQuad 0 { (machine st).quadAt 0 with cmds := [cmdOf (some .hod) (.hcopy copyD) (.stopped 7 0 0)] }
  { s with utlb := [(0, pages)], mem := Memory.writeLe [] (sp0 + 0x100) 64 (0x100200 + 0x110000 * 2 ^ 64 + 128 * 2 ^ 128 + 2 ^ 160 + 2 ^ 176) }
def hintStrand : Strand := strandWith [(4, 0x3FFF80), (5, 0x80), (6, 0x110100), (7, 7), (8, 0xFFFFFFFF)]

/-- The job saved with the quad, which waits for its restore. -/
def awayMachine (tenant : Nat) : State :=
  { machine hintStrand with
    hub := { State.reset.hub with launches := [{ placedLaunch 0 0 with tenant := tenant }] }
    quads := [(0, { (machine hintStrand).quadAt 0 with phase := .awaiting })]
    coursing := { State.reset.coursing with savedQuads := [(192 * tenant,
      { cmds := [{ cmdOf (some .hod) (.hcopy copyD) (.stopped 7 0 0) with tenant := tenant }], inbox := [], phint := [], cells := [], barriers := [], ended := [] })] } }

theorem witness_HintsInvalidationAndAcknowledgement :
    (∃ (s : State) (st : Strand), (∀ gs vs, Focus s st gs vs) ∧ NotFatal st ∧ (0xFFFFFFFF : BitVec 32).toNat < 2 ^ st.vcount ∧ HoldsQuad s st ∧ (st.priv || st.inh) = true
      ∧ (st.getG 4).toNat % 128 = 0 ∧ (st.getG 5).toNat % 128 = 0 ∧ (st.getG 4).toNat + (st.getG 5).toNat ≤ 2 ^ 22 ∧ ((st.getG 6).extractLsb' 0 52).toNat % 64 = 0
      ∧ (∃ s1 d, s.loadBlock s.cur st 0x110100 64 = .ok s1 st d ∧ CopyLegal d ∧ TagLegal d ∧ s1.stageInside (s1.ctxOf s.cur st) 0 128 d = true)
      ∧ (∀ a ∈ (s.coreAt (coreOf s.cur)).queue, a.slot ≠ s.cur ∧ a.kind.writes = false) ∧ s.asidBusy (s.asidOf st) = false
      ∧ s.findJob (s.tenantOf st) (st.getG 8).toNat = none ∧ s.savedJob (s.tenantOf st) (st.getG 8).toNat = none ∧ (st.getG 8).toNat < 2 ^ 32
      ∧ ∃ c, s.findJob (s.tenantOf st) (st.getG 7).toNat = some (0, c) ∧ s.holdsQuad (s.tenantOf st) 0 = true ∧ c.engine = some .hod ∧ (s.quadAt 0).cmdOf c.seq = some c
        ∧ (s.quadAt 0).phase = .running)
    ∧ (∃ (s : State) (st : Strand), Focus s st [] [] ∧ NotFatal st ∧ st.priv = false ∧ 2 ^ st.vcount ≤ (0x10000 : BitVec 32).toNat)
    ∧ (∃ (s : State) (st : Strand), (∀ gs vs, Focus s st gs vs) ∧ (st.priv || st.inh) = true ∧ s.findJob (s.tenantOf st) 7 = none ∧ s.savedJob (s.tenantOf st) 7 = some 0
      ∧ s.holdsQuad (s.tenantOf st) 0 = true ∧ (s.quadAt 0).phase ≠ .running ∧ ∀ n, (s.quadAt 0).phase ≠ .stopped n)
    ∧ (∃ (s : State) (st : Strand), (∀ gs vs, Focus s st gs vs) ∧ (st.priv || st.inh) = true ∧ s.findJob (s.tenantOf st) 7 = none ∧ s.savedJob (s.tenantOf st) 7 = some 0
      ∧ s.holdsQuad (s.tenantOf st) 0 = false)
    ∧ (∃ (s : State) (st : Strand), (∀ gs vs, Focus s st gs vs) ∧ (st.priv || st.inh) = true ∧ (∃ c, s.findJob (s.tenantOf st) 7 = some (0, c))
      ∧ s.holdsQuad (s.tenantOf st) 0 = true ∧ (s.quadAt 0).phase ≠ .running ∧ ∀ n, (s.quadAt 0).phase ≠ .stopped n)
    ∧ ∃ (s : State) (st : Strand), (∀ gs vs, Focus s st gs vs) ∧ (st.priv || st.inh) = true ∧ ∃ c, s.findJob (s.tenantOf st) 7 = some (0, c) ∧ s.holdsQuad (s.tenantOf st) 0 = false := by
  refine ⟨⟨stoppedMachine hintStrand, hintStrand, focusOf rfl rfl rfl, notFatal (by decide +kernel), by decide +kernel, by unfold HoldsQuad; decide +kernel, rfl, by decide +kernel,
      by decide +kernel, by decide +kernel, by decide +kernel, ?_, by decide +kernel, by decide +kernel, by decide +kernel, by decide +kernel, by decide +kernel,
      cmdOf (some .hod) (.hcopy copyD) (.stopped 7 0 0), by decide +kernel, by decide +kernel, rfl, by decide +kernel, rfl⟩,
    ⟨machine { strandWith [] with priv := false, vcount := 16 }, _, focusMachine _ rfl _ _, notFatal (by decide +kernel), rfl, by decide⟩,
    ⟨awayMachine 0, hintStrand, focusOf rfl rfl rfl, rfl, by decide +kernel, by decide +kernel, by decide +kernel, by decide +kernel, by intro n h; cases h⟩,
    ⟨awayMachine 5, hintStrand, focusOf rfl rfl rfl, rfl, by decide +kernel, by decide +kernel, by decide +kernel⟩,
    ⟨{ stoppedMachine hintStrand with quads := [(0, { (stoppedMachine hintStrand).quadAt 0 with phase := .awaiting })] }, hintStrand, focusOf rfl rfl rfl, rfl,
      ⟨cmdOf (some .hod) (.hcopy copyD) (.stopped 7 0 0), by decide +kernel⟩, by decide +kernel, by decide +kernel, by intro n h; cases h⟩,
    { stoppedMachine hintStrand with hub := { State.reset.hub with launches := [{ placedLaunch 0 0 with tenant := 5 }] }
                                     quads := [(0, { (stoppedMachine hintStrand).quadAt 0 with cmds := [{ cmdOf (some .hod) (.hcopy copyD) (.stopped 7 0 0) with tenant := 5 }] })] },
    hintStrand, focusOf rfl rfl rfl, rfl, { cmdOf (some .hod) (.hcopy copyD) (.stopped 7 0 0) with tenant := 5 }, by decide +kernel, by decide +kernel⟩
  obtain ⟨s1, d, h, hp⟩ := readOf (r := (stoppedMachine hintStrand).loadBlock 0 hintStrand 0x110100 64) (u := hintStrand) (p := fun s1 d =>
    decide (d / 2 ^ 328 % 2 ^ 184 = 0 ∧ d / 2 ^ 128 % 2 ^ 32 ≠ 0 ∧ d / 2 ^ 160 % 2 ^ 16 ≠ 0 ∧ d / 2 ^ 176 % 2 ^ 16 ≠ 0 ∧ d / 2 ^ 324 % 2 = 0)
      && s1.stageInside (s1.ctxOf 0 hintStrand) 0 128 d) (by decide +kernel)
  simp only [Bool.and_eq_true, decide_eq_true_eq] at hp
  obtain ⟨⟨a, b, c, e, f⟩, g⟩ := hp
  exact ⟨s1, d, h, ⟨a, b, c, e, fun x => by omega⟩, fun x => by omega, g⟩

/-- A strand whose line is not in its buffer, in a machine with the tables of its address space. -/
def fetching (pc : VAddr) : Strand := { strandWith [] with fetch := none, pc := pc }
def fetchMachine (pc : VAddr) : State :=
  { machine (fetching pc) with
    mem := tableMem.writeLe 0x100000 64 0x2800, utlb := [], copies := [(0x2000, sharedCopy)]
    hub := { State.reset.hub with launches := [placedLaunch 0 0], atbase := 0x400000 } }

theorem witness_LinesAreFetchedAndWalksAreHeld :
    (∀ pc ∈ [(0x100002 : VAddr), 0x10000A], ∃ (s : State) (st : Strand) (e : TlbEntry), st.pc = pc ∧ s.strandAt 0 = some st ∧ st.fetch = none
      ∧ s.physOf (s.ctxOf 0 st) (st.pc.toNat / 64 * 64) .fetch = .ok (0x100000, e) ∧ PlainStore s 0x100000 (s.keyOfAsid (s.asidOf st)) ∧ s.heldCode (coreOf 0) 0x100000 = none
      ∧ s.lineReady (s.ctxOf 0 st).agent 0x100000 (s.ctxOf 0 st).tenant (s.keyOfAsid (s.ctxOf 0 st).asid) false = true
      ∧ (checkLine (BitVec.ofNat 512 (s.mem.readLe 0x100000 64))).isOk = true ∧ (st.pc.toNat % 64 - 2) / 2 < lineHeadCount (BitVec.ofNat 512 (s.mem.readLe 0x100000 64)))
    ∧ (∀ pc ∈ [(0x100000 : VAddr), 0x100001, 0x10000C], ∃ (s : State) (st : Strand) (e : TlbEntry), st.pc = pc ∧ s.strandAt 0 = some st ∧ st.fetch = none ∧ NotFatal st
      ∧ s.physOf (s.ctxOf 0 st) (st.pc.toNat / 64 * 64) .fetch = .ok (0x100000, e) ∧ PlainStore s 0x100000 (s.keyOfAsid (s.asidOf st))
      ∧ s.lineReady (s.ctxOf 0 st).agent 0x100000 (s.ctxOf 0 st).tenant (s.keyOfAsid (s.ctxOf 0 st).asid) false = true
      ∧ (st.pc.toNat % 2 = 1 ∨ st.pc.toNat % 64 = 0 ∨ lineHeadCount (BitVec.ofNat 512 (s.mem.readLe 0x100000 64)) ≤ (st.pc.toNat % 64 - 2) / 2))
    ∧ (∃ (s : State) (st : Strand) (e : TlbEntry), s.strandAt 0 = some st ∧ st.fetch = none ∧ s.physOf (s.ctxOf 0 st) (st.pc.toNat / 64 * 64) .fetch = .ok (0x100000, e)
      ∧ s.heldCode (coreOf 0) 0x100000 = none
      ∧ s.lineReady (s.ctxOf 0 st).agent 0x100000 (s.ctxOf 0 st).tenant (s.keyOfAsid (s.ctxOf 0 st).asid) false = false)
    ∧ (∃ (s : State) (st : Strand) (f : Machine.Trap), s.strandAt 0 = some st ∧ st.fetch = none ∧ NotFatal st ∧ s.physOf (s.ctxOf 0 st) (st.pc.toNat / 64 * 64) .fetch = .error f
      ∧ f.badpte = false ∧ f.spill = false ∧ f.acc = 1 ∧ f.code < 256)
    ∧ (∃ (s : State) (st : Strand) (e : TlbEntry) (l : Line), s.strandAt 0 = some st ∧ st.fetch = none ∧ s.physOf (s.ctxOf 0 st) (st.pc.toNat / 64 * 64) .fetch = .ok (0x100000, e)
      ∧ PlainStore s 0x100000 (s.keyOfAsid (s.asidOf st)) ∧ s.heldCode (coreOf 0) 0x100000 = some l ∧ (checkLine l).isOk = true ∧ (st.pc.toNat % 64 - 2) / 2 < lineHeadCount l)
    ∧ (∃ (s : State), SMap.get [] s.qtlb 0 = [] ∧ s.walkHeld 0 0x100000 = none ∧ s.walk 0 0x100000 = .ok (2, 0x10003F) ∧ s.walkHeld 0 0x700000 = none ∧ s.walk 0 0x700000 = .error .invalid)
    ∧ ∃ (s : State) (p : Nat), SMap.get [] s.qtlb 0 = [] ∧ s.walkHeld 0 0x100000 = some p := by
  refine ⟨?_, ?_, ⟨{ fetchMachine 0x100002 with copies := [] }, fetching 0x100002, { asid := 0, level := 2, page := 16, entry := placedLeaf }, rfl, rfl, by decide +kernel, rfl, by decide +kernel⟩,
    ⟨fetchMachine 0x700002, fetching 0x700002, trapOf 0x06 accFetch 0x700000, rfl, rfl, notFatal (by decide +kernel), by decide +kernel, rfl, rfl, rfl, by decide⟩,
    ⟨{ fetchMachine 0x100002 with copies := [], icache := [(0x100000 / 64, BitVec.ofNat 512 0x2800)] }, fetching 0x100002, { asid := 0, level := 2, page := 16, entry := placedLeaf }, _, rfl, rfl, by decide +kernel,
      by unfold PlainStore; decide +kernel, rfl, by decide +kernel, by decide +kernel⟩,
    ⟨fetchMachine 0x100002, rfl, by decide +kernel, by decide +kernel, by decide +kernel, by decide +kernel⟩,
    { fetchMachine 0x100002 with homes := { State.reset.homes with dir := [((0x400000 : Nat) / 512, { DirEntry.reset with lines := #v[.O, .I, .I, .I], ptrs := [(200, 1)] })] } }, 0x400000, rfl, by decide +kernel⟩
  · intro pc h
    simp only [List.mem_cons, List.not_mem_nil, or_false] at h
    rcases h with rfl | rfl
    · exact ⟨fetchMachine 0x100002, fetching 0x100002, { asid := 0, level := 2, page := 16, entry := placedLeaf }, rfl, rfl, rfl, by decide +kernel, by unfold PlainStore; decide +kernel, rfl, by decide +kernel,
        by decide +kernel, by decide +kernel⟩
    · exact ⟨fetchMachine 0x10000A, fetching 0x10000A, { asid := 0, level := 2, page := 16, entry := placedLeaf }, rfl, rfl, rfl, by decide +kernel, by unfold PlainStore; decide +kernel, rfl, by decide +kernel,
        by decide +kernel, by decide +kernel⟩
  · intro pc h
    simp only [List.mem_cons, List.not_mem_nil, or_false] at h
    rcases h with rfl | rfl | rfl
    · exact ⟨fetchMachine 0x100000, fetching 0x100000, { asid := 0, level := 2, page := 16, entry := placedLeaf }, rfl, rfl, rfl, notFatal (by decide +kernel), by decide +kernel, by unfold PlainStore; decide +kernel, by decide +kernel, by decide +kernel⟩
    · exact ⟨fetchMachine 0x100001, fetching 0x100001, { asid := 0, level := 2, page := 16, entry := placedLeaf }, rfl, rfl, rfl, notFatal (by decide +kernel), by decide +kernel, by unfold PlainStore; decide +kernel, by decide +kernel, by decide +kernel⟩
    · exact ⟨fetchMachine 0x10000C, fetching 0x10000C, { asid := 0, level := 2, page := 16, entry := placedLeaf }, rfl, rfl, rfl, notFatal (by decide +kernel), by decide +kernel, by unfold PlainStore; decide +kernel, by decide +kernel, by decide +kernel⟩
/-! Home dies and hosts -/

/-- Line 0x2003 of home die 0, the last of its region: its state, its holders, its list of requests and its horizon. -/
def reqBy (a : Nat) (k : ReqKind) (p : ReqPhase) : Request := { agent := a, kind := k, core := 0, tenant := 0, key := 0, issued := 0, phase := p, no := 0 }
def homed (l : LineState) (ptrs : List (Nat × BitVec 4)) (rs : List Request) (h : Nat) : State :=
  { State.reset with
    homes := { State.reset.homes with
      dir := [(0x800, { DirEntry.reset with lines := #v[.I, .I, .I, l], ptrs := ptrs })], reqs := [(0x2003, rs)], horizons := [(0x2003, h)] } }

theorem unbegun {s : State} {line : Nat} {r : Request} (h : s.reqsAt line = [r]) (hp : r.phase = .waiting ∨ r.phase = .held) (hi : s.homes.ingress = []) : Unbegun s line r [] :=
  ⟨⟨h, fun _ m => by rw [hi] at m; cases m⟩, hp, fun _ m => by cases m⟩

theorem atHead {l : LineState} {ptrs : List (Nat × BitVec 4)} {a : Nat} {k : ReqKind} {h : Nat} (ha : a < 192)
    (ht : (homed l ptrs [reqBy a k .waiting] h).tileOf 0x2003 = none) :
    AtHead (homed l ptrs [reqBy a k .waiting] h) 0x2003 (reqBy a k .waiting) [] :=
  ⟨unbegun rfl (Or.inl rfl) rfl, ha, ⟨by decide, rfl⟩, ht, Or.inl rfl⟩

/-- A write of 8 bytes in the line by a party that holds no copies. -/
def homeWrite : ReqKind := .homeWrite { pa := 0x100180, bytes := 8, val := 7, tenant := 0, key := 0, whole := false }

/-- A tile of two lines, and a request for its second line. -/
def tileOf7 (holder : Nat) (present : Bool) : TileRec :=
  { holder := holder, own := false, present := present, moving := false, tenant := 0, base := 0x100100, rows := 1, rowb := 256, stride := 0, nlines := 2 }
def tiled (agent holder : Nat) (present : Bool) : State :=
  let s := homed .I [] [reqBy agent .getS .waiting] 0
  { s with homes := { s.homes with
      dir := [(0x800, { DirEntry.reset with tb := 0xC, tid := 9 })]
      tiles := [(9, tileOf7 holder present)] } }

/-- A region whose pointers are all in use, with another line in O at quad 8: a new holder turns it coarse. -/
def crowded (l : LineState) (k : ReqKind) : State :=
  { State.reset with
    homes := { State.reset.homes with
      dir := [(0x800, { DirEntry.reset with lines := #v[.O, .O, .S, l], ptrs := [(8, 1), (9, 2), (10, 4), (11, 4)] })], reqs := [(0x2003, [reqBy 191 k .waiting])] } }

theorem crowdedHead {l : LineState} {k : ReqKind} (h : (crowded l k).tileOf 0x2003 = none) : AtHead (crowded l k) 0x2003 (reqBy 191 k .waiting) [] :=
  ⟨unbegun rfl (Or.inl rfl) rfl, by show 191 < 192; decide, ⟨by decide, rfl⟩, h, Or.inl rfl⟩

theorem witness_HomesServeTheirRequests :
    (∃ s r, AtHead s 0x2003 r [] ∧ r.kind = .getS ∧ homeOwner s 0x2003 = none ∧ recallsOf s 0x2003 r.agent false = [])
    ∧ (∃ s r, AtHead s 0x2003 r [] ∧ r.kind = .getS ∧ homeOwner s 0x2003 = none ∧ recallsOf s 0x2003 r.agent false ≠ [])
    ∧ (∃ s r y, AtHead s 0x2003 r [] ∧ r.kind = .getS ∧ homeOwner s 0x2003 = some y ∧ y ≠ r.agent)
    ∧ (∃ s r c, AtHead s 0x2003 r [] ∧ r.kind = .getL c ∧ s.sys.alarm = false ∧ homeOwner s 0x2003 = none ∧ s.time < r.issued + 2 ^ (c.toNat + 6) - 8 ∧ s.copyAt r.agent 0x2003 = none)
    ∧ (∃ s r c, AtHead s 0x2003 r [] ∧ r.kind = .getL c ∧ s.sys.alarm = false ∧ homeOwner s 0x2003 = none ∧ r.issued + 2 ^ (c.toNat + 6) - 8 ≤ s.time)
    ∧ (∃ s r c y, AtHead s 0x2003 r [] ∧ r.kind = .getL c ∧ s.sys.alarm = false ∧ homeOwner s 0x2003 = some y ∧ y ≠ r.agent)
    ∧ (∃ s r w, AtHead s 0x2003 r [] ∧ r.kind = .getO w ∧ otherHolders s 0x2003 r.agent ≠ [])
    ∧ (∃ s r w, AtHead s 0x2003 r [] ∧ r.kind = .getO w ∧ otherHolders s 0x2003 r.agent = [] ∧ recallsOf s 0x2003 r.agent true = [] ∧ s.horizonOf 0x2003 ≤ s.time)
    ∧ (∃ s r w, AtHead s 0x2003 r [] ∧ r.kind = .getO w ∧ otherHolders s 0x2003 r.agent = [] ∧ recallsOf s 0x2003 r.agent true = [] ∧ s.time < s.horizonOf 0x2003)
    ∧ (∃ s r w, AtHead s 0x2003 r [] ∧ r.kind = .getO w ∧ otherHolders s 0x2003 r.agent = [] ∧ recallsOf s 0x2003 r.agent true ≠ [] ∧ homeLine s 0x2003 ≠ .O)
    ∧ (∃ (s : State) (r : Request) (w : Bool), Queued s 0x2003 [r] ∧ r.phase = .horizon ∧ r.kind = .getO w ∧ r.agent < 192 ∧ isDevice (128 * 0x2003) = true ∧ s.isLost (128 * 0x2003) = false
      ∧ recallsOf s 0x2003 r.agent true = [])
    ∧ (∃ (s : State) (r : Request) (x : TileRec), s.reqsAt 0x2003 = [r] ∧ r.phase = .waiting ∧ r.kind = .getS ∧ s.tileOf 0x2003 = some (9, x) ∧ x.holder ≠ r.agent
      ∧ s.tileBusy x 0x2003 r.no = false ∧ s.demoteRecalls 9 x = [])
    ∧ (∃ (s : State) (r : Request) (x : TileRec), s.reqsAt 0x2003 = [r] ∧ r.phase = .waiting ∧ r.kind = .getS ∧ s.tileOf 0x2003 = some (9, x) ∧ s.tileBusy x 0x2003 r.no = true)
    ∧ (∃ (s : State) (r : Request) (x : TileRec), s.reqsAt 0x2003 = [r] ∧ r.phase = .waiting ∧ r.kind = .getS ∧ s.tileOf 0x2003 = some (9, x) ∧ x.holder = r.agent
      ∧ s.tileBusy x 0x2003 r.no = false ∧ (∀ l ∈ x.lines, ∀ y ∈ s.reqsAt l, y.kind = .part → y.no = r.no) ∧ s.isLost (128 * 0x2003) = false ∧ x.present = false ∧ x.own = false)
    ∧ (∀ lh ∈ [(LineState.S, 0), (LineState.I, 0), (LineState.I, 1)], ∃ (s : State) (r : Request) (w : HomeStore), Unbegun s 0x2003 r [] ∧ r.agent = 255 ∧ r.kind = .homeWrite w ∧ w.pa / 128 = 0x2003
      ∧ isDevice w.pa = true ∧ s.tileOf 0x2003 = none ∧ (SMap.find s.homes.dir (0x2003 / 4)).isSome ∧ PlainStore s w.pa w.key
      ∧ (otherHolders s 0x2003 r.agent = [] ↔ lh.1 = .I) ∧ s.horizonOf 0x2003 = lh.2 ∧ s.time = 0) := by
  refine ⟨⟨homed .I [] [reqBy 191 .getS .waiting] 0, _, atHead (by decide) (by decide +kernel), rfl, by decide +kernel, by decide +kernel⟩,
    ⟨crowded .I .getS, _, crowdedHead (by decide +kernel), rfl, by decide +kernel, by decide +kernel⟩,
    ⟨homed .O [(7, 8)] [reqBy 191 .getS .waiting] 0, _, 7, atHead (by decide) (by decide +kernel), rfl, by decide +kernel, by decide⟩,
    ⟨homed .I [] [reqBy 191 (.getL 7) .waiting] 0, _, 7, atHead (by decide) (by decide +kernel), rfl, rfl, by decide +kernel, by decide, rfl⟩,
    ⟨{ homed .I [] [reqBy 191 (.getL 0) .waiting] 0 with time := 64 }, _, 0, ⟨unbegun rfl (Or.inl rfl) rfl, by decide, ⟨by decide, rfl⟩, by decide +kernel, Or.inl rfl⟩, rfl, rfl, by decide +kernel, by decide⟩,
    ⟨homed .O [(7, 8)] [reqBy 191 (.getL 1) .waiting] 0, _, 1, 7, atHead (by decide) (by decide +kernel), rfl, rfl, by decide +kernel, by decide⟩,
    ⟨homed .S [(191, 8), (7, 8)] [reqBy 191 (.getO true) .waiting] 0, _, true, atHead (by decide) (by decide +kernel), rfl, by decide +kernel⟩,
    ⟨homed .S [(191, 8)] [reqBy 191 (.getO false) .waiting] 0, _, false, atHead (by decide) (by decide +kernel), rfl, by decide +kernel, by decide +kernel, by decide +kernel⟩,
    ⟨homed .I [] [reqBy 191 (.getO false) .waiting] 1, _, false, atHead (by decide) (by decide +kernel), rfl, by decide +kernel, by decide +kernel, by decide +kernel⟩,
    ⟨crowded .I (.getO true), _, true, crowdedHead (by decide +kernel), rfl, by decide +kernel, by decide +kernel, by decide +kernel⟩,
    ⟨homed .I [] [reqBy 191 (.getO false) .horizon] 5, _, false, ⟨rfl, fun _ h => by cases h⟩, rfl, rfl, by decide, by decide, rfl, by decide +kernel⟩,
    ⟨tiled 191 7 true, _, tileOf7 7 true, rfl, rfl, rfl, by decide +kernel, by decide, by decide +kernel, by decide +kernel⟩,
    ⟨{ tiled 191 7 true with homes := { (tiled 191 7 true).homes with reqs := [(0x2002, [reqBy 3 .getS (.probing 1)]), (0x2003, [reqBy 191 .getS .waiting])] } }, _, tileOf7 7 true, rfl, rfl, rfl, by decide +kernel,
      by decide +kernel⟩,
    ⟨tiled 7 7 false, _, tileOf7 7 false, rfl, rfl, rfl, by decide +kernel, rfl, by decide +kernel, by decide +kernel, rfl, rfl, rfl⟩, ?_⟩
  intro lh h
  simp only [List.mem_cons, List.not_mem_nil, or_false] at h
  rcases h with rfl | rfl | rfl
  · exact ⟨homed .S [(191, 8)] [reqBy 255 homeWrite .waiting] 0, _, _, unbegun rfl (Or.inl rfl) rfl, rfl, rfl, rfl, by decide, by decide +kernel, rfl, by unfold PlainStore; decide +kernel,
      by decide +kernel, by decide +kernel, rfl⟩
  · exact ⟨homed .I [] [reqBy 255 homeWrite .waiting] 0, _, _, unbegun rfl (Or.inl rfl) rfl, rfl, rfl, rfl, by decide, by decide +kernel, rfl, by unfold PlainStore; decide +kernel,
      by decide +kernel, by decide +kernel, rfl⟩
  · exact ⟨homed .I [] [reqBy 255 homeWrite .waiting] 1, _, _, unbegun rfl (Or.inl rfl) rfl, rfl, rfl, rfl, by decide, by decide +kernel, rfl, by unfold PlainStore; decide +kernel,
      by decide +kernel, by decide +kernel, rfl⟩

/-- The machine with a probe to agent 199 and an answer of quad 7 under way. -/
def probed (inv : Bool) (kind : AnswerKind) (k : ReqKind) (left : Nat) : State :=
  let s := homed .S [(7, 8)] [reqBy 191 k (.probing left)] 0
  { s with
    homes := { s.homes with probes := [{ agent := 199, line := 0x2003, invalidate := inv, sent := 0 }], answers := [{ agent := 7, line := 0x2003, kind := kind, invalidate := inv }] }
    copies := [(2 ^ 45 * 199 + 0x2003, { st := .leased 64, presence := 1, modified := none, tenant := 0, key := 0, way := 0, reserved := 0, data := none })] }

theorem witness_AgentsAnswerTheHome :
    (∀ inv, ∃ (s : State) (p : Probe), s.probeOf 199 0x2003 = some p ∧ p.invalidate = inv ∧ 199 ∉ s.homes.isolated)
    ∧ (∃ (s : State) (p : Probe), s.probeOf 199 0x2003 = some p ∧ 199 ∈ s.homes.isolated)
    ∧ (∃ (s : State) (x : Answer) (r : Request), s.homes.answers = [] ++ x :: [] ∧ x.agent = 7 ∧ x.line = 0x2003 ∧ x.kind ≠ .writeBack ∧ 7 ∉ s.homes.isolated ∧ Queued s 0x2003 [r]
      ∧ r.phase = .probing (0 + 2))
    ∧ (∃ (s : State) (x : Answer) (r : Request), s.homes.answers = [] ++ x :: [] ∧ x.agent = 7 ∧ x.line = 0x2003 ∧ x.kind ≠ .writeBack ∧ 7 ∉ s.homes.isolated ∧ Queued s 0x2003 [r]
      ∧ r.phase = .probing 1 ∧ r.kind = .getS ∧ r.agent < 192 ∧ isDevice (128 * 0x2003) = true ∧ s.isLost (128 * 0x2003) = false ∧ homeOwner s 0x2003 ≠ some r.agent
      ∧ recallsOf (s.shareOwner 0x2003) 0x2003 r.agent false = [])
    ∧ (∃ (s : State) (h p : Request) (x : Answer), s.homes.answers = [] ++ x :: [] ∧ x = { agent := 7, line := 0x2003, kind := .writeBack, invalidate := x.invalidate } ∧ Queued s 0x2003 (h :: [p])
      ∧ h.isPutO 7 = false ∧ p.isPutO 7 = true ∧ h.phase = .probing (0 + 2) ∧ p.kind = .putO)
    ∧ (∃ (s : State) (h : Request), Unbegun s 0x2003 h [] ∧ h.agent = 7 ∧ s.tileOf 0x2003 = none ∧ h.kind = .putO ∧ homeOwner s 0x2003 = some 7)
    ∧ (∃ (s : State) (h : Request), Unbegun s 0x2003 h [] ∧ h.agent = 7 ∧ s.tileOf 0x2003 = none ∧ h.kind = .putO ∧ homeOwner s 0x2003 ≠ some 7)
    ∧ (∃ (s : State) (h : Request), Unbegun s 0x2003 h [] ∧ h.agent = 7 ∧ s.tileOf 0x2003 = none ∧ h.kind = .putS ∧ (s.dirAt (0x2003 / 4)).coarse = false ∧ homeLine s 0x2003 = .S
      ∧ 7 ∈ homeHolders s 0x2003)
    ∧ ∃ (s : State) (c : L2Copy), SMap.find s.copies (2 ^ 45 * 199 + 0x2003) = some c ∧ c.st = .leased 64 :=
  ⟨fun inv => ⟨probed inv .invalidated .getS 1, _, rfl, rfl, fun h => by cases h⟩,
    ⟨{ probed true .invalidated .getS 1 with homes := { (probed true .invalidated .getS 1).homes with isolated := [199] } }, _, rfl, List.mem_singleton.mpr rfl⟩, ⟨probed true .invalidated (.getO false) 2, _, _, rfl, rfl, rfl, by decide, by decide, ⟨rfl, fun _ h => by cases h⟩, rfl⟩,
    ⟨probed false .notPresent .getS 1, _, _, rfl, rfl, rfl, by decide, by decide, ⟨rfl, fun _ h => by cases h⟩, rfl, rfl, by decide, by decide, rfl, by decide +kernel, by decide +kernel⟩,
    ⟨{ probed true .writeBack (.getO false) 2 with homes := { (probed true .writeBack (.getO false) 2).homes with reqs := [(0x2003, [reqBy 191 (.getO false) (.probing 2), reqBy 7 .putO .waiting])] } }, _, _, _, rfl, rfl,
      ⟨rfl, fun _ h => by cases h⟩, rfl, rfl, rfl, rfl⟩,
    ⟨homed .O [(7, 8)] [reqBy 7 .putO .waiting] 0, _, unbegun rfl (Or.inl rfl) rfl, rfl, rfl, rfl, by decide +kernel⟩, ⟨homed .S [(7, 8)] [reqBy 7 .putO .waiting] 0, _, unbegun rfl (Or.inl rfl) rfl, rfl, rfl, rfl, by decide +kernel⟩,
    ⟨homed .S [(7, 8), (8, 1)] [reqBy 7 .putS .waiting] 0, _, unbegun rfl (Or.inl rfl) rfl, rfl, rfl, rfl, rfl, by decide +kernel, by decide +kernel⟩, probed true .invalidated .getS 1, _, rfl, rfl⟩

/-- Line 0x180000000000 / 128 of the memory of host 0, with a request, and a probe to host 1. -/
def hosted (k : ReqKind) : State :=
  { State.reset with
    homes := { State.reset.homes with
      reqs := [(0x2003, [reqBy 5 .getS (.probing 2)]), (0x180000000000, [reqBy 5 k .waiting])], probes := [{ agent := 201, line := 0x2003, invalidate := true, sent := 0 }] } }

theorem witness_PortsOfHosts :
    (∀ off ∈ [0, 6 * 2 ^ 37 - 128], ∃ (s : State) (hpa : Nat), s.portUp 1 = true ∧ hpa = SMap.get 0 s.hub.hdmBase 1 + off ∧ off % 128 = 0 ∧ hpa % 128 = 0
      ∧ (let pa := off / 2 ^ 37 * 2 ^ 48 + off % 2 ^ 37
        s.homeState (pa / 2 ^ 48) ≠ .held ∧ s.sys.bifail.getLsbD 1 = false ∧ (200 + 1) ∉ s.homes.isolated ∧ s.sliceFull (pa / 128) = false))
    ∧ (∃ s : State, s.portUp 1 = true ∧ s.homeState 0 ≠ .held ∧ s.sys.bifail.getLsbD 1 = true)
    ∧ (∀ own : Bool, ∃ (s : State) (h : Request), Unbegun s 0x2003 h [] ∧ h.agent = 200 + 1 ∧ h.kind = .hostPut (List.replicate 128 0) ∧ (List.replicate 128 (0 : Byte)).length = 128 ∧ isDevice (128 * 0x2003) = true
      ∧ s.tileOf 0x2003 = none ∧ s.sys.bifail.getLsbD 1 = false ∧ PlainStore s (128 * 0x2003) h.key
      ∧ if own = true then homeOwner s 0x2003 = some (200 + 1) else homeOwner s 0x2003 ≠ some (200 + 1) ∧ otherHolders s 0x2003 255 = [] ∧ s.horizonOf 0x2003 ≤ s.time ∧ (SMap.find s.homes.dir (0x2003 / 4)).isSome)
    ∧ (∀ m ∈ [(false, 2 ^ 24 - 8), (true, 2 ^ 16 - 8)], m.2 % 8 = 0 ∧ m.2 < (if m.1 then 2 ^ 16 else 2 ^ 24) ∧ ¬(m.2 + 8 < (if m.1 then 2 ^ 16 else 2 ^ 24)))
    ∧ (∃ (s : State) (p : Probe) (r : Request), s.probeOf (200 + 1) 0x2003 = some p ∧ p.invalidate = true ∧ Queued s 0x2003 [r] ∧ r.isPutO (200 + 1) = false ∧ (∀ w, r.kind ≠ .homeWrite w) ∧ r.phase = .probing 2
      ∧ s.sys.bifail.getLsbD 1 = false ∧ PlainStore s (128 * 0x2003) (s.keyOfTenant 0))
    ∧ (∀ k ∈ [ReqKind.getS, .getO true], ∃ (s : State) (r : Request), isHostMem (128 * 0x180000000000) = true ∧ s.sys.portDown.getLsbD (window (128 * 0x180000000000) - 0xC) = false
      ∧ s.portUp (window (128 * 0x180000000000) - 0xC) = true ∧ Queued s 0x180000000000 [r] ∧ r.agent < 192 ∧ r.kind = k ∧ (List.replicate 128 (0 : Byte)).length = 128
      ∧ (SMap.get SnoopEntry.reset s.hub.snoop 0x180000000000).owned = false)
    ∧ (∃ s : State, SMap.find s.sys.linkDown 1 = none) ∧ ∃ s : State, SMap.find s.sys.linkDown 1 = some (7 + 1) := by
  refine ⟨?_, ⟨{ State.reset with sys := { State.reset.sys with bifail := 2 } }, by decide +kernel, by decide, rfl⟩, ?_, by decide,
    ⟨hosted .getS, _, _, rfl, rfl, ⟨rfl, fun _ h => by cases h⟩, rfl, (fun _ h => by cases h), rfl, rfl, (by unfold PlainStore; decide +kernel)⟩, ?_, ⟨State.reset, rfl⟩,
    { State.reset with sys := { State.reset.sys with linkDown := [(1, 8)] } }, rfl⟩
  · intro off h
    simp only [List.mem_cons, List.not_mem_nil, or_false] at h
    rcases h with rfl | rfl
    · exact ⟨State.reset, 0, by decide +kernel, rfl, rfl, rfl, by decide +kernel⟩
    · exact ⟨State.reset, 6 * 2 ^ 37 - 128, by decide +kernel, rfl, rfl, rfl, by decide +kernel⟩
  · intro own
    cases own
    · exact ⟨homed .I [] [reqBy 201 (.hostPut (List.replicate 128 0)) .waiting] 0, _, unbegun rfl (Or.inl rfl) rfl, rfl, rfl, List.length_replicate, by decide, by decide +kernel, rfl, by unfold PlainStore; decide +kernel, by decide +kernel⟩
    · exact ⟨homed .O [(201, 8)] [reqBy 201 (.hostPut (List.replicate 128 0)) .waiting] 0, _, unbegun rfl (Or.inl rfl) rfl, rfl, rfl, List.length_replicate, by decide, by decide +kernel, rfl, by unfold PlainStore; decide +kernel, by decide +kernel⟩
  · intro k h
    simp only [List.mem_cons, List.not_mem_nil, or_false] at h
    rcases h with rfl | rfl
    · exact ⟨hosted .getS, _, by decide +kernel, by decide +kernel, by decide +kernel, ⟨rfl, fun _ h => by cases h⟩, by decide, rfl, List.length_replicate, rfl⟩
    · exact ⟨hosted (.getO true), _, by decide +kernel, by decide +kernel, by decide +kernel, ⟨rfl, fun _ h => by cases h⟩, by decide, rfl, List.length_replicate, rfl⟩


/-- Harts 0 of cluster 0: its operations, with the line 0x2003 owned by its cluster's L2, or shared. -/
def hartOp (k : PartyKind) : PartyOp := { id := 1, kind := k, pa := 0x100180, bytes := 8, aq := false, rl := false, mode := .m, tenant := 0, key := 0, lease := 0 }
def harted (l : List PartyOp) (st : CopyState) : State :=
  { State.reset with hub := { State.reset.hub with ops := [(0, l)] }, copies := [(2 ^ 45 * 192 + 0x2003, { sharedCopy with st := st })] }

theorem witness_HostsAndTheirPorts :
    (∀ k ∈ [PartyKind.load, .store 7], ∃ (s : State) (op : PartyOp), s.opsOf 0 = op :: [] ∧ op.kind = k ∧ s.partyMay 0 op = true ∧ isDevice op.pa = true ∧ PlainStore s op.pa (s.partyKey 0 op)
      ∧ s.lineReady (192 + 0 / 4) op.pa (s.partyTenant 0 op) (s.partyKey 0 op) (k != .load) = true)
    ∧ (∀ k ∈ [PartyKind.load, .store 7], ∃ (s : State) (op : PartyOp), s.opsOf 0 = op :: [] ∧ op.kind = k ∧ s.partyMay 0 op = false)
    ∧ (∃ (s : State) (op : PartyOp), s.opsOf 0 = op :: [] ∧ op.kind = .load ∧ s.partyMay 0 op = true ∧ isDevice op.pa = true
      ∧ s.lineReady (192 + 0 / 4) op.pa (s.partyTenant 0 op) (s.partyKey 0 op) false = false)
    ∧ (∀ k ∈ [PartyKind.load, .store 7], ∃ (s : State) (y f x : PartyOp), s.opsOf 0 = y :: f :: x :: [] ∧ y.id ≠ x.id ∧ f.id ≠ x.id ∧ x.kind = .load ∧ y.kind = k
      ∧ f.kind = .fence true false true false)
    ∧ ∀ a ∈ [AtomicOp.min, .cas], ∃ (s : State) (op : PartyOp), s.opsOf 0 = op :: [] ∧ op.kind = .amo a 6 7 8 ∧ s.partyMay 0 op = true ∧ isDevice op.pa = true ∧ PlainStore s op.pa (s.partyKey 0 op)
      ∧ s.lineReady (192 + 0 / 4) op.pa (s.partyTenant 0 op) (s.partyKey 0 op) true = true := by
  refine ⟨?_, ?_, ⟨{ harted [hartOp .load] .owned with copies := [] }, _, rfl, rfl, by decide +kernel, by decide, by decide +kernel⟩, ?_, ?_⟩
  · intro k h
    simp only [List.mem_cons, List.not_mem_nil, or_false] at h
    rcases h with rfl | rfl
    · exact ⟨harted [hartOp .load] .shared, _, rfl, rfl, by decide +kernel, by decide, by unfold PlainStore; decide +kernel, by decide +kernel⟩
    · exact ⟨harted [hartOp (.store 7)] .owned, _, rfl, rfl, by decide +kernel, by decide, by unfold PlainStore; decide +kernel, by decide +kernel⟩
  · intro k h
    simp only [List.mem_cons, List.not_mem_nil, or_false] at h
    rcases h with rfl | rfl
    · exact ⟨harted [{ hartOp .load with pa := 0x7000000000000 }] .shared, _, rfl, rfl, by decide +kernel⟩
    · exact ⟨harted [{ hartOp (.store 7) with pa := 0x7000000000000 }] .shared, _, rfl, rfl, by decide +kernel⟩
  · exact fun k _ => ⟨harted [hartOp k, { hartOp (.fence true false true false) with id := 2 }, { hartOp .load with id := 3 }] .owned, _, _, _, rfl, by show 1 ≠ 3; decide, by decide, rfl, rfl, rfl⟩
  · intro a h
    simp only [List.mem_cons, List.not_mem_nil, or_false] at h
    rcases h with rfl | rfl
    · exact ⟨harted [hartOp (.amo .min 6 7 8)] .owned, _, rfl, rfl, by decide +kernel, by decide, by unfold PlainStore; decide +kernel, by decide +kernel⟩
    · exact ⟨harted [hartOp (.amo .cas 6 7 8)] .owned, _, rfl, rfl, by decide +kernel, by decide, by unfold PlainStore; decide +kernel, by decide +kernel⟩
/-! The hub -/

/-- A record of one strand with its completion record at 0x100440: it passes every check; with an odd entry it fails the first. Two dies at least
and three at most for a gang. -/
def goodRecord : Nat := (placedLaunch 0 0).record + 0x100440 * 2 ^ 320
def gangRecord : Nat := goodRecord + (1 + 2 * 8) * 2 ^ 160
/-- Queue 63 has one entry at 0x1007C0; a task waits. -/
def hubMachine (record : Nat) : State :=
  { State.reset with
    mem := tableMem.writeLe 0x1007C0 64 record
    hub := { State.reset.hub with
      atbase := 0x400000, tasks := [{ someTask with record := record }]
      queues := [(63, { Queue.reset with enable := true, logn := 4, base := 0x100400, head := 0xFFFFFFFF, tail := 0 })] } }

theorem recordPlace (record : Nat) (h : record ∈ [goodRecord, goodRecord + 1]) : RecordPlace (hubMachine record) 0 0 (recComp record) 0x100440 := by
  simp only [List.mem_cons, List.not_mem_nil, or_false] at h
  unfold RecordPlace PlainStore AtOnce
  rcases h with rfl | rfl <;> decide +kernel

theorem witness_QueuesAndTheirRecords :
    (∃ s : State, (s.queueAt 0).enable = false)
    ∧ (∃ s : State, let q := s.queueAt 63
      q.enable = true ∧ q.head ≠ q.tail ∧ s.poolSize < 512 ∧ s.hubPortDown q.tenant.toNat q.asid.toNat 0x1007C0 .read = false
        ∧ q.base.toNat + q.head.toNat % 2 ^ q.logn.toNat * 64 = 0x1007C0 ∧ s.hubReadable q.tenant.toNat q.asid.toNat 0x1007C0 64 = true ∧ s.hubRead q.tenant.toNat q.asid.toNat 0x1007C0 64 = none)
    ∧ (∃ s : State, let q := s.queueAt 63
      q.enable = true ∧ q.head ≠ q.tail ∧ s.poolSize < 512 ∧ s.hubRead q.tenant.toNat q.asid.toNat 0x1007C0 64 = some goodRecord ∧ s.recordFault goodRecord q.asid.toNat q.tenant.toNat false = none
        ∧ s.hubReadable q.tenant.toNat q.asid.toNat 0x1007C0 64 = true ∧ s.footReadable q.tenant.toNat q.asid.toNat goodRecord = true
        ∧ (∃ x, s.hub.tasks = x :: [] ∧ s.footReadable x.tenant x.asid x.record = true ∧ s.recordFault x.record x.asid x.tenant x.sright = none))
    ∧ (∃ s : State, let q := s.queueAt 63
      q.enable = true ∧ q.head ≠ q.tail ∧ s.poolSize < 512 ∧ s.hubRead q.tenant.toNat q.asid.toNat 0x1007C0 64 = some (goodRecord + 1)
        ∧ s.recordFault (goodRecord + 1) q.asid.toNat q.tenant.toNat false = some 1 ∧ RecordPlace s q.tenant.toNat q.asid.toNat (recComp (goodRecord + 1)) 0x100440
        ∧ s.hubReadable q.tenant.toNat q.asid.toNat 0x1007C0 64 = true ∧ s.footReadable q.tenant.toNat q.asid.toNat (goodRecord + 1) = true
        ∧ (∃ x, s.hub.tasks = x :: [] ∧ s.footReadable x.tenant x.asid x.record = true ∧ s.recordFault x.record x.asid x.tenant x.sright = some 1 ∧ RecordPlace s x.tenant x.asid (recComp x.record) 0x100440))
    ∧ (∃ s : State, let q := s.queueAt 63
      q.enable = true ∧ q.head ≠ q.tail ∧ s.poolSize < 512 ∧ s.hubPortDown q.tenant.toNat q.asid.toNat 0x1007C0 .read = false ∧ s.hubReadable q.tenant.toNat q.asid.toNat 0x1007C0 64 = false)
    ∧ (∃ s : State, s.opsOf 3 = [] ∧ (s.queueAt 63).enable = true ∧ ((0 : BitVec 32) - (s.queueAt 63).head).toNat ≤ 2 ^ (s.queueAt 63).logn.toNat)
    ∧ ∃ (s : State) (y r : PartyOp), s.opsOf 0 = [y, r] ∧ y.kind = .store 7 ∧ r.kind = .fence true false true false := by
  refine ⟨⟨State.reset, rfl⟩, ⟨{ hubMachine goodRecord with mem := [] }, by decide +kernel⟩, ⟨hubMachine goodRecord, rfl, by decide, by decide +kernel, by decide +kernel, by decide +kernel, by decide +kernel, by decide +kernel, _, rfl, by decide +kernel, by decide +kernel⟩,
    ⟨hubMachine (goodRecord + 1), rfl, by decide, by decide +kernel, by decide +kernel, by decide +kernel, recordPlace _ (by simp), by decide +kernel, by decide +kernel, _, rfl, by decide +kernel, by decide +kernel,
      recordPlace _ (by simp)⟩,
    ⟨{ hubMachine goodRecord with homes := { State.reset.homes with dir := [(0x801, { DirEntry.reset with lines := #v[.I, .I, .I, .O], ptrs := [(7, 8)] }), (0x803, { DirEntry.reset with lines := #v[.I, .I, .I, .O], ptrs := [(7, 8)] })] } },
      by decide +kernel⟩,
    ⟨hubMachine goodRecord, rfl, rfl, by decide +kernel⟩, harted [hartOp (.store 7), { hartOp (.fence true false true false) with id := 2 }] .owned, _, _, rfl, rfl, rfl⟩

/-- One launch in the hub that waits for its place. -/
def waitingLaunch (record : Nat) (reserved : List Nat) (at_ : Option Nat) : Launch :=
  { placedLaunch 7 0 with record := record, state := .pending, dies := [], reserved := reserved, reservedAt := at_ }
def pendingMachine (l : Launch) (gang : Option Nat) : State :=
  { hubMachine l.record with hub := { (hubMachine l.record).hub with launches := [l], gang := gang } }

/-- The hub's view of a gang that is still eligible is up to date. -/
theorem gangStands {s : State} {l : Launch} (hg : s.hub.gang = some l.lid) (hl : s.hub.launches = [l])
    (hk : l.reserved.filter (fun d => s.eligibleOn l d && (s.dieHolds l d).isSome) = l.reserved)
    (hn : recMinDie l.record ≤ l.reserved.length) (he : s.eligible l = true) : s.refreshGang = s := by
  have hf : s.launchOf l.lid = some l := by simp [State.launchOf, hl]
  have hs (f : Launch → Launch) (h : f l = l) : s.updLaunch l.lid f = s := by
    show { s with hub := { s.hub with launches := s.hub.launches.map fun x => if x.lid == l.lid then f x else x } } = s
    rw [show (s.hub.launches.map fun x => if x.lid == l.lid then f x else x) = s.hub.launches by simp [hl, h]]
  simp only [State.refreshGang, hg, hf, hk]
  rw [hs _ (by simp [Nat.not_lt.mpr hn])]
  simp [he]

theorem witness_LaunchesStart :
    (∃ (s : State) (l : Launch), s.hub.gang = none ∧ s.firstOn 3 = some l ∧ recMinDie l.record = 1 ∧ 1 ≤ recMaxDie l.record ∧ (∀ m ∈ s.hub.launches, m.lid = l.lid → m = l)
      ∧ (∀ k v, s.strandAt k = some v → v.lid ≠ l.lid)
      ∧ ∃ (x : Seat) (slot vb lb : Nat), s.seats l ([3].filterMap fun d => (s.dieHolds l d).map fun qs => (d, qs)) = [x] ∧ s.freeSlot x.core = some slot
        ∧ freeRange (s.usedV x.core) 64 (vregCount (recVreg l.record)) = some vb ∧ freeRange (s.usedL x.core) 64 (1 + recLocal l.record) = some lb)
    ∧ (∃ (s : State) (l : Launch), s.refreshGang = s ∧ s.firstOn 0 = some l ∧ recMinDie l.record ≠ 1
      ∧ ((List.range 4).filter fun d => d == 0 || l.reserved.contains d).length < recMaxDie l.record)
    ∧ (∃ (s : State) (l : Launch), s.refreshGang = s ∧ s.firstOn 0 = some l ∧ recMinDie l.record ≠ 1
      ∧ recMaxDie l.record ≤ ((List.range 4).filter fun d => d == 0 || l.reserved.contains d).length)
    ∧ ∃ (s : State) (l : Launch), s.refreshGang = s ∧ s.hub.gang = some l.lid ∧ s.launchOf l.lid = some l ∧ l.reservedAt = some 5 := by
  have gang : (pendingMachine (waitingLaunch gangRecord [1, 2] (some 5)) (some 7)).refreshGang = pendingMachine (waitingLaunch gangRecord [1, 2] (some 5)) (some 7) :=
    gangStands rfl rfl (by decide +kernel) (by decide +kernel) (by decide +kernel)
  refine ⟨⟨pendingMachine (waitingLaunch goodRecord [] none) none, waitingLaunch goodRecord [] none, rfl, by decide +kernel, by decide +kernel, by decide +kernel, ?_,
      (fun k v h => by cases h), { core := 576, die := 0, quad := 0, ordCore := 0, strand := 0 }, 16 * 576, 0, 0, by decide +kernel, by decide +kernel, by decide +kernel, by decide +kernel⟩,
    ⟨pendingMachine (waitingLaunch gangRecord [] none) none, waitingLaunch gangRecord [] none, rfl, by decide +kernel, by decide +kernel, by decide +kernel⟩,
    ⟨pendingMachine (waitingLaunch gangRecord [1, 2] (some 5)) (some 7), waitingLaunch gangRecord [1, 2] (some 5), gang, by decide +kernel, by decide +kernel, by decide +kernel⟩,
    pendingMachine (waitingLaunch gangRecord [1, 2] (some 5)) (some 7), waitingLaunch gangRecord [1, 2] (some 5), gang, rfl, rfl, rfl⟩
  intro m hm _
  exact List.mem_singleton.mp hm

/-- A launch that is over, the line of whose completion record a quad holds. -/
def heldRecord : State :=
  { pendingMachine { waitingLaunch goodRecord [] none with state := .placed } none with
    homes := { State.reset.homes with dir := [(0x802, { DirEntry.reset with lines := #v[.O, .I, .I, .I], ptrs := [(7, 1)] })] } }

/-- A placed launch of which nothing is left, and one with its strand. -/
theorem witness_LaunchesCompleteAndSpendEnergy :
    (∃ (s : State) (l : Launch), s.launchOf 7 = some l ∧ s.finished l = true ∧ RecordPlace s l.tenant l.asid (recComp l.record) 0x100440 ∧ ∀ x n, s.homePending x n = false)
    ∧ (∃ (s : State) (l : Launch), s.launchOf 7 = some l ∧ s.finished l = true ∧ recComp l.record % 64 = 0 ∧ recComp l.record < 2 ^ 52 ∧ s.hubPa l.tenant l.asid (recComp l.record) .write = some 0x100440
      ∧ isDevice 0x100440 = true ∧ 0x100440 % 128 + 64 ≤ 128 ∧ s.homeQuiet (0x100440 / 128) true = false ∧ 255 ∉ s.homes.isolated)
    ∧ (∀ p, ∃ (s : State) (l : Launch), s.launchOf 7 = some l ∧ l.state = .written [0x2008] ∧ s.homePending (128 * 0x2008) 128 = p)
    ∧ (∃ (s : State) (l : Launch), s.launchOf 0 = some l ∧ ∃ e ∈ s.strands, e.2.lid = l.lid)
    ∧ (∃ (s : State) (l : Launch), s.launchOf 7 = some l ∧ l.state = .pending)
    ∧ ∃ (s : State) (l : Launch), s.launchOf 0 = some l ∧ l.energy < 1 := by
  refine ⟨⟨pendingMachine { waitingLaunch goodRecord [] none with state := .placed } none, _, rfl, by decide +kernel, ?_, fun _ _ => rfl⟩,
    ⟨heldRecord, _, rfl, by decide +kernel, by decide +kernel, by decide +kernel, by decide +kernel, by decide, by decide, by decide +kernel, by decide⟩, ?_,
    ⟨machine (strandWith []), _, rfl, (0, strandWith []), List.mem_singleton.mpr rfl, rfl⟩, ⟨pendingMachine (waitingLaunch goodRecord [] none) none, _, rfl, rfl⟩,
    machine (strandWith []), _, rfl, by decide +kernel⟩
  · unfold RecordPlace PlainStore AtOnce
    decide +kernel
  · intro p
    cases p
    · exact ⟨pendingMachine { waitingLaunch goodRecord [] none with state := .written [0x2008] } none, _, rfl, rfl, rfl⟩
    · exact ⟨{ pendingMachine { waitingLaunch goodRecord [] none with state := .written [0x2008] } none with homes := { State.reset.homes with
        reqs := [(0x2008, [reqBy 255 (.homeWrite { pa := 0x100440, bytes := 64, val := 0, tenant := 0, key := 0, whole := false }) .waiting])] } }, _, rfl, rfl, rfl⟩
/-! The coursing table and its edges -/

/-- n bytes of the table at an offset, and a course of one bay per die listed: 200 µs with 100 µs to save, the bay of a tenant at the first curve
positions, and the shares of tenants 0 and 1, that of tenant 0 with donation to tenant 1 where asked. -/
def tableBytes (off n v : Nat) : SMap Byte := ((List.range n).map fun i => (off + i, BitVec.ofNat 8 (v / 2 ^ (8 * i)))).filter fun e => e.2 != 0
def fullShare : Nat := 0xFFFF + 0xFFFFFFFF * 2 ^ 16 + 0xFFFF * 2 ^ 48 + 0xFFFF * 2 ^ 64 + 2 ^ 81
def courseTable (off tenant len : Nat) : SMap Byte :=
  tableBytes off 4 (200 + 100 * 2 ^ 16) ++ tableBytes (off + 0x40) 8 (tenant + 0x80 + len * 2 ^ 16)
    ++ tableBytes (off + 0x200) 16 (fullShare + 2 ^ 82 + 2 ^ 88 + 0xFFFF * 2 ^ 96) ++ tableBytes (off + 0x210) 16 fullShare
/-- The default course with that shadow copy, before and after its commit; and a frame of that one course in force. -/
def shadowed (tenant len : Nat) : State :=
  { State.reset with coursing := { Coursing.reset with table := courseTable (2 ^ 17) tenant len, tnsave := [(0, 0x800000), (1, 0x90000000)] } }
def committed : State := { shadowed 1 4 with coursing := { (shadowed 1 4).coursing with pending := true, pendingN := 1, firstCommit := some 0 } }
def framed (n : BitVec 7) : State :=
  { State.reset with coursing := { Coursing.reset with enable := true, activeN := n, table := courseTable 0 0 192, tnsave := [(0, 0x800000)] } }

theorem witness_TableWritesAreChecked :
    (∃ s : State, s.coursing.pending = true) ∧ (∃ s : State, s.coursing.pending = false ∧ 64 < (65 : BitVec 7).toNat)
    ∧ (∃ s : State, s.coursing.pending = false ∧ ShortCourse s (!s.coursing.active) s.coursing.drainlead.toNat s.coursing.overlim.toNat 1
      ∧ ∀ e, e < 1 → ¬ShortCourse s (!s.coursing.active) s.coursing.drainlead.toNat s.coursing.overlim.toNat e)
    ∧ (∃ s : State, s.coursing.pending = false ∧ commitFailure s (!s.coursing.active) 1 = some (9, 0))
    ∧ (∃ s : State, s.coursing.pending = false ∧ commitFailure s (!s.coursing.active) 1 = none)
    ∧ (∃ s : State, s.coursing.enable = true ∧ s.coursing.activeN = 1 ∧ ∀ c, c < s.coursing.activeN.toNat → ¬ShortCourse s s.coursing.active 100 100 c)
    ∧ (∃ s : State, s.coursing.pending = true ∧ s.coursing.pendingN = 1 ∧ ∀ c, c < s.coursing.pendingN.toNat → ¬ShortCourse s (!s.coursing.active) 100 100 c)
    ∧ (∃ s : State, s.coursing.enable = true ∧ 0 < s.coursing.activeN.toNat ∧ ShortCourse s s.coursing.active 101 100 0 ∧ ∀ e, e < 0 → ¬ShortCourse s s.coursing.active 101 100 e)
    ∧ ∃ s : State, s.coursing.enable = true ∧ holdsBay s.coursing.table s.coursing.active s.coursing.activeN.toNat 0 = true := by
  unfold ShortCourse
  refine ⟨⟨committed, rfl⟩, ⟨State.reset, rfl, by decide⟩, ⟨shadowed 1 4, by decide +kernel⟩, ⟨{ shadowed 1 4 with coursing := { (shadowed 1 4).coursing with tnsave := [] } }, by decide +kernel⟩,
    ⟨shadowed 1 192, by decide +kernel⟩, ⟨framed 1, by decide +kernel⟩, ⟨committed, by decide +kernel⟩, ⟨framed 1, by decide +kernel⟩, framed 1, by decide +kernel⟩

/-- Core 0 holds an access that is under way; quad 0 is stopped with a running command. -/
def unsettled : State := { committed with cores := [(0, { CoreState.reset with queue := [access .load 6 [piece8] .none] })] }
def stoppedQuad (e : Engine) (op : CmdOp) (flight : List Nat) : State :=
  { committed with coursing := { committed.coursing with held := true, edged := true }
                   quads := [(0, { QuadState.reset with phase := .stopped 0, cmds := [{ cmdOf (some e) op .running with flight := flight }] })] }
def edged (k : Coursing) : Coursing := { k with held := true, edged := true, overlimDone := true }

theorem witness_CoursesBeginAndEnd :
    (∃ (s : State) (h : Nat), s.holdTime = some h ∧ s.coursing.held = false)
    ∧ (∃ (s : State) (e : Nat), s.edgeTime = some e ∧ s.coursing.edged = false ∧ s.coreChanges 0 = true ∧ s.holder 0 = some 0 ∧ (s.coreAt 0).phase = .running ∧ (s.coreAt 0).late = false ∧ s.coreSettled 0 = true)
    ∧ (∃ (s : State) (e : Nat), s.edgeTime = some e ∧ s.coursing.edged = false ∧ s.coreChanges 0 = true ∧ s.holder 0 = some 0 ∧ (s.coreAt 0).phase = .running ∧ (s.coreAt 0).late = false ∧ s.coreSettled 0 = false)
    ∧ (∃ (s : State) (o : Nat), s.edgeTime.map (· + usCycles s.coursing.overlimNow.toNat) = some o ∧ s.coursing.edged = true ∧ s.coursing.overlimDone = false
      ∧ ∀ e ∈ s.quads, (∃ n, e.2.phase = .stopped n) → ∀ c ∈ e.2.cmds, c.state ≠ .running)
    ∧ (∀ e ∈ [(Engine.hod, []), (.hod, [3]), (.sett, [])], ∃ (s : State) (o : Nat) (q : QuadState) (c : Cmd), s.edgeTime.map (· + usCycles s.coursing.overlimNow.toNat) = some o ∧ s.coursing.edged = true
      ∧ s.coursing.overlimDone = false ∧ s.quads = [(0, q)] ∧ q.phase = .stopped 0 ∧ q.cmds = [c] ∧ c.state = .running ∧ c.engine = some e.1 ∧ c.flight = e.2 ∧ c.refused = [])
    ∧ (∃ (s : State) (b : Nat), s.boundary = some b ∧ s.coursing.edged = true ∧ s.coursing.overlimDone = true ∧ s.coursing.enable = true ∧ s.lastCourse = false)
    ∧ (∃ (s : State) (b : Nat), s.boundary = some b ∧ s.coursing.edged = true ∧ s.coursing.overlimDone = true ∧ s.coursing.enable = true ∧ s.lastCourse = true
      ∧ s.coursing.pending = true ∧ s.coursing.skipFrame = false)
    ∧ (∃ (s : State) (b : Nat), s.boundary = some b ∧ s.coursing.edged = true ∧ s.coursing.overlimDone = true ∧ s.coursing.enable = true ∧ s.lastCourse = true ∧ s.coursing.pending = false)
    ∧ ∃ (s : State) (b : Nat), s.boundary = some b ∧ s.coursing.edged = true ∧ s.coursing.overlimDone = true ∧ s.coursing.enable = false ∧ s.coreChanges 0 = true
      ∧ (s.coreAt 0).phase = .saved 0 := by
  refine ⟨⟨committed, 0, by decide +kernel⟩, ⟨committed, 32000, by decide +kernel⟩, ⟨unsettled, 32000, by decide +kernel⟩,
    ⟨{ committed with coursing := { committed.coursing with edged := true } }, 112000, by decide +kernel, rfl, rfl, fun e h => by cases h⟩, ?_,
    ⟨{ framed 2 with coursing := edged (framed 2).coursing }, 320000, by decide +kernel⟩,
    ⟨{ framed 1 with coursing := { edged (framed 1).coursing with pending := true, pendingN := 1 } }, 320000, by decide +kernel⟩,
    ⟨{ framed 1 with coursing := edged (framed 1).coursing }, 320000, by decide +kernel⟩,
    { committed with coursing := edged committed.coursing, cores := [(0, { CoreState.reset with phase := .saved 0 })] }, 192000, by decide +kernel⟩
  intro e h
  simp only [List.mem_cons, List.not_mem_nil, or_false] at h
  rcases h with rfl | rfl | rfl
  · exact ⟨stoppedQuad .hod (.hcopy copyD) [], 112000, _, _, by decide +kernel, rfl, rfl, rfl, rfl, rfl, rfl, rfl, rfl, rfl⟩
  · exact ⟨stoppedQuad .hod (.hcopy copyD) [3], 112000, _, _, by decide +kernel, rfl, rfl, rfl, rfl, rfl, rfl, rfl, rfl, rfl⟩
  · exact ⟨stoppedQuad .sett (.sload 0 0) [], 112000, _, _, by decide +kernel, rfl, rfl, rfl, rfl, rfl, rfl, rfl, rfl, rfl⟩

/-- Quad 0 stopped, with Lintel's save area of tenant 0 at 0x800000. -/
def stoppedAt (owner : Nat) (cmds : List Cmd) : State :=
  { State.reset with
    coursing := { Coursing.reset with tnsave := [(0, 0x800000)] }
    quads := [(0, { QuadState.reset with phase := .stopped owner, cmds := cmds })], cores := [(0, { CoreState.reset with phase := .stopped owner })] }
/-- The quad and core 0 wait for their restore, with what is saved of them; the strand record is at its place in the core's area. -/
def awaiting (q : SMap SavedQuad) (c : SMap SavedCore) (record : Nat) : State :=
  { State.reset with
    coursing := { Coursing.reset with tnsave := [(0, 0x800000)], savedQuads := q, savedCores := c }
    mem := Memory.writeLe [] (0x800000 + 0x3C000000 + 0x1000) 24 record
    quads := [(0, { QuadState.reset with phase := .awaiting })], cores := [(0, { CoreState.reset with phase := .awaiting })] }
def savedOne : SavedCore := { strands := [(0, { lid := 0, wait := .ready, halt := .running, frames := 0, at_ := 0, next := none })], packets := [], refused := [], barriers := [] }

/-- With nothing queued, bound or held, the home can write every line of the first 128 GiB at once. -/
theorem quiet (l : Nat) (_ : (stoppedAt 0 []).saveBase 0 / 128 ≤ l) (h : l < (stoppedAt 0 []).saveBase 0 / 128 + 0xA00000) : (stoppedAt 0 []).homeQuiet l true = true := by
  have hb : (stoppedAt 0 []).saveBase 0 = 0x800000 := by decide +kernel
  rw [hb] at h
  have hd : isDevice (128 * l) = true := by
    have : 128 * l / 2 ^ 48 = 0 := Nat.div_eq_of_lt (by omega)
    show decide (128 * l / 2 ^ 48 < 6) = true
    rw [this]; rfl
  have ht : (stoppedAt 0 []).tileOf l = none := by
    show (stoppedAt 0 []).tileOf l = none
    unfold State.tileOf
    have : (stoppedAt 0 []).dirAt (regionOf l) = DirEntry.reset := rfl
    simp [this, DirEntry.reset]
  have hh : (((stoppedAt 0 []).dirAt (regionOf l)).holders (l % 4)).isEmpty = true := rfl
  simp only [State.homeQuiet, hd, ht, hh, if_true]
  rfl

theorem witness_SavesAndRestores :
    (∃ s : State, (s.quadAt 0).phase = .stopped 0 ∧ s.quadSettled 0 = false)
    ∧ (∃ s : State, (s.quadAt 0).phase = .stopped 0 ∧ s.quadSettled 0 = true ∧ s.quadHolder 0 = some 0 ∧ (s.quadAt 0).late = false ∧ Sys2Proof.Inv s ∧ (s.quadAt 0).phint = [] ∧ (s.quadAt 0).cmds.length ≤ 64
      ∧ (s.quadAt 0).inbox.length ≤ 512 ∧ s.saveBase 0 % 4096 = 0 ∧ s.saveBase 0 % 2 ^ 48 + 0x50000000 ≤ 2 ^ 37 ∧ isDevice (s.saveBase 0) = true ∧ s.homeState (s.saveBase 0 / 2 ^ 48) ≠ .lost
      ∧ s.homeState (s.saveBase 0 / 2 ^ 48) ≠ .held ∧ (∀ l, s.saveBase 0 / 128 ≤ l → l < s.saveBase 0 / 128 + 0xA00000 → s.homeQuiet l true = true)
      ∧ s.keyCleared (s.keyOfTenant 0) = false ∧ s.homes.lost = [])
    ∧ (∃ s : State, (s.quadAt 0).phase = .stopped 5 ∧ s.quadSettled 0 = true ∧ s.quadHolder 0 ≠ some 5)
    ∧ (∃ s : State, (s.quadAt 0).phase = .stopped 0 ∧ s.quadSettled 0 = true ∧ s.quadHolder 0 = some 0 ∧ (s.quadAt 0).late = true)
    ∧ (∃ s : State, (s.coreAt 0).phase = .stopped 5 ∧ s.coreSettled 0 = true ∧ s.holder 0 ≠ some 5)
    ∧ (∃ s : State, (s.quadAt 0).asleep = false ∧ s.power.idle = false ∧ s.quadHolder 0 = some 0 ∧ (s.quadAt 0).phase = .awaiting ∧ s.savedQuad 0 0 = none
      ∧ s.areaReady (s.quadArea 0 0) 0x500000 = true ∧ s.homeLost (s.quadArea 0 0) = false ∧ s.holder 0 = some 0 ∧ (s.coreAt 0).phase = .awaiting ∧ s.savedCore 0 0 = none)
    ∧ (∃ s : State, (s.quadAt (agentOf 0)).asleep = false ∧ s.power.idle = false ∧ (s.quadAt (agentOf 0)).phase = .running ∧ s.holder 0 = some 0 ∧ (s.coreAt 0).phase = .awaiting ∧ s.savedCore 0 0 = none
      ∧ s.areaReady (s.coreArea 0 0) 0x60000 = true)
    ∧ (∃ (s : State) (v : SavedQuad), (s.quadAt 0).asleep = false ∧ s.power.idle = false ∧ s.quadHolder 0 = some 0 ∧ (s.quadAt 0).phase = .awaiting ∧ s.savedQuad 0 0 = some v
      ∧ s.areaReady (s.quadArea 0 0) 0x500000 = true ∧ s.stagedLines 0 0 v.phint = [] ∧ s.homeLost (s.quadArea 0 0) = false)
    ∧ ∀ record ∈ [1 + 2 ^ 23 + 0x100002 * 2 ^ 64, 1 + 2 ^ 23 + 0x100000 * 2 ^ 64], ∃ (s : State) (v : SavedCore) (w : SavedStrand), (s.quadAt (agentOf 0)).asleep = false ∧ s.power.idle = false
      ∧ (s.quadAt (agentOf 0)).phase = .running ∧ s.areaReady (s.coreArea 0 0) 0x60000 = true ∧ s.compOf w.lid = 0 ∧ s.holder 0 = some 0 ∧ (s.coreAt 0).phase = .awaiting ∧ s.savedCore 0 0 = some v ∧ v.strands = [(0, w)] ∧ v.packets = [] ∧ s.usedV 0 = [] ∧ s.usedL 0 = [] ∧ s.strandAt 0 = none
      ∧ s.lintelGet 0 (s.saveBase 0 + 0x3C000000 + 0 * 0x60000 + 0x1000 + 0 % 16 * 4096) 4096 = record := by
  refine ⟨⟨stoppedAt 0 [cmdOf (some .sett) (.sload 0 0) .running], rfl, by decide +kernel⟩, ⟨stoppedAt 0 [], rfl, by decide +kernel, by decide +kernel, rfl, rfl, rfl, by decide, by decide, by decide +kernel, by decide +kernel, by decide +kernel, by decide +kernel, by decide +kernel, quiet, by decide +kernel, rfl⟩,
    ⟨stoppedAt 5 [], rfl, by decide +kernel⟩, ⟨{ stoppedAt 0 [] with quads := [(0, { QuadState.reset with phase := .stopped 0, late := true })] }, rfl, by decide +kernel⟩,
    ⟨stoppedAt 5 [], rfl, by decide +kernel⟩, ⟨awaiting [] [] 0, by decide +kernel⟩, ⟨{ awaiting [] [] 0 with quads := [] }, by decide +kernel⟩,
    ⟨awaiting [(0, SavedQuad.none_)] [] 0, SavedQuad.none_, by decide +kernel⟩, ?_⟩
  intro r h
  simp only [List.mem_cons, List.not_mem_nil, or_false] at h
  rcases h with rfl | rfl
  · exact ⟨{ awaiting [] [(0, savedOne)] (1 + 2 ^ 23 + 0x100002 * 2 ^ 64) with quads := [] }, savedOne, _, rfl, rfl, rfl, by decide +kernel, rfl, by decide +kernel, rfl, rfl, rfl, rfl, rfl, rfl, rfl, by decide +kernel⟩
  · exact ⟨{ awaiting [] [(0, savedOne)] (1 + 2 ^ 23 + 0x100000 * 2 ^ 64) with quads := [] }, savedOne, _, rfl, rfl, rfl, by decide +kernel, rfl, by decide +kernel, rfl, rfl, rfl, rfl, rfl, rfl, rfl, by decide +kernel⟩

/-- Quad 1 is stopped with n parked messages; core 0 holds a store to it, quad 0 pushes to it; core 1 has 33 packets. -/
def toQuad1 : Piece := { piece8 with pa := 0x8000001000100 }
def parked (n : Nat) : State :=
  { paged (strandWith []) with
    cores := [(0, { CoreState.reset with queue := [access .store 6 [toQuad1] .none] }),
      (1, { CoreState.reset with phase := .stopped 0, inbox := List.replicate 33 { source := 0, strand := strandWith [], dst := some 9 } })]
    quads := [(0, { QuadState.reset with cmds := [cmdOf (some .hod) (.hsend sendD) .running] }),
      (1, { QuadState.reset with phase := .stopped 0, inbox := List.replicate n { offset := 0, data := [], halves := [], bb := none, count := 0, cond := 0 } })] }
/-- A core with 128 refused stores behind that one, and packets that wait for a core that leaves. -/
def crowdedQueue : State :=
  { parked 512 with cores := [(0, { CoreState.reset with queue := access .store 6 [toQuad1] .none :: (List.range 128).map fun i =>
      { access .store 6 [{ toQuad1 with refused := true, again := true }] .none with id := 100 + i } })] }
def packets (d : Option (BitVec 4)) : State :=
  { paged (strandWith []) with cores := [(1, { CoreState.reset with phase := .stopped 0, inbox := List.replicate 33 { source := 0, strand := strandWith [], dst := d } })] }
def idleBay (since : SMap Nat) : State :=
  { framed 1 with coursing := { (framed 1).coursing with idleSince := since } }

theorem witness_MessagesAreParkedAndBaysDonated :
    (∀ n ∈ [511, 512], ∃ (s : State) (a : Access) (p : Piece), (s.coreAt 0).queue = [a] ∧ a.kind = .store ∧ a.pieces = [p] ∧ p.done = false ∧ p.refused = false ∧ isScratch p.pa = true
      ∧ p.nib = none ∧ p.pa / 2 ^ 24 % 256 = 1 ∧ (s.quadAt 1).phase = .stopped a.tenant ∧ (s.quadAt 1).inbox.length = n ∧ (s.refusedStores 0).length < 128)
    ∧ (∃ (s : State) (a : Access) (p : Piece) (rest : List Access), (s.coreAt 0).queue = a :: rest ∧ (∀ x ∈ rest, x.id ≠ a.id) ∧ a.kind = .store ∧ a.pieces = [p] ∧ p.done = false ∧ p.refused = false
      ∧ isScratch p.pa = true ∧ p.nib = none ∧ p.pa / 2 ^ 24 % 256 = 1 ∧ (s.quadAt 1).phase = .stopped a.tenant ∧ (s.quadAt 1).inbox.length = 512 ∧ (s.refusedStores 0).length = 128)
    ∧ (∀ n ∈ [511, 512], ∃ (s : State) (c : Cmd) (p : HodPiece) (d : PieceData) (pa : Nat), (s.quadAt 0).cmdOf c.seq = some c ∧ c.op.piece 0 = some p ∧ c.state = .running
      ∧ (s.quadAt 0).runsOn = true ∧ c.mayLand 0 = true ∧ 0 ∉ c.refused ∧ s.pieceData 0 c p = .ok d ∧ s.pieceDst 0 c p = .ok pa ∧ isScratch pa = true ∧ pa / 2 ^ 24 % 256 = 1
      ∧ (s.quadAt 1).phase = .stopped c.tenant ∧ (s.quadAt 1).inbox.length = n)
    ∧ (∀ d ∈ [none, some 9], ∃ (s : State) (p : Packet) (st : Strand), (s.coreAt 1).inbox.getLast? = some p ∧ 32 < (s.coreAt 1).inbox.length ∧ (s.coreAt 1).phase ≠ .running ∧ s.strandAt p.source = some st
      ∧ p.dst = d)
    ∧ (∃ s : State, s.coursing.enable = true ∧ s.coursing.edged = false ∧ s.dieUp 0 = true ∧ (courseBay s.coursing.table s.coursing.active s.coursing.course.toNat 0 0).valid = true
      ∧ shareDonate (courseShare s.coursing.table s.coursing.active s.coursing.course.toNat 0) = true ∧ s.bayIdle 0 0 0 = true ∧ SMap.find s.coursing.idleSince (8 * 0 + 0) = none)
    ∧ ∃ s : State, s.coursing.enable = true ∧ s.coursing.edged = false ∧ s.dieUp 0 = true ∧ s.coursing.donations = [] ∧ s.bayIdle 0 0 0 = true ∧ SMap.find s.coursing.idleSince (8 * 0 + 0) = some 9 := by
  refine ⟨fun n _ => ⟨parked n, _, toQuad1, rfl, rfl, rfl, rfl, rfl, by decide, rfl, by decide, rfl, List.length_replicate, by show ((parked 0).refusedStores 0).length < 128; decide +kernel⟩,
    ⟨crowdedQueue, access .store 6 [toQuad1] .none, toQuad1, _, rfl, by decide +kernel, rfl, rfl, rfl, rfl, by decide, rfl, by decide, rfl, List.length_replicate, by decide +kernel⟩, ?_, ?_, ⟨idleBay [], by decide +kernel⟩, idleBay [(0, 9)], by decide +kernel⟩
  case refine_2 =>
    intro d hd
    simp only [List.mem_cons, List.not_mem_nil, or_false] at hd
    rcases hd with rfl | rfl
    · exact ⟨packets none, { source := 0, strand := strandWith [], dst := none }, strandWith [], by decide +kernel, by decide +kernel, by decide, rfl, rfl⟩
    · exact ⟨packets (some 9), { source := 0, strand := strandWith [], dst := some 9 }, strandWith [], by decide +kernel, by decide +kernel, by decide, rfl, rfl⟩
  have h : ∀ n, n = 511 ∨ n = 512 → (match (parked n).pieceData 0 (cmdOf (some .hod) (.hsend sendD) .running) { row := 0, first := 0, len := 128, linear := 0 } with | .ok _ => true | .error _ => false) = true := by
    rintro n (rfl | rfl) <;> decide +kernel
  have k : ∀ n, n = 511 ∨ n = 512 → (parked n).pieceDst 0 (cmdOf (some .hod) (.hsend sendD) .running) { row := 0, first := 0, len := 128, linear := 0 } = .ok 0x8000001000000 := by
    rintro n (rfl | rfl) <;> decide +kernel
  intro n hn
  have hn' : n = 511 ∨ n = 512 := by simpa using hn
  have h1 := h n hn'
  split at h1
  next d hd =>
    exact ⟨parked n, cmdOf (some .hod) (.hsend sendD) .running, { row := 0, first := 0, len := 128, linear := 0 }, d, 0x8000001000000, rfl, by decide +kernel, rfl, rfl, by decide +kernel, by decide +kernel, hd,
      k n hn', by decide, by decide, rfl, List.length_replicate⟩
  next => cases h1
/-! Control windows, Keystone and debug sessions -/

/-- A debug port that names the region of line 0x2003, which is of slice 4 of home die 0. -/
def ported (l : LineState) : State :=
  { homed l [(7, 8)] [] 0 with homes := { (homed l [(7, 8)] [] 0).homes with ports := [(4, { DebugPort.reset with region := 0x100000 })] } }

theorem witness_ControlWindows :
    (∃ (who : Party) (pa : Nat), pa % 8 = 0 ∧ partyWrites who pa = false ∧ ∀ p, who ≠ .host p)
    ∧ (∃ (who : Party) (pa : Nat), pa % 8 = 0 ∧ partyWrites who pa = false ∧ who = .host 1) ∧ (∃ s : State, s.sys.mcuHeld = true)
    ∧ (∃ s : State, s.keystone.busy = true) ∧ (∃ s : State, s.keystone.busy = false)
    ∧ (∃ s : State, s.sys.lkbusy.getLsbD 63 = false ∧ ∀ l : Launch, ¬(l ∈ s.hub.launches ∧ l.tenant = 63))
    ∧ (∃ (s : State) (l : Launch), s.sys.lkbusy.getLsbD 0 = false ∧ l ∈ s.hub.launches ∧ l.tenant = 0 ∧ l.state = .placed ∧ recComp l.record = (SMap.get (0 : Word) s.sys.lkcomp 0).toNat
      ∧ ∃ k u, s.strandAt k = some u ∧ u.lid = l.lid)
    ∧ (∃ s : State, inSlice ((s.portAt 191).region.toNat / 512) 191 = false)
    ∧ (∃ s : State, inSlice ((s.portAt 4).region.toNat / 512) 4 = true ∧ s.dirAt ((s.portAt 4).region.toNat / 512) = DirEntry.reset ∧ s.busyBits ((s.portAt 4).region.toNat / 512) = 0)
    ∧ ∃ s : State, inSlice ((s.portAt 4).region.toNat / 512) 4 = true ∧ s.dirAt ((s.portAt 4).region.toNat / 512) ≠ DirEntry.reset := by
  refine ⟨⟨.hart 0, 0xA300000000000, rfl, by decide, fun p h => by cases h⟩, ⟨.host 1, 0xA300000000000, rfl, by decide, rfl⟩, ⟨{ State.reset with sys := { Sys.reset with mcuHeld := true } }, rfl⟩, ⟨{ State.reset with keystone := { Keystone.reset with busy := true } }, rfl⟩, ⟨State.reset, rfl⟩,
    ⟨State.reset, by decide, fun l h => by cases h.1⟩,
    ⟨machine (strandWith []), placedLaunch 0 0, by decide, List.mem_singleton.mpr rfl, rfl, rfl, by decide +kernel, 0, strandWith [], rfl, rfl⟩, ⟨State.reset, by decide +kernel⟩,
    ⟨{ ported .I with homes := { (ported .I).homes with dir := [] } }, by decide +kernel⟩, ported .S, by decide +kernel⟩

/-- A command in the mailbox with its argument bytes. -/
def mail (k : Keystone) (code len : Nat) (who : Party ⊕ Nat) (args : List Byte) : State :=
  { State.reset with
    keystone := { k with busy := true, code := BitVec.ofNat 8 code, len := BitVec.ofNat 16 len, requester := some who, buf := (List.range args.length).zip args |>.map fun e => (0x100 + e.1, e.2) } }

theorem latched (k : Keystone) (code len : Nat) (who : Party ⊕ Nat) (args : List Byte) (h : k.ready = false) (hc : code < 2 ^ 8) (hl : len < 2 ^ 16) :
    Latched (mail k code len who args) code len who :=
  ⟨⟨rfl, h⟩, by show (BitVec.ofNat 8 code).toNat = code; simp; omega, by show (BitVec.ofNat 16 len).toNat = len; simp; omega, rfl⟩

theorem witness_MailboxAndKeys :
    (∃ s : State, s.keystone.busy = true ∧ s.keystone.ready = true) ∧ (∃ s : State, s.keystone.busy = true ∧ s.keystone.ready = false ∧ s.keystone.code.toNat = 0xFF)
    ∧ (∃ s : State, Latched s 0x01 0xFFFF (.inr 0)) ∧ (∃ s : State, s.portUp 1 = true ∧ s.keystone.busy = false)
    ∧ (∃ s : State, s.portUp 1 = true ∧ s.keystone.busy = true)
    ∧ (∀ code ∈ [0x10, 0x11], ∃ s : State, Latched s code 2 (.inl .hypervisor) ∧ argument s 0 2 = 2047 ∧ s.keyNamed (argument s 0 2) = false ∧ s.keystone.lifecycle ≠ .decommissioned)
    ∧ (∀ code ∈ [0x10, 0x11], ∃ s : State, Latched s code 2 (.inl .firmware) ∧ argument s 0 2 = 0 ∧ s.keyNamed (argument s 0 2) = true ∧ s.keystone.lifecycle ≠ .decommissioned)
    ∧ (∃ s : State, Latched s 0x12 3 (.inl .hypervisor) ∧ argument s 0 1 = 63 ∧ argument s 1 2 = 2047)
    ∧ (∀ code ∈ [0x10, 0x11, 0x12, 0x13, 0x30, 0x31], ∃ s : State, Latched s code 0xFFFF (.inr 7))
    ∧ ∀ l ∈ [Lifecycle.isOpen, .locked, .decommissioned], ∃ k : Keystone, k.lifecycle = l := by
  refine ⟨⟨{ State.reset with keystone := { Keystone.reset with busy := true, ready := true } }, rfl, rfl⟩, ⟨mail Keystone.reset 0xFF 0 (.inr 0) [], rfl, rfl, by decide⟩,
    ⟨mail Keystone.reset 1 0xFFFF (.inr 0) [], latched _ _ _ _ _ rfl (by decide) (by decide)⟩, ⟨State.reset, by decide +kernel⟩,
    ⟨{ State.reset with keystone := { Keystone.reset with busy := true } }, by decide +kernel⟩, ?_, ?_,
    ⟨mail Keystone.reset 0x12 3 (.inl .hypervisor) [63, 0xFF, 7], latched _ _ _ _ _ rfl (by decide) (by decide), by decide +kernel, by decide +kernel⟩, ?_, fun l _ => ⟨{ Keystone.reset with lifecycle := l }, rfl⟩⟩
  all_goals
    intro code h
    simp only [List.mem_cons, List.not_mem_nil, or_false] at h
  · rcases h with rfl | rfl <;> exact ⟨mail Keystone.reset _ 2 (.inl .hypervisor) [0xFF, 7], latched _ _ _ _ _ rfl (by decide) (by decide), by decide +kernel, by decide +kernel, by decide⟩
  · rcases h with rfl | rfl <;> exact ⟨mail Keystone.reset _ 2 (.inl .firmware) [0, 0], latched _ _ _ _ _ rfl (by decide) (by decide), by decide +kernel, by decide +kernel, by decide⟩
  · exact ⟨mail Keystone.reset code 0xFFFF (.inr 7) [], latched _ _ _ _ _ rfl (by omega) (by decide)⟩

/-- A token's first bytes: its level, and tenant 63. -/
def tokenMail (k : Keystone) (level : Byte) (nonce : Option (List Byte)) : State :=
  mail { k with nonce := nonce } 0x21 29872 (.inl .hypervisor) [level, 0, 63]
def token (k : Keystone) (level : Byte) : List Byte := (tokenMail k level none).keystone.args 0 29872

theorem levelOf (k : Keystone) (level : Byte) (h : tokenLevel ((tokenMail k level none).keystone.args 0 8) = level.toNat) (nonce : Option (List Byte)) :
    tokenLevel ((tokenMail k level nonce).keystone.args 0 29872) = level.toNat := by
  have e : ((tokenMail k level nonce).keystone.args 0 29872).take 8 = ((tokenMail k level none).keystone.args 0 8).take 8 := by
    simp [Keystone.args, ← List.map_take, List.take_range, tokenMail, mail]
  unfold tokenLevel at h ⊢
  rw [e]
  exact h

/-- A token with the nonce and a signature, in the open lifecycle and in the locked one; one without the nonce; one whose tenant has no key. -/
theorem witness_DebugSessionsAndLifecycle :
    (∃ s : State, Latched s 0x13 65 (.inl .firmware) ∧ argument s 0 1 = 63) ∧ (∃ s : State, Latched s 0x20 0 (.inr 0))
    ∧ (∃ s : State, Latched s 0x21 29872 (.inl .hypervisor) ∧ tokenLevel (s.keystone.args 0 29872) = 1 ∧ s.keystone.nonce ≠ some (tokenNonce (s.keystone.args 0 29872)))
    ∧ (∀ level ∈ [(1 : Byte), 2], ∃ s : State, Latched s 0x21 29872 (.inl .hypervisor) ∧ tokenLevel (s.keystone.args 0 29872) = level.toNat
      ∧ s.keystone.nonce = some (tokenNonce (s.keystone.args 0 29872)) ∧ s.keystone.signed (s.keystone.args 0 29872) = true)
    ∧ (∃ s : State, Latched s 0x21 29872 (.inl .hypervisor) ∧ tokenLevel (s.keystone.args 0 29872) = 1 ∧ s.keystone.signed (s.keystone.args 0 29872) = false)
    ∧ (∃ s : State, Latched s 0x22 1 (.inl .hypervisor) ∧ argument s 0 1 = 63 ∧ ∃ x ∈ s.keystone.sessions, x.tenant = some (argument s 0 1))
    ∧ (∀ tenant ∈ [63, 64], ∃ (s : State) (x : Session), s.keystone.sessions.find? (fun y => y.tenant == if tenant < 64 then some tenant else none) = some x ∧ s.strands = [])
    ∧ (∀ tenant ∈ [0, 64], ∃ (s : State) (x : Session), s.keystone.sessions.find? (fun y => y.tenant == if tenant < 64 then some tenant else none) = some x
      ∧ ∃ e ∈ s.strands, e.2.halt = .stepping ∧ (tenant < 64 → s.tenantOf e.2 = tenant))
    ∧ (∃ s : State, Latched s 0x30 1 (.inl .firmware) ∧ argument s 0 1 = 1 ∧ s.keystone.lifecycle = .isOpen)
    ∧ (∃ s : State, Latched s 0x30 1 (.inl .firmware) ∧ argument s 0 1 = 2 ∧ s.keystone.lifecycle = .locked)
    ∧ (∃ s : State, Latched s 0x30 1 (.inl .firmware) ∧ argument s 0 1 ≤ 2 ∧ s.keystone.lifecycle = .decommissioned)
    ∧ (∃ s : State, Latched s 0x31 1 (.inl .firmware) ∧ argument s 0 1 = 0)
    ∧ (∃ s : State, Latched s 0x31 1 (.inl .firmware) ∧ argument s 0 1 = 1 ∧ s.keystone.lifecycle = .locked ∧ s.keystone.decommission = false)
    ∧ ∃ s : State, Latched s 0x31 1 (.inl .firmware) ∧ argument s 0 1 = 1 ∧ s.keystone.lifecycle ≠ .locked := by
  have go {k : Keystone} {code len : Nat} {who : Party ⊕ Nat} {args : List Byte} (h : k.ready = false) (hc : code < 2 ^ 8) (hl : len < 2 ^ 16) := latched k code len who args h hc hl
  let locked : Keystone := { Keystone.reset with lifecycle := .locked }
  refine ⟨⟨mail Keystone.reset 0x13 65 (.inl .firmware) [63], go rfl (by decide) (by decide), by decide +kernel⟩, ⟨mail Keystone.reset 0x20 0 (.inr 0) [], go rfl (by decide) (by decide)⟩,
    ⟨tokenMail Keystone.reset 1 none, go rfl (by decide) (by decide), levelOf _ 1 (by decide +kernel) none, fun h => by cases h⟩, ?_,
    ⟨tokenMail locked 1 none, go rfl (by decide) (by decide), levelOf locked 1 (by decide +kernel) none, ?_⟩,
    ⟨mail { Keystone.reset with sessions := [{ tenant := some 63, notAfter := 0 }] } 0x22 1 (.inl .hypervisor) [63], go rfl (by decide) (by decide), by decide +kernel,
      { tenant := some 63, notAfter := 0 }, List.mem_singleton.mpr rfl, by decide +kernel⟩, ?_, ?_,
    ⟨mail Keystone.reset 0x30 1 (.inl .firmware) [1], go rfl (by decide) (by decide), by decide +kernel, rfl⟩, ⟨mail locked 0x30 1 (.inl .firmware) [2], go rfl (by decide) (by decide), by decide +kernel, rfl⟩,
    ⟨mail { Keystone.reset with lifecycle := .decommissioned } 0x30 1 (.inl .firmware) [2], go rfl (by decide) (by decide), by decide +kernel, rfl⟩,
    ⟨mail Keystone.reset 0x31 1 (.inl .firmware) [0], go rfl (by decide) (by decide), by decide +kernel⟩, ⟨mail locked 0x31 1 (.inl .firmware) [1], go rfl (by decide) (by decide), by decide +kernel, rfl, rfl⟩,
    mail Keystone.reset 0x31 1 (.inl .firmware) [1], go rfl (by decide) (by decide), by decide +kernel, by decide⟩
  · intro level h
    simp only [List.mem_cons, List.not_mem_nil, or_false] at h
    rcases h with rfl | rfl
    · refine ⟨tokenMail Keystone.reset 1 (some (tokenNonce (token Keystone.reset 1))), go rfl (by decide) (by decide), levelOf _ 1 (by decide +kernel) _, rfl, ?_⟩
      simp only [Keystone.signed, levelOf Keystone.reset 1 (by decide +kernel)]
      rfl
    · refine ⟨tokenMail Keystone.reset 2 (some (tokenNonce (token Keystone.reset 2))), go rfl (by decide) (by decide), levelOf _ 2 (by decide +kernel) _, rfl, ?_⟩
      simp only [Keystone.signed, levelOf Keystone.reset 2 (by decide +kernel)]
      rfl
  · simp only [Keystone.signed, levelOf locked 1 (by decide +kernel)]
    rfl
  · intro t h
    simp only [List.mem_cons, List.not_mem_nil, or_false] at h
    rcases h with rfl | rfl
    · exact ⟨{ State.reset with keystone := { Keystone.reset with sessions := [{ tenant := some 63, notAfter := 0 }] } }, _, rfl, rfl⟩
    · exact ⟨{ State.reset with keystone := { Keystone.reset with sessions := [{ tenant := none, notAfter := 0 }] } }, _, rfl, rfl⟩
  · intro t h
    simp only [List.mem_cons, List.not_mem_nil, or_false] at h
    rcases h with rfl | rfl
    · exact ⟨{ machine { strandWith [] with halt := .stepping } with keystone := { Keystone.reset with sessions := [{ tenant := some 0, notAfter := 0 }] } }, _, rfl, _, List.mem_singleton.mpr rfl, rfl, fun _ => by decide +kernel⟩
    · exact ⟨{ machine { strandWith [] with halt := .stepping } with keystone := { Keystone.reset with sessions := [{ tenant := none, notAfter := 0 }] } }, _, rfl, _, List.mem_singleton.mpr rfl, rfl, fun h => absurd h (by decide)⟩
/-! Debug ports and errors -/

/-- The strand with a halt state and comparators at its core, and debug sessions. -/
def debugged (h : Halt) (breaks : List (Option Nat × VAddr)) (sessions : List Session) : State :=
  { machine { strandWith [] with halt := h } with
    cores := [(0, { CoreState.reset with breaks := breaks })], keystone := { Keystone.reset with sessions := sessions } }

theorem witness_DebugPortReachesItsTenants :
    (∀ h ∈ [Halt.running, .halted], ∃ (s : State) (st : Strand), s.strandAt 0 = some st ∧ st.halt = h ∧ s.tenantOf st < 64
      ∧ (s.keystone.sessions.any fun (x : Session) => (x.tenant == none || x.tenant == some (s.tenantOf st)) && decide (s.time ≤ x.notAfter)) = true
)
    ∧ (∃ (s : State) (st : Strand), s.strandAt 0 = some st ∧ s.tenantOf st < 64
      ∧ (s.keystone.sessions.any fun (x : Session) => (x.tenant == none || x.tenant == some (s.tenantOf st)) && decide (s.time ≤ x.notAfter)) = false
      ∧ ∀ x ∈ s.keystone.sessions, x.tenant ≠ none ∨ x.notAfter < s.time)
    ∧ (∃ (s : State), (∃ x ∈ s.keystone.sessions, x.tenant = none ∧ s.time ≤ x.notAfter) ∧ s.decodes 0xA300000000000 = true ∧ isControl 0xA300000000000 = true)
    ∧ (∀ session ∈ [none, some 0], ∃ s : State, Opened s session ∧ (s.coreAt 0).breaks.length = 3 ∧ (session, (0x100004 : VAddr)) ∉ (s.coreAt 0).breaks)
    ∧ (∃ s : State, Opened s (some 0) ∧ (s.coreAt 0).breaks.length = 4) ∧ (∃ s : State, ¬Opened s (some 0) ∧ ¬Opened s none)
    ∧ (∀ b ∈ [none, some 0], ∃ (s : State) (st : Strand), s.strandAt 0 = some st ∧ st.halt = .running ∧ (b, st.pc) ∈ (s.coreAt 0).breaks ∧ (b = some 0 → s.tenantOf st = 0))
    ∧ (∃ (s : State) (st : Strand), s.strandAt 0 = some st ∧ (none, st.pc) ∉ (s.coreAt 0).breaks ∧ (some (s.tenantOf st), st.pc) ∉ (s.coreAt 0).breaks)
    ∧ ∃ (s : State) (st : Strand), Opened s (some 0) ∧ s.strandAt 0 = some st ∧ s.tenantOf st = 0 ∧ st.halt = .halted ∧ s.time < 1 ∧ ∀ x ∈ s.keystone.releases, s.time < x.2 := by
  have opened (h : Halt) (bs : List (Option Nat × VAddr)) (x : Session) (hx : 0 ≤ x.notAfter) : Opened (debugged h bs [x]) x.tenant := ⟨x, List.mem_singleton.mpr rfl, rfl, hx⟩
  refine ⟨fun h _ => ⟨debugged h [] [{ tenant := some 0, notAfter := 0 }], _, rfl, rfl, by show (0 : Nat) < 64; decide, rfl⟩,
    ⟨debugged .running [] [{ tenant := some 63, notAfter := 9 }], _, rfl, by decide +kernel, by decide +kernel, ?_⟩,
    ⟨debugged .running [] [{ tenant := none, notAfter := 0 }], ⟨_, List.mem_singleton.mpr rfl, rfl, Nat.le_refl 0⟩, by decide +kernel, by decide⟩, ?_,
    ⟨debugged .running [(none, 0x100004), (some 0, 0x100004), (some 0, 0x100006), (some 1, 2)] [{ tenant := some 0, notAfter := 0 }], opened .running _ { tenant := some 0, notAfter := 0 } (Nat.le_refl 0), rfl⟩,
    ⟨State.reset, (fun ⟨x, hx, _⟩ => by cases hx), fun ⟨x, hx, _⟩ => by cases hx⟩, ?_, ⟨debugged .running [(some 0, 0x100004), (some 1, 0x100002)] [], _, rfl, by decide +kernel⟩,
    debugged .halted [] [{ tenant := some 0, notAfter := 0 }], _, opened .halted _ { tenant := some 0, notAfter := 0 } (Nat.le_refl 0), rfl, by decide +kernel, rfl, by decide, fun x hx => by cases hx⟩
  · intro x hx
    obtain rfl := List.mem_singleton.mp hx
    exact Or.inl (by decide)
  · intro n h
    simp only [List.mem_cons, List.not_mem_nil, or_false] at h
    rcases h with rfl | rfl
    · exact ⟨debugged .running [(some 0, 0x100004), (some 1, 0x100004), (none, 0x100006)] [{ tenant := none, notAfter := 0 }], opened .running _ { tenant := none, notAfter := 0 } (Nat.le_refl 0), rfl, by decide +kernel⟩
    · exact ⟨debugged .running [(none, 0x100004), (some 1, 0x100004), (some 0, 0x100006)] [{ tenant := some 0, notAfter := 0 }], opened .running _ { tenant := some 0, notAfter := 0 } (Nat.le_refl 0), rfl, by decide +kernel⟩
  · intro b h
    simp only [List.mem_cons, List.not_mem_nil, or_false] at h
    rcases h with rfl | rfl
    · exact ⟨debugged .running [(none, 0x100002)] [], _, rfl, rfl, by decide +kernel, fun h => by cases h⟩
    · exact ⟨debugged .running [(some 0, 0x100002)] [], _, rfl, rfl, by decide +kernel, fun _ => by decide +kernel⟩

theorem witness_PrivateStateErrorsZero : ∃ (s : State) (st : Strand), s.strandAt 0 = some st ∧ s.tenantOf st < 64 ∧ (31 : BitVec 5).toNat < st.vcount ∧ s.launchOf st.lid = some (placedLaunch 0 0) :=
  ⟨machine (strandWith []), strandWith [], rfl, by decide +kernel, by decide +kernel, rfl⟩

/-- A line that the LLC holds, modified and clean. -/
theorem witness_StructureErrors :
    (∃ s : State, (s.cores.map Prod.fst).Nodup ∧ isDevice (6 * 2 ^ 48 - 1) = true ∧ s.isLost (6 * 2 ^ 48 - 1) = false ∧ isScratch (8 * 2 ^ 48) = true ∧ 2 ^ 52 - 1 < 2 ^ 52)
    ∧ ∀ m, ∃ (s : State) (c : LlcLine), isDevice (2 ^ 48) = true ∧ s.isLost (2 ^ 48) = false ∧ SMap.find s.homes.llc (2 ^ 48 / 128) = some c ∧ c.modified = m :=
  ⟨⟨State.reset, by decide, by decide, by decide +kernel, by decide, by decide⟩,
    fun m => ⟨{ State.reset with homes := { Homes.reset with llc := [(2 ^ 48 / 128, { tenant := 0, key := 0, modified := m, way := 31 })] } }, _, by decide, by cases m <;> decide +kernel, rfl, rfl⟩⟩
/-! Links, dies, the time base and power -/

/-- Modules that retrain, after n failures in a row; a die that has missed n beats; the time base in alarm; a pod with a link. -/
def sysWith (f : Sys → Sys) : State := { State.reset with sys := f Sys.reset }
def podWith (f : Pod → Pod) : State := { State.reset with pod := f Pod.reset }
def powerWith (f : Power → Power) : State := { State.reset with power := f Power.reset }

theorem witness_LinksDiesAndTheTimeBase :
    (∃ s : State, s.sys.modDown.getLsbD 143 = false ∧ min 143 (otherEnd 143) ∉ s.sys.retraining)
    ∧ (∃ s : State, s.sys.modDown.getLsbD 0 = false ∧ min 0 (otherEnd 0) ∈ s.sys.retraining ∧ SMap.get 0 s.sys.modFails (min 0 (otherEnd 0)) < 2)
    ∧ (∃ s : State, s.sys.modDown.getLsbD 0 = false ∧ min 0 (otherEnd 0) ∈ s.sys.retraining ∧ SMap.get 0 s.sys.modFails (min 0 (otherEnd 0)) = 2)
    ∧ (∃ s : State, s.dieRuns 9 = true ∧ 9 ∉ [0, 1, 2, 3, 4, 5, 6, 7, 8] ∧ (∀ k, k < 10 → k ≠ 9 → k ∈ [0, 1, 2, 3, 4, 5, 6, 7, 8]) ∧ SMap.get 0 s.sys.missedBeats 9 + 1 < 4)
    ∧ (∀ d ∈ [0, 3, 4, 9], ∃ s : State, s.dieRuns d = true ∧ d ∉ (List.range 10).filter (· != d) ∧ (∀ k, k < 10 → k ≠ d → k ∈ (List.range 10).filter (· != d))
      ∧ SMap.get 0 s.sys.missedBeats d = 3)
    ∧ (∃ s : State, s.dieUp 3 = true) ∧ (∃ s : State, s.sys.alarm = false ∧ ∃ x ∈ (0 : Int) :: [5], ∃ y ∈ (0 : Int) :: [5], 4 < x - y)
    ∧ (∃ s : State, s.sys.alarm = false ∧ ∀ x ∈ (0 : Int) :: [4, 1], ∀ y ∈ (0 : Int) :: [4, 1], x - y ≤ 4)
    ∧ (∃ s : State, s.sys.mcuHeld = false) ∧ (∃ s : State, s.sys.mcuHeld = true)
    ∧ (∃ s : State, s.pod.enable = true ∧ (SMap.find s.pod.peer 7).isSome ∧ s.pod.beat.getLsbD 7 = false ∧ (SMap.get (0 : BitVec 8) s.pod.missed 7).toNat = 2)
    ∧ (∃ s : State, s.pod.enable = true ∧ SMap.find s.pod.peer 7 = none) ∧ (∃ s : State, s.pod.enable = true ∧ s.pod.up.getLsbD 7 = true) ∧ (∃ s : State, s.pod.enable = false)
    ∧ (∃ s : State, s.pod.fenced.getLsbD 63 = false ∧ (s.barriers.map Prod.fst).Nodup) ∧ (∃ s : State, s.pod.fenced.getLsbD 63 = true) ∧ ∃ s : State, (s.sys.eltail - s.sys.elhead).toNat < 1024 := by
  refine ⟨⟨State.reset, by decide +kernel⟩, ⟨sysWith fun y => { y with retraining := [min 0 (otherEnd 0)] }, by decide +kernel⟩,
    ⟨sysWith fun y => { y with retraining := [min 0 (otherEnd 0)], modFails := [(min 0 (otherEnd 0), 2)] }, by decide +kernel⟩, ⟨State.reset, by decide +kernel, by decide, by decide, by decide +kernel⟩, ?_,
    ⟨State.reset, by decide +kernel⟩, ⟨State.reset, rfl, by decide⟩, ⟨State.reset, rfl, by decide⟩, ⟨State.reset, rfl⟩, ⟨sysWith fun y => { y with mcuHeld := true }, rfl⟩,
    ⟨podWith fun p => { p with enable := true, peer := [(7, 63)], missed := [(7, 2)] }, by decide +kernel⟩, ⟨podWith fun p => { p with enable := true }, rfl, rfl⟩,
    ⟨podWith fun p => { p with enable := true, up := 0x80 }, by decide +kernel⟩, ⟨State.reset, rfl⟩, ⟨State.reset, by decide +kernel, by decide⟩, ⟨podWith fun p => { p with fenced := BitVec.allOnes 64 }, by decide +kernel⟩,
    State.reset, by decide +kernel⟩
  intro d h
  simp only [List.mem_cons, List.not_mem_nil, or_false] at h
  rcases h with rfl | rfl | rfl | rfl
  all_goals exact ⟨sysWith fun y => { y with missedBeats := [(0, 3), (3, 3), (4, 3), (9, 3)] }, by decide +kernel, by decide, by decide, by decide +kernel⟩

theorem witness_PowerStates :
    (∃ s : State, s.power.capen = true) ∧ (∃ s : State, s.power.tripPending = true) ∧ (∃ s : State, SMap.find s.power.dieDuty 11 = some 4) ∧ (∃ s : State, s.power.off = false)
    ∧ (∃ s : State, s.power.off = true) ∧ (∃ (s : State) (i : Instr), s.power.off = true ∧ s.keystone.releases = [] ∧ s.agenda = [i] ∧ ∀ x, i ≠ .powerOn x) ∧ (∃ s : State, s.power.pidle = true ∧ s.power.idle = false ∧ s.power.tripPending = false ∧ s.noBays = true ∧ s.poolSize = 0)
    ∧ (∃ s : State, s.power.readyAt = some 5) ∧ ∃ s : State, (s.quadAt 191).wakeAt = some 5 :=
  ⟨⟨powerWith fun p => { p with capen := true }, rfl⟩, ⟨powerWith fun p => { p with tripPending := true }, rfl⟩, ⟨powerWith fun p => { p with dieDuty := [(11, 4)] }, rfl⟩, ⟨State.reset, rfl⟩,
    ⟨powerWith fun p => { p with off := true }, rfl⟩, ⟨{ powerWith fun p => { p with off := true } with agenda := [.powerTrip] }, .powerTrip, rfl, rfl, rfl, fun _ h => by cases h⟩,
    ⟨{ framed 1 with coursing := { (framed 1).coursing with table := tableBytes 0 4 (200 + 100 * 2 ^ 16) }, power := { Power.reset with pidle := true } }, by decide +kernel⟩,
    ⟨powerWith fun p => { p with idle := true, readyAt := some 5 }, rfl⟩, { State.reset with quads := [(191, { QuadState.reset with asleep := true, wakeAt := some 5 })] }, rfl⟩
/-! The invariant, the encoding and the step -/

theorem witness_EveryStepKeepsMemoryCanonical : ∃ s t : State, Sys2Proof.Inv s ∧ step s = .next t := by
  have h : (match step (State.reset.withFetchWord 16 0) with | .next _ => true | _ => false) = true := by decide +kernel
  split at h
  next t ht => exact ⟨State.reset.withFetchWord 16 0, t, by unfold Sys2Proof.Inv; decide +kernel, ht⟩
  next => cases h

/-- An instruction with every field at its greatest value, and the code that it has. -/
theorem witness_EncodingsHaveOneMeaning :
    (∃ c, (Instr.addTl2 { op2 with a := 15, b := 15, ty := 3, sat := true, k8 := 255 }).wf = true ∧ encode (.addTl2 { op2 with a := 15, b := 15, ty := 3, sat := true, k8 := 255 }) = some c)
    ∧ ∃ c i, c.tail.toNat < 256 ^ tailBytes (headTl c.head.toNat) ∧ decode c = .ok i :=
  ⟨⟨_, by decide, rfl⟩, { head := 0x5215, tail := 0x520000C8 }, .cmpiTl4 1 5 5 2 200, by decide, by decide +kernel⟩

/-- The machine with a line of five heads at 0x100000, and with one whose first head is no instruction. -/
def lined (l : Line) : State := machine { strandWith [] with fetch := some (0x100000, l) }

/-- The machine with its program counter past the heads of its line. -/
def beyond : State := machine { strandWith [] with fetch := some (0x100000, 0x2800), pc := 0x10003E }

theorem witness_StepRunsTheDecodedInstruction :
    (∃ (s : State) (st : Strand) (l : Line), s.agenda = [] ∧ s.power.off = false ∧ s.eventTurn = false ∧ s.nextSlot = some (0, st) ∧ s.strandAt 0 = some st ∧ st.fetch = some (0x100000, l)
      ∧ (0x100000 : VAddr).toNat = st.pc.toNat / 64 * 64 ∧ isHead l st.pc.toNat = true ∧ decode (lineCode l ((st.pc.toNat % 64 - 2) / 2)) = .ok .nop)
    ∧ (∃ (s : State) (st : Strand) (l : Line) (e : DecodeError), s.agenda = [] ∧ s.power.off = false ∧ s.eventTurn = false ∧ s.nextSlot = some (0, st) ∧ s.strandAt 0 = some st
      ∧ st.fetch = some (0x100000, l) ∧ (0x100000 : VAddr).toNat = st.pc.toNat / 64 * 64 ∧ isHead l st.pc.toNat = true
      ∧ decode (lineCode l ((st.pc.toNat % 64 - 2) / 2)) = .error e ∧ NotFatal st)
    ∧ (∃ (s : State) (st : Strand) (l : Line), s.agenda = [] ∧ s.power.off = false ∧ s.eventTurn = false ∧ s.nextSlot = some (0, st) ∧ s.strandAt 0 = some st
      ∧ st.fetch = some (0x100000, l) ∧ (0x100000 : VAddr).toNat = st.pc.toNat / 64 * 64 ∧ isHead l st.pc.toNat = false ∧ NotFatal st)
    ∧ ∃ (s : State) (st : Strand) (l : Line), s.agenda = [] ∧ s.power.off = false ∧ s.eventTurn = false ∧ s.nextSlot = some (0, st) ∧ s.strandAt 0 = some st
      ∧ st.fetch = some (0x100000, l) ∧ isHead l st.pc.toNat = true ∧ (s.pending 0).isEmpty = false ∧ decode (lineCode l ((st.pc.toNat % 64 - 2) / 2)) = .ok .nop :=
  ⟨⟨lined 0x2800, _, 0x2800, rfl, rfl, rfl, by decide +kernel, rfl, rfl, by decide +kernel, by decide +kernel, by decide +kernel⟩,
    ⟨lined 0xFC002800, _, 0xFC002800, DecodeError.reservedMajor, rfl, rfl, rfl, by decide +kernel, rfl, rfl, by decide +kernel, by decide +kernel, by decide +kernel, notFatal (by decide +kernel)⟩,
    ⟨beyond, _, 0x2800, rfl, rfl, rfl, by decide +kernel, rfl, rfl, by decide +kernel, by decide +kernel, notFatal (by decide +kernel)⟩,
    { lined 0x2800 with cores := [(0, { CoreState.reset with queue := [access .load 6 [piece8] (.scalar 5 6)] })] }, _, 0x2800, rfl, rfl, rfl, by decide +kernel, rfl, rfl, by decide +kernel,
    by decide +kernel, by decide +kernel⟩

/-- A strand that enters a line which the instruction cache of its core holds, the line of its fetch buffer being another. -/
theorem witness_StepRunsTheDecodedInstruction_Enters : ∃ (s : State) (st : Strand) (l : Line) (here : State), (∀ x ∈ s.keystone.releases, s.time < x.2) ∧ s.agenda = [] ∧ s.power.off = false ∧ s.eventTurn = false
    ∧ s.nextSlot = some (0, st) ∧ s.strandAt 0 = some st ∧ (∀ a l, st.fetch = some (a, l) → a.toNat ≠ st.pc.toNat / 64 * 64)
    ∧ State.readLine { s.setCore (coreOf 0) { s.coreAt (coreOf 0) with last := 0 } with cur := 0, eventTurn := true } 0 st (st.pc.toNat / 64 * 64) = .ok (l, here)
    ∧ isHead l st.pc.toNat = true ∧ decode (lineCode l ((st.pc.toNat % 64 - 2) / 2)) = .ok .nop := by
  let st : Strand := { strandWith [] with fetch := none }
  let s : State := { machine st with icache := [(0x100000 / 64, 0x2800)] }
  let f : State := { s.setCore (coreOf 0) { s.coreAt (coreOf 0) with last := 0 } with cur := 0, eventTurn := true }
  have h : (match f.readLine 0 st (st.pc.toNat / 64 * 64) with | .ok x => decide (x.1 = 0x2800) | .error _ => false) = true := by decide +kernel
  split at h
  next x hx =>
    have e : x.1 = 0x2800 := of_decide_eq_true h
    exact ⟨s, st, x.1, x.2, (fun _ h => by cases h), rfl, rfl, rfl, by decide +kernel, rfl, (fun _ _ h => by cases h), hx, by rw [e]; decide +kernel, by rw [e]; decide +kernel⟩
  next => cases h
end Sys2Proof.Tests
end

section
/-! The state and the memory of package reset. -/
namespace Sys2Proof.Machine
/-- Every die of the reset state is up. -/
theorem State.reset_dieUp {d : Nat} (h : d < 4) : State.reset.dieUp d = true := by
  interval_cases d <;> rfl

/-- No entry is in force at reset, so every core is of the default course. -/
theorem State.reset_holder {c : Nat} (h : c < 768) : State.reset.holder c = some 0 := by
  have up : State.reset.dieUp (c / 192) = true := State.reset_dieUp (by omega)
  unfold State.holder
  rw [up]
  rfl

/-- Settles O55: each clause is a value of a field of the reset state. -/
theorem resetState : Obligations.ResetState := by
  unfold Obligations.ResetState
  exact ⟨rfl, fun _ => rfl, rfl, rfl, rfl, rfl, fun _ => State.reset_holder, fun _ => rfl, fun _ _ => rfl, fun _ => ⟨rfl, rfl, rfl⟩,
    rfl, rfl, rfl, rfl, rfl, fun _ => rfl, rfl, fun _ => rfl⟩

/-- Settles O56: an empty memory lists nothing twice and nothing as zero. -/
theorem resetMemoryIsCanonical : Obligations.ResetMemoryIsCanonical := rfl
end Sys2Proof.Machine
end

section
/-! What the operations of the state that leave memory alone do to the invariant of memory: they keep it, and keep nothing that did not meet it. -/
namespace Sys2Proof.Machine

/-! ### The invariant on updates, branches and folds -/

@[simp] theorem Memory.wf_iff_inv (s : State) : s.mem.wf = true ↔ Inv s := Iff.rfl

@[simp] theorem State.inv_mk (time strands cores quads pool localMem icache utlb qtlb acc sett copies recency barriers) (mem : Memory)
    (homes hub pod coursing keystone sys power agenda cur eventTurn free ids replies) :
    Inv (State.mk time strands cores quads pool localMem icache utlb qtlb acc sett copies recency barriers mem homes hub pod coursing keystone
      sys power agenda cur eventTurn free ids replies) ↔ mem.wf = true := Iff.rfl

@[simp] theorem State.inv_ite (c : Prop) [Decidable c] (s t : State) : Inv (if c then s else t) ↔ if c then Inv s else Inv t := by
  split <;> rfl

@[simp] theorem State.inv_ite_fst {β : Type} (c : Prop) [Decidable c] (p q : State × β) :
    Inv (if c then p else q).1 ↔ if c then Inv p.1 else Inv q.1 := by
  split <;> rfl

@[simp] theorem State.inv_foldl_iff {α : Type} {f : State → α → State} (h : ∀ s x, Inv (f s x) ↔ Inv s) (l : List α) (s : State) :
    Inv (l.foldl f s) ↔ Inv s := by
  induction l generalizing s with
  | nil => rfl
  | cons x r ih => rw [List.foldl_cons, ih, h]

@[simp] theorem State.inv_foldl_fst_iff {α β : Type} {f : State × β → α → State × β} (h : ∀ r x, Inv (f r x).1 ↔ Inv r.1) (l : List α)
    (r : State × β) : Inv (l.foldl f r).1 ↔ Inv r.1 := by
  induction l generalizing r with
  | nil => rfl
  | cons x l ih => rw [List.foldl_cons, ih, h]

/-! ### Operations of Sys2Proof/Machine/Regs.lean -/

@[simp] theorem State.setStrand_inv (s : State) (slot : Nat) (st : Strand) : Inv (s.setStrand slot st) ↔ Inv s := Iff.rfl

@[simp] theorem State.dropStrand_inv (s : State) (slot : Nat) : Inv (s.dropStrand slot) ↔ Inv s := Iff.rfl

@[simp] theorem State.setCore_inv (s : State) (c : Nat) (v : CoreState) : Inv (s.setCore c v) ↔ Inv s := Iff.rfl

@[simp] theorem State.setQuad_inv (s : State) (a : Nat) (v : QuadState) : Inv (s.setQuad a v) ↔ Inv s := Iff.rfl

@[simp] theorem State.setHomes_inv (s : State) (h : Homes) : Inv (s.setHomes h) ↔ Inv s := Iff.rfl

@[simp] theorem State.setHub_inv (s : State) (h : Hub) : Inv (s.setHub h) ↔ Inv s := Iff.rfl

@[simp] theorem State.setCoursing_inv (s : State) (c : Coursing) : Inv (s.setCoursing c) ↔ Inv s := Iff.rfl

@[simp] theorem State.setKeystone_inv (s : State) (k : Keystone) : Inv (s.setKeystone k) ↔ Inv s := Iff.rfl

@[simp] theorem State.setSys_inv (s : State) (y : Sys) : Inv (s.setSys y) ↔ Inv s := Iff.rfl

@[simp] theorem State.setPower_inv (s : State) (p : Power) : Inv (s.setPower p) ↔ Inv s := Iff.rfl

@[simp] theorem State.setPod_inv (s : State) (p : Pod) : Inv (s.setPod p) ↔ Inv s := Iff.rfl

@[simp] theorem State.nextId_inv (s : State) : Inv (s.nextId).2 ↔ Inv s := Iff.rfl

@[simp] theorem State.setV_inv (s : State) (slot : Nat) (st : Strand) (r : Nat) (v : VReg) : Inv (s.setV slot st r v) ↔ Inv s := Iff.rfl

@[simp] theorem State.setLocal_inv (s : State) (core off : Nat) (b : Byte) : Inv (s.setLocal core off b) ↔ Inv s := Iff.rfl

@[simp] theorem State.writeLocal_inv (s : State) (core off n n' : Nat) : Inv (s.writeLocal core off n n') ↔ Inv s := by
  fun_induction State.writeLocal <;> simp [*]

@[simp] theorem State.countN_inv (s : State) (pa n : Nat) : Inv (s.countN pa n) ↔ Inv s := by
  unfold State.countN
  split <;> rfl

@[simp] theorem State.count1_inv (s : State) (pa : Nat) : Inv (s.count1 pa) ↔ Inv s := Iff.rfl

@[simp] theorem State.logEvent_inv (s : State) (pa struct kind agent tenant : Nat) : Inv (s.logEvent pa struct kind agent tenant) ↔ Inv s := by
  simp only [State.logEvent]
  split
  · rw [State.count1_inv]
  · rw [State.setSys_inv]

@[simp] theorem State.logSystem_inv (s : State) (kind sub unit : Nat) : Inv (s.logSystem kind sub unit) ↔ Inv s := by simp [State.logSystem]

@[simp] theorem State.updLaunch_inv (s : State) (lid : Nat) (f : Launch → Launch) : Inv (s.updLaunch lid f) ↔ Inv s := Iff.rfl

/-! ### Operations of Sys2Proof/Machine/Translate.lean -/

@[simp] theorem State.phintWrite_inv (s : State) (a off n : Nat) : Inv (s.phintWrite a off n) ↔ Inv s := by
  simp only [State.phintWrite]
  (repeat' split) <;> simp

@[simp] theorem State.tlbFill_inv (s : State) (core : Nat) (e : TlbEntry) : Inv (s.tlbFill core e) ↔ Inv s := Iff.rfl

/-! ### Operations of Sys2Proof/Machine/Directory.lean -/

@[simp] theorem State.setStack_inv (s : State) (k : Nat) (l : List Nat) : Inv (s.setStack k l) ↔ Inv s := Iff.rfl

@[simp] theorem State.setCopy_inv (s : State) (a line : Nat) (c : L2Copy) : Inv (s.setCopy a line c) ↔ Inv s := Iff.rfl

@[simp] theorem State.dropCopy_inv (s : State) (a line : Nat) : Inv (s.dropCopy a line) ↔ Inv s := Iff.rfl

@[simp] theorem State.dropAllCopies_inv (s : State) (line : Nat) : Inv (s.dropAllCopies line) ↔ Inv s := Iff.rfl

@[simp] theorem State.dropOtherCopies_inv (s : State) (a line : Nat) : Inv (s.dropOtherCopies a line) ↔ Inv s := Iff.rfl

@[simp] theorem State.setDir_inv (s : State) (region : Nat) (e : DirEntry) : Inv (s.setDir region e) ↔ Inv s := by
  unfold State.setDir
  split <;> simp

@[simp] theorem State.freeDir_inv (s : State) (region : Nat) : Inv (s.freeDir region) ↔ Inv s := by
  unfold State.freeDir
  split <;> simp

@[simp] theorem State.holdDir_inv (s : State) (region : Nat) : Inv (s.holdDir region) ↔ Inv s := by
  unfold State.holdDir
  split <;> simp

@[simp] theorem State.updLine_inv (s : State) (line : Nat) (f : DirEntry → Nat → DirEntry) : Inv (s.updLine line f) ↔ Inv s := by
  simp [State.updLine]

@[simp] theorem State.markLost_inv (s : State) (line : Nat) : Inv (s.markLost line) ↔ Inv s := by simp [State.markLost]

@[simp] theorem State.setSnoop_inv (s : State) (line : Nat) (e : SnoopEntry) : Inv (s.setSnoop line e) ↔ Inv s := Iff.rfl

@[simp] theorem State.scStamp_inv (s : State) (core pa : Nat) : Inv (s.scStamp core pa) ↔ Inv s := Iff.rfl

@[simp] theorem State.localStamp_inv (s : State) (core : Nat) : Inv (s.localStamp core) ↔ Inv s := Iff.rfl

/-! ### Operations of Sys2Proof/Machine/Home.lean -/

@[simp] theorem State.setReqs_inv (s : State) (line : Nat) (l : List Request) : Inv (s.setReqs line l) ↔ Inv s := Iff.rfl

@[simp] theorem State.setHead_inv (s : State) (line : Nat) (r : Request) : Inv (s.setHead line r) ↔ Inv s := Iff.rfl

@[simp] theorem State.fillBuffers_inv (s : State) : Inv s.fillBuffers ↔ Inv s := by simp [State.fillBuffers]

@[simp] theorem State.dropReqs_inv (s : State) (line : Nat) (p : Request → Bool) : Inv (s.dropReqs line p) ↔ Inv s := by
  simp [State.dropReqs]

@[simp] theorem State.settleMoving_inv (s : State) : Inv s.settleMoving ↔ Inv s := Iff.rfl

@[simp] theorem State.dropParts_inv (s : State) (no : Nat) : Inv (s.dropParts no) ↔ Inv s := by
  simp only [State.dropParts]
  (repeat' split) <;> simp

@[simp] theorem State.popReq_inv (s : State) (line : Nat) : Inv (s.popReq line) ↔ Inv s := by
  unfold State.popReq
  split <;> simp

@[simp] theorem State.appendReq_inv (s : State) (line : Nat) (r : Request) : Inv (s.appendReq line r) ↔ Inv s := by simp [State.appendReq]

@[simp] theorem State.homeWork_inv (s : State) (line : Nat) (kind : ReqKind) : Inv (s.homeWork line kind) ↔ Inv s := by
  simp [State.homeWork]

@[simp] theorem State.takePlace_inv (s : State) (line no : Nat) (kind : ReqKind) : Inv (s.takePlace line no kind) ↔ Inv s := by
  simp [State.takePlace]

@[simp] theorem State.evictCopy_inv (s : State) (a line : Nat) : Inv (s.evictCopy a line) ↔ Inv s := by
  unfold State.evictCopy
  (repeat' split) <;> simp

@[simp] theorem State.clearWay_inv (s : State) (a tenant key line : Nat) (kind : ReqKind) : Inv (s.clearWay a tenant key line kind) ↔ Inv s := by
  unfold State.clearWay
  (repeat' split) <;> simp

@[simp] theorem State.requestLine_inv (s : State) (a core tenant key line : Nat) (kind : ReqKind) :
    Inv (s.requestLine a core tenant key line kind) ↔ Inv s := by simp [State.requestLine]

@[simp] theorem State.answerBare_inv (s : State) (r : Request) (line : Nat) (write : Bool) : Inv (s.answerBare r line write) ↔ Inv s := by
  simp only [State.answerBare]
  (repeat' split) <;> simp

@[simp] theorem State.useAnswer_inv (s : State) (agent line : Nat) (write : Bool) : Inv (s.useAnswer agent line write) ↔ Inv s := by
  unfold State.useAnswer
  split <;> simp

@[simp] theorem State.askLine_inv (s : State) (core agent tenant key pa : Nat) (kind : ReqKind) :
    Inv (s.askLine core agent tenant key pa kind) ↔ Inv s := by simp [State.askLine]

@[simp] theorem State.fillL1_inv (s : State) (core a line : Nat) : Inv (s.fillL1 core a line) ↔ Inv s := by
  refine (State.inv_foldl_iff (fun s x => ?_) _ _).trans Iff.rfl
  split <;> rfl

@[simp] theorem State.fillLlc_inv (s : State) (core tenant key line : Nat) (modified : Bool) :
    Inv (s.fillLlc core tenant key line modified) ↔ Inv s := by
  unfold State.fillLlc
  (repeat' split) <;> simp

@[simp] theorem State.touchCopy_inv (s : State) (core a pa : Nat) (write : Bool) : Inv (s.touchCopy core a pa write) ↔ Inv s := by
  unfold State.touchCopy
  (repeat' split) <;> simp

@[simp] theorem State.touchL2_inv (s : State) (a line tenant : Nat) (write : Bool) : Inv (s.touchL2 a line tenant write) ↔ Inv s := by
  unfold State.touchL2
  split <;> simp

@[simp] theorem State.trace_inv (s : State) (line agent event ans : Nat) : Inv (s.trace line agent event ans) ↔ Inv s := by
  simp [State.trace]

@[simp] theorem State.setDirT_inv (s : State) (region agent : Nat) (e : DirEntry) (line : Nat) : Inv (s.setDirT region agent e line) ↔ Inv s := by
  simp [State.setDirT]

@[simp] theorem State.updLineT_inv (s : State) (line agent : Nat) (f : DirEntry → Nat → DirEntry) : Inv (s.updLineT line agent f) ↔ Inv s := by
  simp [State.updLineT]

@[simp] theorem State.restoreLost_inv (s : State) (line : Nat) : Inv (s.restoreLost line) ↔ Inv s := by simp [State.restoreLost]

@[simp] theorem State.sendProbe_inv (s : State) (line agent : Nat) (invalidate : Bool) : Inv (s.sendProbe line agent invalidate) ↔ Inv s := by
  simp [State.sendProbe]

@[simp] theorem State.recallLines_inv (s : State) (lines : List Nat) : Inv (s.recallLines lines).1 ↔ Inv s := by simp [State.recallLines]

@[simp] theorem State.countCycle_inv (s : State) : Inv s.countCycle ↔ Inv s := by simp [State.countCycle]

@[simp] theorem State.setTile_inv (s : State) (tid : Nat) (t : TileRec) : Inv (s.setTile tid t) ↔ Inv s := Iff.rfl

@[simp] theorem State.beginTile_inv (s : State) (tid : Nat) (t : TileRec) (but no : Nat) : Inv (s.beginTile tid t but no) ↔ Inv s := by
  simp [State.beginTile]

@[simp] theorem State.endTile_inv (s : State) (tid no : Nat) : Inv (s.endTile tid no) ↔ Inv s := by
  simp only [State.endTile]
  (repeat' split) <;> simp

@[simp] theorem State.demote_inv (s : State) (tid : Nat) (t : TileRec) : Inv (s.demote tid t) ↔ Inv s := by simp [State.demote]

@[simp] theorem State.demoteTile_inv (s : State) (tid : Nat) (t : TileRec) : Inv (s.demoteTile tid t).1 ↔ Inv s := by
  unfold State.demoteTile
  split <;> simp

@[simp] theorem State.unbind_inv (s : State) (tid : Nat) (t : TileRec) : Inv (s.unbind tid t) ↔ Inv s := by simp [State.unbind]

@[simp] theorem State.putCopy_inv (s : State) (a line core tenant key : Nat) (st : CopyState) :
    Inv (s.putCopy a line core tenant key st) ↔ Inv s := by
  simp only [State.putCopy]
  (repeat' split) <;> simp

@[simp] theorem State.cleanCopy_inv (s : State) (a line : Nat) : Inv (s.cleanCopy a line) ↔ Inv s := by
  unfold State.cleanCopy
  split <;> simp

@[simp] theorem State.moveTile_inv (s : State) (tid : Nat) (t : TileRec) (own : Bool) (core tenant key : Nat) :
    Inv (s.moveTile tid t own core tenant key) ↔ Inv s := by simp [State.moveTile]

@[simp] theorem State.evictTile_inv (s : State) (tid : Nat) (t : TileRec) (tenant key : Nat) : Inv (s.evictTile tid t tenant key) ↔ Inv s := by
  simp [State.evictTile]

@[simp] theorem State.evictRegion_inv (s : State) (region : Nat) : Inv (s.evictRegion region) ↔ Inv s := by
  simp only [State.evictRegion]
  (repeat' split) <;> simp

@[simp] theorem State.dirRoom_inv (s : State) (line : Nat) : Inv (s.dirRoom line).1 ↔ Inv s := by
  simp only [State.dirRoom]
  (repeat' split) <;> simp

@[simp] theorem State.repairDirectory_inv (s : State) (region : Nat) : Inv (s.repairDirectory region) ↔ Inv s := by
  simp [State.repairDirectory]

@[simp] theorem State.dissolve_inv (s : State) (tid : Nat) : Inv (s.dissolve tid) ↔ Inv s := by
  unfold State.dissolve
  split <;> simp

@[simp] theorem State.finishRepair_inv (s : State) (region : Nat) : Inv (s.finishRepair region) ↔ Inv s := by simp [State.finishRepair]

@[simp] theorem State.raiseHorizon_inv (s : State) (line c : Nat) : Inv (s.raiseHorizon line c) ↔ Inv s := by
  simp only [State.raiseHorizon]
  (repeat' split) <;> simp

@[simp] theorem State.shareOwner_inv (s : State) (line : Nat) : Inv (s.shareOwner line) ↔ Inv s := by
  unfold State.shareOwner
  split <;> simp

@[simp] theorem State.llcFor_inv (s : State) (r : Request) (line : Nat) (modified : Bool) : Inv (s.llcFor r line modified) ↔ Inv s := by
  simp [State.llcFor]

@[simp] theorem State.countLostRead_inv (s : State) (tenant key pa : Nat) : Inv (s.countLostRead tenant key pa) ↔ Inv s := Iff.rfl

@[simp] theorem State.readCounted_inv (s : State) (tenant key pa n : Nat) : Inv (s.readCounted tenant key pa n).1 ↔ Inv s := by
  simp [State.readCounted]

@[simp] theorem State.tell_inv (s : State) (party : Nat) (x : PartyReply) : Inv (s.tell party x) ↔ Inv s := Iff.rfl

@[simp] theorem State.tellHost_inv (s : State) (agent line : Nat) : Inv (s.tellHost agent line) ↔ Inv s := by simp [State.tellHost]

@[simp] theorem State.grantS_inv (s : State) (r : Request) (line : Nat) : Inv (s.grantS r line) ↔ Inv s := by simp [State.grantS]

@[simp] theorem State.grantL_inv (s : State) (r : Request) (line c : Nat) : Inv (s.grantL r line c) ↔ Inv s := by simp [State.grantL]

@[simp] theorem State.grantO_inv (s : State) (r : Request) (line : Nat) : Inv (s.grantO r line) ↔ Inv s := by simp [State.grantO]

@[simp] theorem State.takeLine_inv (s : State) (line : Nat) : Inv (s.takeLine line) ↔ Inv s := by simp [State.takeLine]

@[simp] theorem State.afterHorizon_inv (s : State) (r : Request) (line : Nat) {done : State} (h : Inv done ↔ Inv s) :
    Inv (s.afterHorizon r line done) ↔ Inv s := by
  unfold State.afterHorizon
  split
  · exact h
  · simp

@[simp] theorem State.horizonO_inv (s : State) (r : Request) (line : Nat) : Inv (s.horizonO r line) ↔ Inv s := by simp [State.horizonO]

@[simp] theorem State.holdReq_inv (s : State) (r : Request) (line : Nat) : Inv (s.holdReq r line) ↔ Inv s := Iff.rfl

@[simp] theorem State.recallFor_inv (s : State) (r : Request) (line : Nat) (own : Bool) : Inv (s.recallFor r line own).1 ↔ Inv s := by
  simp [State.recallFor]

@[simp] theorem State.vacate_inv (s : State) (line : Nat) : Inv (s.vacate line) ↔ Inv s := by simp [State.vacate]

@[simp] theorem State.finishS_inv (s : State) (r : Request) (line : Nat) : Inv (s.finishS r line) ↔ Inv s := by simp [State.finishS]

@[simp] theorem State.finishLost_inv (s : State) (r : Request) (line : Nat) : Inv (s.finishLost r line) ↔ Inv s := by
  unfold State.finishLost
  split <;> simp

@[simp] theorem State.answerTile_inv (s : State) (r : Request) (line : Nat) (own : Bool) : Inv (s.answerTile r line own) ↔ Inv s := by
  simp [State.answerTile]

@[simp] theorem State.serveTile_inv (s : State) (r : Request) (line tid : Nat) (t : TileRec) (own : Bool) :
    Inv (s.serveTile r line tid t own) ↔ Inv s := by
  unfold State.serveTile
  split <;> simp

@[simp] theorem State.demoteFor_inv (s : State) (r : Request) (line tid : Nat) (t : TileRec) {f : State → State} (h : ∀ s, Inv (f s) ↔ Inv s) :
    Inv (s.demoteFor r line tid t f) ↔ Inv s := by
  unfold State.demoteFor
  dsimp only
  (repeat' split) <;> simp [h]

@[simp] theorem State.askHome_inv (s : State) (line tenant key c : Nat) : Inv (s.askHome line tenant key c) ↔ Inv s := by
  simp [State.askHome]

@[simp] theorem State.putTile_inv (s : State) (h : Request) (line tid : Nat) (t : TileRec) : Inv (s.putTile h line tid t) ↔ Inv s := by
  unfold State.putTile
  split <;> simp

@[simp] theorem State.dropProbe_inv (s : State) (agent line : Nat) : Inv (s.dropProbe agent line) ↔ Inv s := Iff.rfl

@[simp] theorem State.sendAnswer_inv (s : State) (agent line : Nat) (kind : AnswerKind) (invalidate : Bool) :
    Inv (s.sendAnswer agent line kind invalidate) ↔ Inv s :=
  Iff.rfl

@[simp] theorem State.giveUp_inv (s : State) (agent line : Nat) : Inv (s.giveUp agent line) ↔ Inv s := by
  unfold State.giveUp
  split <;> simp

@[simp] theorem State.isolate_inv (s : State) (agent : Nat) : Inv (s.isolate agent) ↔ Inv s := by simp [State.isolate]

/-! ### Operations of Sys2Proof/Machine/Ops.lean -/

@[simp] theorem State.hubCount_inv (s : State) (tenant asid va n : Nat) : Inv (s.hubCount tenant asid va n) ↔ Inv s := by
  unfold State.hubCount
  split <;> simp

@[simp] theorem State.hubAsk_inv (s : State) (tenant asid va n : Nat) : Inv (s.hubAsk tenant asid va n) ↔ Inv s := by
  unfold State.hubAsk
  (repeat' split) <;> simp

@[simp] theorem State.countHostDisc_inv (s : State) (tenant asid va : Nat) : Inv (s.countHostDisc tenant asid va) ↔ Inv s := by
  simp [State.countHostDisc]

@[simp] theorem State.setFaultQueue_inv (s : State) (tenant : Nat) (q : FaultQueue) : Inv (s.setFaultQueue tenant q) ↔ Inv s := Iff.rfl

@[simp] theorem State.issued_inv (s : State) (slot : Nat) : Inv (s.issued slot) ↔ Inv s := Iff.rfl

@[simp] theorem State.retire_inv (s : State) (slot : Nat) (st : Strand) : Inv (s.retire slot st) ↔ Inv s := Iff.rfl

@[simp] theorem State.jump_inv (s : State) (slot : Nat) (st : Strand) (target : VAddr) : Inv (s.jump slot st target) ↔ Inv s := Iff.rfl

@[simp] theorem State.enqueue_inv (s : State) (core : Nat) (a : Access) : Inv (s.enqueue core a) ↔ Inv s := Iff.rfl

@[simp] theorem State.endStrand_inv (s : State) (slot : Nat) (st : Strand) (xcode : Nat) : Inv (s.endStrand slot st xcode) ↔ Inv s :=
  Iff.rfl

@[simp] theorem State.countWalk_inv (s : State) (tenant asid : Nat) (t : Trap) : Inv (s.countWalk tenant asid t) ↔ Inv s := by
  unfold State.countWalk
  (repeat' split) <;> simp

@[simp] theorem State.trapReturn_inv (s : State) (slot : Nat) (st : Strand) : Inv (s.trapReturn slot st) ↔ Inv s := Iff.rfl

@[simp] theorem State.keepLoop_inv (s : State) (core : Nat) (st : Strand) (va pa : Nat) (l : Line) : Inv (s.keepLoop core st va pa l) ↔ Inv s := by
  simp [State.keepLoop]

@[simp] theorem State.fillIcache_inv (s : State) (core pa : Nat) (l : Line) : Inv (s.fillIcache core pa l) ↔ Inv s := by
  simp [State.fillIcache]

theorem State.readLine_inv {s t : State} {slot va : Nat} {st : Strand} {l : Line} (h : s.readLine slot st va = .ok (l, t)) : Inv t ↔ Inv s := by
  unfold State.readLine at h
  dsimp only at h
  split at h
  · cases h
  · split at h
    · cases h
    · split at h
      · obtain ⟨-, rfl⟩ := Prod.mk.inj (Except.ok.inj h)
        split <;> simp
      · split at h
        · cases h
        · obtain ⟨-, rfl⟩ := Prod.mk.inj (Except.ok.inj h)
          split <;> simp

theorem State.lineFor_inv {s t : State} {slot va : Nat} {st : Strand} {l : Line} (h : s.lineFor slot st va = .ok (l, t)) : Inv t ↔ Inv s := by
  unfold State.lineFor at h
  split at h
  · split at h
    · cases h; rfl
    · exact State.readLine_inv h
  · exact State.readLine_inv h

theorem State.walkHeads_inv {s t : State} {slot n a p q : Nat} {st : Strand} (h : s.walkHeads slot st n a = .ok (p, q, t)) : Inv t ↔ Inv s := by
  induction n generalizing s a p q with
  | zero => cases h; rfl
  | succ n ih =>
    unfold State.walkHeads at h
    split at h
    · cases h
    next l u hu =>
      split at h
      · cases h
      · dsimp only at h
        split at h
        · cases h
          exact State.lineFor_inv hu
        · exact (ih h).trans (State.lineFor_inv hu)

theorem State.headAfterAt_inv {s t : State} {slot n : Nat} {st : Strand} {a : VAddr} (h : s.headAfterAt slot st a = .ok (n, t)) :
    Inv t ↔ Inv s := by
  unfold State.headAfterAt at h
  split at h
  · cases h; rfl
  · split at h
    · cases h
    next hw =>
      cases h
      exact State.walkHeads_inv hw

@[simp] theorem State.askFetch_inv (s : State) (slot : Nat) (st : Strand) (pa : Nat) : Inv (s.askFetch slot st pa) ↔ Inv s := by
  simp [State.askFetch]

/-! ### Operations of Sys2Proof/Machine/Operands.lean -/

@[simp] theorem State.setResult_inv (s : State) (slot : Nat) (st : Strand) (a : BitVec 4) (r : Word × FFlags) :
    Inv (s.setResult slot st a r) ↔ Inv s :=
  Iff.rfl

@[simp] theorem State.setWord_inv (s : State) (slot : Nat) (st : Strand) (a : BitVec 4) (v : Word) : Inv (s.setWord slot st a v) ↔ Inv s :=
  Iff.rfl

@[simp] theorem setGroup_inv (s : State) (slot : Nat) (st : Strand) (base k w : Nat) (l : List Nat) :
    Inv (setGroup s slot st base k w l) ↔ Inv s := by
  unfold setGroup
  exact State.inv_foldl_iff (fun s _ => State.setV_inv s ..) ..

/-! ### Operations of Sys2Proof/Machine/Jobs.lean -/

@[simp] theorem State.countLost_inv (s : State) (tenant : Nat) (f : TileFlags) : Inv (s.countLost tenant f) ↔ Inv s := by
  simp [State.countLost]

@[simp] theorem State.updCmd_inv (s : State) (a seq : Nat) (f : Cmd → Cmd) : Inv (s.updCmd a seq f) ↔ Inv s := Iff.rfl

@[simp] theorem State.dropCmd_inv (s : State) (a seq : Nat) : Inv (s.dropCmd a seq) ↔ Inv s := Iff.rfl

@[simp] theorem State.raiseBank_inv (s : State) (a bank : Nat) (f : TileFlags) : Inv (s.raiseBank a bank f) ↔ Inv s := Iff.rfl

@[simp] theorem State.setBankFlags_inv (s : State) (a bank : Nat) (f : TileFlags) : Inv (s.setBankFlags a bank f) ↔ Inv s := Iff.rfl

@[simp] theorem State.orphan_inv (s : State) (a : Nat) (copy : Cmd) : Inv (s.orphan a copy) ↔ Inv s := by simp [State.orphan]

@[simp] theorem State.setAcc_inv (s : State) (a bank row col v : Nat) : Inv (s.setAcc a bank row col v) ↔ Inv s := Iff.rfl

@[simp] theorem State.matProduct_inv (s : State) (a tenant : Nat) (o : MatOp) (chunks : Nat) (halves : Nat → Nat → List
    ((Nat → Num × TileFlags) × (Nat → Num × TileFlags))) (extra : TileFlags) :
    Inv (s.matProduct a tenant o chunks halves extra) ↔ Inv s := by
  simp only [State.matProduct, State.countLost_inv, State.raiseBank_inv]
  refine (State.inv_foldl_fst_iff (fun r ij => ?_) _ _).trans ?_
  · exact State.setAcc_inv ..
  · dsimp only
    split <;> simp

@[simp] theorem State.runMma_inv (s : State) (a tenant : Nat) (o : MatOp) (gen : Word) (chunks : Nat) :
    Inv (s.runMma a tenant o gen chunks) ↔ Inv s := by simp [State.runMma]

@[simp] theorem State.runMzero_inv (s : State) (a : Nat) (o : MatOp) : Inv (s.runMzero a o) ↔ Inv s := by simp [State.runMzero]

@[simp] theorem State.runMld_inv (s : State) (a tenant : Nat) (o : MatOp) : Inv (s.runMld a tenant o) ↔ Inv s := by
  simp only [State.runMld, State.countLost_inv, State.raiseBank_inv]
  refine (State.inv_foldl_fst_iff (fun r ij => ?_) _ _).trans Iff.rfl
  exact State.setAcc_inv ..

@[simp] theorem State.runJoint_inv (s : State) (l : List (Nat × Cmd × MatOp)) (chunks : Nat) : Inv (s.runJoint l chunks) ↔ Inv s := by
  simp [State.runJoint]

@[simp] theorem State.setSettArray_inv (s : State) (a : Nat) (l : Array SettCell) : Inv (s.setSettArray a l) ↔ Inv s := Iff.rfl

@[simp] theorem State.runSload_inv (s : State) (a tenant src count : Nat) : Inv (s.runSload a tenant src count) ↔ Inv s := by
  simp [State.runSload]

@[simp] theorem State.askPiece_inv (s : State) (a : Nat) (c : Cmd) (p : HodPiece) (pa : Nat) (index : Option Nat) :
    Inv (s.askPiece a c p pa index) ↔ Inv s := by simp [State.askPiece]

@[simp] theorem State.partialAshlar_inv (s : State) (a : Nat) (c : Cmd) : Inv (s.partialAshlar a c) ↔ Inv s := by
  simp only [State.partialAshlar]
  (repeat' split) <;> simp

@[simp] theorem State.advanceSort_inv (s : State) (a : Nat) (c : Cmd) : Inv (s.advanceSort a c) ↔ Inv s := by
  unfold State.advanceSort
  split <;> simp

@[simp] theorem State.killStrand_inv (s : State) (slot : Nat) (st : Strand) : Inv (s.killStrand slot st) ↔ Inv s := Iff.rfl

@[simp] theorem State.countEnded_inv (s : State) (orphan : Bool) (c : Cmd) : Inv (s.countEnded orphan c) ↔ Inv s := by
  simp [State.countEnded]

@[simp] theorem State.endAway_inv (s : State) (lid core : Nat) (lost : Bool) : Inv (s.endAway lid core lost) ↔ Inv s := Iff.rfl

@[simp] theorem State.killAway_inv (s : State) (lid : Nat) : Inv (s.killAway lid) ↔ Inv s := by simp [State.killAway]

/-! ### Operations of Sys2Proof/Machine/Parties.lean -/

@[simp] theorem State.partyDone_inv (s : State) (p id : Nat) (x : PartyReply) : Inv (s.partyDone p id x) ↔ Inv s := Iff.rfl

@[simp] theorem State.dropOps_inv (s : State) (p : Nat) : Inv (s.dropOps p) ↔ Inv s := Iff.rfl

@[simp] theorem State.dropFirmware_inv (s : State) (op : PartyOp) : Inv (s.dropFirmware op) ↔ Inv s := Iff.rfl

/-! ### Operations of Sys2Proof/Machine/CtlRegs.lean -/

@[simp] theorem State.wakePackage_inv (s : State) : Inv s.wakePackage ↔ Inv s := by simp [State.wakePackage]

@[simp] theorem State.commitApply_inv (s : State) (n : BitVec 7) : Inv (s.commitApply n) ↔ Inv s := by
  unfold State.commitApply
  (repeat' split) <;> simp

@[simp] theorem State.cttimeApply_inv (s : State) (v : Word) : Inv (s.cttimeApply v) ↔ Inv s := by
  simp only [State.cttimeApply]
  (repeat' split) <;> simp

@[simp] theorem State.tnsaveApply_inv (s : State) (tenant : Nat) (v : Word) : Inv (s.tnsaveApply tenant v) ↔ Inv s := by
  simp only [State.tnsaveApply]
  (repeat' split) <;> simp

@[simp] theorem State.tableWrite_inv (s : State) (off n v : Nat) : Inv (s.tableWrite off n v) ↔ Inv s := by
  simp only [State.tableWrite]
  (repeat' split) <;> simp

@[simp] theorem State.setQueue_inv (s : State) (n : Nat) (q : Queue) : Inv (s.setQueue n q) ↔ Inv s := Iff.rfl

@[simp] theorem State.tailWrite_inv (s : State) (n : Nat) (tail : BitVec 32) : Inv (s.tailWrite n tail) ↔ Inv s := by simp [State.tailWrite]

@[simp] theorem State.unfence_inv (s : State) (v : Word) : Inv (s.unfence v) ↔ Inv s := by simp [State.unfence]

@[simp] theorem State.sleepQuads_inv (s : State) : Inv s.sleepQuads ↔ Inv s := by
  unfold State.sleepQuads
  split
  · rfl
  · exact State.inv_foldl_iff (fun s _ => State.setQuad_inv s ..) ..

@[simp] theorem State.setPort_inv (s : State) (k : Nat) (p : DebugPort) : Inv (s.setPort k p) ↔ Inv s := Iff.rfl

@[simp] theorem State.snapApply_inv (s : State) (k : Nat) : Inv (s.snapApply k) ↔ Inv s := by simp [State.snapApply]

@[simp] theorem State.traceOn_inv (s : State) (k : Nat) : Inv (s.traceOn k) ↔ Inv s := Iff.rfl

@[simp] theorem State.traceClear_inv (s : State) (k : Nat) : Inv (s.traceClear k) ↔ Inv s := Iff.rfl

@[simp] theorem State.clearCounters_inv (s : State) (p : Nat → Bool) : Inv (s.clearCounters p) ↔ Inv s := Iff.rfl

@[simp] theorem State.ecclrApply_inv (s : State) (memoryPage : Bool) (tenant : Nat) (clr : BitVec 15) :
    Inv (s.ecclrApply memoryPage tenant clr) ↔ Inv s :=
  Iff.rfl

@[simp] theorem State.clearStructs_inv (s : State) : Inv s.clearStructs ↔ Inv s := Iff.rfl

@[simp] theorem State.writeBlock0_inv (s : State) (off : Nat) (w : RegWrite) (raw n at_ : Nat) : Inv (s.writeBlock0 off w raw n at_) ↔ Inv s := by
  fun_cases State.writeBlock0 <;> simp

@[simp] theorem State.writeBlock1_inv (s : State) (off : Nat) (w : RegWrite) : Inv (s.writeBlock1 off w) ↔ Inv s := by
  fun_cases State.writeBlock1 <;> simp -implicitDefEqProofs

@[simp] theorem State.writeBlock2_inv (s : State) (off : Nat) (w : RegWrite) : Inv (s.writeBlock2 off w) ↔ Inv s := by
  unfold State.writeBlock2
  (repeat' split) <;> simp

@[simp] theorem State.writeMailbox_inv (s : State) (who : Party ⊕ Nat) (off : Nat) (w : RegWrite) (raw n at_ : Nat) :
    Inv (s.writeMailbox who off w raw n at_) ↔ Inv s := by
  unfold State.writeMailbox
  split <;> simp

/-! ### Operations of Sys2Proof/Machine/Frames.lean -/

@[simp] theorem State.askPlain_inv (s : State) (slot : Nat) (st : Strand) (pa : Nat) (write : Bool) : Inv (s.askPlain slot st pa write) ↔ Inv s := by
  simp [State.askPlain]

/-! ### Operations of Sys2Proof/Machine/Control.lean -/

@[simp] theorem State.branch_inv (s : State) (slot : Nat) (st : Strand) (taken : Bool) (i24 : BitVec 24) :
    Inv (s.branch slot st taken i24) ↔ Inv s := by
  simp [State.branch]

/-! ### Operations of Sys2Proof/Machine/Migrate.lean -/

@[simp] theorem State.freeSource_inv (s : State) (core : Nat) (p : Packet) : Inv (s.freeSource core p) ↔ Inv s := by
  unfold State.freeSource
  split <;> simp

/-! ### Operations of Sys2Proof/Machine/Access.lean -/

@[simp] theorem State.fillAll_inv (s : State) (core : Nat) (es : List TlbEntry) : Inv (s.fillAll core es) ↔ Inv s := by simp [State.fillAll]

@[simp] theorem State.askLines_inv (s : State) (core : Nat) (a : Access) : Inv (s.askLines core a) ↔ Inv s := by simp [State.askLines]

@[simp] theorem State.useAnswers_inv (s : State) (core : Nat) (a b : Access) : Inv (s.useAnswers core a b) ↔ Inv s := by
  simp [State.useAnswers]

@[simp] theorem State.launchAccess_inv (s : State) (slot : Nat) (a : Access) : Inv (s.launchAccess slot a) ↔ Inv s := by
  simp [State.launchAccess]

@[simp] theorem State.loadPiece_inv (s : State) (core : Nat) (a : Access) (p : Piece) (ext : Option Nat) (count first : Bool) :
    Inv (s.loadPiece core a p ext count first).1 ↔ Inv s := by
  simp only [State.loadPiece]
  (repeat' split) <;> simp

@[simp] theorem State.deliver_inv (s : State) (a : Access) (v : Nat) (f : FFlags) : Inv (s.deliver a v f) ↔ Inv s := by
  simp only [State.deliver]
  (repeat' split) <;> simp

@[simp] theorem State.putAccess_inv (s : State) (core : Nat) (a : Access) : Inv (s.putAccess core a) ↔ Inv s := Iff.rfl

@[simp] theorem State.stampFor_inv (s : State) (core : Nat) (a : Access) : Inv (s.stampFor core a) ↔ Inv s := by
  unfold State.stampFor
  split <;> simp

theorem State.takePeer_inv {s t : State} {core pa : Nat} {a : Access} {ext : List Byte} {x : BitVec 1024 × List Byte}
    (h : s.takePeer core a pa ext = some (t, x)) : Inv t ↔ Inv s := by
  unfold State.takePeer at h
  dsimp only at h
  split at h
  · cases h
  · split at h
    · split at h <;> cases h <;> simp
    · cases h
      simp

theorem State.loadHere_inv {s t : State} {core : Nat} {a : Access} {p : Piece} {ext : List Byte} {count first : Bool} {x : Nat × Bool × List Byte}
    (h : s.loadHere core a p ext count first = some (t, x)) : Inv t ↔ Inv s := by
  unfold State.loadHere at h
  dsimp only at h
  split at h
  · split at h
    · cases h; rfl
    · obtain ⟨⟨u, d⟩, hu, e⟩ := Option.map_eq_some_iff.1 h
      cases e
      exact State.takePeer_inv hu
  · cases h
    simp

@[simp] theorem State.performLoads_inv (s : State) (core : Nat) (earlier : List Access) (a : Access) (pick : Nat → Bool) (n : Nat)
    (l : List Nat) (l' : List Piece) (l'' : List Byte) :
    Inv (s.performLoads core earlier a pick n l l' l'').1 ↔ Inv s := by
  fun_induction State.performLoads with
  | case1 => rfl
  | case2 _ _ _ _ _ _ _ _ _ ih => exact ih
  | case3 _ _ _ _ _ _ _ _ _ _ _ ih => exact ih
  | case4 _ _ _ _ _ _ _ _ _ x hx _ _ ih =>
    split at hx
    · exact ih.trans (State.loadHere_inv (x := x.2) hx)
    · cases hx
  | case5 _ _ _ _ _ _ _ _ _ _ _ ih => exact ih

/-! ### Operations of Sys2Proof/Machine/LoadStore.lean -/

@[simp] theorem asIs_inv (s : State) (st : Strand) : Inv (asIs s st).1 ↔ Inv s := Iff.rfl

@[simp] theorem State.localSc_inv (s : State) (slot : Nat) (o : MemOps) : Inv (s.localSc slot o) ↔ Inv s := by simp [State.localSc]

/-! ### Operations of Sys2Proof/Machine/Sync.lean -/

@[simp] theorem State.sleep_inv (s : State) (slot : Nat) (st : Strand) (w : Wait) : Inv (s.sleep slot st w) ↔ Inv s := Iff.rfl

@[simp] theorem State.markFence_inv (s : State) (slot : Nat) (st : Strand) (o : MemOps) : Inv (s.markFence slot st o) ↔ Inv s := by
  simp [State.markFence]

@[simp] theorem State.dropCode_inv (s : State) (core line : Nat) : Inv (s.dropCode core line) ↔ Inv s := Iff.rfl

@[simp] theorem State.flushData_inv (s : State) (slot : Nat) (st : Strand) (o : MemOps) (p : Piece) : Inv (s.flushData slot st o p) ↔ Inv s := by
  simp [State.flushData]

@[simp] theorem State.setBarrier_inv (s : State) (k : Nat) (b : Barrier) : Inv (s.setBarrier k b) ↔ Inv s := Iff.rfl

@[simp] theorem State.arriveAt_inv (s : State) (k : Nat) (b : Barrier) : Inv (s.arriveAt k b) ↔ Inv s := by simp [State.arriveAt]

@[simp] theorem State.settleClaims_inv (s : State) (index : Nat) (l : List PodClaim) : Inv (s.settleClaims index l) ↔ Inv s := Iff.rfl

@[simp] theorem State.settleBefore_inv (s : State) (o : MemOps) : Inv (s.settleBefore o) ↔ Inv s := by simp [State.settleBefore]

/-! ### Operations of Sys2Proof/Machine/Tiles.lean -/

@[simp] theorem State.waysFor_inv (s : State) (l : List Nat) : Inv (s.waysFor l).1 ↔ Inv s := by
  induction l generalizing s with
  | nil => rfl
  | cons x r ih => simp [State.waysFor, ih]

@[simp] theorem State.probeLines_inv (s : State) (agent : Nat) (lines : List Nat) : Inv (s.probeLines agent lines) ↔ Inv s := by
  refine State.inv_foldl_iff (fun s x => ?_) _ _
  split <;> simp

@[simp] theorem State.declareTile_inv (s : State) (tid : Nat) (t : TileRec) (core tenant key : Nat) :
    Inv (s.declareTile tid t core tenant key) ↔ Inv s := by simp [State.declareTile]

@[simp] theorem State.endTileOp_inv (s : State) (slot : Nat) : Inv (s.endTileOp slot) ↔ Inv s := by
  unfold State.endTileOp
  split <;> simp

@[simp] theorem State.beginTileOp_inv (s : State) (slot : Nat) (st : Strand) (lines : List Nat) : Inv (s.beginTileOp slot st lines) ↔ Inv s := by
  simp [State.beginTileOp]

@[simp] theorem State.waitTileOp_inv (s : State) (slot : Nat) (st : Strand) (lines : List Nat) : Inv (s.waitTileOp slot st lines) ↔ Inv s := by
  unfold State.waitTileOp
  split <;> simp

@[simp] theorem State.runDeclare_inv (s : State) (slot : Nat) (st : Strand) (d : BitVec 4) (pa : Nat) (t : TileRec) (key : Nat) :
    Inv (s.runDeclare slot st d pa t key) ↔ Inv s := by
  unfold State.runDeclare
  (repeat' split) <;> simp

/-! ### Operations of Sys2Proof/Machine/Engines.lean -/

@[simp] theorem State.spLoad_inv (s : State) (slot : Nat) (st : Strand) (off n : Nat) : Inv (s.spLoad slot st off n).2.1 ↔ Inv s := by
  simp only [State.spLoad]
  (repeat' split) <;> simp

@[simp] theorem State.countFenced_inv (s : State) (a : Nat) (c : Cmd) (p : HodPiece) : Inv (s.countFenced a c p) ↔ Inv s := by
  unfold State.countFenced
  split <;> simp

@[simp] theorem State.finishSort_inv (s : State) (a : Nat) (c : Cmd) : Inv (s.finishSort a c) ↔ Inv s := Iff.rfl

/-! ### Operations of Sys2Proof/Machine/System.lean -/

@[simp] theorem State.setPhint_inv (s : State) (slot n : Nat) (e : Option PhintSlot) : Inv (s.setPhint slot n e) ↔ Inv s := Iff.rfl

@[simp] theorem State.dropTlb_inv (s : State) (asid : Nat) (va : Option Nat) : Inv (s.dropTlb asid va) ↔ Inv s := Iff.rfl

/-! ### Operations of Sys2Proof/Machine/Hub.lean -/

@[simp] theorem State.askFoot_inv (s : State) (tenant asid r : Nat) : Inv (s.askFoot tenant asid r) ↔ Inv s := by simp [State.askFoot]

@[simp] theorem State.notePool_inv (s : State) : Inv s.notePool ↔ Inv s := by simp [State.notePool]

@[simp] theorem State.countFoot_inv (s : State) (x : Incoming) (fault : Option Nat) : Inv (s.countFoot x fault) ↔ Inv s := by
  simp [State.countFoot]

@[simp] theorem State.refreshGang_inv (s : State) : Inv s.refreshGang ↔ Inv s := by
  unfold State.refreshGang
  (repeat' split) <;> simp

@[simp] theorem State.freeClaims_inv (s : State) (lid : Nat) : Inv (s.freeClaims lid) ↔ Inv s := Iff.rfl

@[simp] theorem State.forgetLaunch_inv (s : State) (lid : Nat) : Inv (s.forgetLaunch lid) ↔ Inv s := Iff.rfl

/-! ### Operations of Sys2Proof/Machine/Lintel.lean -/

@[simp] theorem State.askArea_inv (s : State) (base n : Nat) : Inv (s.askArea base n) ↔ Inv s := by simp [State.askArea]

@[simp] theorem State.detach_inv (s : State) (source : Nat) : Inv (s.detach source) ↔ Inv s := Iff.rfl

@[simp] theorem State.enterCore_inv (s : State) (core : Nat) : Inv (s.enterCore core) ↔ Inv s := Iff.rfl

@[simp] theorem State.scrubCore_inv (s : State) (core : Nat) : Inv (s.scrubCore core) ↔ Inv s := Iff.rfl

@[simp] theorem State.scrubWays_inv (s : State) (a leaving : Nat) : Inv (s.scrubWays a leaving) ↔ Inv s := by simp [State.scrubWays]

@[simp] theorem State.enterQuad_inv (s : State) (a : Nat) : Inv (s.enterQuad a) ↔ Inv s := Iff.rfl

/-! ### Operations of Sys2Proof/Machine/Coursing.lean -/

@[simp] theorem State.stopSorts_inv (s : State) (a : Nat) : Inv (s.stopSorts a) ↔ Inv s := by simp [State.stopSorts]

@[simp] theorem State.stopCore_inv (s : State) (core tenant : Nat) : Inv (s.stopCore core tenant) ↔ Inv s := by
  unfold State.stopCore
  split <;> simp

@[simp] theorem State.stopQuad_inv (s : State) (a tenant : Nat) : Inv (s.stopQuad a tenant) ↔ Inv s := by
  unfold State.stopQuad
  split <;> simp

@[simp] theorem State.edge_inv (s : State) (t : Nat) : Inv (s.edge t) ↔ Inv s := by
  simp only [State.edge, State.setCoursing_inv]
  rw [State.inv_foldl_iff (fun s e => State.setQuad_inv s ..), State.inv_foldl_iff (fun s a => ?_), State.inv_foldl_iff (fun s c => ?_)]
  · rfl
  all_goals split <;> simp

@[simp] theorem State.countOverrun_inv (s : State) (tenant : Nat) : Inv (s.countOverrun tenant) ↔ Inv s := Iff.rfl

@[simp] theorem State.turnCore_inv (s : State) (core : Nat) : Inv (s.turnCore core) ↔ Inv s := by
  unfold State.turnCore
  split <;> simp

@[simp] theorem State.countRefused_inv (s : State) (tenant : Nat) : Inv (s.countRefused tenant) ↔ Inv s := Iff.rfl

@[simp] theorem State.refusePacket_inv (s : State) (core : Nat) : Inv (s.refusePacket core) ↔ Inv s := by
  simp only [State.refusePacket]
  (repeat' split) <;> simp

/-! ### Operations of Sys2Proof/Machine/Debug.lean -/

@[simp] theorem State.deny_inv (s : State) : Inv s.deny ↔ Inv s := Iff.rfl

@[simp] theorem State.answerPort_inv (s : State) (v : Nat) : Inv (s.answerPort v) ↔ Inv s := Iff.rfl

@[simp] theorem State.onStrand_inv (s : State) (slot : Nat) {f : Strand → State} (h : ∀ st, Inv (f st) ↔ Inv s) :
    Inv (s.onStrand slot f) ↔ Inv s := by
  unfold State.onStrand
  (repeat' split) <;> simp [h]

@[simp] theorem State.release_inv (s : State) (session : Option Nat) : Inv (s.release session) ↔ Inv s := Iff.rfl

@[simp] theorem State.fireReleases_inv (s : State) : Inv s.fireReleases ↔ Inv s := by simp [State.fireReleases]

@[simp] theorem State.debugRead_inv (s : State) (pa n tenant key : Nat) : Inv (s.debugRead pa n tenant key) ↔ Inv s := by
  simp [State.debugRead]

@[simp] theorem State.debugSett_inv (s : State) (a off n : Nat) (saved : SavedQuad → Option Nat) (live : State → Nat) :
    Inv (s.debugSett a off n saved live) ↔ Inv s := by
  unfold State.debugSett
  (repeat' split) <;> simp

/-! ### Operations of Sys2Proof/Machine/HostPort.lean -/

@[simp] theorem State.barRead_inv (s : State) (port : Nat) (mailbox : Bool) (off n : Nat) : Inv (s.barRead port mailbox off n) ↔ Inv s :=
  Iff.rfl

@[simp] theorem State.setWindow_inv (s : State) (port w : Nat) (f : Nat × Nat → Nat × Nat) : Inv (s.setWindow port w f) ↔ Inv s := by
  simp [State.setWindow]

@[simp] theorem State.heldHome_inv (s : State) (port : Nat) (r : HostReq) : Inv (s.heldHome port r) ↔ Inv s := by
  unfold State.heldHome
  split <;> simp

@[simp] theorem State.dropHostWrites_inv (s : State) (here : Nat → Bool) : Inv (s.dropHostWrites here) ↔ Inv s := by
  simp [State.dropHostWrites]

/-! ### Operations of Sys2Proof/Machine/Keystone.lean -/

@[simp] theorem State.mbReply_inv (s : State) (result : Nat) (data : List Byte) : Inv (s.mbReply result data) ↔ Inv s := Iff.rfl

@[simp] theorem State.recallKey_inv (s : State) (k : Nat) : Inv (s.recallKey k) ↔ Inv s := by
  refine (State.inv_foldl_iff (fun s e => ?_) _ _).trans Iff.rfl
  dsimp only
  (repeat' split) <;> simp

@[simp] theorem State.replaceKey_inv (s : State) (k : Nat) (fill : Bool) : Inv (s.replaceKey k fill) ↔ Inv s := by simp [State.replaceKey]

@[simp] theorem State.keyCommand_inv (s : State) (k : Keystone) (fill : Bool) : Inv (s.keyCommand k fill) ↔ Inv s := by
  simp [State.keyCommand]

@[simp] theorem State.resumeHalted_inv (s : State) (tenant : Option Nat) : Inv (s.resumeHalted tenant) ↔ Inv s := Iff.rfl

@[simp] theorem State.endSession_inv (s : State) (tenant : Option Nat) : Inv (s.endSession tenant) ↔ Inv s := by simp [State.endSession]

@[simp] theorem State.openSession_inv (s : State) (x : Session) : Inv (s.openSession x) ↔ Inv s := Iff.rfl

@[simp] theorem State.holdDie_inv (s : State) (d : Nat) : Inv (s.holdDie d) ↔ Inv s := by
  unfold State.holdDie
  (repeat' split) <;> simp

/-! ### Operations of Sys2Proof/Machine/Errors.lean -/

@[simp] theorem State.countPrivate_inv (s : State) (struct agent tenant : Nat) : Inv (s.countPrivate struct agent tenant) ↔ Inv s := by
  simp [State.countPrivate]

@[simp] theorem State.strandError_inv (s : State) (slot : Nat) {f : State → Strand → State} (h : ∀ s st, Inv (f s st) ↔ Inv s) :
    Inv (s.strandError slot f) ↔ Inv s := by
  unfold State.strandError
  split <;> simp [h]

@[simp] theorem State.localError_inv (s : State) (core piece : Nat) : Inv (s.localError core piece) ↔ Inv s := by
  simp only [State.localError]
  (repeat' split) <;> simp

@[simp] theorem State.corrected_inv (s : State) (struct pa agent : Nat) (finder : Option Nat) :
    Inv (s.corrected struct pa agent finder) ↔ Inv s := by
  unfold State.corrected
  split <;> simp

@[simp] theorem State.refetched_inv (s : State) (struct pa agent : Nat) : Inv (s.refetched struct pa agent) ↔ Inv s := by
  simp [State.refetched]

@[simp] theorem State.repairHorizons_inv (s : State) (line : Nat) : Inv (s.repairHorizons line) ↔ Inv s := Iff.rfl

@[simp] theorem State.forgetDie_inv (s : State) (d : Nat) : Inv (s.forgetDie d) ↔ Inv s := Iff.rfl

@[simp] theorem State.answerGone_inv (s : State) (line : Nat) (r : Request) : Inv (s.answerGone line r) ↔ Inv s := by
  unfold State.answerGone
  split <;> simp

/-! ### Operations of Sys2Proof/Machine/Perform.lean -/

@[simp] theorem State.partyRead_inv (s : State) (p : Nat) (op : PartyOp) (ext : List Byte) : Inv (s.partyRead p op ext).1 ↔ Inv s := by
  unfold State.partyRead
  (repeat' split) <;> simp

@[simp] theorem State.endReservation_inv (s : State) (p : Nat) : Inv (s.endReservation p) ↔ Inv s := Iff.rfl

@[simp] theorem State.reserve_inv (s : State) (p line : Nat) : Inv (s.reserve p line) ↔ Inv s := by
  simp only [State.reserve]
  (repeat' split) <;> simp

@[simp] theorem State.partyStamp_inv (s : State) (p : Nat) (op : PartyOp) : Inv (s.partyStamp p op) ↔ Inv s := by simp [State.partyStamp]

/-! ### Operations of Sys2Proof/Machine/PodLinks.lean -/

@[simp] theorem State.leaveBarriers_inv (s : State) (device : Nat) : Inv (s.leaveBarriers device) ↔ Inv s := Iff.rfl

@[simp] theorem State.fence_inv (s : State) (device : Nat) : Inv (s.fence device) ↔ Inv s := by simp [State.fence]

@[simp] theorem State.missBeat_inv (s : State) (link : Nat) : Inv (s.missBeat link) ↔ Inv s := by
  simp only [State.missBeat]
  (repeat' split) <;> simp

/-! ### Operations of Sys2Proof/Machine/Schedule.lean -/

@[simp] theorem State.focus_inv (s : State) (slot : Nat) : Inv (s.focus slot) ↔ Inv s := Iff.rfl

@[simp] theorem State.tick_inv (s : State) : Inv s.tick ↔ Inv s := Iff.rfl

@[simp] theorem State.pass_inv (s : State) : Inv s.pass ↔ Inv s := by
  unfold State.pass
  split <;> simp

end Sys2Proof.Machine
end

section
/-! The operations that write memory keep its canonical form. -/
namespace Sys2Proof.Machine

/-! ### Memory -/

theorem Memory.wf_ite {c : Prop} [Decidable c] {a b : Memory} (ha : a.wf = true) (hb : b.wf = true) : (if c then a else b).wf = true := by
  split <;> assumption

theorem Memory.wf_foldl {α : Type} {f : Memory → α → Memory} (h : ∀ m x, m.wf = true → (f m x).wf = true) (l : List α) {m : Memory}
    (hm : m.wf = true) : (l.foldl f m).wf = true := by
  induction l generalizing m with
  | nil => exact hm
  | cons x r ih => exact ih (h _ _ hm)

@[simp] theorem Memory.wf_replace {m : Memory} (h : m.wf = true) (a n : Nat) (l : List (Nat × Byte)) : (m.replace a n l).wf = true := by
  refine Memory.wf_foldl (fun m e hm => ?_) _ (Memory.wf_filter h _)
  split
  · exact Memory.wf_write hm _ _
  · exact hm

@[simp] theorem State.unwritten_wf {s : State} (h : Inv s) : s.unwritten.wf = true := by
  refine Memory.wf_foldl (fun m e hm => ?_) _ h
  split
  · exact Memory.wf_writeLe hm _ _ _
  · exact hm

/-! ### Folds over states -/

theorem Inv.ite {c : Prop} [Decidable c] {s t : State} (hs : Inv s) (ht : Inv t) : Inv (if c then s else t) := by
  split <;> assumption

@[simp] theorem State.inv_foldl {α : Type} {f : State → α → State} (h : ∀ s x, Inv s → Inv (f s x)) (l : List α) {s : State} (hs : Inv s) :
    Inv (l.foldl f s) := by
  induction l generalizing s with
  | nil => exact hs
  | cons x r ih => exact ih (h _ _ hs)

theorem State.inv_foldl_fst {α β : Type} {f : State × β → α → State × β} (h : ∀ r x, Inv r.1 → Inv (f r x).1) (l : List α) {r : State × β}
    (hr : Inv r.1) : Inv (l.foldl f r).1 := by
  induction l generalizing r with
  | nil => exact hr
  | cons x l ih => exact ih (h _ _ hr)

/-! ### Outcomes that carry a state -/

/-- Where the outcome of a row is a next state, that state meets the invariant. -/
inductive OutInv : Out → Prop
  | next {s : State} (h : Inv s) : OutInv (.next s)
  | fault (f : Fault) : OutInv (.fault f)
  | refused (r : Refusal) : OutInv (.refused r)

theorem OutInv.of_next {o : Out} {s : State} (h : OutInv o) (ho : o = .next s) : Inv s := by
  cases h <;> cases ho
  assumption

@[simp] theorem outInv_next (s : State) : OutInv (.next s) ↔ Inv s := ⟨fun h => h.of_next rfl, .next⟩
@[simp] theorem outInv_fault (f : Fault) : OutInv (.fault f) := .fault f
@[simp] theorem outInv_refused (r : Refusal) : OutInv (.refused r) := .refused r

/-- Where accesses to the memory stack, or loads of blocks, leave a state, it meets the invariant. -/
inductive FrameInv : FrameResult → Prop
  | ok {s : State} (h : Inv s) (st : Strand) (v : Nat) : FrameInv (.ok s st v)
  | wait (pa : Nat) (w : Bool) : FrameInv (.wait pa w)
  | trap {s : State} (h : Inv s) (st : Strand) (t : Trap) : FrameInv (.trap s st t)

theorem FrameInv.of_ok {r : FrameResult} {s : State} {st : Strand} {v : Nat} (h : FrameInv r) (hr : r = .ok s st v) : Inv s := by
  cases h <;> cases hr
  assumption

theorem FrameInv.of_trap {r : FrameResult} {s : State} {st : Strand} {t : Trap} (h : FrameInv r) (hr : r = .trap s st t) : Inv s := by
  cases h <;> cases hr
  assumption

@[simp] theorem frameInv_ok (s : State) (st : Strand) (v : Nat) : FrameInv (.ok s st v) ↔ Inv s := ⟨fun h => h.of_ok rfl, fun h => .ok h ..⟩
@[simp] theorem frameInv_wait (pa : Nat) (w : Bool) : FrameInv (.wait pa w) := .wait ..
@[simp] theorem frameInv_trap (s : State) (st : Strand) (t : Trap) : FrameInv
    (.trap s st t) ↔ Inv s := ⟨fun h => h.of_trap rfl, fun h => .trap h ..⟩

@[simp] theorem State.rekeyLine_inv {s : State} (h : Inv s) (line : Nat) (key : Nat × Nat) (whole : Bool) : Inv (s.rekeyLine line key whole) := by
  have mixed (old : Nat × Nat) :=
  Memory.wf_foldl (fun m i hm => Memory.wf_write hm (128 * line + i) (s.plainByte old key (128 * line + i))) (List.range 128) h
  unfold State.rekeyLine
  dsimp only
  split
  · exact h
  · exact Memory.wf_ite h (mixed _)

@[simp] theorem State.storePa_inv {s : State} (h :
    Inv s) (tenant key pa n v : Nat) (whole : Bool) : Inv (s.storePa tenant key pa n v whole).1 := by
  unfold State.storePa
  extract_lets u homes freed zeroed found keyed
  have hu : Inv u := by simp [u, h]
  have hfound : Inv found := by simp [found, zeroed, freed, Memory.wf_writeLe, hu]
  have hkeyed : Inv keyed := by simp [keyed, hfound]
  clear_value u keyed
  (repeat' split) <;> simp [Memory.wf_writeLe, hu, hkeyed]

@[simp] theorem State.storeAt_inv {s : State} (h :
    Inv s) (tenant key pa n v : Nat) (whole : Bool) : Inv (s.storeAt tenant key pa n v whole).1 := by
  simp only [State.storeAt]
  (repeat' split) <;> simp [h]

@[simp] theorem State.loseLine_inv {s : State} (h : Inv s) (line struct agent : Nat) (tenant : Option Nat) :
    Inv (s.loseLine line struct agent tenant) := by
  unfold State.loseLine
  split <;> simp [Memory.wf_writeLe, h]

@[simp] theorem State.dissolveLost_inv {s : State} (h : Inv s) (tid : Nat) : Inv (s.dissolveLost tid) := by
  simp only [State.dissolveLost]
  (repeat' split) <;> simp +contextual [h]

@[simp] theorem State.homeStore_inv {s : State} (h : Inv s) (w : HomeStore) : Inv (s.homeStore w) := by simp [State.homeStore, h]

@[simp] theorem State.afterHorizon_inv_of {s : State} (h : Inv s) (r : Request) (line : Nat) {done : State} (hd : Inv done) :
    Inv (s.afterHorizon r line done) := by
  unfold State.afterHorizon
  split <;> simp [h, hd]

theorem State.demoteFor_inv_of {s : State} (h : Inv s) (r : Request) (line tid : Nat) (t : TileRec) {f : State → State}
    (hf : ∀ s, Inv s → Inv (f s)) : Inv (s.demoteFor r line tid t f) := by
  unfold State.demoteFor
  dsimp only
  split
  · simp [h]
  · split
    · exact hf _ (by simp [h])
    · simp [h]

@[simp] theorem State.finishReq_inv {s : State} (h : Inv s) (r : Request) (line : Nat) : Inv (s.finishReq r line) := by
  have store (w : HomeStore) : Inv (((s.trace line r.agent 9 0).homeStore w).popReq line) := by simp [h]
  unfold State.finishReq
  dsimp only
  (repeat' split) <;> simp [h, store]

@[simp] theorem State.probeFor_inv {s : State} (h : Inv s) (r : Request) (line : Nat) : Inv (s.probeFor r line) := by
  unfold State.probeFor
  split <;> simp [h]

@[simp] theorem State.serveLine_inv {s : State} (h : Inv s) (r : Request) (line : Nat) : Inv (s.serveLine r line) := by
  unfold State.serveLine
  split <;> simp [h]

@[simp] theorem State.serve_inv {s : State} (h : Inv s) (r : Request) (line event : Nat) : Inv (s.serve r line event) := by
  unfold State.serve
  extract_lets u
  have hu : Inv u := by simp [u, h]
  clear_value u
  have demoted (tid : Nat) (rec : TileRec) : Inv (u.demoteFor r line tid rec fun s => s.serveLine r line) :=
    State.demoteFor_inv_of hu _ _ _ _ fun s hs => State.serveLine_inv hs _ _
  (repeat' split) <;> simp [hu, demoted]

@[simp] theorem State.homeWriteLine_inv {s : State} (h : Inv s) (w : HomeStore) : Inv (s.homeWriteLine w) := by
  simp [State.homeWriteLine, h]

@[simp] theorem State.homeWrite_inv {s : State} (h :
    Inv s) (tenant key pa n v : Nat) (whole : Bool) : Inv (s.homeWrite tenant key pa n v whole) := by
  fun_cases State.homeWrite
  simp +contextual [*]

@[simp] theorem State.grantHost_inv {s : State} (h : Inv s) (r : Request) (line : Nat) : Inv (s.grantHost r line) := by
  unfold State.grantHost
  split <;> simp [h]

@[simp] theorem State.serveHost_inv {s : State} (h : Inv s) (r : Request) (line : Nat) : Inv (s.serveHost r line) := by
  unfold State.serveHost
  split <;> simp [h]

@[simp] theorem State.serveRow_inv {s : State} (h : Inv s) (line row : Nat) : Inv (s.serveRow line row) := by
  unfold State.serveRow
  (repeat' split) <;> simp [h]

@[simp] theorem State.countAnswer_inv {s : State} (h : Inv s) (line : Nat) : Inv (s.countAnswer line) := by
  unfold State.countAnswer
  (repeat' split) <;> simp [h]

@[simp] theorem State.takePutO_inv {s : State} (hs : Inv s) (h : Request) (line : Nat) : Inv (s.takePutO h line) := by
  unfold State.takePutO
  (repeat' split) <;> simp [hs]

@[simp] theorem State.serveHostPut_inv {s : State} (hs : Inv s) (h : Request) (line : Nat) (d : List Byte) : Inv (s.serveHostPut h line d) := by
  unfold State.serveHostPut
  (repeat' split) <;> simp [hs]

@[simp] theorem State.servePutO_inv {s : State} (hs : Inv s) (h : Request) (line : Nat) : Inv (s.servePutO h line) := by
  unfold State.servePutO
  extract_lets u
  have hu : Inv u := by simp [u, hs]
  clear_value u
  split
  · exact State.demoteFor_inv_of hu _ _ _ _ fun s hs => State.serveHostPut_inv hs _ _ _
  all_goals simp [hu]

@[simp] theorem State.loseAgent_inv {s : State} (h : Inv s) (agent : Nat) : Inv (s.loseAgent agent) := by
  unfold State.loseAgent
  extract_lets tids t owned u v
  have ht : Inv t := State.inv_foldl (fun s x hs => State.dissolveLost_inv hs x) tids h
  have hu : Inv u := State.inv_foldl (fun s l hs => State.loseLine_inv hs l 5 agent (s.finder l)) owned ht
  exact State.inv_foldl (fun s r hs => by simpa using hs) _ hu

@[simp] theorem State.dropAgent_inv {s : State} (h : Inv s) (a line : Nat) : Inv (s.dropAgent a line) := by
  unfold State.dropAgent
  exact State.inv_foldl (fun s l hs => State.countAnswer_inv hs l) _ (by simp [h])

theorem State.hubWrite_inv {s t : State} (h : Inv s) {tenant asid va n v : Nat} (ht : s.hubWrite tenant asid va n v = some t) :
    Inv t := by
  unfold State.hubWrite at ht
  split at ht <;> cases ht
  simp [h]

theorem State.hubWrite_getD_inv {s : State} (h : Inv s) (tenant asid va n v : Nat) :
    Inv ((s.hubWrite tenant asid va n v).getD s) := by
  cases ht : s.hubWrite tenant asid va n v with
  | none => exact h
  | some t => exact State.hubWrite_inv h ht

@[simp] theorem State.faultWrite_inv {s : State} (h : Inv s) (tenant found : Nat) (f : FaultInfo) : Inv (s.faultWrite tenant found f).2 := by
  unfold State.faultWrite
  dsimp only
  split
  · split
    next t ht => simpa using State.hubWrite_inv h ht
    next => simp [h]
  · simp [h]

@[simp] theorem State.fatalTrap_inv {s : State} (h : Inv s) (slot : Nat) (st : Strand) (t : Trap) : Inv (s.fatalTrap slot st t) := by
  simp [State.fatalTrap, h]

@[simp] theorem State.takeTrap_inv {s : State} (h :
    Inv s) (slot : Nat) (st : Strand) (t : Trap) (epc : VAddr) : Inv (s.takeTrap slot st t epc) := by
  unfold State.takeTrap
  (repeat' split) <;> simp [h]

@[simp] theorem State.trap_inv {s : State} (h : Inv s) (slot : Nat) (st : Strand) (t : Trap) : Inv (s.trap slot st t) := by
  simp [State.trap, h]

@[simp] theorem State.trapHead_inv {s : State} (h : Inv s) (slot : Nat) (st : Strand) (code : Nat) : Inv (s.trapHead slot st code) := by
  simp [State.trapHead, h]

@[simp] theorem State.fetchStop_inv {s : State} (h : Inv s) (slot : Nat) (st : Strand) (n : FetchStop) : Inv (s.fetchStop slot st n) := by
  unfold State.fetchStop
  split <;> simp [h]

/-! ### Accesses to the memory stack -/

theorem State.stackIo_inv {s : State} (h : Inv s) (slot : Nat) (st : Strand) (va : Nat) (w : Option Frame) :
    FrameInv (s.stackIo slot st va w) := by
  unfold State.stackIo
  dsimp only
  (repeat' split) <;> simp [h]

theorem State.frameIo_inv {s : State} (h : Inv s) (slot : Nat) (st : Strand) (va : Nat) (w : Option Frame) :
    FrameInv (s.frameIo slot st va w) := by
  have io := State.stackIo_inv h slot st va w
  unfold State.frameIo
  split
  next ht => exact .trap (io.of_trap ht) ..
  next => exact io

theorem State.flushFrames_inv {s : State} (h : Inv s) (slot n : Nat) (st : Strand) : FrameInv (s.flushFrames slot n st) := by
  induction n generalizing s st with
  | zero => exact .ok h ..
  | succ n ih =>
    unfold State.flushFrames
    split
    · exact .ok h ..
    next f _ _ =>
      have io := State.frameIo_inv h slot st st.wsp.toNat (some f)
      split
      next ht => exact ih (io.of_ok ht) _
      next => exact io

theorem State.stackWrite_inv {s : State} (h : Inv s) (slot n off : Nat) (st : Strand) (v : Nat) :
    FrameInv (s.stackWrite slot n off st v) := by
  induction n generalizing s st off v with
  | zero => exact .ok h ..
  | succ n ih =>
    have io := State.stackIo_inv h slot st ((st.wsp.toNat + off) % 2 ^ 52) (some (BitVec.ofNat 512 v))
    unfold State.stackWrite
    split
    next ht => exact ih (io.of_ok ht) ..
    next => exact io

theorem State.stackRead_inv {s : State} (h : Inv s) (slot n off : Nat) (st : Strand) : FrameInv (s.stackRead slot n off st) := by
  induction n generalizing s st off with
  | zero => exact .ok h ..
  | succ n ih =>
    have io := State.stackIo_inv h slot st ((st.wsp.toNat + off) % 2 ^ 52) none
    unfold State.stackRead
    split
    next u v _ hu =>
      have rest := ih (io.of_ok hu) (off + 64) v
      split
      next ht => exact .ok (rest.of_ok ht) ..
      next => exact rest
    next => exact io

theorem State.placePacket_inv {s t : State} (h : Inv s) {core : Nat} {p : Packet} {slots : List Nat} {ranges : List (Nat × Nat)}
    (ht : s.placePacket core p slots ranges = .here t) : Inv t := by
  unfold State.placePacket at ht
  dsimp only at ht
  split at ht
  · split at ht
    · split at ht
      next hr =>
        cases ht
        refine (State.setStrand_inv ..).2 (FrameInv.of_ok ?_ hr)
        exact State.stackRead_inv (by simp [h]) ..
      next => cases ht
      next =>
        cases ht
        simp [h]
    next =>
      cases ht
      simp [h]
  · cases ht

theorem State.placePackets_inv {s t : State} (h : Inv s) {core : Nat} {slots : List Nat} {ranges : List (Nat × Nat)} {ps l : List Packet}
    (ht : s.placePackets core slots ranges ps = .ok (t, l)) : Inv t := by
  induction ps generalizing s l with
  | nil => cases ht; exact h
  | cons p r ih =>
    unfold State.placePackets at ht
    split at ht
    · cases ht
    next hp => exact ih (State.placePacket_inv h hp) ht
    next =>
      cases hr : s.placePackets core slots ranges r with
      | error e => rw [hr] at ht; cases ht
      | ok x =>
        rw [hr] at ht
        cases ht
        exact ih h hr

@[simp] theorem State.spWrite_inv {s : State} (h : Inv s) (tenant agent off n v : Nat) : Inv (s.spWrite tenant agent off n v).1 := by
  simp [State.spWrite, h]

@[simp] theorem State.spLand_inv {s : State} (h : Inv s) (tenant agent k off n v : Nat) :
    Inv (s.spLand tenant agent k off n v).1 := by
  induction k generalizing s off n v with
  | zero => exact h
  | succ k ih =>
    unfold State.spLand
    dsimp only
    split
    · exact h
    · exact ih (State.storePa_inv h ..) ..

@[simp] theorem State.bbLand_inv {s : State} (h : Inv s) (tenant agent : Nat) (bb : Option Nat) (n : Nat) (cond : TileFlags) (fault oor : Bool) :
    Inv (s.bbLand tenant agent bb n cond fault oor) := by
  unfold State.bbLand
  split <;> simp [h]

@[simp] theorem State.bbLandOf_inv {s : State} (h : Inv s) (a : Nat) (c : Cmd) (n : Nat) (cond : TileFlags) (fault oor : Bool) :
    Inv (s.bbLandOf a c n cond fault oor) := by
  unfold State.bbLandOf
  split <;> simp [h]

@[simp] theorem State.cmdRecord_inv {s : State} (h : Inv s) (a : Nat) (c : Cmd) (code acc vaddr f map : Nat) (stopped : Bool) (found : Nat) :
    Inv (s.cmdRecord a c code acc vaddr f map stopped found).2 := by simp [State.cmdRecord, h]

@[simp] theorem State.retireFaulted_inv {s : State} (h : Inv s) (a : Nat) (c : Cmd) (code : Nat) : Inv (s.retireFaulted a c code) := by
  simp [State.retireFaulted, h]

@[simp] theorem State.leaveLost_inv {s : State} (h : Inv s) (a : Nat) (c : Cmd) : Inv (s.leaveLost a c) := by
  unfold State.leaveLost
  (repeat' split) <;> simp [h]

@[simp] theorem State.abandon_inv {s : State} (h : Inv s) (a : Nat) (c : Cmd) : Inv (s.abandon a c) := by
  unfold State.abandon
  split <;> simp [h]

@[simp] theorem State.runMst_inv {s : State} (h : Inv s) (a : Nat) (c : Cmd) (o : MatOp) : Inv (s.runMst a c o) := by
  have rows := State.inv_foldl_fst (f := fun (r : State × TileFlags × Word) i =>
      let q := r.1.mstRow a o i r.2.2
      let w := r.1.spLand c.tenant a (o.rowBytes / 128 + 2) (o.a.toNat + i * fieldN o.pitch.toNat 0 32) o.rowBytes q.1
      (w.1, r.2.1 ||| q.2.1 ||| (if w.2 then lostFlag else 0), q.2.2))
    (fun r i hr => State.spLand_inv hr ..) (List.range o.em) (r := (s, s.bankFlagsOf a o.bank, c.gen)) h
  exact State.bbLand_inv (State.spWrite_inv (State.bbLand_inv rows ..) ..) ..

@[simp] theorem State.runSstore_inv {s : State} (h : Inv s) (a : Nat) (c : Cmd) (dst count pos : Nat) (hasPos raw : Bool) :
    Inv (s.runSstore a c dst count pos hasPos raw) := by
  simp only [State.runSstore]
  refine State.bbLand_inv ?_ ..
  split <;> simp [h]

@[simp] theorem State.landPiece_inv {s : State} (h : Inv s) (a : Nat) (c : Cmd) (p : HodPiece) (pa : Nat) (d : PieceData) :
    Inv (s.landPiece a c p pa d) := by
  have keyed {s : State} (hs : Inv s) (tenant : Nat) (cond : TileFlags) (cleared : Bool) :
      Inv (if cleared then (if cond &&& lostFlag = 0 then s else s.count1 (memCounter tenant 0x28)) else s.countLost tenant cond) := by
    (repeat' split) <;> simp [hs]
  simp only [State.landPiece]
  refine State.bbLandOf_inv (keyed ?_ ..) ..
  split <;> simp [h]

@[simp] theorem State.settleHod_inv {s : State} (h : Inv s) (a : Nat) (c : Cmd) : Inv (s.settleHod a c) := by
  unfold State.settleHod
  split <;> simp [h]

@[simp] theorem State.stopAshlar_inv {s : State} (h : Inv s) (a : Nat) (c : Cmd) (code : Nat) : Inv (s.stopAshlar a c code) := by
  simp [State.stopAshlar, h]

@[simp] theorem State.stopFlags_inv {s : State} (h : Inv s) (a : Nat) (c : Cmd) : Inv (s.stopFlags a c) := by simp [State.stopFlags, h]

@[simp] theorem State.killCmd_inv {s : State} (h : Inv s) (a : Nat) (c : Cmd) : Inv (s.killCmd a c) := by
  unfold State.killCmd
  split <;> simp [h]

@[simp] theorem State.killLaunch_inv {s : State} (h : Inv s) (lid : Nat) : Inv (s.killLaunch lid) := by
  unfold State.killLaunch
  refine State.inv_foldl (fun s x hs => ?_) _ (by simp [h])
  split <;> simp [hs]

@[simp] theorem State.lkctlApply_inv {s : State} (h : Inv s) (tenant : Nat) : Inv (s.lkctlApply tenant) := by
  simp only [State.lkctlApply]
  (repeat' split) <;> simp +contextual [h]

@[simp] theorem State.writeBlock3_inv {s : State} (h : Inv s) (off : Nat) (w : RegWrite) : Inv (s.writeBlock3 off w) := by
  unfold State.writeBlock3
  (repeat' split) <;> simp [h]

@[simp] theorem State.regWrite_inv {s : State} (h : Inv s) (who : Party ⊕ Nat) (pa n v : Nat) : Inv (s.regWrite who pa n v) := by
  unfold State.regWrite
  (repeat' split) <;> simp [h]

@[simp] theorem State.compact_inv {s : State} (h : Inv s) (core : Nat) : Inv (s.compact core) := by simp [State.compact, h]

@[simp] theorem State.storePiece_inv {s : State} (h : Inv s) (core : Nat) (a : Access) (p : Piece) (count first : Bool) :
    Inv (s.storePiece core a p count first).1 := by
  simp only [State.storePiece]
  (repeat' split) <;> simp [h]

@[simp] theorem State.performStores_inv {s : State} (h : Inv s) (core : Nat) (earlier : List Access) (a : Access) (pick : Nat → Bool)
    (l l' : List Piece) :
    Inv (s.performStores core earlier a pick l l').1 := by
  fun_induction State.performStores with
  | case1 => exact h
  | case2 _ _ _ _ _ _ ih => exact ih h
  | case3 _ _ _ _ _ _ _ ih => exact ih (State.storePiece_inv h ..)

@[simp] theorem State.storeWholeLines_inv {s : State} (h : Inv s) (core : Nat) (earlier : List Access) (a : Access) :
    Inv (s.storeWholeLines core earlier a).1 := by simp +contextual [State.storeWholeLines, h]

@[simp] theorem State.performAtomic_inv {s : State} (h : Inv s) (core : Nat) (a : Access) (op : AtomicOp) (v e : Nat) (p : Piece) :
    Inv (s.performAtomic core a op v e p) := by
  simp only [State.performAtomic]
  (repeat' split) <;> simp [h]

@[simp] theorem State.wake_inv {s : State} (h : Inv s) (slot : Nat) (st : Strand) : Inv (s.wake slot st) := by
  unfold State.wake
  dsimp only
  split
  · simp [h]
  · split
    · simp [h]
    next l t ht =>
      have : Inv t := (State.lineFor_inv ht).2 h
      split <;> simp [this]

@[simp] theorem State.monitorRead_inv {s : State} (h : Inv s) (slot : Nat) (ext : List Byte) : Inv (s.monitorRead slot ext) := by
  simp only [State.monitorRead]
  (repeat' split) <;> simp [h]

@[simp] theorem State.bbWaitRead_inv {s : State} (h : Inv s) (slot : Nat) : Inv (s.bbWaitRead slot) := by
  simp only [State.bbWaitRead]
  (repeat' split) <;> simp [h]

@[simp] theorem State.waitRead_inv {s : State} (h : Inv s) (slot : Nat) : Inv (s.waitRead slot) := by
  unfold State.waitRead
  (repeat' split) <;> simp [h]

@[simp] theorem State.wakeWaiter_inv {s : State} (h : Inv s) (slot : Nat) : Inv (s.wakeWaiter slot) := by
  unfold State.wakeWaiter
  (repeat' split) <;> simp [h]

@[simp] theorem State.startSort_inv {s : State} (h : Inv s) (a : Nat) (c : Cmd) (t : Nat) (desc canz : Bool) (nph : Nat) :
    Inv (s.startSort a c t desc canz nph) := by simp [State.startSort, h]

@[simp] theorem State.startCmd_inv {s : State} (h : Inv s) (a : Nat) (c : Cmd) : Inv (s.startCmd a c) := by
  unfold State.startCmd
  split <;> simp [h]

@[simp] theorem State.finishJoint_inv {s : State} (h : Inv s) (a : Nat) (c : Cmd) : Inv (s.finishJoint a c) := by
  fun_cases State.finishJoint <;> simp +contextual [*]

@[simp] theorem State.finishCmd_inv {s : State} (h : Inv s) (a : Nat) (c : Cmd) : Inv (s.finishCmd a c) := by
  unfold State.finishCmd
  split <;> simp [h]

@[simp] theorem State.post_inv {s : State} (h : Inv s) (n tenant r : Nat) (sright : Bool) : Inv (s.post n tenant r sright).2 := by
  have posted := State.hubWrite_getD_inv h
  unfold State.post
  dsimp only
  (repeat' split) <;> simp [h, posted]

@[simp] theorem State.ackJob_inv {s : State} (h : Inv s) (a : Nat) (c : Cmd) (abandon : Bool) : Inv (s.ackJob a c abandon) := by
  unfold State.ackJob
  (repeat' split) <;> simp [h]

theorem State.hubWriteRecord_inv {s t : State} (h : Inv s) {tenant asid va v : Nat}
    (ht : s.hubWriteRecord tenant asid va v = some t) : Inv t := by
  unfold State.hubWriteRecord at ht
  dsimp only at ht
  split at ht
  · split at ht
    · exact State.hubWrite_inv h ht
    · cases ht
  · split at ht
    · cases ht
    next u hu =>
      have := State.hubWrite_inv h hu
      split at ht
      · cases ht; exact this
      · exact State.hubWrite_inv this ht

@[simp] theorem State.writeCompletion_inv {s : State} (h : Inv s) (tenant asid comp v : Nat) : Inv (s.writeCompletion tenant asid comp v).2 := by
  unfold State.writeCompletion
  split
  next t ht => exact State.hubWriteRecord_inv h ht
  next => split <;> simp [h]

@[simp] theorem State.reject_inv {s : State} (h : Inv s) (r asid tenant : Nat) (queue : Option Nat) (reason : Nat) :
    Inv (s.reject r asid tenant queue reason) := by
  unfold State.reject
  split <;> simp [h]

@[simp] theorem State.take_inv {s : State} (h : Inv s) (x : Incoming) : Inv (s.take x) := by
  simp only [State.take]
  (repeat' split) <;> simp [h]

@[simp] theorem State.acceptFromQueue_inv {s : State} (h : Inv s) (n : Nat) : Inv (s.acceptFromQueue n) := by
  simp only [State.acceptFromQueue]
  (repeat' split) <;> simp [h]

@[simp] theorem State.acceptTask_inv {s : State} (h : Inv s) : Inv s.acceptTask := by
  unfold State.acceptTask
  split <;> simp [h]

@[simp] theorem State.recheckPending_inv {s : State} (h : Inv s) : Inv s.recheckPending := by simp +contextual [State.recheckPending, h]

@[simp] theorem State.seat_inv {s : State} (h : Inv s) (l : Launch) (dies : Nat) (x : Seat) : Inv (s.seat l dies x) := by
  simp only [State.seat]
  (repeat' split) <;> simp [h]

@[simp] theorem State.startLaunch_inv {s : State} (h : Inv s) (l : Launch) (dies : List Nat) : Inv (s.startLaunch l dies) := by
  simp +contextual [State.startLaunch, h]

@[simp] theorem State.lintelPut_inv {s : State} (h : Inv s) (tenant pa n v : Nat) : Inv (s.lintelPut tenant pa n v) := by
  simp [State.lintelPut, h]

@[simp] theorem State.lintelLines_inv {s : State} (h : Inv s) (tenant pa n n' : Nat) : Inv (s.lintelLines tenant pa n n') := by
  fun_induction State.lintelLines <;> simp +contextual [*]

@[simp] theorem State.lintelBlock_inv {s : State} (h :
    Inv s) (tenant pa n : Nat) (l : List (Nat × Byte)) : Inv (s.lintelBlock tenant pa n l) := by
  have kept (m : Memory) (hm : m.wf = true) (l : List (Nat × Byte)) : (l.foldl (fun m c => m.write c.1 c.2) m).wf = true :=
    Memory.wf_foldl (fun m c hm => Memory.wf_write hm ..) l hm
  unfold State.lintelBlock
  dsimp only
  (repeat' split)
  · exact h
  · simp [h]
  · simp [h]
  all_goals
    refine State.inv_foldl (fun s x hs => State.homeWriteLine_inv hs _) _ (kept _ (Memory.wf_replace ?_ ..) _)
    exact State.inv_foldl (fun s x hs => by split <;> simp [hs]) _ (by simp [h])

@[simp] theorem State.saveStrand_inv {s : State} (h : Inv s) (tenant core slot : Nat) (st : Strand) : Inv (s.saveStrand tenant core slot st) := by
  unfold State.saveStrand
  refine State.lintelBlock_inv (State.inv_foldl (fun s i hs => ?_) _ (State.lintelLines_inv h ..)) ..
  split
  · exact hs
  · exact State.lintelLines_inv hs ..

@[simp] theorem State.saveCore_inv {s : State} (h : Inv s) (tenant core : Nat) : Inv (s.saveCore tenant core) := by
  unfold State.saveCore
  refine State.inv_foldl (fun s i hs => ?_) _ (State.inv_foldl (fun s i hs => ?_) _ (State.inv_foldl (fun s e hs => State.saveStrand_inv hs ..) _
    (State.lintelPut_inv (State.lintelPut_inv (State.inv_foldl (fun s e hs => ?_) _ h) ..) ..)))
  · split
    · exact State.lintelPut_inv hs ..
    · exact hs
  · split
    · exact State.lintelLines_inv hs ..
    · exact hs
  · simpa using hs

@[simp] theorem State.finishCore_inv {s : State} (h : Inv s) (core : Nat) : Inv (s.finishCore core) := by
  unfold State.finishCore
  split <;> simp [h]

@[simp] theorem State.putInbox_inv {s : State} (h : Inv s) (tenant a : Nat) (l : List InboxEntry) : Inv (s.putInbox tenant a l) := by
  unfold State.putInbox
  refine State.inv_foldl (fun s i hs => ?_) _ (State.lintelPut_inv h ..)
  split
  · exact State.lintelLines_inv (State.lintelPut_inv hs ..) ..
  · exact hs

@[simp] theorem State.putCmds_inv {s : State} (h : Inv s) (tenant a n : Nat) : Inv (s.putCmds tenant a n) := by
  fun_cases State.putCmds
  simp +contextual [*]

@[simp] theorem State.saveQuad_inv {s : State} (h : Inv s) (tenant a : Nat) : Inv (s.saveQuad tenant a) := by
  unfold State.saveQuad
  extract_lets base q sp bars flags s₁ s₂ s₃ s₄ lost s₅ s₆ accs s₇ cells s₈ s₉ v
  have h₃ : Inv s₃ := State.lintelPut_inv (State.putInbox_inv (State.lintelPut_inv h ..) ..) ..
  have h₄ : Inv s₄ := State.inv_foldl (fun s e hs => State.lintelLines_inv hs ..) _ h₃
  have h₆ : Inv s₆ := State.putCmds_inv (State.lintelLines_inv h₄ ..) ..
  have h₈ : Inv s₈ := State.lintelBlock_inv (State.lintelBlock_inv h₆ ..) ..
  have h₉ : Inv s₉ := State.inv_foldl (fun s r hs => State.lintelBlock_inv hs ..) _ h₈
  exact (State.setCoursing_inv ..).2 h₉

@[simp] theorem State.scrubQuad_inv {s : State} (h : Inv s) (a : Nat) : Inv (s.scrubQuad a) := by simp [State.scrubQuad, h]

@[simp] theorem State.finishQuad_inv {s : State} (h : Inv s) (a : Nat) : Inv (s.finishQuad a) := by
  simp only [State.finishQuad]
  (repeat' split) <;> simp [h]

@[simp] theorem State.lintelRecord_inv {s : State} (h :
    Inv s) (tenant code vaddr comp ord : Nat) : Inv (s.lintelRecord tenant code vaddr comp ord) := by
  simp [State.lintelRecord, h]

@[simp] theorem State.applyParked_inv {s : State} (h : Inv s) (tenant a : Nat) (e : InboxEntry) : Inv (s.applyParked tenant a e) := by
  unfold State.applyParked
  extract_lets block byte whole gone t u
  have ht : Inv t := Inv.ite (State.storePa_inv h ..) h
  have hu : Inv u := Inv.ite (State.storePa_inv h ..) (State.inv_foldl (fun s x hs => State.storePa_inv hs ..) _ ht)
  exact State.bbLand_inv hu ..

theorem State.stage_inv {s t : State} (h : Inv s) {a k i : Nat} {c : Cmd} (ht : s.stage a c k i = .ok t) : Inv t := by
  have counted {s : State} (hs : Inv s) (tenant : Nat) (cond : TileFlags) (cleared : Bool) :
      Inv (if cleared then (if cond &&& lostFlag = 0 then s else s.count1 (memCounter tenant 0x28)) else s.countLost tenant cond) := by
    (repeat' split) <;> simp [hs]
  induction k generalizing s i with
  | zero => cases ht; exact h
  | succ k ih =>
    unfold State.stage at ht
    split at ht
    · cases ht; exact h
    · split at ht
      · cases ht
      · cases ht
      · exact ih (State.storePa_inv (counted h ..) ..) ht

@[simp] theorem State.restage_inv {s : State} (h : Inv s) (tenant a : Nat) (m : SMap PhintSlot) : Inv (s.restage tenant a m) := by
  unfold State.restage
  refine State.inv_foldl (fun s e hs => ?_) _ h
  dsimp only
  split
  next t ht => exact State.stage_inv hs ht
  next => simp [hs]

@[simp] theorem State.restoreQuad_inv {s : State} (h : Inv s) (tenant a : Nat) : Inv (s.restoreQuad tenant a) := by
  have ended {s : State} (hs : Inv s) (l : List Cmd) :
      Inv (l.foldl (fun s c => (if c.engine.isNone then s else s.bbLandOf a c 0 0 true false).leaveLost a c) s) :=
    State.inv_foldl (fun s c hs => State.leaveLost_inv (Inv.ite hs (State.bbLandOf_inv hs ..)) ..) l hs
  unfold State.restoreQuad
  split
  · exact (State.setQuad_inv ..).2 h
  next v _ =>
    extract_lets base gone w s₁ sp s₂ map lost m s₃ s₄ q₄ s₅ s₆ words acc sett bars g q s₇ s₈ s₉
    have h₁ : Inv s₁ := Inv.ite (State.lintelRecord_inv h ..) h
    have h₂ : Inv s₂ := State.inv_foldl (fun s r hs => (State.inv_mk ..).2 (Memory.wf_replace hs ..)) _ h₁
    have h₄ : Inv s₄ := State.restage_inv ((State.setHomes_inv ..).2 h₂) ..
    have h₆ : Inv s₆ := State.inv_foldl (fun s e hs => State.applyParked_inv hs ..) _ ((State.setQuad_inv ..).2 h₄)
    have h₈ : Inv s₈ := (State.setQuad_inv ..).2 ((State.inv_mk ..).2 h₆)
    exact (State.setCoursing_inv ..).2 (ended h₈ w.ended)

@[simp] theorem State.failRecord_inv {s : State} (h : Inv s) (tenant core off lid ord : Nat) : Inv (s.failRecord tenant core off lid ord) := by
  simp [State.failRecord, h]

@[simp] theorem State.restoreStrand_inv {s : State} (h : Inv s) (tenant core slot : Nat) (v : SavedStrand) :
    Inv (s.restoreStrand tenant core slot v) := by simp [State.restoreStrand, h]

@[simp] theorem State.dropPackets_inv {s : State} (h : Inv s) (tenant core : Nat) (ps : List Packet) : Inv (s.dropPackets tenant core ps) := by
  unfold State.dropPackets
  refine State.inv_foldl (fun s i hs => ?_) _ h
  split <;> simp [hs]

@[simp] theorem State.restoreCore_inv {s : State} (h : Inv s) (tenant core : Nat) : Inv (s.restoreCore tenant core) := by
  unfold State.restoreCore
  split
  · simp [h]
  · dsimp only
    split
    next => simp [h]
    next ht =>
      have placed := State.placePackets_inv (by simp [h]) ht
      exact State.inv_foldl (fun s e hs => State.waitRead_inv hs ..) _ (State.inv_foldl (fun s e hs => State.restoreStrand_inv hs ..) _ placed)

@[simp] theorem State.finishCores_inv {s : State} (h : Inv s) : Inv s.finishCores := by
  fun_cases State.finishCores
  simp +contextual [*]

@[simp] theorem State.finishQuads_inv {s : State} (h : Inv s) : Inv s.finishQuads := by
  fun_cases State.finishQuads
  simp +contextual [*]

@[simp] theorem State.overrunJob_inv {s : State} (h : Inv s) (a : Nat) (c : Cmd) : Inv (s.overrunJob a c) := by
  unfold State.overrunJob
  split <;> simp [h]

@[simp] theorem State.overrun_inv {s : State} (h : Inv s) (t : Nat) : Inv (s.overrun t) := by
  unfold State.overrun
  simp only [State.setCoursing_inv]
  refine State.inv_foldl (fun s x hs => ?_) _ h
  split <;> simp [hs]

@[simp] theorem State.lateSave_inv {s : State} (h : Inv s) (tenant : Nat) (core : Bool) : Inv (s.lateSave tenant core) := by
  simp [State.lateSave, h]

@[simp] theorem State.lateCore_inv {s : State} (h : Inv s) (core : Nat) : Inv (s.lateCore core) := by
  simp only [State.lateCore]
  (repeat' split) <;> simp [h]

@[simp] theorem State.lateQuad_inv {s : State} (h : Inv s) (a : Nat) : Inv (s.lateQuad a) := by
  simp only [State.lateQuad]
  (repeat' split) <;> simp [h]

@[simp] theorem State.turnQuad_inv {s : State} (h : Inv s) (a : Nat) : Inv (s.turnQuad a) := by
  unfold State.turnQuad
  split <;> simp [h]

@[simp] theorem State.turn_inv {s : State} (h : Inv s) (t : Nat) : Inv (s.turn t) := by
  have after {s : State} (hs : Inv s) (fresh : Bool) : Inv (if fresh then s.recheckPending else s).sleepQuads := by
    cases fresh <;> simp [hs]
  unfold State.turn
  refine after (State.inv_foldl (fun s c hs => by simpa using hs) _ (State.inv_foldl (fun s a hs => State.turnQuad_inv hs a) _
    (State.inv_foldl (fun s x hs => by simpa using hs) _ ?_))) _
  exact State.inv_foldl (fun s a hs => State.lateQuad_inv hs a) _ (State.inv_foldl (fun s c hs => State.lateCore_inv hs c) _
    (State.finishQuads_inv (State.finishCores_inv h)))

@[simp] theorem State.park_inv {s : State} (h : Inv s) (tenant q : Nat) (e : InboxEntry) : Inv (s.park tenant q e) := by
  unfold State.park
  (repeat' split) <;> simp [h]

@[simp] theorem State.parkStore_inv {s : State} (h : Inv s) (core id : Nat) : Inv (s.parkStore core id) := by
  simp only [State.parkStore]
  (repeat' split) <;> simp [h]

@[simp] theorem State.parkPiece_inv {s : State} (h : Inv s) (agent seq piece : Nat) : Inv (s.parkPiece agent seq piece) := by
  simp only [State.parkPiece]
  (repeat' split) <;> simp [h]

@[simp] theorem State.donate_inv {s : State} (h : Inv s) (die bay owner donee : Nat) : Inv (s.donate die bay owner donee) := by
  unfold State.donate
  refine State.finishQuads_inv (State.finishCores_inv (State.inv_foldl (fun s x hs => ?_) _ (State.inv_foldl (fun s c hs => ?_) _ h)))
  · (repeat' split) <;> simp [hs]
  · split <;> simp [hs]

@[simp] theorem State.debugPort_inv {s : State} (h : Inv s) (r : DebugReq) : Inv (s.debugPort r) := by
  have onStrand (slot : Nat) {f : Strand → State} (hf : ∀ st, Inv (f st) ↔ Inv s) : Inv (s.onStrand slot f) :=
    (State.onStrand_inv s slot hf).2 h
  cases r
  case readScalar | writeScalar | readPc | writePc | readPredicates | writePredicates | readMask | writeMask =>
    exact onStrand _ fun st => by simp
  case readSpecial | writeSpecial | readVector | writeVector => exact onStrand _ fun st => by split <;> simp
  all_goals
    simp only [State.debugPort]
    (repeat' split) <;> simp [h]

@[simp] theorem State.hostSilent_inv {s : State} (h : Inv s) (port line : Nat) : Inv (s.hostSilent port line) := by
  simp [State.hostSilent, h]

@[simp] theorem State.losePort_inv {s : State} (h : Inv s) (port : Nat) : Inv (s.losePort port) := by
  unfold State.losePort
  simp only [State.dropHostWrites_inv]
  refine State.inv_foldl (fun s e hs => ?_) _ (State.inv_foldl (fun s p hs => State.hostSilent_inv hs ..) _ (by simp [h]))
  split <;> simp [hs, Memory.wf_writeLe]

@[simp] theorem State.resetDies_inv {s : State} (h : Inv s) : Inv s.resetDies := Memory.wf_filter (State.unwritten_wf h) _

@[simp] theorem State.enterDeviceDebug_inv {s : State} (h : Inv s) (notAfter : Nat) : Inv (s.enterDeviceDebug notAfter) := by
  simp [State.enterDeviceDebug, h]

@[simp] theorem State.powerDown_inv {s : State} (h : Inv s) (cause : Nat) : Inv (s.powerDown cause) :=
  Memory.wf_filter (State.unwritten_wf h) _

@[simp] theorem State.copyError_inv {s : State} (h : Inv s) (struct line agent : Nat) (finder : Option Nat) :
    Inv (s.copyError struct line agent finder) := by
  unfold State.copyError
  dsimp only
  (repeat' split) <;> simp [h, Memory.wf_writeLe]

@[simp] theorem State.losePiece_inv {s : State} (h : Inv s) (pa agent : Nat) (finder : Option Nat) : Inv (s.losePiece pa agent finder) := by
  unfold State.losePiece
  dsimp only
  split <;> simp [h, Memory.wf_writeLe]

@[simp] theorem State.uncorrectable_inv {s : State} (h : Inv s) (struct pa agent : Nat) (finder : Option Nat) :
    Inv (s.uncorrectable struct pa agent finder) := by
  simp only [State.uncorrectable]
  (repeat' split) <;> simp [h]

theorem execHodPieceLand_inv {s : State} (h : Inv s) (agent seq piece : Nat) : OutInv (execHodPieceLand agent seq piece s) := by
  unfold execHodPieceLand
  dsimp only
  (repeat' split) <;> simp [h]

@[simp] theorem State.landInFlight_inv {s : State} (h : Inv s) (d : Nat) : Inv (s.landInFlight d) := by
  unfold State.landInFlight
  refine State.inv_foldl (fun s x hs => ?_) _ (State.inv_foldl (fun s x hs => ?_) _ h)
  · split <;> simp [hs]
  · have land := execHodPieceLand_inv hs x.1 x.2.1 x.2.2
    split
    · split
      next t ht => exact land.of_next ht
      next => exact hs
    · exact hs

@[simp] theorem State.loseCompute_inv {s : State} (h : Inv s) (d : Nat) : Inv (s.loseCompute d) := by
  have killed {s : State} (hs : Inv s) (t lid : Nat) :
      Inv (State.killLaunch (s.updLaunch lid fun l => { l with dieLost := some (l.dieLost.getD t), xcode := l.xcode ||| 0x80 }) lid) := by
    simp [hs]
  unfold State.loseCompute
  split
  · split
    · exact h
    · simp only [State.refreshGang_inv]
      refine State.recheckPending_inv ?_
      simp only [State.forgetDie_inv]
      exact State.inv_foldl (fun s lid hs => killed hs ..) _ (State.inv_foldl (fun s a hs => State.dropAgent_inv hs ..) _ (by simp [h]))
  · exact h

@[simp] theorem State.loseHome_inv {s : State} (hs : Inv s) (h : Nat) : Inv (s.loseHome h) := by
  have unbound {s : State} (hs : Inv s) (e : Nat × TileRec) :
      Inv (State.logEvent ((if e.2.present && e.2.own then e.2.lines.foldl (fun s l => s.loseLine l 4 e.2.holder none) s else s).unbind e.1 e.2)
        e.2.base 4 6 e.2.holder 0) := by
    rw [State.logEvent_inv, State.unbind_inv]
    exact Inv.ite (State.inv_foldl (fun s l hs => State.loseLine_inv hs ..) _ hs) hs
  unfold State.loseHome
  split
  · split
    · exact hs
    · exact hs
    · extract_lets here sys s₁ s₂ s₃ owned s₄ m asked s₅ s₆
      have h₂ : Inv s₂ := (State.logSystem_inv ..).2 ((State.setSys_inv ..).2 hs)
      have h₃ : Inv s₃ := State.inv_foldl (fun s e hs => unbound hs e) _ h₂
      have h₄ : Inv s₄ := State.inv_foldl (fun s x hs => State.loseLine_inv hs ..) _ h₃
      have h₆ : Inv s₆ := State.inv_foldl (fun s x hs => (State.answerGone_inv ..).2 hs) _ ((State.setHomes_inv ..).2 h₄)
      exact (State.inv_mk ..).2 h₆
  · exact hs

@[simp] theorem State.loseDie_inv {s : State} (h : Inv s) (d : Nat) : Inv (s.loseDie d) := by simp [State.loseDie, h]

@[simp] theorem State.judgeLinks_inv {s : State} (h : Inv s) : Inv s.judgeLinks := by
  unfold State.judgeLinks
  refine State.inv_foldl (fun s i hs => ?_) _ (State.inv_foldl (fun s d hs => ?_) _ h)
  · (repeat' split) <;> simp [hs]
  · dsimp only
    (repeat' split) <;> simp [hs]

@[simp] theorem State.partyAsk_inv {s : State} (h : Inv s) (p : Nat) (op : PartyOp) : Inv (s.partyAsk p op) := by
  unfold State.partyAsk
  (repeat' split) <;> simp [h]

@[simp] theorem State.partyWrite_inv {s : State} (h : Inv s) (p : Nat) (op : PartyOp) (v : Nat) : Inv (s.partyWrite p op v) := by
  unfold State.partyWrite
  split <;> simp [h]

@[simp] theorem State.partyPerform_inv {s : State} (h : Inv s) (p : Nat) (op : PartyOp) (ext : List Byte) : Inv (s.partyPerform p op ext).1 := by
  simp only [State.partyPerform]
  (repeat' split) <;> simp [h]

@[simp] theorem State.partyGo_inv {s : State} (h : Inv s) (p : Nat) (earlier : List PartyOp) (op : PartyOp) (ext : List Byte) :
    Inv (s.partyGo p earlier op ext) := by
  unfold State.partyGo
  (repeat' split) <;> simp [h]

@[simp] theorem State.partyStep_inv {s : State} (h : Inv s) (p id : Nat) (write : Bool) (ext : List Byte) : Inv (s.partyStep p id write ext) := by
  unfold State.partyStep
  (repeat' split) <;> simp [h]

end Sys2Proof.Machine
end

section
/-! The frames that the rows of the opcode table share keep the invariant. -/
namespace Sys2Proof.Machine

/-! ### Frames that several rows share -/

theorem State.run_inv {s : State} (h : Inv s) {gs : List (BitVec 4)} {vs : List (BitVec 5)} {f : Nat → Strand → Out}
    (hf : ∀ slot st, OutInv (f slot st)) : OutInv (s.run gs vs f) := by
  unfold State.run
  split
  · exact .fault _
  · split
    · exact .next h
    · exact hf _ _

theorem State.runV_inv {s : State} (h : Inv s) {o : VecOps} {c : VecCheck} {f : Nat → Strand → Out}
    (hf : ∀ slot st, OutInv (f slot st)) : OutInv (s.runV o c f) := by
  refine State.run_inv h fun slot st => ?_
  split
  · exact hf _ _
  · exact .next (State.trapHead_inv h ..)

theorem State.runMem_inv {s : State} (h : Inv s) {o : MemOps} {c : MemCheck} {gs : List (BitVec 4)} {vs : List (BitVec 5)}
    {other : Strand → Bool} {f : Nat → Strand → Out} (hf : ∀ slot st, OutInv (f slot st)) : OutInv (s.runMem o c gs vs other f) := by
  refine State.run_inv h fun slot st => ?_
  split
  · exact hf _ _
  · exact .next (State.trapHead_inv h ..)

@[simp] theorem State.misaligned_inv {s : State} (h : Inv s) (slot : Nat) (st : Strand) (acc va : Nat) : OutInv (s.misaligned slot st acc va) :=
  .next (State.trap_inv h ..)

theorem State.localAccess_inv {s : State} (h : Inv s) {acc : Nat} {o : MemOps} {c : MemCheck} {f : Nat → Strand → Nat → Nat → Out}
    (hf : ∀ slot st a n, OutInv (f slot st a n)) : OutInv (s.localAccess acc o c f) := by
  refine State.runMem_inv h fun slot st => ?_
  dsimp only
  (repeat' split)
  · exact State.misaligned_inv h ..
  · exact .next (State.trap_inv h ..)
  · exact .next h
  · exact hf ..

theorem State.runEngine_inv {s : State} (h : Inv s) {o : EngOps} {ok : Nat → Strand → Bool} {f : Nat → Strand → Out}
    (hf : ∀ slot st, OutInv (f slot st)) : OutInv (s.runEngine o ok f) := by
  refine State.run_inv h fun slot st => ?_
  (repeat' split)
  · exact .next (State.trapHead_inv h ..)
  · exact .next (State.trap_inv h ..)
  · exact hf ..

theorem State.runCommand_inv {s : State} (h : Inv s) {code need : Nat} {who : Keystone → Issuer} {f : Keystone → State}
    (hf : ∀ k, Inv (f k)) : OutInv (s.runCommand code need who f) := by
  unfold State.runCommand
  dsimp only
  (repeat' split)
  · exact .next h
  · exact .next ((State.mbReply_inv ..).2 h)
  · exact .next ((State.mbReply_inv ..).2 h)
  · exact .next (hf _)

/-! ### Scalar rows -/

@[simp] theorem headOnly_inv {s : State} (h : Inv s) (op : Word → Word → Nat → Int) (a b : BitVec 4) : OutInv (headOnly op a b s) :=
  State.run_inv h fun _ _ => .next ((State.setResult_inv ..).2 h)

@[simp] theorem formTl2_inv {s : State} (h : Inv s) (op : Word → Word → Nat → Int) (o : TwoSrc2) : OutInv (formTl2 op o s) :=
  State.run_inv h fun _ _ => .next ((State.setResult_inv ..).2 h)

@[simp] theorem formTl4_inv {s : State} (h : Inv s) (op : Word → Word → Nat → Int) (o : TwoSrc4) : OutInv (formTl4 op o s) :=
  State.run_inv h fun _ _ => .next ((State.setResult_inv ..).2 h)

@[simp] theorem threeReg_inv {s : State} (h : Inv s) (op : Word → Word → Nat → Word × FFlags) (a b c : BitVec 4) (ty : BitVec 2) :
    OutInv (threeReg op a b c ty s) :=
  State.run_inv h fun _ _ => .next ((State.setResult_inv ..).2 h)

@[simp] theorem bitOp_inv {s : State} (h : Inv s) (accepts : BitVec 4 → Bool) (f : Nat → Nat → Word) (a b t : BitVec 4) :
    OutInv (bitOp accepts f a b t s) := by
  refine State.run_inv h fun slot st => ?_
  split <;> simp [h]

@[simp] theorem extendOp_inv {s : State} (h : Inv s) (f : Nat → Nat → Word) (a b : BitVec 4) (n : BitVec 8) : OutInv (extendOp f a b n s) := by
  refine State.run_inv h fun slot st => ?_
  split <;> simp [h]

@[simp] theorem eidxOp_inv {s : State} (h : Inv s) (slot : Nat) (st : Strand) (a : BitVec 4) (p : Word) (e : Int) :
    OutInv (eidxOp s slot st a p e) := by
  unfold eidxOp
  split <;> simp [h]

@[simp] theorem compareOp_inv {s : State} (h : Inv s) (slot : Nat) (st : Strand) (p : BitVec 3) (x y : Word) (t : BitVec 4) (cc : BitVec 3) :
    OutInv (compareOp s slot st p x y t cc) := by
  unfold compareOp
  split <;> simp [h]

@[simp] theorem State.callWindow_inv {s : State} (h :
    Inv s) (slot : Nat) (st : Strand) (target : VAddr) : OutInv (s.callWindow slot st target) := by
  have io := State.frameIo_inv h slot st st.wsp.toNat st.ls.head?
  unfold State.callWindow
  split
  · simp [h]
  · split
    · simp [h]
    · split
      next ht =>
        have := io.of_ok ht
        split <;> simp [h, this]
      next => simp [h]
      next => simp [h]

@[simp] theorem State.retWindow_inv {s : State} (h : Inv s) (slot : Nat) (st : Strand) : OutInv (s.retWindow slot st) := by
  have io := State.frameIo_inv h slot st (st.wsp - 64).toNat none
  unfold State.retWindow
  split
  · simp [h]
  · dsimp only
    split
    · simp [h]
    · simp [h]
    · split
      next ht => simp [io.of_ok ht]
      next => simp [h]
      next => simp [h]

@[simp] theorem State.loopOp_inv {s : State} (h : Inv s) (slot : Nat) (st : Strand) (c : Word) (n : Nat) : OutInv (s.loopOp slot st c n) := by
  unfold State.loopOp
  split
  · simp [h]
  · split
    · simp [h]
    next ht =>
      have := (State.walkHeads_inv ht).2 h
      dsimp only
      split <;> simp [this]

/-! ### Vector rows -/

@[simp] theorem State.elementwise_inv {s : State} (h : Inv s) (slot : Nat) (st : Strand) (o : VecOps) (f : Nat → Nat → Nat × FFlags) :
    OutInv (s.elementwise slot st o f) := by
  simp [State.elementwise, h]

@[simp] theorem State.groupwise_inv {s : State} (h : Inv s) (slot : Nat) (st : Strand) (o : VecOps) (kd wd n : Nat)
    (f : Nat → Nat → Nat × FFlags) : OutInv (s.groupwise slot st o kd wd n f) := by
  simp [State.groupwise, h]

@[simp] theorem State.writeElem0_inv {s : State} (h : Inv s) (slot : Nat) (st : Strand) (o : VecOps) (w v : Nat) (f : FFlags) :
    OutInv (s.writeElem0 slot st o w v f) := by
  simp [State.writeElem0, h]

@[simp] theorem arith2_inv {s : State} (h : Inv s) (fop : FOp) (iop : Int → Int → Int → Int) (types : Nat → Bool) (src : List Nat) (o : VecOps) :
    OutInv (arith2 fop iop types src o s) :=
  State.runV_inv h fun _ _ => State.elementwise_inv h ..

@[simp] theorem arith3_inv {s : State} (h : Inv s) (fop : FOp) (iop : Int → Int → Int → Int) (o : VecOps) : OutInv (arith3 fop iop o s) :=
  State.runV_inv h fun _ _ => State.elementwise_inv h ..

@[simp] theorem bitsRow_inv {s : State} (h : Inv s) (types : Nat → Bool) (src : List Nat) (f : Nat → Nat → Nat × FFlags) (o : VecOps) :
    OutInv (bitsRow types src f o s) :=
  State.runV_inv h fun _ _ => State.elementwise_inv h ..

@[simp] theorem wideRow_inv {s : State} (h : Inv s) (fop : FOp) (iop : Int → Int → Int → Int) (o : VecOps) : OutInv (wideRow fop iop o s) :=
  State.runV_inv h fun _ _ => State.groupwise_inv h ..

@[simp] theorem floatRow_inv {s : State} (h : Inv s) (f : Num → Nat → Nat × FFlags) (o : VecOps) : OutInv (floatRow f o s) :=
  State.runV_inv h fun _ _ => State.elementwise_inv h ..

@[simp] theorem treeRow_inv {s : State} (h : Inv s) (op : Nat → Nat → Nat × FFlags) (o : VecOps) (slot : Nat) (st : Strand) :
    OutInv (treeRow op o s slot st) :=
  State.writeElem0_inv h ..

/-! ### Memory rows -/

@[simp] theorem State.depart_inv {s : State} (h : Inv s) (slot : Nat) (st : Strand) (core : Nat) (dst : Option (BitVec 4)) :
    OutInv (s.depart slot st core dst) := by
  have flushed := State.flushFrames_inv h slot 67 st
  unfold State.depart
  split
  · exact .next h
  · split
    next => simp [h]
    next ht =>
      simp [flushed.of_trap ht]
    next t u v ht =>
      have hw : FrameInv (if u.masksUsed then t.stackWrite slot 14 0 u u.maskBytes else .ok t u 0) := by
        split
        · exact State.stackWrite_inv (flushed.of_ok ht) ..
        · exact .ok (flushed.of_ok ht) ..
      dsimp only
      split
      next => simp [h]
      next => simp [flushed.of_ok ht]
      next hs => simp [hw.of_ok hs]

theorem State.issueJudged_inv {s : State} (h : Inv s) (slot : Nat) (st : Strand) (o : MemOps) (kind : AccessKind) (ps : List Piece)
    (es : List TlbEntry) (dest : Dest) {more : State → Strand → State × Strand} (hm : ∀ t u, Inv t → Inv (more t u).1) :
    OutInv (s.issueJudged slot st o kind ps es dest more) := by
  unfold State.issueJudged
  split
  · exact .next h
  · exact .next <| (State.retire_inv ..).2 (hm _ _ ((State.launchAccess_inv ..).2 ((State.fillAll_inv ..).2 h)))

theorem State.issueAccess_inv {s : State} (h : Inv s) (slot : Nat) (st : Strand) (o : MemOps) (kind : AccessKind) (r : Right) (ctl : Bool)
    (ps : List PrePiece) (dest : Dest) {more : State → Strand → State × Strand} (hm : ∀ t u, Inv t → Inv (more t u).1) :
    OutInv (s.issueAccess slot st o kind r ctl ps dest more) := by
  unfold State.issueAccess
  split
  · exact .next (State.trap_inv h ..)
  · split
    · exact State.depart_inv h ..
    · exact State.issueJudged_inv h _ _ _ _ _ _ _ hm

@[simp] theorem State.issueAccess_asIs_inv {s : State} (h : Inv s) (slot : Nat) (st : Strand) (o : MemOps) (kind : AccessKind) (r : Right)
    (ctl : Bool)
    (ps : List PrePiece) (dest : Dest) : OutInv (s.issueAccess slot st o kind r ctl ps dest asIs) :=
  State.issueAccess_inv h _ _ _ _ _ _ _ _ fun _ _ ht => ht

@[simp] theorem State.vectorAccess_inv {s : State} (h : Inv s) (slot : Nat) (st : Strand) (o : MemOps) (kind : AccessKind) (r : Right)
    (stride : Option Int) (v : Nat → Nat) (dest : Dest) : OutInv (s.vectorAccess slot st o kind r stride v dest) := by
  unfold State.vectorAccess
  extract_lets t base m elems
  split
  · exact State.issueAccess_asIs_inv h ..
  · split
    · exact State.misaligned_inv h ..
    · exact State.issueAccess_asIs_inv h ..

@[simp] theorem State.atomicAccess_inv {s : State} (h : Inv s) (op : AtomicOp) (types : Nat → Bool) (o : MemOps) :
    OutInv (s.atomicAccess op types o) := by
  refine State.runMem_inv h fun slot st => ?_
  dsimp only
  split
  · exact State.misaligned_inv h ..
  · exact State.issueAccess_asIs_inv h ..

@[simp] theorem State.barrierTrap_inv {s : State} (h : Inv s) (slot : Nat) (st : Strand) (o : MemOps) : OutInv (s.barrierTrap slot st o) :=
  .next (State.trap_inv h ..)

theorem State.runBarrier_inv {s : State} (h : Inv s) {o : MemOps} {gs : List (BitVec 4)} {arrives : Bool} {f : Nat → Strand → Nat → Barrier → Out}
    (hf : ∀ slot st k b, OutInv (f slot st k b)) : OutInv (s.runBarrier o gs arrives f) := by
  refine State.runMem_inv h fun slot st => ?_
  dsimp only
  (repeat' split)
  · exact State.barrierTrap_inv h ..
  · exact .next h
  · exact hf ..

theorem State.runTile_inv {s : State} (h : Inv s) {o : MemOps} {f : Nat → Strand → State → Nat → TileRec → State}
    (hf : ∀ slot st t tid r, Inv t → Inv (f slot st t tid r)) : OutInv (s.runTile o f) := by
  refine State.runMem_inv h fun slot st => ?_
  dsimp only
  split
  · simp [h]
  · split
    · simp [h]
    · split
      · simp [h]
      · exact .next (hf _ _ _ _ _ ((State.tlbFill_inv ..).2 h))

/-! ### Engine rows -/

@[simp] theorem State.issueCmds_inv {s : State} (h : Inv s) (slot : Nat) (st : Strand) (cs : List Cmd) : OutInv (s.issueCmds slot st cs) := by
  unfold State.issueCmds
  split <;> simp [h]

@[simp] theorem State.issueProduct_inv {s : State} (h : Inv s) (o : EngOps) (joint : Bool) : OutInv (s.issueProduct o joint) :=
  State.runEngine_inv h fun _ _ => State.issueCmds_inv h ..

theorem State.loadBlock_inv {s : State} (h : Inv s) (slot : Nat) (st : Strand) (va n : Nat) : FrameInv (s.loadBlock slot st va n) := by
  unfold State.loadBlock
  dsimp only
  (repeat' split) <;> simp [h]

theorem State.readBlocks_inv {s : State} (h : Inv s) (slot : Nat) (st : Strand) (n k va : Nat) : FrameInv (s.readBlocks slot st n k va) := by
  induction k generalizing s st va with
  | zero => exact .ok h ..
  | succ k ih =>
    have first := State.loadBlock_inv h slot st va n
    unfold State.readBlocks
    split
    next u v _ hu =>
      have rest := ih (first.of_ok hu) v (va + n)
      split
      next ht => exact .ok (rest.of_ok ht) ..
      next => exact rest
    next => exact first

theorem State.loadBlocks_inv {s : State} (h : Inv s) (slot : Nat) (st : Strand) (n k va : Nat) : FrameInv (s.loadBlocks slot st n k va) := by
  unfold State.loadBlocks
  split
  · exact .trap h ..
  · exact State.readBlocks_inv h ..

theorem State.runHod_inv {s : State} (h : Inv s) {o : EngOps} {blocks : Nat} {ok : Nat → Bool} {pages : Nat → List Nat}
    {home : State → Nat → Strand → Nat → Bool} {next : Nat → Strand → Nat → Bool} {f : State → Nat → Strand → Nat → Out}
    (hf : ∀ t slot st d, Inv t → OutInv (f t slot st d)) : OutInv (s.runHod o blocks ok pages home next f) := by
  refine State.runEngine_inv h fun slot st => ?_
  have loaded := State.loadBlocks_inv h slot st 64 blocks (ptrVa (st.getG o.a))
  dsimp only
  split
  · exact State.misaligned_inv h ..
  · split
    next => simp [h]
    next => simp [h]
    next ht =>
      (repeat' split)
      · simp [h]
      · simp [h]
      · simp [h]
      · simp [h]
      · exact hf _ _ _ _ (loaded.of_ok ht)

theorem State.runRecord_inv {s : State} (h : Inv s) {o : EngOps} {ok : Strand → Bool} {f : State → Nat → Strand → Nat → Out}
    (hf : ∀ t slot st r, Inv t → OutInv (f t slot st r)) : OutInv (s.runRecord o ok f) := by
  refine State.run_inv h fun slot st => ?_
  have loaded := State.loadBlock_inv h slot st (ptrVa (st.getG o.a)) 64
  dsimp only
  split
  · simp [h]
  · split
    · exact State.misaligned_inv h ..
    · split
      · exact .next h
      · split
        next => simp [h]
        next => simp [h]
        next ht => exact hf _ _ _ _ (loaded.of_ok ht)

end Sys2Proof.Machine
end

section
/-! The rows of the opcode table keep the invariant. -/
namespace Sys2Proof.Machine
theorem execGets_inv {s : State} (h : Inv s) (line : Nat) : OutInv (execGets line s) := by
  unfold execGets
  simp [h]

theorem execGetl_inv {s : State} (h : Inv s) (line : Nat) : OutInv (execGetl line s) := by
  unfold execGetl
  (repeat' split) <;> simp [h]

theorem execGeto_inv {s : State} (h : Inv s) (line : Nat) : OutInv (execGeto line s) := by
  unfold execGeto
  simp [h]

theorem execPuto_inv {s : State} (h : Inv s) (agent line : Nat) : OutInv (execPuto agent line s) := by
  unfold execPuto
  dsimp only
  (repeat' split) <;> simp [h]

theorem execPuts_inv {s : State} (h : Inv s) (agent line : Nat) : OutInv (execPuts agent line s) := by
  unfold execPuts
  dsimp only
  (repeat' split) <;> simp [h]

theorem execInvalidation_inv {s : State} (h : Inv s) (agent line : Nat) : OutInv (execInvalidation agent line s) := by
  unfold execInvalidation
  (repeat' split) <;> simp [h]

theorem execRecall_inv {s : State} (h : Inv s) (agent line : Nat) : OutInv (execRecall agent line s) := by
  unfold execRecall
  (repeat' split) <;> simp [h]

theorem execAnswer_inv {s : State} (h : Inv s) (agent line : Nat) : OutInv (execAnswer agent line s) := by
  unfold execAnswer
  (repeat' split) <;> simp [h]

theorem execHorizonExpiry_inv {s : State} (h : Inv s) (line : Nat) : OutInv (execHorizonExpiry line s) := by
  unfold execHorizonExpiry
  (repeat' split) <;> simp [h]

theorem execLeaseExpiry_inv {s : State} (h : Inv s) (agent line : Nat) : OutInv (execLeaseExpiry agent line s) := by
  unfold execLeaseExpiry
  (repeat' split) <;> simp [h]

theorem execAgentUnresponsive_inv {s : State} (h : Inv s) (agent line : Nat) : OutInv (execAgentUnresponsive agent line s) := by
  unfold execAgentUnresponsive
  (repeat' split) <;> simp [h]

theorem execQtailWrite_inv {s : State} (h : Inv s) (queue : Nat) (tail : BitVec 32) : OutInv (execQtailWrite queue tail s) := by
  unfold execQtailWrite
  (repeat' split) <;> simp [h]

theorem execQtailAmo_inv {s : State} (h : Inv s) (hart queue : Nat) (op : QtailAmo) (v : Word) : OutInv (execQtailAmo hart queue op v s) := by
  unfold execQtailAmo
  dsimp only
  (repeat' split) <;> simp [h]

theorem execCommit_inv {s : State} (h : Inv s) (ncourse : BitVec 7) : OutInv (execCommit ncourse s) := by
  unfold execCommit
  simp [h]

theorem execCttimeWrite_inv {s : State} (h : Inv s) (v : Word) : OutInv (execCttimeWrite v s) := by
  unfold execCttimeWrite
  simp [h]

theorem execTnsaveWrite_inv {s : State} (h : Inv s) (tenant : Nat) (v : Word) : OutInv (execTnsaveWrite tenant v s) := by
  unfold execTnsaveWrite
  (repeat' split) <;> simp [h]

theorem execDpSnap_inv {s : State} (h : Inv s) (home slice : Nat) : OutInv (execDpSnap home slice s) := by
  unfold execDpSnap
  (repeat' split) <;> simp [h]

theorem execDptEnable_inv {s : State} (h : Inv s) (home slice : Nat) : OutInv (execDptEnable home slice s) := by
  unfold execDptEnable
  (repeat' split) <;> simp [h]

theorem execDptClear_inv {s : State} (h : Inv s) (home slice : Nat) : OutInv (execDptClear home slice s) := by
  unfold execDptClear
  (repeat' split) <;> simp [h]

theorem execLkctlGo_inv {s : State} (h : Inv s) (tenant : Nat) : OutInv (execLkctlGo tenant s) := by
  unfold execLkctlGo
  (repeat' split) <;> simp [h]

theorem execEcclr_inv {s : State} (h :
    Inv s) (memoryPage : Bool) (tenant : Nat) (clr : BitVec 15) : OutInv (execEcclr memoryPage tenant clr s) := by
  unfold execEcclr
  simp [h]

theorem execStructCounterClear_inv {s : State} (h : Inv s) : OutInv (execStructCounterClear s) := by
  unfold execStructCounterClear
  simp [h]

theorem execRegisterWrite_inv {s : State} (h : Inv s) (who : Party) (pa size : Nat) (v : Word) : OutInv (execRegisterWrite who pa size v s) := by
  unfold execRegisterWrite
  (repeat' split) <;> simp [h]

theorem execBr_inv {s : State} (h : Inv s) (i24 : BitVec 24) : OutInv (execBr i24 s) := State.run_inv h fun _ _ => by simp [h]

theorem execBp_inv {s : State} (h : Inv s) (p : BitVec 3) (neg : Bool) (i24 : BitVec 24) : OutInv (execBp p neg i24 s) :=
  State.run_inv h fun _ _ => by simp [h]

theorem execBz_inv {s : State} (h : Inv s) (a : BitVec 4) (i24 : BitVec 24) : OutInv (execBz a i24 s) :=
  State.run_inv h fun _ _ => by simp [h]

theorem execBnz_inv {s : State} (h : Inv s) (a : BitVec 4) (i24 : BitVec 24) : OutInv (execBnz a i24 s) :=
  State.run_inv h fun _ _ => by simp [h]

theorem execCall_inv {s : State} (h : Inv s) (i24 : BitVec 24) : OutInv (execCall i24 s) := State.run_inv h fun _ _ => by simp [h]

theorem execRet_inv {s : State} (h : Inv s) : OutInv (execRet s) := State.run_inv h fun _ _ => by simp [h]

theorem execCallr_inv {s : State} (h : Inv s) (b : BitVec 4) : OutInv (execCallr b s) := State.run_inv h fun _ _ => by simp [h]

theorem execJmpr_inv {s : State} (h : Inv s) (b : BitVec 4) : OutInv (execJmpr b s) := State.run_inv h fun _ _ => by simp [h]

theorem execLoop_inv {s : State} (h : Inv s) (b : BitVec 4) (k8 : BitVec 8) : OutInv (execLoop b k8 s) :=
  State.run_inv h fun _ _ => by simp [h]

theorem execLoopi_inv {s : State} (h : Inv s) (count : BitVec 16) (n : BitVec 8) : OutInv (execLoopi count n s) :=
  State.run_inv h fun _ _ => by simp [h]

theorem execLbrk_inv {s : State} (h : Inv s) (p : BitVec 3) (neg : Bool) : OutInv (execLbrk p neg s) := by
  refine State.run_inv h fun slot st => ?_
  split
  · simp [h]
  · split
    · simp [h]
    · dsimp only
      split
      · simp [h]
      · split
        next => simp [h]
        next ht => simp [State.headAfterAt_inv ht, h]

theorem execFlushw_inv {s : State} (h : Inv s) : OutInv (execFlushw s) := by
  refine State.run_inv h fun slot st => ?_
  have flushed := State.flushFrames_inv h slot 67 st
  split
  next ht => simp [flushed.of_ok ht]
  next => simp [h]
  next ht => simp [flushed.of_trap ht]

theorem execSetws_inv {s : State} (h : Inv s) (b c : BitVec 4) : OutInv (execSetws b c s) := by
  refine State.run_inv h fun slot st => ?_
  have flushed := State.flushFrames_inv h slot 67 st
  split
  · simp [h]
  · split
    next ht => simp [flushed.of_ok ht]
    next => simp [h]
    next ht => simp [flushed.of_trap ht]

theorem execSrd_inv {s : State} (h : Inv s) (a : BitVec 4) (k8 : BitVec 8) : OutInv (execSrd a k8 s) := by
  refine State.run_inv h fun slot st => ?_
  (repeat' split) <;> simp [h]

theorem execSwr_inv {s : State} (h : Inv s) (b : BitVec 4) (k8 : BitVec 8) : OutInv (execSwr b k8 s) := by
  refine State.run_inv h fun slot st => ?_
  (repeat' split) <;> simp [h]

theorem execInstructionLineFetch_inv {s : State} (h : Inv s) (slot : Nat) : OutInv (execInstructionLineFetch slot s) := by
  unfold execInstructionLineFetch
  split
  · simp [h]
  · extract_lets a held
    split
    · simp [h]
    · split
      next => simp [h]
      next ht =>
        have := (State.readLine_inv ht).2 h
        (repeat' split) <;> simp [this]

theorem execYield_inv {s : State} (h : Inv s) (k8 : BitVec 8) : OutInv (execYield k8 s) := by
  refine State.run_inv h fun slot st => ?_
  dsimp only
  (repeat' split) <;> simp [h]

theorem execYieldExpiry_inv {s : State} (h : Inv s) (slot : Nat) : OutInv (execYieldExpiry slot s) := by
  unfold execYieldExpiry
  (repeat' split) <;> simp [h]

theorem execWindowSpillFill_inv {s : State} (h : Inv s) (slot : Nat) (fill : Bool) : OutInv (execWindowSpillFill slot fill s) := by
  unfold execWindowSpillFill
  (repeat' split) <;> simp [h]

theorem execMigrationPacketAccept_inv {s : State} (h : Inv s) (core : Nat) : OutInv (execMigrationPacketAccept core s) := by
  unfold execMigrationPacketAccept
  dsimp only
  split
  · simp [h]
  · split
    · split
      next ht => simp [State.placePacket_inv h ht]
      next => simp [h]
      next => simp [h]
    · simp [h]

theorem execLd_inv {s : State} (h : Inv s) (o : MemOps) : OutInv (execLd o s) := by
  refine State.runMem_inv h fun slot st => ?_
  dsimp only
  (repeat' split) <;> simp [h]

theorem execSt_inv {s : State} (h : Inv s) (o : MemOps) : OutInv (execSt o s) := by
  refine State.runMem_inv h fun slot st => ?_
  dsimp only
  (repeat' split) <;> simp [h]

theorem execLdl_inv {s : State} (h : Inv s) (o : MemOps) : OutInv (execLdl o s) := State.localAccess_inv h fun _ _ _ _ => by simp [h]

theorem execStl_inv {s : State} (h : Inv s) (o : MemOps) : OutInv (execStl o s) := State.localAccess_inv h fun _ _ _ _ => by simp [h]

theorem execVld_inv {s : State} (h : Inv s) (o : MemOps) : OutInv (execVld o s) := State.runMem_inv h fun _ _ => by simp [h]

theorem execVst_inv {s : State} (h : Inv s) (o : MemOps) : OutInv (execVst o s) := State.runMem_inv h fun _ _ => by simp [h]

theorem execVlds_inv {s : State} (h : Inv s) (o : MemOps) : OutInv (execVlds o s) := State.runMem_inv h fun _ _ => by simp [h]

theorem execVsts_inv {s : State} (h : Inv s) (o : MemOps) : OutInv (execVsts o s) := State.runMem_inv h fun _ _ => by simp [h]

theorem execVldt_inv {s : State} (h : Inv s) (o : MemOps) : OutInv (execVldt o s) := by
  refine State.runMem_inv h fun slot st => ?_
  dsimp only
  (repeat' split) <;> simp [h]

theorem execVgath_inv {s : State} (h : Inv s) (o : MemOps) : OutInv (execVgath o s) := by
  refine State.runMem_inv h fun slot st => ?_
  extract_lets l w vd mr
  split
  · exact State.misaligned_inv h ..
  · exact State.issueAccess_inv h _ _ _ _ _ _ _ _ fun _ _ ht => (State.setV_inv ..).2 ht

theorem execVscat_inv {s : State} (h : Inv s) (o : MemOps) : OutInv (execVscat o s) := by
  refine State.runMem_inv h fun slot st => ?_
  extract_lets l mr
  split
  · exact State.misaligned_inv h ..
  · exact State.issueAccess_inv h _ _ _ _ _ _ _ _ fun _ _ ht => ht

theorem execFence_inv {s : State} (h : Inv s) (o : MemOps) : OutInv (execFence o s) := by
  refine State.runMem_inv h fun slot st => ?_
  (repeat' split) <;> simp [h]

theorem execMwait_inv {s : State} (h : Inv s) (o : MemOps) : OutInv (execMwait o s) := by
  refine State.runMem_inv h fun slot st => ?_
  dsimp only
  (repeat' split) <;> simp [h]

theorem execMonitorFire_inv {s : State} (h : Inv s) (slot : Nat) : OutInv (execMonitorFire slot s) := by
  unfold execMonitorFire
  simp [h]

theorem execMwaitTimeout_inv {s : State} (h : Inv s) (slot : Nat) : OutInv (execMwaitTimeout slot s) := by
  unfold execMwaitTimeout
  (repeat' split) <;> simp [h]

theorem execMwaitPoll_inv {s : State} (h : Inv s) (slot : Nat) (ext : List Byte) : OutInv (execMwaitPoll slot ext s) := by
  unfold execMwaitPoll
  (repeat' split) <;> simp [h]

theorem execPref_inv {s : State} (h : Inv s) (o : MemOps) : OutInv (execPref o s) := by
  refine State.runMem_inv h fun slot st => ?_
  dsimp only
  (repeat' split) <;> simp [h]

theorem execCflush_inv {s : State} (h : Inv s) (o : MemOps) : OutInv (execCflush o s) := by
  refine State.runMem_inv h fun slot st => ?_
  dsimp only
  (repeat' split) <;> simp [h]

theorem execLzero_inv {s : State} (h : Inv s) (o : MemOps) : OutInv (execLzero o s) := by
  refine State.runMem_inv h fun slot st => ?_
  extract_lets va
  split
  · exact State.misaligned_inv h ..
  · split
    · simp [h]
    · exact State.issueJudged_inv h _ _ _ _ _ _ _ fun _ _ ht => ht

theorem execBara_inv {s : State} (h : Inv s) (o : MemOps) : OutInv (execBara o s) := State.runBarrier_inv h fun _ _ _ _ => by simp [h]

theorem execBarw_inv {s : State} (h : Inv s) (o : MemOps) : OutInv (execBarw o s) := by
  refine State.runBarrier_inv h fun slot st k b => ?_
  dsimp only
  (repeat' split) <;> simp [h]

theorem execBar_inv {s : State} (h : Inv s) (o : MemOps) : OutInv (execBar o s) := by
  refine State.runBarrier_inv h fun slot st k b => ?_
  (repeat' split) <;> simp [h]

theorem execBarinit_inv {s : State} (h : Inv s) (o : MemOps) : OutInv (execBarinit o s) := by
  refine State.runMem_inv h fun slot st => ?_
  dsimp only
  (repeat' split) <;> simp [h]

theorem execBarrierWakeup_inv {s : State} (h : Inv s) (msg : BarrierMsg) : OutInv (execBarrierWakeup msg s) := by
  unfold execBarrierWakeup
  dsimp only
  (repeat' split) <;> simp [h]

theorem execTdecl_inv {s : State} (h : Inv s) (o : MemOps) : OutInv (execTdecl o s) := by
  refine State.runMem_inv h fun slot st => ?_
  dsimp only
  (repeat' split) <;> simp [h]

theorem execTfree_inv {s : State} (h : Inv s) (o : MemOps) : OutInv (execTfree o s) := by
  refine State.runTile_inv h fun slot st t tid r ht => ?_
  dsimp only
  split <;> simp [ht]

theorem execTfwd_inv {s : State} (h : Inv s) (o : MemOps) : OutInv (execTfwd o s) := by
  refine State.runTile_inv h fun slot st t tid r ht => ?_
  dsimp only
  split <;> simp [ht]

theorem execMigr_inv {s : State} (h : Inv s) (o : MemOps) : OutInv (execMigr o s) := by
  refine State.runMem_inv h fun slot st => ?_
  dsimp only
  (repeat' split) <;> simp [h]

theorem execShape_inv {s : State} (h : Inv s) (o : EngOps) : OutInv (execShape o s) := State.run_inv h fun _ _ => by simp [h]

theorem execMzero_inv {s : State} (h : Inv s) (o : EngOps) : OutInv (execMzero o s) := State.runEngine_inv h fun _ _ => by simp [h]

theorem execMld_inv {s : State} (h : Inv s) (o : EngOps) : OutInv (execMld o s) := State.runEngine_inv h fun _ _ => by simp [h]

theorem execMst_inv {s : State} (h : Inv s) (o : EngOps) : OutInv (execMst o s) := State.runEngine_inv h fun _ _ => by simp [h]

theorem execTstb_inv {s : State} (h : Inv s) (o : EngOps) : OutInv (execTstb o s) := by
  refine State.runEngine_inv h fun slot st => ?_
  dsimp only
  (repeat' split) <;> simp [h]

theorem execBbinit_inv {s : State} (h : Inv s) (o : EngOps) : OutInv (execBbinit o s) := by
  refine State.runEngine_inv h fun slot st => ?_
  dsimp only
  (repeat' split) <;> simp [h]

theorem execBbtest_inv {s : State} (h : Inv s) (o : EngOps) : OutInv (execBbtest o s) := by
  refine State.runEngine_inv h fun slot st => ?_
  dsimp only
  (repeat' split) <;> simp [h]

theorem execBbwait_inv {s : State} (h : Inv s) (o : EngOps) : OutInv (execBbwait o s) := by
  refine State.runEngine_inv h fun slot st => ?_
  dsimp only
  (repeat' split) <;> simp [h]

theorem execBbwaitTimeout_inv {s : State} (h : Inv s) (slot : Nat) : OutInv (execBbwaitTimeout slot s) := by
  unfold execBbwaitTimeout
  (repeat' split) <;> simp [h]

theorem execSload_inv {s : State} (h : Inv s) (o : EngOps) : OutInv (execSload o s) := State.runEngine_inv h fun _ _ => by simp [h]

theorem execSsort_inv {s : State} (h : Inv s) (o : EngOps) : OutInv (execSsort o s) := State.runEngine_inv h fun _ _ => by simp [h]

theorem execSstore_inv {s : State} (h : Inv s) (o : EngOps) : OutInv (execSstore o s) := State.runEngine_inv h fun _ _ => by simp [h]

theorem execSstat_inv {s : State} (h : Inv s) (o : EngOps) : OutInv (execSstat o s) := by
  refine State.runEngine_inv h fun slot st => ?_
  dsimp only
  (repeat' split) <;> simp [h]

theorem execHcopy_inv {s : State} (h : Inv s) (o : EngOps) : OutInv (execHcopy o s) := State.runHod_inv h fun t slot st d ht => by simp [ht]

theorem execHcopym_inv {s : State} (h : Inv s) (o : EngOps) : OutInv (execHcopym o s) :=
  State.runHod_inv h fun t slot st d ht => by simp [ht]

theorem execHsend_inv {s : State} (h : Inv s) (o : EngOps) : OutInv (execHsend o s) := State.runHod_inv h fun t slot st d ht => by simp [ht]

theorem execHgath_inv {s : State} (h : Inv s) (o : EngOps) : OutInv (execHgath o s) := State.runHod_inv h fun t slot st d ht => by simp [ht]

theorem execEngineCommandStart_inv {s : State} (h : Inv s) (agent : Nat) (engine : Engine) : OutInv (execEngineCommandStart agent engine s) := by
  unfold execEngineCommandStart
  dsimp only
  (repeat' split) <;> simp [h]

theorem execFollowOnStart_inv {s : State} (h : Inv s) (agent seq : Nat) : OutInv (execFollowOnStart agent seq s) := by
  unfold execFollowOnStart
  dsimp only
  (repeat' split) <;> simp [h]

theorem execJointStart_inv {s : State} (h : Inv s) (die bond : Nat) : OutInv (execJointStart die bond s) := by
  fun_cases execJointStart <;> simp +contextual [*]

theorem execEngineCommandCompletion_inv {s : State} (h : Inv s) (agent seq : Nat) : OutInv (execEngineCommandCompletion agent seq s) := by
  unfold execEngineCommandCompletion
  dsimp only
  (repeat' split) <;> simp [h]

theorem execLaunch_inv {s : State} (h : Inv s) (o : EngOps) : OutInv (execLaunch o s) :=
  State.runRecord_inv h fun t slot st r ht => by simp [ht]

theorem execTask_inv {s : State} (h : Inv s) (o : EngOps) : OutInv (execTask o s) := by
  refine State.runRecord_inv h fun t slot st r ht => ?_
  (repeat' split) <;> simp [ht]

theorem execFpdecl_inv {s : State} (h : Inv s) (o : EngOps) : OutInv (execFpdecl o s) := by
  refine State.runEngine_inv h fun slot st => ?_
  have loaded := State.loadBlocks_inv h slot st 32 (st.getG o.b).toNat (ptrVa (st.getG o.a))
  dsimp only
  split
  · simp [h]
  · split
    next => simp [h]
    next => simp [h]
    next ht =>
      have := loaded.of_ok ht
      (repeat' split) <;> simp [h, this]

theorem execTrap_inv {s : State} (h : Inv s) (o : EngOps) : OutInv (execTrap o s) := State.run_inv h fun _ _ => by simp [h]

theorem execEret_inv {s : State} (h : Inv s) (o : EngOps) : OutInv (execEret o s) := by
  refine State.run_inv h fun slot st => ?_
  (repeat' split) <;> simp [h]

theorem execExit_inv {s : State} (h : Inv s) (o : EngOps) : OutInv (execExit o s) := by
  refine State.run_inv h fun slot st => ?_
  (repeat' split) <;> simp [h]

theorem execPhintRegisters_inv {s : State} (h : Inv s) (o : EngOps) : OutInv (execPhintRegisters o s) := by
  refine State.run_inv h fun slot st => ?_
  dsimp only
  (repeat' split) <;> simp [h]

theorem execPhintRange_inv {s : State} (h : Inv s) (o : EngOps) : OutInv (execPhintRange o s) := by
  refine State.runEngine_inv h fun slot st => ?_
  have loaded := State.loadBlock_inv h slot st (ptrVa (st.getG o.c)) 64
  dsimp only
  split
  · simp [h]
  · split
    · simp [h]
    · split
      · simp [h]
      · split
        next => simp [h]
        next => simp [h]
        next ht =>
          have := loaded.of_ok ht
          (repeat' split) <;> simp [h, this]

theorem execTlbinv_inv {s : State} (h : Inv s) (o : EngOps) : OutInv (execTlbinv o s) := by
  refine State.run_inv h fun slot st => ?_
  (repeat' split) <;> simp [h]

theorem execFack_inv {s : State} (h : Inv s) (o : EngOps) : OutInv (execFack o s) := by
  refine State.run_inv h fun slot st => ?_
  dsimp only
  (repeat' split) <;> simp [h]

theorem execHubRecordAccept_inv {s : State} (h : Inv s) (source : Nat) : OutInv (execHubRecordAccept source s) := by
  unfold execHubRecordAccept
  (repeat' split) <;> simp [h]

theorem execPlaceLaunch_inv {s : State} (h : Inv s) (die : Nat) : OutInv (execPlaceLaunch die s) := by
  unfold execPlaceLaunch
  dsimp only
  (repeat' split) <;> simp [h]

theorem execGangReserve_inv {s : State} (h : Inv s) (die : Nat) : OutInv (execGangReserve die s) := by
  unfold execGangReserve
  dsimp only
  (repeat' split) <;> simp [h]

theorem execGangTimerExpiry_inv {s : State} (h : Inv s) : OutInv (execGangTimerExpiry s) := by
  unfold execGangTimerExpiry
  dsimp only
  (repeat' split) <;> simp [h]

theorem execLaunchComplete_inv {s : State} (h : Inv s) (lid : Nat) : OutInv (execLaunchComplete lid s) := by
  unfold execLaunchComplete
  (repeat' split) <;> simp [h]

theorem execBudgetExhaustion_inv {s : State} (h : Inv s) (lid energy : Nat) : OutInv (execBudgetExhaustion lid energy s) := by
  unfold execBudgetExhaustion
  (repeat' split) <;> simp [h]

theorem execPackageIdleEntry_inv {s : State} (h : Inv s) : OutInv (execPackageIdleEntry s) := by
  unfold execPackageIdleEntry
  (repeat' split) <;> simp [h]

theorem execPackageIdleExit_inv {s : State} (h : Inv s) : OutInv (execPackageIdleExit s) := by
  unfold execPackageIdleExit
  (repeat' split) <;> simp [h]

theorem execQuadWake_inv {s : State} (h : Inv s) (agent : Nat) : OutInv (execQuadWake agent s) := by
  unfold execQuadWake
  dsimp only
  (repeat' split) <;> simp [h]

theorem execDrainLeadHold_inv {s : State} (h : Inv s) : OutInv (execDrainLeadHold s) := by
  unfold execDrainLeadHold
  (repeat' split) <;> simp [h]

theorem execCourseEdge_inv {s : State} (h : Inv s) : OutInv (execCourseEdge s) := by
  unfold execCourseEdge
  (repeat' split) <;> simp [h]

theorem execQuadSave_inv {s : State} (h : Inv s) (agent : Nat) : OutInv (execQuadSave agent s) := by
  unfold execQuadSave
  simp [h]

theorem execOverlimExpiry_inv {s : State} (h : Inv s) : OutInv (execOverlimExpiry s) := by
  unfold execOverlimExpiry
  (repeat' split) <;> simp [h]

theorem execCourseBoundary_inv {s : State} (h : Inv s) : OutInv (execCourseBoundary s) := by
  unfold execCourseBoundary
  dsimp only
  (repeat' split) <;> simp [h]

theorem execSaveLateComplete_inv {s : State} (h : Inv s) (isQuad : Bool) (n : Nat) : OutInv (execSaveLateComplete isQuad n s) := by
  unfold execSaveLateComplete
  (repeat' split) <;> simp [h]

theorem execLintelRestore_inv {s : State} (h : Inv s) (isQuad : Bool) (n : Nat) : OutInv (execLintelRestore isQuad n s) := by
  unfold execLintelRestore
  dsimp only
  (repeat' split) <;> simp [h]

theorem execParkMessage_inv {s : State} (h : Inv s) (msg : MsgRef) : OutInv (execParkMessage msg s) := by
  unfold execParkMessage
  (repeat' split) <;> simp [h]

theorem execMessageReoffer_inv {s : State} (h : Inv s) (msg : MsgRef) : OutInv (execMessageReoffer msg s) := by
  unfold execMessageReoffer
  (repeat' split) <;> simp [h]

theorem execBayDonation_inv {s : State} (h : Inv s) (die bay : Nat) : OutInv (execBayDonation die bay s) := by
  unfold execBayDonation
  dsimp only
  (repeat' split) <;> simp [h]

theorem execDebugHalt_inv {s : State} (h : Inv s) (slot : Nat) : OutInv (execDebugHalt slot s) := by
  unfold execDebugHalt
  simp [h]

theorem execDebugStep_inv {s : State} (h : Inv s) (slot : Nat) : OutInv (execDebugStep slot s) := by
  unfold execDebugStep
  simp [h]

theorem execBreakpointMatch_inv {s : State} (h : Inv s) (slot : Nat) : OutInv (execBreakpointMatch slot s) := by
  unfold execBreakpointMatch
  (repeat' split) <;> simp [h]

theorem execContinueAt_inv {s : State} (h : Inv s) (c : Release) : OutInv (execContinueAt c s) := by
  unfold execContinueAt
  (repeat' split) <;> simp [h]

theorem execDebugPortRequest_inv {s : State} (h : Inv s) (r : DebugReq) : OutInv (execDebugPortRequest r s) := by
  unfold execDebugPortRequest
  simp [h]

theorem execHostRequest_inv {s : State} (h : Inv s) (port : Nat) (r : HostReq) : OutInv (execHostRequest port r s) := by
  unfold execHostRequest
  dsimp only
  (repeat' split) <;> simp [h]

theorem execBirsp_inv {s : State} (h : Inv s) (port line : Nat) (data : List Byte) : OutInv (execBirsp port line data s) := by
  unfold execBirsp
  dsimp only
  (repeat' split) <;> simp [h]

theorem execBitoTimeout_inv {s : State} (h : Inv s) (port line : Nat) : OutInv (execBitoTimeout port line s) := by
  unfold execBitoTimeout
  (repeat' split) <;> simp [h]

theorem execHostSnoop_inv {s : State} (h : Inv s) (line : Nat) (inv : Bool) : OutInv (execHostSnoop line inv s) := by
  unfold execHostSnoop
  (repeat' split) <;> simp [h]

theorem execCxlCacheResponse_inv {s : State} (h : Inv s) (line : Nat) (owned : Bool) (data : List Byte) :
    OutInv (execCxlCacheResponse line owned data s) := by
  unfold execCxlCacheResponse
  extract_lets pa
  split
  · simp [h]
  · split
    · simp [h]
    next e fresh _ _ _ _ _ =>
      have hf : Inv fresh := Inv.ite (Memory.wf_writeBytes h ..) h
      clear_value fresh
      (repeat' split) <;> simp [h, hf]

theorem execCxlLinkDown_inv {s : State} (h : Inv s) (port : Nat) (surprise : Bool) : OutInv (execCxlLinkDown port surprise s) := by
  unfold execCxlLinkDown
  (repeat' split) <;> simp [h]

theorem execCxlRetrainTimeout_inv {s : State} (h : Inv s) (port : Nat) : OutInv (execCxlRetrainTimeout port s) := by
  unfold execCxlRetrainTimeout
  (repeat' split) <;> simp [h]

theorem execCxlLinkUp_inv {s : State} (h : Inv s) (port : Nat) : OutInv (execCxlLinkUp port s) := by
  unfold execCxlLinkUp
  (repeat' split) <;> simp [h]

theorem execVlntenantWrite_inv {s : State} (h :
    Inv s) (hart : Nat) (mMode : Bool) (v : BitVec 6) : OutInv (execVlntenantWrite hart mMode v s) := by
  unfold execVlntenantWrite
  (repeat' split) <;> simp [h]

theorem execSpdm_inv {s : State} (h : Inv s) : OutInv (execSpdm s) := State.runCommand_inv h fun k => by simp [h]

theorem execDoeSpdmRequest_inv {s : State} (h : Inv s) (port : Nat) (request : List Byte) : OutInv (execDoeSpdmRequest port request s) := by
  unfold execDoeSpdmRequest
  dsimp only
  (repeat' split) <;> simp [h]

theorem execMailboxComplete_inv {s : State} (h : Inv s) : OutInv (execMailboxComplete s) := by
  unfold execMailboxComplete
  dsimp only
  (repeat' split) <;> simp [h]

theorem execKeygen_inv {s : State} (h : Inv s) : OutInv (execKeygen s) := State.runCommand_inv h fun k => by simp [h]

theorem execKeyclr_inv {s : State} (h : Inv s) : OutInv (execKeyclr s) := State.runCommand_inv h fun k => by simp [h]

theorem execTkeyset_inv {s : State} (h : Inv s) : OutInv (execTkeyset s) := State.runCommand_inv h fun k => by simp [h]

theorem execDbgkey_inv {s : State} (h : Inv s) : OutInv (execDbgkey s) := State.runCommand_inv h fun k => by simp [h]

theorem execDbgnonce_inv {s : State} (h : Inv s) : OutInv (execDbgnonce s) := State.runCommand_inv h fun k => by simp [h]

theorem execDbgauth_inv {s : State} (h : Inv s) : OutInv (execDbgauth s) := by
  unfold execDbgauth
  extract_lets tok
  refine State.runCommand_inv h fun k => ?_
  dsimp only
  (repeat' split) <;> simp [h]

theorem execDbgend_inv {s : State} (h : Inv s) : OutInv (execDbgend s) := State.runCommand_inv h fun k => by simp [h]

theorem execDebugSessionExpiry_inv {s : State} (h : Inv s) (tenant : Nat) : OutInv (execDebugSessionExpiry tenant s) := by
  unfold execDebugSessionExpiry
  dsimp only
  (repeat' split) <;> simp [h]

theorem execLifecycle_inv {s : State} (h : Inv s) : OutInv (execLifecycle s) := State.runCommand_inv h fun k => by simp [h]

theorem execConf_inv {s : State} (h : Inv s) : OutInv (execConf s) := by
  refine State.runCommand_inv h fun k => ?_
  (repeat' split) <;> simp [h]

theorem execPowerRemoved_inv {s : State} (h : Inv s) : OutInv (execPowerRemoved s) := by
  unfold execPowerRemoved
  (repeat' split) <;> simp [h]

theorem execPowerOn_inv {s : State} (h : Inv s) (images : Images) : OutInv (execPowerOn images s) := by
  unfold execPowerOn
  dsimp only
  (repeat' split) <;> simp [h]

theorem execPageWalk_inv {s : State} (h : Inv s) (agent asid va : Nat) : OutInv (execPageWalk agent asid va s) := by
  unfold execPageWalk
  dsimp only
  (repeat' split) <;> simp [h]

theorem execPrivateStateError_inv {s : State} (h : Inv s) (target : PrivateTarget) : OutInv (execPrivateStateError target s) := by
  unfold execPrivateStateError
  (repeat' split) <;> simp [h]

theorem execPatrolScrub_inv {s : State} (h :
    Inv s) (struct : BitVec 4) (pa : Nat) (check : Check) : OutInv (execPatrolScrub struct pa check s) := by
  unfold execPatrolScrub
  (repeat' split) <;> simp [h]

theorem execFlitReplay_inv {s : State} (h : Inv s) (n : Nat) : OutInv (execFlitReplay n s) := .next h

theorem execModuleRetrain_inv {s : State} (h : Inv s) (m : Nat) : OutInv (execModuleRetrain m s) := by
  unfold execModuleRetrain
  dsimp only
  (repeat' split) <;> simp [h]

theorem execUcieRetrainComplete_inv {s : State} (h : Inv s) (m : Nat) (good : Bool) : OutInv (execUcieRetrainComplete m good s) := by
  unfold execUcieRetrainComplete
  dsimp only
  (repeat' split) <;> simp [h]

theorem execDieStatusBeat_inv {s : State} (h : Inv s) (answered : List Nat) : OutInv (execDieStatusBeat answered s) := by
  unfold execDieStatusBeat
  refine .next (State.inv_foldl (fun s d hs => ?_) _ (by simp [h]))
  dsimp only
  (repeat' split) <;> simp [hs]

theorem execDispatcherUncorrectableError_inv {s : State} (h : Inv s) (die : Nat) : OutInv (execDispatcherUncorrectableError die s) := by
  unfold execDispatcherUncorrectableError
  simp [h]

theorem execTimeCompare_inv {s : State} (h : Inv s) (skews : List Int) : OutInv (execTimeCompare skews s) := by
  unfold execTimeCompare
  dsimp only
  (repeat' split) <;> simp [h]

theorem execCounterResynchronisation_inv {s : State} (h : Inv s) : OutInv (execCounterResynchronisation s) := by
  unfold execCounterResynchronisation
  simp [h]

theorem execWatchdogKick_inv {s : State} (h : Inv s) : OutInv (execWatchdogKick s) := by
  unfold execWatchdogKick
  (repeat' split) <;> simp [h]

theorem execWatchdogExpiry_inv {s : State} (h : Inv s) (images : Images) : OutInv (execWatchdogExpiry images s) := by
  unfold execWatchdogExpiry
  (repeat' split) <;> simp [h]

theorem execLoadPerformed_inv {s : State} (h : Inv s) (core id : Nat) (pieces : List Nat) (ext : List Byte) :
    OutInv (execLoadPerformed core id pieces ext s) := by
  unfold execLoadPerformed
  dsimp only
  (repeat' split) <;> simp [h]

theorem execStorePerformed_inv {s : State} (h : Inv s) (core id : Nat) (pieces : List Nat) : OutInv (execStorePerformed core id pieces s) := by
  unfold execStorePerformed
  dsimp only
  (repeat' split) <;> simp [h]

theorem execHeartbeatCrossing_inv {s : State} (h : Inv s) : OutInv (execHeartbeatCrossing s) := by
  unfold execHeartbeatCrossing
  dsimp only
  (repeat' split) <;> simp [h]

theorem execHeartbeatReceive_inv {s : State} (h : Inv s) (link : Nat) : OutInv (execHeartbeatReceive link s) := by
  unfold execHeartbeatReceive
  (repeat' split) <;> simp [h]

theorem execFenceArrival_inv {s : State} (h : Inv s) (device : Nat) : OutInv (execFenceArrival device s) := by
  unfold execFenceArrival
  simp [h]

theorem execFenceClear_inv {s : State} (h : Inv s) (device : Nat) : OutInv (execFenceClear device s) := by
  unfold execFenceClear
  (repeat' split) <;> simp [h]

theorem execPeerLinkLoss_inv {s : State} (h : Inv s) (link : Nat) : OutInv (execPeerLinkLoss link s) := by
  unfold execPeerLinkLoss
  (repeat' split) <;> simp [h]

theorem execPeerLinkTrained_inv {s : State} (h : Inv s) (link peer : Nat) : OutInv (execPeerLinkTrained link peer s) := by
  unfold execPeerLinkTrained
  (repeat' split) <;> simp [h]

theorem execPowerSample_inv {s : State} (h : Inv s) (watts : Nat) : OutInv (execPowerSample watts s) := by
  unfold execPowerSample
  dsimp only
  (repeat' split) <;> simp [h]

theorem execPowerTrip_inv {s : State} (h : Inv s) : OutInv (execPowerTrip s) := by
  unfold execPowerTrip
  simp [h]

theorem execPowerTripClear_inv {s : State} (h : Inv s) : OutInv (execPowerTripClear s) := by
  unfold execPowerTripClear
  dsimp only
  (repeat' split) <;> simp [h]

theorem execThermalThrottleTrip_inv {s : State} (h : Inv s) (die : Nat) : OutInv (execThermalThrottleTrip die s) := by
  unfold execThermalThrottleTrip
  (repeat' split) <;> simp [h]

theorem execThermalShutdown_inv {s : State} (h : Inv s) (die : Nat) : OutInv (execThermalShutdown die s) := by
  unfold execThermalShutdown
  (repeat' split) <;> simp [h]

theorem execThrottleLift_inv {s : State} (h : Inv s) (die : Nat) : OutInv (execThrottleLift die s) := by
  unfold execThrottleLift
  (repeat' split) <;> simp [h]

theorem execNop_inv {s : State} (h : Inv s) : OutInv (execNop s) := State.run_inv h fun _ _ => by simp [h]

theorem execMinTl4_inv {s : State} (h : Inv s) (a b : BitVec 4) (ty : BitVec 2) (i24 : BitVec 24) : OutInv (execMinTl4 a b ty i24 s) :=
  State.run_inv h fun _ _ => by simp [h]

theorem execMaxTl4_inv {s : State} (h : Inv s) (a b : BitVec 4) (ty : BitVec 2) (i24 : BitVec 24) : OutInv (execMaxTl4 a b ty i24 s) :=
  State.run_inv h fun _ _ => by simp [h]

theorem execAndnTl2_inv {s : State} (h : Inv s) (a b c : BitVec 4) : OutInv (execAndnTl2 a b c s) := State.run_inv h fun _ _ => by simp [h]

theorem execAndnTl4_inv {s : State} (h : Inv s) (a b : BitVec 4) (i24 : BitVec 24) : OutInv (execAndnTl4 a b i24 s) :=
  State.run_inv h fun _ _ => by simp [h]

theorem execMov_inv {s : State} (h : Inv s) (a b : BitVec 4) : OutInv (execMov a b s) := State.run_inv h fun _ _ => by simp [h]

theorem execLiTl2_inv {s : State} (h : Inv s) (a : BitVec 4) (k8 : BitVec 8) : OutInv (execLiTl2 a k8 s) :=
  State.run_inv h fun _ _ => by simp [h]

theorem execLiTl4_inv {s : State} (h : Inv s) (a : BitVec 4) (i24 : BitVec 24) : OutInv (execLiTl4 a i24 s) :=
  State.run_inv h fun _ _ => by simp [h]

theorem execLimm_inv {s : State} (h : Inv s) (a : BitVec 4) (lit : Word) : OutInv (execLimm a lit s) :=
  State.run_inv h fun _ _ => by simp [h]

theorem execAddaHeadOnly_inv {s : State} (h : Inv s) (a b : BitVec 4) : OutInv (execAddaHeadOnly a b s) :=
  State.run_inv h fun _ _ => by simp [h]

theorem execAddaTl2_inv {s : State} (h : Inv s) (o : TwoSrc2) : OutInv (execAddaTl2 o s) := State.run_inv h fun _ _ => by simp [h]

theorem execAddaTl4_inv {s : State} (h : Inv s) (o : TwoSrc4) : OutInv (execAddaTl4 o s) := State.run_inv h fun _ _ => by simp [h]

theorem execTagTl2_inv {s : State} (h : Inv s) (a b c : BitVec 4) : OutInv (execTagTl2 a b c s) := State.run_inv h fun _ _ => by simp [h]

theorem execTagTl4_inv {s : State} (h : Inv s) (a b : BitVec 4) (fmt : BitVec 6) (blog : BitVec 4) : OutInv (execTagTl4 a b fmt blog s) :=
  State.run_inv h fun _ _ => by simp [h]

theorem execUntag_inv {s : State} (h : Inv s) (a b : BitVec 4) : OutInv (execUntag a b s) := State.run_inv h fun _ _ => by simp [h]

theorem execTagof_inv {s : State} (h : Inv s) (a b : BitVec 4) : OutInv (execTagof a b s) := State.run_inv h fun _ _ => by simp [h]

theorem execEidxTl2_inv {s : State} (h : Inv s) (a b c : BitVec 4) : OutInv (execEidxTl2 a b c s) := State.run_inv h fun _ _ => by simp [h]

theorem execEidxTl4_inv {s : State} (h : Inv s) (a b : BitVec 4) (i24 : BitVec 24) : OutInv (execEidxTl4 a b i24 s) :=
  State.run_inv h fun _ _ => by simp [h]

theorem execCmp_inv {s : State} (h : Inv s) (p : BitVec 3) (b c t : BitVec 4) (cc : BitVec 3) : OutInv (execCmp p b c t cc s) :=
  State.run_inv h fun _ _ => by simp [h]

theorem execCmpiTl2_inv {s : State} (h : Inv s) (p : BitVec 3) (b t : BitVec 4) (cc : BitVec 3) (k8 : BitVec 8) :
    OutInv (execCmpiTl2 p b t cc k8 s) := State.run_inv h fun _ _ => by simp [h]

theorem execCmpiTl4_inv {s : State} (h : Inv s) (p : BitVec 3) (b t : BitVec 4) (cc : BitVec 3) (i24 : BitVec 24) :
    OutInv (execCmpiTl4 p b t cc i24 s) := State.run_inv h fun _ _ => by simp [h]

theorem execPlog_inv {s : State} (h : Inv s) (pd pa pb : BitVec 3) (lut : BitVec 4) : OutInv (execPlog pd pa pb lut s) :=
  State.run_inv h fun _ _ => by simp [h]

theorem execSel_inv {s : State} (h : Inv s) (a b c : BitVec 4) (p : BitVec 3) (neg : Bool) : OutInv (execSel a b c p neg s) :=
  State.run_inv h fun _ _ => by simp [h]

theorem execPmovToScalar_inv {s : State} (h : Inv s) (a : BitVec 4) : OutInv (execPmovToScalar a s) :=
  State.run_inv h fun _ _ => by simp [h]

theorem execPmovFromScalar_inv {s : State} (h : Inv s) (b : BitVec 4) : OutInv (execPmovFromScalar b s) :=
  State.run_inv h fun _ _ => by simp [h]

theorem execVcmp_inv {s : State} (h : Inv s) (o : VecOps) : OutInv (execVcmp o s) := State.runV_inv h fun _ _ => by simp [h]

theorem execVsel_inv {s : State} (h : Inv s) (o : VecOps) : OutInv (execVsel o s) := State.runV_inv h fun _ _ => by simp [h]

theorem execMlog_inv {s : State} (h : Inv s) (o : VecOps) : OutInv (execMlog o s) := State.runV_inv h fun _ _ => by simp [h]

theorem execVpopm_inv {s : State} (h : Inv s) (o : VecOps) : OutInv (execVpopm o s) := State.runV_inv h fun _ _ => by simp [h]

theorem execViota_inv {s : State} (h : Inv s) (o : VecOps) : OutInv (execViota o s) := State.runV_inv h fun _ _ => by simp [h]

theorem execVcvt_inv {s : State} (h : Inv s) (o : VecOps) : OutInv (execVcvt o s) := State.runV_inv h fun _ _ => by simp [h]

theorem execVdot4_inv {s : State} (h : Inv s) (o : VecOps) : OutInv (execVdot4 o s) := State.runV_inv h fun _ _ => by simp [h]

theorem execVredsum_inv {s : State} (h : Inv s) (o : VecOps) : OutInv (execVredsum o s) := by
  refine State.runV_inv h fun slot st => ?_
  (repeat' split) <;> simp [h]

theorem execVredmax_inv {s : State} (h : Inv s) (o : VecOps) : OutInv (execVredmax o s) := State.runV_inv h fun _ _ => by simp [h]

theorem execVredmin_inv {s : State} (h : Inv s) (o : VecOps) : OutInv (execVredmin o s) := State.runV_inv h fun _ _ => by simp [h]

theorem execVscan_inv {s : State} (h : Inv s) (o : VecOps) : OutInv (execVscan o s) := State.runV_inv h fun _ _ => by simp [h]

theorem execVperm_inv {s : State} (h : Inv s) (o : VecOps) : OutInv (execVperm o s) := State.runV_inv h fun _ _ => by simp [h]

theorem execVslide_inv {s : State} (h : Inv s) (o : VecOps) : OutInv (execVslide o s) := State.runV_inv h fun _ _ => by simp [h]

theorem execVcomp_inv {s : State} (h : Inv s) (o : VecOps) : OutInv (execVcomp o s) := State.runV_inv h fun _ _ => by simp [h]

theorem execVbcast_inv {s : State} (h : Inv s) (o : VecOps) : OutInv (execVbcast o s) := State.runV_inv h fun _ _ => by simp [h]

theorem execVmovs_inv {s : State} (h : Inv s) (o : VecOps) : OutInv (execVmovs o s) := by
  refine State.runV_inv h fun slot st => ?_
  dsimp only
  (repeat' split) <;> simp [h]

theorem execVsisx_inv {s : State} (h : Inv s) (o : VecOps) : OutInv (execVsisx o s) := State.runV_inv h fun _ _ => by simp [h]

theorem execVxsum_inv {s : State} (h : Inv s) (o : VecOps) : OutInv (execVxsum o s) := State.runV_inv h fun _ _ => by simp [h]

end Sys2Proof.Machine
end

section
/-! The step keeps the invariant. -/
namespace Sys2Proof.Machine

/-! ### The step -/

/-- Every row of the opcode table keeps the invariant. -/
theorem exec_inv {s : State} (h : Inv s) (i : Instr) : OutInv (exec i s) := by
  unfold exec
  split
  · exact execNop_inv h
  · exact headOnly_inv h ..
  · exact formTl2_inv h ..
  · exact formTl4_inv h ..
  · exact headOnly_inv h ..
  · exact formTl2_inv h ..
  · exact formTl4_inv h ..
  · exact headOnly_inv h ..
  · exact formTl2_inv h ..
  · exact formTl4_inv h ..
  · exact headOnly_inv h ..
  · exact formTl2_inv h ..
  · exact formTl4_inv h ..
  · exact headOnly_inv h ..
  · exact formTl2_inv h ..
  · exact formTl4_inv h ..
  · exact headOnly_inv h ..
  · exact formTl2_inv h ..
  · exact formTl4_inv h ..
  · exact headOnly_inv h ..
  · exact formTl2_inv h ..
  · exact formTl4_inv h ..
  · exact headOnly_inv h ..
  · exact formTl2_inv h ..
  · exact formTl4_inv h ..
  · exact formTl2_inv h ..
  · exact formTl4_inv h ..
  · exact execMov_inv h ..
  · exact headOnly_inv h ..
  · exact formTl2_inv h ..
  · exact formTl4_inv h ..
  · exact threeReg_inv h ..
  · exact threeReg_inv h ..
  · exact threeReg_inv h ..
  · exact threeReg_inv h ..
  · exact execMinTl4_inv h ..
  · exact threeReg_inv h ..
  · exact execMaxTl4_inv h ..
  · exact execAndnTl2_inv h ..
  · exact execAndnTl4_inv h ..
  · exact bitOp_inv h ..
  · exact bitOp_inv h ..
  · exact bitOp_inv h ..
  · exact bitOp_inv h ..
  · exact bitOp_inv h ..
  · exact extendOp_inv h ..
  · exact extendOp_inv h ..
  · exact execLiTl2_inv h ..
  · exact execLiTl4_inv h ..
  · exact execLimm_inv h ..
  · exact execAddaHeadOnly_inv h ..
  · exact execAddaTl2_inv h ..
  · exact execAddaTl4_inv h ..
  · exact execTagTl2_inv h ..
  · exact execTagTl4_inv h ..
  · exact execUntag_inv h ..
  · exact execTagof_inv h ..
  · exact execEidxTl2_inv h ..
  · exact execEidxTl4_inv h ..
  · exact execCmp_inv h ..
  · exact execCmpiTl2_inv h ..
  · exact execCmpiTl4_inv h ..
  · exact execPlog_inv h ..
  · exact execSel_inv h ..
  · exact execPmovToScalar_inv h ..
  · exact execPmovFromScalar_inv h ..
  · exact execBr_inv h ..
  · exact execBp_inv h ..
  · exact execBz_inv h ..
  · exact execBnz_inv h ..
  · exact execCall_inv h ..
  · exact execRet_inv h
  · exact execCallr_inv h ..
  · exact execJmpr_inv h ..
  · exact execLoop_inv h ..
  · exact execLoopi_inv h ..
  · exact execLbrk_inv h ..
  · exact execFlushw_inv h
  · exact execSetws_inv h ..
  · exact execSrd_inv h ..
  · exact execSwr_inv h ..
  · exact execYield_inv h ..
  · exact arith2_inv h ..
  · exact arith2_inv h ..
  · exact arith2_inv h ..
  · exact arith3_inv h ..
  · exact arith3_inv h ..
  · exact arith3_inv h ..
  · exact bitsRow_inv h ..
  · exact bitsRow_inv h ..
  · exact bitsRow_inv h ..
  · exact bitsRow_inv h ..
  · exact bitsRow_inv h ..
  · exact bitsRow_inv h ..
  · exact bitsRow_inv h ..
  · exact bitsRow_inv h ..
  · exact bitsRow_inv h ..
  · exact bitsRow_inv h ..
  · exact bitsRow_inv h ..
  · exact bitsRow_inv h ..
  · exact execVcmp_inv h ..
  · exact execVsel_inv h ..
  · exact execMlog_inv h ..
  · exact execVpopm_inv h ..
  · exact execViota_inv h ..
  · exact execVcvt_inv h ..
  · exact wideRow_inv h ..
  · exact wideRow_inv h ..
  · exact wideRow_inv h ..
  · exact execVdot4_inv h ..
  · exact floatRow_inv h ..
  · exact floatRow_inv h ..
  · exact arith2_inv h ..
  · exact arith2_inv h ..
  · exact floatRow_inv h ..
  · exact arith2_inv h ..
  · exact floatRow_inv h ..
  · exact floatRow_inv h ..
  · exact floatRow_inv h ..
  · exact execVredsum_inv h ..
  · exact execVredmax_inv h ..
  · exact execVredmin_inv h ..
  · exact execVscan_inv h ..
  · exact execVperm_inv h ..
  · exact execVslide_inv h ..
  · exact execVcomp_inv h ..
  · exact execVbcast_inv h ..
  · exact execVmovs_inv h ..
  · exact execVsisx_inv h ..
  · exact execVxsum_inv h ..
  · exact execLd_inv h ..
  · exact execSt_inv h ..
  · exact execLdl_inv h ..
  · exact execStl_inv h ..
  · exact execVld_inv h ..
  · exact execVst_inv h ..
  · exact execVlds_inv h ..
  · exact execVsts_inv h ..
  · exact execVldt_inv h ..
  · exact execVgath_inv h ..
  · exact execVscat_inv h ..
  · exact State.atomicAccess_inv h ..
  · exact State.atomicAccess_inv h ..
  · exact State.atomicAccess_inv h ..
  · exact State.atomicAccess_inv h ..
  · exact State.atomicAccess_inv h ..
  · exact State.atomicAccess_inv h ..
  · exact State.atomicAccess_inv h ..
  · exact State.atomicAccess_inv h ..
  · exact State.atomicAccess_inv h ..
  · exact execFence_inv h ..
  · exact execMwait_inv h ..
  · exact execPref_inv h ..
  · exact execCflush_inv h ..
  · exact execLzero_inv h ..
  · exact execBara_inv h ..
  · exact execBarw_inv h ..
  · exact execBar_inv h ..
  · exact execBarinit_inv h ..
  · exact execTdecl_inv h ..
  · exact execTfree_inv h ..
  · exact execTfwd_inv h ..
  · exact execMigr_inv h ..
  · exact execShape_inv h ..
  · exact execMzero_inv h ..
  · exact State.issueProduct_inv h ..
  · exact State.issueProduct_inv h ..
  · exact execMld_inv h ..
  · exact execMst_inv h ..
  · exact execTstb_inv h ..
  · exact execSload_inv h ..
  · exact execSsort_inv h ..
  · exact execSstore_inv h ..
  · exact execSstat_inv h ..
  · exact execHcopy_inv h ..
  · exact execHcopym_inv h ..
  · exact execHsend_inv h ..
  · exact execHgath_inv h ..
  · exact execBbinit_inv h ..
  · exact execBbwait_inv h ..
  · exact execBbtest_inv h ..
  · exact execLaunch_inv h ..
  · exact execTask_inv h ..
  · exact execFpdecl_inv h ..
  · exact execTrap_inv h ..
  · exact execEret_inv h ..
  · exact execExit_inv h ..
  · exact execPhintRegisters_inv h ..
  · exact execPhintRange_inv h ..
  · exact execTlbinv_inv h ..
  · exact execFack_inv h ..
  · exact execInstructionLineFetch_inv h ..
  · exact execBarrierWakeup_inv h ..
  · exact execMigrationPacketAccept_inv h ..
  · exact execJointStart_inv h ..
  · exact execFollowOnStart_inv h ..
  · exact execEngineCommandStart_inv h ..
  · exact execHodPieceLand_inv h ..
  · exact execBbwaitTimeout_inv h ..
  · exact execMonitorFire_inv h ..
  · exact execMwaitTimeout_inv h ..
  · exact execMwaitPoll_inv h ..
  · exact execHubRecordAccept_inv h ..
  · exact execPlaceLaunch_inv h ..
  · exact execGangReserve_inv h ..
  · exact execLaunchComplete_inv h ..
  · exact execQuadSave_inv h ..
  · exact execSaveLateComplete_inv h ..
  · exact execLintelRestore_inv h ..
  · exact execParkMessage_inv h ..
  · exact execMessageReoffer_inv h ..
  · exact execGets_inv h ..
  · exact execGetl_inv h ..
  · exact execGeto_inv h ..
  · exact execPuto_inv h ..
  · exact execPuts_inv h ..
  · exact execInvalidation_inv h ..
  · exact execRecall_inv h ..
  · exact execAnswer_inv h ..
  · exact execHorizonExpiry_inv h ..
  · exact execLeaseExpiry_inv h ..
  · exact execLoadPerformed_inv h ..
  · exact execStorePerformed_inv h ..
  · exact execEngineCommandCompletion_inv h ..
  · exact execYieldExpiry_inv h ..
  · exact execBreakpointMatch_inv h ..
  · exact execQuadWake_inv h ..
  · exact execWindowSpillFill_inv h ..
  · exact execPageWalk_inv h ..
  · exact execBayDonation_inv h ..
  · exact execDebugSessionExpiry_inv h ..
  · exact execBitoTimeout_inv h ..
  · exact execAgentUnresponsive_inv h ..
  · exact execCxlRetrainTimeout_inv h ..
  · exact execHeartbeatCrossing_inv h
  · exact execTimeCompare_inv h ..
  · exact execDieStatusBeat_inv h ..
  · exact execPowerSample_inv h ..
  · exact execThrottleLift_inv h ..
  · exact execGangTimerExpiry_inv h
  · exact execDrainLeadHold_inv h
  · exact execCourseEdge_inv h
  · exact execOverlimExpiry_inv h
  · exact execCourseBoundary_inv h
  · exact execPackageIdleEntry_inv h
  · exact execPackageIdleExit_inv h
  · exact execMailboxComplete_inv h
  · exact execPowerTripClear_inv h
  · exact execQtailWrite_inv h ..
  · exact execQtailAmo_inv h ..
  · exact execBudgetExhaustion_inv h ..
  · exact execCommit_inv h ..
  · exact execCttimeWrite_inv h ..
  · exact execTnsaveWrite_inv h ..
  · exact execHostRequest_inv h ..
  · exact execBirsp_inv h ..
  · exact execHostSnoop_inv h ..
  · exact execDpSnap_inv h ..
  · exact execDptEnable_inv h ..
  · exact execDptClear_inv h ..
  · exact execVlntenantWrite_inv h ..
  · exact execHeartbeatReceive_inv h ..
  · exact execFenceArrival_inv h ..
  · exact execFenceClear_inv h ..
  · exact execPowerOn_inv h ..
  · exact execSpdm_inv h
  · exact execDoeSpdmRequest_inv h ..
  · exact execKeygen_inv h
  · exact execKeyclr_inv h
  · exact execTkeyset_inv h
  · exact execDbgkey_inv h
  · exact execDbgnonce_inv h
  · exact execDbgauth_inv h
  · exact execDbgend_inv h
  · exact execLifecycle_inv h
  · exact execConf_inv h
  · exact execDebugHalt_inv h ..
  · exact execDebugStep_inv h ..
  · exact execContinueAt_inv h ..
  · exact execPowerTrip_inv h
  · exact execThermalThrottleTrip_inv h ..
  · exact execThermalShutdown_inv h ..
  · exact execLkctlGo_inv h ..
  · exact execEcclr_inv h ..
  · exact execStructCounterClear_inv h
  · exact execRegisterWrite_inv h ..
  · exact execPrivateStateError_inv h ..
  · exact execPatrolScrub_inv h ..
  · exact execFlitReplay_inv h ..
  · exact execModuleRetrain_inv h ..
  · exact execCxlLinkDown_inv h ..
  · exact execCxlLinkUp_inv h ..
  · exact execWatchdogKick_inv h
  · exact execWatchdogExpiry_inv h ..
  · exact execPowerRemoved_inv h
  · exact execPeerLinkLoss_inv h ..
  · exact execPeerLinkTrained_inv h ..
  · exact execUcieRetrainComplete_inv h ..
  · exact execDispatcherUncorrectableError_inv h ..
  · exact execCounterResynchronisation_inv h
  · exact execDebugPortRequest_inv h ..
  · exact execCxlCacheResponse_inv h ..

/-- What the step chooses to do starts from a state that meets the invariant. -/
inductive ChoiceInv : Choice → Prop
  | run (i : Instr) {s : State} (h : Inv s) : ChoiceInv (.run i s)
  | done {s : State} (h : Inv s) : ChoiceInv (.done s)
  | off : ChoiceInv .off

theorem State.chooseOff_inv {s : State} (h : Inv s) : ChoiceInv s.chooseOff := by
  unfold State.chooseOff
  split
  · exact .run _ h
  · exact .done h
  · exact .off

theorem State.issueLine_inv {s : State} (h : Inv s) (slot : Nat) (st : Strand) (l : Line) : ChoiceInv (s.issueLine slot st l) := by
  unfold State.issueLine
  split
  · exact .done (State.trap_inv h ..)
  · split
    · exact .run _ h
    · exact .done (State.trapHead_inv h ..)

theorem State.issue_inv {s : State} (h : Inv s) (slot : Nat) (st : Strand) : ChoiceInv (s.issue slot st) := by
  unfold State.issue
  split
  · exact State.issueLine_inv h ..
  · split
    · exact .done h
    next ht => exact State.issueLine_inv ((State.setStrand_inv ..).2 ((State.readLine_inv ht).2 h)) ..

theorem State.choose_inv {s : State} (h : Inv s) : ChoiceInv s.choose := by
  unfold State.choose
  extract_lets t
  have ht : Inv t := (State.fireReleases_inv ..).2 h
  clear_value t
  split
  · exact State.chooseOff_inv ht
  · split
    · exact .run _ ht
    · split
      · exact .run _ ht
      · split
        · exact State.issue_inv ((State.focus_inv ..).2 ht) ..
        · split
          · exact .run _ ht
          · exact .done ht

theorem tickOut_inv {o : Out} (h : OutInv o) : OutInv (tickOut o) := by
  cases h with
  | next h => exact .next ((State.pass_inv _).2 h)
  | fault f => exact .fault f
  | refused r => exact .refused r

theorem step_inv {s : State} (h : Inv s) : OutInv (step s) := by
  have chosen := State.choose_inv h
  unfold step
  generalize s.choose = c at chosen
  cases chosen with
  | run i h => exact tickOut_inv (exec_inv h i)
  | done h => exact .next ((State.pass_inv _).2 h)
  | off => exact .fault _

/-- Settles O57: whatever the step chooses, its row keeps the invariant, and passing time leaves memory alone. -/
theorem everyStepKeepsMemoryCanonical : Obligations.EveryStepKeepsMemoryCanonical := by
  unfold Obligations.EveryStepKeepsMemoryCanonical
  intro s t h hs
  exact (step_inv h).of_next hs

end Sys2Proof.Machine
end

section
/-! What the issue of an access to memory does (R240): it asks for the lines that its quad lacks, joins the queue of its core, and completes. -/
namespace Sys2Proof.Machine

/-! ### The parts of the state that an issue can change -/

theorem State.appendReq_eq (s : State) (line : Nat) (r : Request) : ∃ homes, s.appendReq line r = { s with homes := homes } := by
  unfold State.appendReq
  split
  · exact ⟨s.homes, rfl⟩
  · dsimp only
    split <;> exact ⟨_, rfl⟩

theorem State.evictCopy_eq (s : State) (a line : Nat) :
    ∃ copies homes, s.evictCopy a line = { s with copies := copies, homes := homes } := by
  unfold State.evictCopy
  split
  · exact ⟨_, s.homes, rfl⟩
  · dsimp only
    split
    · exact ⟨_, s.homes, rfl⟩
    all_goals
      obtain ⟨homes, h⟩ := State.appendReq_eq (s.dropCopy a line) line _
      exact ⟨_, homes, h⟩

theorem State.clearWay_eq (s : State) (a tenant key line : Nat) (kind : ReqKind) :
    ∃ copies homes, s.clearWay a tenant key line kind = { s with copies := copies, homes := homes } := by
  unfold State.clearWay
  split
  · split
    · exact s.evictCopy_eq a line
    · split
      · exact ⟨_, s.homes, rfl⟩
      · exact ⟨s.copies, s.homes, rfl⟩
  · exact ⟨s.copies, s.homes, rfl⟩

theorem State.requestLine_eq (s : State) (a core tenant key line : Nat) (kind : ReqKind) :
    ∃ copies homes, s.requestLine a core tenant key line kind = { s with copies := copies, homes := homes } := by
  unfold State.requestLine
  split
  · exact ⟨s.copies, s.homes, rfl⟩
  · obtain ⟨copies, homes, h⟩ := s.clearWay_eq a tenant key line kind
    obtain ⟨homes', h'⟩ := State.appendReq_eq (s.clearWay a tenant key line kind) line
      (newReq (s.clearWay a tenant key line kind) a core tenant key kind)
    exact ⟨copies, homes', by rw [h', h]⟩

theorem State.askLines_eq (s : State) (core : Nat) (a : Access) :
    ∃ copies homes, s.askLines core a = { s with copies := copies, homes := homes } := by
  have asked (ls : List Nat) (kind : Nat → ReqKind) (s : State) : ∃ copies homes,
      ls.foldl (fun s l => s.requestLine (agentOf core) core a.tenant a.key l (kind l)) s = { s with copies := copies, homes := homes } := by
    induction ls generalizing s with
    | nil => exact ⟨s.copies, s.homes, rfl⟩
    | cons l r ih =>
      obtain ⟨copies, homes, h⟩ := s.requestLine_eq (agentOf core) core a.tenant a.key l (kind l)
      obtain ⟨copies', homes', h'⟩ := ih (s.requestLine (agentOf core) core a.tenant a.key l (kind l))
      exact ⟨copies', homes', by rw [List.foldl_cons, h', h]⟩
  exact asked _ (fun l => a.request (a.whole (128 * l)) (128 * l)) s

theorem State.fillAll_eq (s : State) (core : Nat) (es : List TlbEntry) :
    ∃ utlb qtlb, s.fillAll core es = { s with utlb := utlb, qtlb := qtlb } := by
  unfold State.fillAll
  induction es generalizing s with
  | nil => exact ⟨s.utlb, s.qtlb, rfl⟩
  | cons e r ih =>
    obtain ⟨utlb, qtlb, h⟩ := ih (s.tlbFill core e)
    exact ⟨utlb, qtlb, by rw [List.foldl_cons, h]; rfl⟩

theorem State.launchAccess_eq (s : State) (slot : Nat) (a : Access) :
    ∃ cores copies homes, s.launchAccess slot a = { s with ids := s.ids + 1, cores := cores, copies := copies, homes := homes }
      ∧ ∀ c, SMap.get CoreState.reset cores c = if c = coreOf slot then
          { s.coreAt c with queue := (s.coreAt c).queue ++ if a.pieces = [] then [] else [a] } else s.coreAt c := by
  unfold State.launchAccess
  dsimp only
  by_cases he : a.pieces = []
  · refine ⟨s.cores, s.copies, s.homes, by simp [he], fun c => ?_⟩
    simp [he, State.coreAt]
  · obtain ⟨copies, homes, h⟩ := State.askLines_eq { s with ids := s.ids + 1 } (coreOf slot) a
    refine ⟨s.cores.set CoreState.reset (coreOf slot) { s.coreAt (coreOf slot) with queue := (s.coreAt (coreOf slot)).queue ++ [a] },
      copies, homes, ?_, fun c => ?_⟩
    · simp only [List.isEmpty_iff, he, if_false, h]
      rfl
    · rw [SMap.get_set]
      simp only [he, if_false]
      split
      · subst c
        rfl
      · rfl

/-- Filling the translation buffers and launching an access: the queue of the core takes it, where it has a piece. -/
theorem State.launch_fill_eq (s : State) (slot : Nat) (es : List TlbEntry) (st : Strand) (kind : AccessKind) (ty : Nat) (qs : List Piece)
    (dest : Dest) (o : MemOps) : ∃ utlb qtlb cores copies homes,
      (s.fillAll (coreOf slot) es).launchAccess slot (newAccess (s.fillAll (coreOf slot) es) slot st kind ty qs dest o)
        = { s with utlb := utlb, qtlb := qtlb, ids := s.ids + 1, cores := cores, copies := copies, homes := homes }
      ∧ ∀ c, SMap.get CoreState.reset cores c = if c = coreOf slot then
          { s.coreAt c with queue := (s.coreAt c).queue ++ if qs = [] then [] else [newAccess s slot st kind ty qs dest o] }
        else s.coreAt c := by
  obtain ⟨utlb, qtlb, hfill⟩ := s.fillAll_eq (coreOf slot) es
  rw [hfill]
  obtain ⟨cores, copies, homes, h, hcores⟩ := State.launchAccess_eq { s with utlb := utlb, qtlb := qtlb } slot
    (newAccess { s with utlb := utlb, qtlb := qtlb } slot st kind ty qs dest o)
  exact ⟨utlb, qtlb, cores, copies, homes, h, hcores⟩

end Sys2Proof.Machine

namespace Sys2Proof
open Machine

/-! ### The judgement of an access -/

/-- Each piece of an access that is placed translates, and lies at an address that it may reach. -/
theorem exists_of_placed {s : State} {c : Ctx} {r : Right} {ctl : Bool} {ps : List PrePiece} {qs : List Piece} (h : Placed s c r ctl ps qs)
    {p : PrePiece} (hp : p ∈ ps) : ∃ e pa, s.translate c p.va r = .ok e
      ∧ s.physical c (leafPa e.level e.entry.toNat p.va) (r == .write || r == .readWrite) = some pa
      ∧ (isControl pa = true → ctl = true ∧ (p.bytes = 4 ∨ p.bytes = 8)) := by
  induction h with
  | nil => cases hp
  | cons hq _ ih =>
    cases hp with
    | head =>
      obtain ⟨e, he, hpa, hc, -⟩ := hq
      exact ⟨e, _, he, hpa, hc⟩
    | tail _ hp => exact ih hp

/-- A register window admits an access of a register's size alone. -/
theorem control_admits {pa bytes : Nat} {ctl : Bool} (hc : isControl pa = true → ctl = true ∧ (bytes = 4 ∨ bytes = 8)) :
    (isControl pa && !(ctl && (bytes == 4 || bytes == 8))) = false := by
  cases hq : isControl pa
  · rfl
  · obtain ⟨rfl, rfl | rfl⟩ := hc hq <;> rfl

theorem judge_of_placed {s : State} {c : Ctx} {r : Right} {ctl : Bool} {ps : List PrePiece} {qs : List Piece}
    (h : Placed s c r ctl ps qs) : ∃ es, s.judge c r ctl ps = .ok { pieces := qs, entries := es } := by
  unfold State.judge
  extract_lets write tr ph
  rw [(List.filterMap_eq_nil_iff (l := tr)).2 ?translates, (List.filterMap_eq_nil_iff (l := ph)).2 ?passes]
  case translates =>
    intro x hx
    obtain ⟨p, hp, rfl⟩ := List.mem_map.1 hx
    obtain ⟨e, pa, he, -⟩ := exists_of_placed h hp
    simp only [he]
  case passes =>
    intro x hx
    obtain ⟨_, hy, rfl⟩ := List.mem_map.1 hx
    obtain ⟨p, hp, rfl⟩ := List.mem_map.1 hy
    obtain ⟨e, pa, he, hpa, hc⟩ := exists_of_placed h hp
    simp only [he, write, hpa, control_admits hc, Bool.false_eq_true, if_false]
  refine ⟨_, congrArg Except.ok (congrArg (Judged.mk · _) ?_)⟩
  simp only [ph, tr, List.map_map]
  rw [← List.forall₂_eq_eq_eq, List.forall₂_map_left_iff]
  refine h.imp fun p q hq => ?_
  obtain ⟨e, he, hpa, hc, h1, h2, h3, h4, h5, h6, h7⟩ := hq
  cases q
  simp only at h1 h2 h3 h4 h5 h6 h7
  simp only [Function.comp, he, write, hpa, control_admits hc, Bool.false_eq_true, if_false, Option.getD_some, h1, h2, h3, h4, h5, h6, h7]

/-- An access that stays does not move its strand. -/
theorem walkTarget_of_stays {s : State} {st : Strand} {qs : List Piece} (h : Stays s st qs) (kind : AccessKind) (es : List TlbEntry) :
    s.walkTarget s.cur st kind { pieces := qs, entries := es } = none := by
  rcases h with h | h
  · simp [State.walkTarget, h]
  · have none_walks : s.walkQuad s.cur { pieces := qs, entries := es } = none := by
      unfold State.walkQuad
      split
      · refine List.findSome?_eq_none_iff.2 fun q hq => ?_
        rcases h q hq with hs | hs
        · simp [hs]
        · rw [hs]
          simp
      · rfl
    simp [State.walkTarget, none_walks]

/-- What an access leaves of its strand: masks and the `PHINT` record may change, and nothing else before it completes. -/
structure MasksOnly (st v : Strand) : Prop where
  only : ∃ masks rrec, v = { st with masks := masks, rrec := rrec }

/-- The rule for the issue of an access (R240): its pieces placed, it joins the queue of its core, and its instruction completes. What more the
instruction writes is the pool of vector registers and the masks of its strand. -/
theorem issues_of {i : Instr} {s : State} {st v : Strand} {gs vs} {o : MemOps} {kind : AccessKind} {r : Right} {ctl : Bool}
    {ps : List PrePiece} {dest : Dest} {more : State → Strand → State × Strand} {pool : SMap VReg} {P : State → Strand → Prop}
    (hF : Focus s st gs vs) (h : exec i s = s.issueAccess s.cur st o kind r ctl ps dest more)
    (hm : ∀ t : State, t.pool = s.pool → more t st = ({ t with pool := pool }, v)) (hv : MasksOnly st v)
    (hP : ∀ t u, t.cur = s.cur → t.pool = pool → u.masks = v.masks → u.rrec = v.rrec → Kept st u → P t u) :
    Issues i s st o kind r ctl ps id dest P := by
  intro qs hq hs hr
  obtain ⟨es, hj⟩ := judge_of_placed hq
  obtain ⟨utlb, qtlb, cores, copies, homes, hlaunch, hcores⟩ := s.launch_fill_eq s.cur es st kind o.tn qs dest o
  obtain ⟨masks, rrec, rfl⟩ := hv.only
  set v : Strand := { st with masks := masks, rrec := rrec }
  set T : State := { s with utlb := utlb, qtlb := qtlb, ids := s.ids + 1, cores := cores, copies := copies, homes := homes, pool := pool }
  have issued : exec i s = .next ((T.setStrand T.cur v.advance).issued T.cur) := by
    rw [h, State.issueAccess, hj]
    simp only [walkTarget_of_stays hs, State.issueJudged]
    rw [if_neg (by simpa using hr), hlaunch, hm { s with utlb := utlb, qtlb := qtlb, ids := s.ids + 1, cores := cores, copies := copies, homes := homes } rfl]
    rfl
  obtain ⟨kept, flow⟩ := Strand.advance_kept (st := st) (v := v) ⟨rfl, ⟨rfl, rfl⟩, ⟨rfl, rfl⟩, ⟨rfl, rfl⟩, ⟨rfl, rfl⟩, rfl, rfl,
    ⟨rfl, rfl, rfl, rfl⟩, ⟨rfl, rfl⟩, ⟨rfl, rfl, rfl, rfl⟩, rfl, rfl⟩ hF.ready rfl rfl rfl rfl rfl T.cur
  obtain ⟨g, fflags, pw, hmasks, gen, hrrec⟩ := Strand.afterAdvance_same (v := v) hF.ready T.cur
  have outside := State.issued_outside T v.advance
  have cores_after (c : Nat) : ((T.setStrand T.cur v.advance).issued T.cur).coreAt c = if c = coreOf s.cur then
      { s.coreAt c with
        queue := (s.coreAt c).queue ++ if qs = [] then [] else [newAccess s s.cur st kind o.tn qs dest o], last := s.cur % 16 }
      else s.coreAt c := by
    rw [outside.cores c, show T.coreAt c = _ from hcores c]
    split <;> rfl
  have core := cores_after (coreOf s.cur)
  rw [if_pos rfl] at core
  refine ⟨_, _, issued, State.issued_here T _, by rw [core]; rfl, by rw [core], outside.icache, g, pw, fflags, gen, kept, flow, ?_,
    hP _ _ rfl rfl hmasks hrrec kept⟩
  exact
    { memory := outside.memory, sameMemory := outside.sameMemory, others := outside.others
      cores := fun c hc => by rw [cores_after, if_neg hc]
      core := ⟨_, _, List.Sublist.refl _, core⟩
      units := ⟨outside.quads, outside.localMem, outside.acc, outside.sett, outside.barriers⟩
      others' := ⟨outside.hub, outside.pod, outside.keystone, outside.power, outside.model.2.1⟩ }

/-! ### The operands of an access -/

theorem signedOf_toNat {w : Nat} (x : BitVec w) (hw : 0 < w) : signedOf w x.toNat = x.toInt := by
  have h2 : 2 ^ w = 2 * 2 ^ (w - 1) := by rw [← pow_succ', Nat.sub_add_cancel hw]
  rw [signedOf, Nat.mod_eq_of_lt x.isLt, BitVec.toInt]
  split <;> split
  · rfl
  · omega
  · omega
  · push_cast
    rfl

theorem extractLsb'_toNat_low (x : Word) : (x.extractLsb' 0 52).toNat = x.toNat % 2 ^ 52 := by
  simp [BitVec.extractLsb'_toNat]

theorem eaOf_eq_effective (st : Strand) (o : MemOps) (wide : Bool) : eaOf st o wide = effective (st.getG o.a) (o.offset wide) := by
  unfold eaOf effective MemOps.offset
  rw [extractLsb'_toNat_low]
  cases wide with
  | false => rw [signedOf_toNat _ (by norm_num)]
  | true =>
    cases o.hi with
    | none => simp only [signedOf_toNat o.off (by norm_num)]
    | some i => simp only [signedOf_toNat i (by norm_num)]

theorem MemOps.ofNat_hiBits (o : MemOps) (lo w : Nat) :
    BitVec.ofNat w (o.hiBits lo w) = match o.hi with | none => 0 | some i => i.extractLsb' lo w := by
  unfold MemOps.hiBits
  cases o.hi with
  | none => rfl
  | some i =>
    apply BitVec.eq_of_toNat_eq
    simp [fieldN, BitVec.extractLsb'_toNat, Nat.shiftRight_eq_div_pow]

theorem laneMask_eq (o : MemOps) (st : Strand) : laneMask o st = (accessMask o st).getLsbD :=
  congrArg (fun m => (st.getM m).getLsbD) (MemOps.ofNat_hiBits o 0 3).symm

theorem strideG_eq (o : MemOps) : strideG o = strideReg o := (MemOps.ofNat_hiBits o 4 4).symm
theorem indexV_eq (o : MemOps) : indexV o = indexReg o := (MemOps.ofNat_hiBits o 6 5).symm
theorem boundG_eq (o : MemOps) : boundG o = boundReg o := (MemOps.ofNat_hiBits o 11 4).symm
theorem maskR_eq (o : MemOps) : maskR o = resultMask o := (MemOps.ofNat_hiBits o 3 3).symm

theorem velem_eq (s : State) (st : Strand) (r w k : Nat) : velem s st r w k = elemOf (s.getV s.cur st r).toNat w k := by
  simp [velem, elemOf, BitVec.extractLsb'_toNat, Nat.shiftRight_eq_div_pow]

/-- Operands that lie in an instruction's entry pass its check. -/
theorem memCheck_ok {o : MemOps} {types ords : List Nat} {lease : Bool} (h : MemLegal o types ords lease) {c : MemCheck}
    (ht : c.types o.tn = true) (hords : c.ords = ords) (hlease : c.lease = lease) : c.ok o = true := by
  obtain ⟨-, hord, hl, ⟨hscope, hplain⟩, hhalf⟩ := h
  have half : (typeBits o.tn == 4 && o.off.toNat % 2 == 1) = false := by
    by_cases h4 : typeBits o.tn = 4
    · simp [hhalf h4]
    · simp [h4]
  have plain : (c.anyScope || o.ord != 0 || o.scope == 0) = true := by
    by_cases h0 : o.ord = 0
    · rw [hplain h0, beq_self_eq_true, Bool.or_true]
    · rw [bne_iff_ne.2 h0, Bool.or_true, Bool.true_or]
  have leased : (o.lease == 0 || (c.lease && o.ord == 0)) = true := by
    rcases hl with h0 | ⟨hl, h0⟩
    · rw [h0, beq_self_eq_true, Bool.true_or]
    · rw [hlease, hl, h0, beq_self_eq_true, Bool.and_true, Bool.or_true]
  rw [MemCheck.ok, ht, hords, List.contains_iff_mem.2 hord, leased, plain, half, decide_eq_true hscope]
  rfl

theorem State.runMem_free {s : State} {st : Strand} {o : MemOps} {c : MemCheck} {gs : List (BitVec 4)} {vs : List (BitVec 5)}
    {other : Strand → Bool} (f : Nat → Strand → Out) (hF : Focus s st (o.a :: gs) vs) (hc : c.ok o = true) (ho : other st = true) :
    s.runMem o c gs vs other f = f s.cur st := by
  rw [State.runMem, s.run_free _ hF.here hF.scalars hF.vectors, hc, ho]
  rfl

/-! ### The pieces of an access -/

/-- An access whose instruction writes nothing more. -/
theorem issues_asIs {i : Instr} {s : State} {st : Strand} {gs vs} {o : MemOps} {kind : AccessKind} {r : Right} {ctl : Bool}
    {ps : List PrePiece} {dest : Dest} (hF : Focus s st gs vs) (h : exec i s = s.issueAccess s.cur st o kind r ctl ps dest asIs) :
    Issues i s st o kind r ctl ps id dest (Still s st) :=
  issues_of (pool := s.pool) (v := st) hF h (fun t ht => by rw [← ht]; rfl) ⟨st.masks, st.rrec, rfl⟩
    fun _ _ _ hpool hmasks hrrec _ => ⟨hpool, hmasks, hrrec⟩

theorem firstUnaligned_eq_none {must : Bool} {l : List (Nat × Nat × Nat × Nat)}
    (h : must = false ∨ ∀ x ∈ l, x.2.1 % x.2.2.1 = 0) : firstUnaligned must l = none := by
  unfold firstUnaligned
  split
  next hm =>
    rcases h with h | h
    · simp [h] at hm
    · rw [List.find?_eq_none.2 (by simpa using h)]
      rfl
  next => rfl

theorem listPieces_strideElems (o : MemOps) (base : Nat) (stride : Int) (live : Nat → Bool) (v : Nat → Nat) :
    listPieces (strideElems base stride o.tn live v) = lanePieces o base stride live v :=
  List.flatMap_map ..

theorem firstUnaligned_strideElems {o : MemOps} {base : Nat} {stride : Int} {live : Nat → Bool} {v : Nat → Nat}
    (h : LanesAligned o live fun i => (((base : Nat) + i * stride : Int) % 2 ^ 52).toNat) :
    firstUnaligned (o.ord != 0) (strideElems base stride o.tn live v) = none := by
  refine firstUnaligned_eq_none (h.imp (by simp +contextual) fun aligned x hx => ?_)
  obtain ⟨i, hi, rfl⟩ := List.mem_map.1 hx
  obtain ⟨hi, hlive⟩ := List.mem_filter.1 hi
  exact aligned i (List.mem_range.1 hi) hlive

/-- What a vector access issues, of elements of whole bytes and of 4-bit elements. -/
theorem vectorAccess_issues {i : Instr} {s : State} {st : Strand} {gs vs} {o : MemOps} {kind : AccessKind} {r : Right}
    {stride : Option Int} {v : Nat → Nat} {dest : Dest} (hF : Focus s st gs vs)
    (h : exec i s = s.vectorAccess s.cur st o kind r stride v dest) :
    (typeBits o.tn ≠ 4 →
      LanesAligned o (laneMask o st) (fun i => (((eaOf st o false : Nat) + i * stride.getD (typeBits o.tn / 8) : Int) % 2 ^ 52).toNat) →
      Issues i s st o kind r false (lanePieces o (eaOf st o false) (stride.getD (typeBits o.tn / 8)) (laneMask o st) v) id dest (Still s st))
    ∧ (typeBits o.tn = 4 → Issues i s st o kind r false (nibblePieces (eaOf st o false) (laneMask o st) v) id dest (Still s st)) := by
  rw [State.vectorAccess, ← eaOf_eq_effective, ← laneMask_eq] at h
  refine ⟨fun hw aligned => issues_asIs hF ?_, fun hw => issues_asIs hF ?_⟩
  · rw [h, if_neg hw]
    dsimp only
    rw [firstUnaligned_strideElems aligned, listPieces_strideElems]
  · rw [h, if_pos hw]

theorem dstElems_eq (s : State) (st : Strand) (o : MemOps) : dstElems s s.cur st o = velem s st o.dst.toNat (typeBits o.tn) :=
  funext fun _ => (velem_eq ..).symm

/-- The alignment of elements that lie one after the other, in the terms of a stride of their size. -/
theorem lanesAligned_unit {o : MemOps} {live : Nat → Bool} {base : Nat}
    (h : LanesAligned o live fun i => (base + i * (typeBits o.tn / 8)) % 2 ^ 52) :
    LanesAligned o live fun i => (((base : Nat) + i * (none : Option Int).getD (typeBits o.tn / 8) : Int) % 2 ^ 52).toNat := by
  refine h.imp id fun aligned i hi hlive => ?_
  rw [← aligned i hi hlive]
  congr 1

/-- What one of the two forms of a vector access issues, where its elements are of whole bytes and where they are of 4 bits. -/
theorem unitAccess_issues {i : Instr} {s : State} {st : Strand} {gs vs} {o : MemOps} {kind : AccessKind} {r : Right}
    {v : Nat → Nat} {dest : Dest} (hF : Focus s st gs vs) (h : exec i s = s.vectorAccess s.cur st o kind r none v dest) :
    (typeBits o.tn ≠ 4 → LanesAligned o (laneMask o st) (fun i => (eaOf st o false + i * (typeBits o.tn / 8)) % 2 ^ 52) →
      Issues i s st o kind r false (lanePieces o (eaOf st o false) (typeBits o.tn / 8 : Nat) (laneMask o st) v) id dest (Still s st))
    ∧ (typeBits o.tn = 4 → Issues i s st o kind r false (nibblePieces (eaOf st o false) (laneMask o st) v) id dest (Still s st)) :=
  ⟨fun hw aligned => (vectorAccess_issues hF h).1 hw (lanesAligned_unit aligned), (vectorAccess_issues hF h).2⟩

theorem typeBits_ne_four {t : Nat} (h : t < 13) : typeBits t ≠ 4 := by
  interval_cases t <;> decide

theorem vectorAccessesIssue : Parts.VectorAccessesIssue := by
  refine ⟨fun s st o hF hl hd => ?_, fun s st o hF hl hd => ?_, fun s st o hF ht hl hd aligned => ?_, fun s st o hF ht hl hd aligned => ?_⟩
  · have runs : execVld o s = _ := State.runMem_free _ hF (memCheck_ok hl rfl rfl rfl) (decide_eq_true hd)
    exact unitAccess_issues hF runs
  · have runs : execVst o s = _ := State.runMem_free _ hF (memCheck_ok hl rfl rfl rfl) (decide_eq_true hd)
    have issues := unitAccess_issues (i := .vst o) hF runs
    rw [dstElems_eq] at issues
    exact ⟨issues.1, fun hw => by simpa only [hw] using issues.2 hw⟩
  · rw [strideG_eq] at hF aligned ⊢
    have runs : execVlds o s = _ := State.runMem_free _ hF (memCheck_ok hl (decide_eq_true ht) rfl rfl) (decide_eq_true hd)
    exact (vectorAccess_issues (i := .vlds o) hF runs).1 (typeBits_ne_four ht) aligned
  · rw [strideG_eq] at hF aligned ⊢
    have runs : execVsts o s = _ := State.runMem_free _ hF (memCheck_ok hl (decide_eq_true ht) rfl rfl) (decide_eq_true hd)
    rw [← dstElems_eq]
    exact (vectorAccess_issues (i := .vsts o) hF runs).1 (typeBits_ne_four ht) aligned

/-! ### Masks -/

theorem testBit_packElems_one (l : List Nat) {i : Nat} (hi : i < l.length) : (packElems 1 l).testBit i = decide (l[i] % 2 = 1) := by
  rw [Nat.testBit_eq_decide_div_mod_eq]
  have h := elemOf_packElems 1 l i hi
  rw [elemOf, Nat.one_mul, pow_one] at h
  rw [h]

theorem getLsbD_setMaskLow (st : Strand) (m q : BitVec 3) (n x : Nat) {i : Nat} (hi : i < 1024) :
    ((st.setMaskLow m n x).getM q).getLsbD i = if q = m ∧ m ≠ 0 ∧ i < n then x.testBit i else (st.getM q).getLsbD i := by
  rw [Strand.setMaskLow, Strand.getM_setM]
  by_cases hq : q = m ∧ m ≠ 0
  · obtain ⟨rfl, hm⟩ := hq
    have low : x % 2 ^ n < 2 ^ n := Nat.mod_lt _ (by positivity)
    rw [if_pos ⟨rfl, hm⟩, BitVec.getLsbD_ofNat, decide_eq_true hi, Bool.true_and, Nat.add_comm, Nat.mul_comm,
      Nat.testBit_two_pow_mul_add _ low]
    by_cases hn : i < n
    · rw [if_pos hn, if_pos ⟨rfl, hm, hn⟩, Nat.testBit_mod_two_pow, decide_eq_true hn, Bool.true_and]
    · rw [if_neg hn, if_neg fun h => hn h.2.2, Nat.testBit_div_two_pow, Nat.sub_add_cancel (Nat.le_of_not_lt hn)]
      rfl
  · rw [if_neg hq, if_neg fun h => hq ⟨h.1, h.2.1⟩]

theorem Strand.getM_congr {u v : Strand} (h : u.masks = v.masks) (q : BitVec 3) : u.getM q = v.getM q := by
  simp only [Strand.getM, h]

theorem masksOnly_setMaskLow (st : Strand) (m : BitVec 3) (n x : Nat) : MasksOnly st (st.setMaskLow m n x) := by
  unfold Strand.setMaskLow Strand.setM
  dsimp only
  split
  · exact ⟨st.masks, st.rrec, rfl⟩
  · exact ⟨_, st.rrec, rfl⟩

theorem MasksOnly.touchV {st v : Strand} (h : MasksOnly st v) (r : Nat) : MasksOnly st (v.touchV r) := by
  obtain ⟨masks, rrec, rfl⟩ := h.only
  exact ⟨masks, _, rfl⟩

/-! ### Gathers and scatters -/

theorem gatherLive_eq (s : State) (st : Strand) (o : MemOps) : gatherLive s s.cur st o = inBound s st o := by
  funext i
  rw [gatherLive, inBound, laneMask_eq, indexV_eq, boundG_eq, velem_eq]
  rfl

theorem listPieces_gatherElems (s : State) (st : Strand) (o : MemOps) (v : Nat → Nat) :
    listPieces (gatherElems s s.cur st o v) = gatherPieces s st o v := by
  simp only [listPieces, gatherElems, gatherPieces, lanes, List.flatMap_map, gatherLive_eq, gatherIndex, ← eaOf_eq_effective, indexV_eq,
    velem_eq]

theorem firstUnaligned_gatherElems {s : State} {st : Strand} {o : MemOps} {v : Nat → Nat}
    (h : LanesAligned o (inBound s st o) fun i =>
      (eaOf st o false + velem s st (indexV o).toNat (typeBits o.tn) i * (typeBits o.tn / 8)) % 2 ^ 52) :
    firstUnaligned (o.ord != 0) (gatherElems s s.cur st o v) = none := by
  refine firstUnaligned_eq_none (h.imp (by simp +contextual) fun aligned x hx => ?_)
  obtain ⟨i, hi, rfl⟩ := List.mem_map.1 hx
  rw [gatherLive_eq] at hi
  obtain ⟨hi, hlive⟩ := List.mem_filter.1 hi
  have := aligned i (List.mem_range.1 hi) hlive
  simpa only [gatherIndex, ← eaOf_eq_effective, indexV_eq, velem_eq] using this

/-- A gather or scatter says in its result mask which lanes made an access (R245). -/
theorem maskAfter_gatherMask {s : State} {st u : Strand} {o : MemOps}
    (h : u.masks = (st.setMaskLow (resultMask o) (elemCount o.tn) (gatherMask s s.cur st o)).masks) :
    MaskAfter st u (maskR o) (elemCount o.tn) (fun _ => true) (inBound s st o) := by
  intro q i hi
  rw [Strand.getM_congr h, getLsbD_setMaskLow st _ q _ _ hi, maskR_eq]
  by_cases hc : q = resultMask o ∧ resultMask o ≠ 0 ∧ i < elemCount o.tn
  · rw [if_pos hc, if_pos ⟨hc.1, hc.2.1, hc.2.2, rfl⟩, gatherMask, gatherLive_eq, testBit_packElems_one _ (by simpa using hc.2.2)]
    simp only [List.getElem_map, List.getElem_range]
    cases inBound s st o i <;> rfl
  · rw [if_neg hc, if_neg fun h => hc ⟨h.1, h.2.1, h.2.2.1⟩]

/-- The types and registers that a gather or scatter takes. -/
theorem gather_takes {st : Strand} {o : MemOps} {ords : List Nat} {lease : Bool} (hl : MemLegal o [4, 5, 6, 7, 8] ords lease)
    (hd : o.dst.toNat < st.vcount) (hi : (indexV o).toNat < st.vcount) :
    ({ types := gatherType, ords := ords, lease := lease } : MemCheck).ok o = true ∧ gatherRegs o st = true := by
  constructor
  · refine memCheck_ok hl ?_ rfl rfl
    have := hl.type
    simp only [List.mem_cons, List.not_mem_nil, or_false] at this
    simp only [gatherType, Bool.and_eq_true, decide_eq_true_eq]
    omega
  · rw [gatherRegs, dstInRange, ← indexV_eq, decide_eq_true hd, decide_eq_true hi]
    rfl

theorem gatherIssues {s : State} {st : Strand} {o : MemOps} (hF : Focus s st [o.a, boundG o] [o.dst, indexV o])
    (hl : MemLegal o [4, 5, 6, 7, 8] [0, 1] true) (hd : o.dst.toNat < st.vcount) (hi : (indexV o).toNat < st.vcount)
    (aligned : LanesAligned o (inBound s st o) fun i =>
      (eaOf st o false + velem s st (indexV o).toNat (typeBits o.tn) i * (typeBits o.tn / 8)) % 2 ^ 52) :
    Issues (.vgath o) s st o .load .read false (gatherPieces s st o fun _ => 0) id (.vector o.dst o.tn) fun t u =>
      MaskAfter st u (maskR o) (elemCount o.tn) (fun _ => true) (inBound s st o)
        ∧ (∀ i, i < elemCount o.tn → velem t u o.dst.toNat (typeBits o.tn) i =
          if laneMask o st i && !inBound s st o i then 0 else velem s st o.dst.toNat (typeBits o.tn) i)
        ∧ (∀ j, j ≠ 64 * coreOf s.cur + st.vbase + o.dst.toNat → SMap.get 0 t.pool j = SMap.get 0 s.pool j) := by
  obtain ⟨legal, inRange⟩ := gather_takes hl hd hi
  have hF' := hF
  rw [boundG_eq, indexV_eq] at hF'
  have runs : execVgath o s = _ := State.runMem_free _ hF' legal inRange
  dsimp only at runs
  rw [firstUnaligned_gatherElems aligned, listPieces_gatherElems] at runs
  refine issues_of (i := .vgath o) hF runs (fun t ht => by rw [State.setV, ht]) ((masksOnly_setMaskLow ..).touchV _) ?_
  intro t u hcur hpool hmasks _ kept
  refine ⟨maskAfter_gatherMask hmasks, fun k hk => ?_, fun j hj => by rw [hpool, SMap.get_set_other _ _ _ hj]⟩
  rw [velem_eq, State.getV, hcur, kept.vectors.1, hpool, SMap.get_set_same,
    elemOf_packV _ _ (by simp [typeBits_mul_count]) k (by simpa using hk)]
  simp only [List.getElem_map, List.getElem_range, gatherLive_eq, ← laneMask_eq, dstElems_eq]
  split
  · exact Nat.zero_mod _
  · exact Nat.mod_eq_of_lt (by rw [velem_eq]; exact elemOf_lt ..)

theorem scatterIssues {s : State} {st : Strand} {o : MemOps} (hF : Focus s st [o.a, boundG o] [o.dst, indexV o])
    (hl : MemLegal o [4, 5, 6, 7, 8] [0, 2] false) (hd : o.dst.toNat < st.vcount) (hi : (indexV o).toNat < st.vcount)
    (aligned : LanesAligned o (inBound s st o) fun i =>
      (eaOf st o false + velem s st (indexV o).toNat (typeBits o.tn) i * (typeBits o.tn / 8)) % 2 ^ 52) :
    Issues (.vscat o) s st o .store .write false (gatherPieces s st o (velem s st o.dst.toNat (typeBits o.tn))) id .none fun t u =>
      MaskAfter st u (maskR o) (elemCount o.tn) (fun _ => true) (inBound s st o) ∧ t.pool = s.pool ∧ u.rrec = st.rrec := by
  obtain ⟨legal, inRange⟩ := gather_takes hl hd hi
  have hF' := hF
  rw [boundG_eq, indexV_eq] at hF'
  have runs : execVscat o s = _ := State.runMem_free _ hF' legal inRange
  dsimp only at runs
  rw [firstUnaligned_gatherElems aligned, listPieces_gatherElems, dstElems_eq] at runs
  refine issues_of (i := .vscat o) (pool := s.pool) hF runs (fun t ht => by rw [← ht]) (masksOnly_setMaskLow ..) ?_
  intro t u _ hpool hmasks hrrec _
  refine ⟨maskAfter_gatherMask hmasks, hpool, hrrec.trans ?_⟩
  unfold Strand.setMaskLow Strand.setM
  dsimp only
  split <;> rfl

/-! ### Tagged accesses -/

theorem fmtOfPtr_eq (p : Word) : fmtOfPtr p = ptrFmt p := by
  simp [fmtOfPtr, ptrFmt, BitVec.extractLsb'_toNat, Nat.shiftRight_eq_div_pow]
  omega

theorem blogOfPtr_eq (p : Word) : blogOfPtr p = ptrBlog p := by
  simp [blogOfPtr, ptrBlog, BitVec.extractLsb'_toNat, Nat.shiftRight_eq_div_pow]

theorem vaOfPtr_eq (p : Word) : vaOfPtr p = ptrVa p := extractLsb'_toNat_low p

theorem formatFault_iff (p : Word) : formatFault p = true ↔ BadTag p := by
  have reserved : p.toNat / 2 ^ 52 % 4 ≠ 0 ↔ p.extractLsb' 52 2 ≠ 0#2 := by
    rw [Ne, Ne, ← BitVec.toNat_inj]
    simp [BitVec.extractLsb'_toNat, Nat.shiftRight_eq_div_pow]
  rw [BadTag, ← reserved, fmtOfPtr_eq, blogOfPtr_eq, vaOfPtr_eq]
  have small : ptrFmt p < 64 := by
    unfold ptrFmt
    omega
  simp only [formatFault, isGroupFmt, Bool.or_eq_true, Bool.and_eq_true, Bool.not_eq_true', Bool.or_eq_false_iff, Bool.and_eq_false_iff,
    decide_eq_false_iff_not, decide_eq_true_eq, bne_iff_ne]
  omega

theorem firstUnaligned_tagged {o : MemOps} {live : Nat → Bool} {p : Word} {e : Int}
    (h : o.ord = 0 ∨ ∀ i ∈ lanes o live, ∀ x ∈ taggedElems p e i, x.2.1 % x.2.2.1 = 0) :
    firstUnaligned (o.ord != 0) ((lanes o live).flatMap (taggedElems p e)) = none := by
  refine firstUnaligned_eq_none (h.imp (by simp +contextual) fun aligned x hx => ?_)
  obtain ⟨i, hi, hx⟩ := List.mem_flatMap.1 hx
  exact aligned i hi x hx

theorem vldt_runs {s : State} {st : Strand} {o : MemOps} (hF : Focus s st [o.a] [o.dst]) (hl : MemLegal o FLT [0, 1] true)
    (hd : o.dst.toNat < st.vcount)
    (aligned : o.ord = 0 ∨ ptrFmt (st.getG o.a) = 0 ∨
      ∀ i ∈ lanes o (laneMask o st), ∀ x ∈ taggedElems (st.getG o.a) o.off.toInt i, x.2.1 % x.2.2.1 = 0) :
    exec (.vldt o) s =
      if formatFault (st.getG o.a) || ptrFmt (st.getG o.a) == 0 then .next (s.trap s.cur st (trapOf causeFormat 0 (st.getG o.a).toNat))
      else s.issueAccess s.cur st o .load .read false
        (listPieces ((lanes o (laneMask o st)).flatMap (taggedElems (st.getG o.a) o.off.toInt)))
        (.tagged o.dst o.tn (ptrFmt (st.getG o.a)) (ptrBlog (st.getG o.a)) o.off.toInt) asIs := by
  have types : isFlt o.tn = true := by
    have := hl.type
    simp only [FLT, List.mem_cons, List.not_mem_nil, or_false] at this
    unfold isFlt
    rcases this with h | h | h <;> rw [h] <;> rfl
  have runs : execVldt o s = _ := State.runMem_free _ hF (memCheck_ok hl types rfl rfl) (decide_eq_true hd)
  dsimp only at runs
  rw [← laneMask_eq, signedOf_toNat _ (by norm_num), ← lanes] at runs
  have unaligned : (if ptrFmt (st.getG o.a) != 0 && (decide (ptrFmt (st.getG o.a) ≤ 16) || isGroupFmt (ptrFmt (st.getG o.a))) then
      firstUnaligned (o.ord != 0) ((lanes o (laneMask o st)).flatMap (taggedElems (st.getG o.a) o.off.toInt)) else none) = none := by
    rcases aligned with h | h | h
    · rw [firstUnaligned_tagged (.inl h), ite_self]
    · simp [h]
    · rw [firstUnaligned_tagged (.inr h), ite_self]
  rw [unaligned] at runs
  exact runs

theorem taggedIssues {s : State} {st : Strand} {o : MemOps} (hF : Focus s st [o.a] [o.dst]) (hl : MemLegal o FLT [0, 1] true)
    (hd : o.dst.toNat < st.vcount) (hbad : ¬BadTag (st.getG o.a)) (hfmt : fmtOfPtr (st.getG o.a) ≠ 0)
    (aligned : o.ord = 0 ∨ ∀ i ∈ lanes o (laneMask o st), ∀ x ∈ taggedElems (st.getG o.a) o.off.toInt i, x.2.1 % x.2.2.1 = 0) :
    Issues (.vldt o) s st o .load .read false
      ((lanes o (laneMask o st)).flatMap fun i => (taggedElems (st.getG o.a) o.off.toInt i).flatMap fun x =>
        elemPieces x.1 x.2.1 x.2.2.1 x.2.2.2) id
      (.tagged o.dst o.tn (fmtOfPtr (st.getG o.a)) (blogOfPtr (st.getG o.a)) o.off.toInt) (Still s st) := by
  have runs := vldt_runs hF hl hd (aligned.imp id .inr)
  rw [fmtOfPtr_eq] at hfmt
  rw [← formatFault_iff, Bool.not_eq_true] at hbad
  rw [hbad, beq_false_of_ne hfmt, Bool.false_or, if_neg Bool.false_ne_true, listPieces, List.flatMap_assoc] at runs
  rw [fmtOfPtr_eq, blogOfPtr_eq]
  exact issues_asIs hF runs

theorem taggedFaults {s : State} {st : Strand} {o : MemOps} (hF : Focus s st [o.a] [o.dst]) (hl : MemLegal o FLT [0, 1] true)
    (hd : o.dst.toNat < st.vcount) (hbad : BadTag (st.getG o.a) ∨ fmtOfPtr (st.getG o.a) = 0) (hn : NotFatal st)
    (aligned : o.ord = 0 ∨ fmtOfPtr (st.getG o.a) = 0 ∨
      ∀ i ∈ lanes o (laneMask o st), ∀ x ∈ taggedElems (st.getG o.a) o.off.toInt i, x.2.1 % x.2.2.1 = 0) :
    TakesTrap (.vldt o) s st 9 (st.getG o.a) := by
  rw [fmtOfPtr_eq] at hbad aligned
  rw [← formatFault_iff] at hbad
  have runs := vldt_runs hF hl hd aligned
  rw [if_pos (by simpa using hbad)] at runs
  have code : (trapOf causeFormat 0 (st.getG o.a).toNat).code ≠ heldWalk := by
    show causeFormat ≠ heldWalk
    decide
  have traps := takesTrap_of hF hn code rfl runs
  have tval : (trapOf causeFormat 0 (st.getG o.a).toNat).tval = (st.getG o.a).toNat := rfl
  have cause : (trapOf causeFormat 0 (st.getG o.a).toNat).cause = 9 := by
    show BitVec.ofNat 64 (causeFormat % 256 + 0 % 4 * 256 + false.toNat * 1024 + false.toNat * 2048) = 9
    decide
  rw [tval, cause, BitVec.ofNat_toNat, BitVec.setWidth_eq] at traps
  exact traps

theorem indexedAndTaggedAccessesIssue : Parts.IndexedAndTaggedAccessesIssue :=
  ⟨fun _ _ _ hF hl hd hi aligned => gatherIssues hF hl hd hi aligned, fun _ _ _ hF hl hd hi aligned => scatterIssues hF hl hd hi aligned,
    fun _ _ _ hF hl hd => ⟨taggedIssues hF hl hd, taggedFaults hF hl hd⟩⟩

/-- Settles O22: each access issues the pieces of its active elements, and a bad tag is the format fault. -/
theorem vectorAndIndexedAccessesIssue : Obligations.VectorAndIndexedAccessesIssue :=
  ⟨vectorAccessesIssue, indexedAndTaggedAccessesIssue⟩

end Sys2Proof
end

section
/-! Scratchpads and byte barriers as the engines read and write them (R264, R265): what a read of whole pieces gives, and what a write leaves. -/
namespace Sys2Proof.Machine

/-! ### Ranges of memory -/

theorem two_pow_eight_mul_succ (n : Nat) : 2 ^ (8 * (n + 1)) = 256 * 2 ^ (8 * n) := by
  rw [Nat.mul_succ, Nat.add_comm, pow_add]
  norm_num

theorem Memory.read_writeLe_inside (m : Memory) (a n v i : Nat) (h : i < n) :
    (m.writeLe a n v).read (a + i) = BitVec.ofNat 8 (v / 2 ^ (8 * i)) := by
  induction n generalizing m a v i with
  | zero => omega
  | succ n ih =>
    rw [Memory.writeLe]
    cases i with
    | zero =>
      rw [Memory.read_writeLe_outside _ _ _ _ _ (by omega), Nat.add_zero, Memory.read_write_same]
      simp
    | succ i =>
      rw [show a + (i + 1) = a + 1 + i by omega, ih _ _ _ _ (by omega), Nat.div_div_eq_div_mul,
        ← two_pow_eight_mul_succ]

theorem Memory.readLe_congr {m k : Memory} {a b n : Nat} (h : ∀ i, i < n → m.read (a + i) = k.read (b + i)) : m.readLe a n = k.readLe b n := by
  induction n generalizing a b with
  | zero => rfl
  | succ n ih =>
    have tail : m.readLe (a + 1) n = k.readLe (b + 1) n := ih fun i hi => by
      rw [Nat.add_assoc, Nat.add_assoc, Nat.add_comm 1 i]
      exact h (i + 1) (by omega)
    rw [Memory.readLe, Memory.readLe, show m.read a = k.read b from h 0 (by omega), tail]

theorem Memory.readLe_writeLe_outside (m : Memory) {a n v b k : Nat} (h : b + k ≤ a ∨ a + n ≤ b) :
    (m.writeLe a n v).readLe b k = m.readLe b k :=
  Memory.readLe_congr fun i hi => Memory.read_writeLe_outside _ _ _ _ _ (by omega)

theorem Memory.readLe_lt (m : Memory) (a n : Nat) : m.readLe a n < 2 ^ (8 * n) := by
  induction n generalizing a with
  | zero => simp [Memory.readLe]
  | succ n ih =>
    have h := ih (a + 1)
    have hb := (m.read a).isLt
    rw [Memory.readLe, two_pow_eight_mul_succ]
    omega

/-- A part of what is written reads as its bits of the number. -/
theorem Memory.readLe_writeLe_part (m : Memory) (a n v k l : Nat) (h : k + l ≤ n) :
    (m.writeLe a n v).readLe (a + k) l = v / 2 ^ (8 * k) % 2 ^ (8 * l) := by
  have whole : (m.writeLe a n v).readLe (a + k) l = (m.writeLe (a + k) l (v / 2 ^ (8 * k))).readLe (a + k) l := by
    refine Memory.readLe_congr fun i hi => ?_
    rw [Memory.read_writeLe_inside _ _ _ _ _ hi, Nat.add_assoc, Memory.read_writeLe_inside _ _ _ _ _ (by omega), Nat.div_div_eq_div_mul,
      ← pow_add, Nat.mul_add]
  rw [whole, Memory.readLe_writeLe, show (256 : Nat) = 2 ^ 8 from rfl, ← pow_mul]

theorem Memory.writeLe_mod (m : Memory) (a n v : Nat) : m.writeLe a n (v % 2 ^ (8 * n)) = m.writeLe a n v := by
  induction n generalizing m a v with
  | zero => rfl
  | succ n ih =>
    have low : BitVec.ofNat 8 (v % 2 ^ (8 * (n + 1))) = BitVec.ofNat 8 v := by
      apply BitVec.eq_of_toNat_eq
      simp only [BitVec.toNat_ofNat]
      exact Nat.mod_mod_of_dvd _ (pow_dvd_pow 2 (by omega))
    have high : v % 2 ^ (8 * (n + 1)) / 256 = v / 256 % 2 ^ (8 * n) := by
      rw [two_pow_eight_mul_succ, Nat.mod_mul_right_div_self]
    rw [Memory.writeLe, Memory.writeLe, low, high, ih]

theorem Memory.writeLe_add (m : Memory) (a n k v : Nat) :
    m.writeLe a (n + k) v = (m.writeLe a n v).writeLe (a + n) k (v / 2 ^ (8 * n)) := by
  induction n generalizing m a v with
  | zero => simp [Memory.writeLe]
  | succ n ih =>
    rw [show n + 1 + k = n + k + 1 by omega, Memory.writeLe, Memory.writeLe, ih, Nat.div_div_eq_div_mul,
      ← two_pow_eight_mul_succ, show a + 1 + n = a + (n + 1) by omega]

/-! ### Addresses of a scratchpad -/

/-- An address of the scratchpad window. -/
structure InScratch (pa : Nat) : Prop where
  window : pa / 2 ^ 48 = 8

theorem inScratch_spAddr {a off : Nat} (ha : a < 192) (ho : off < 2 ^ 24) : InScratch (spAddr a off) := ⟨by unfold spAddr; omega⟩

namespace InScratch
variable {pa : Nat} (h : InScratch pa)
include h

theorem scratch : isScratch pa = true := by rw [isScratch, Machine.window, h.window]; rfl
theorem device : isDevice pa = false := by rw [isDevice, Machine.window, h.window]; rfl
theorem peer : isPeer pa = false := by rw [isPeer, Machine.window, h.window]; rfl
theorem home (s : State) : s.homeLost pa = false := by simp [State.homeLost, h.device]

end InScratch

/-! ### Reads -/

theorem State.readByte_scratch {s : State} {pa : Nat} (h : InScratch pa) (hl : s.isLost pa = false) (key : Nat) :
    s.readByte pa key = (s.mem.read pa, false) := by
  simp [State.readByte, h.device, h.scratch, hl]

theorem State.readPa_scratch {s : State} {pa n : Nat} (h : ∀ i, i < n → InScratch (pa + i)) (hl : ∀ i, i < n → s.isLost (pa + i) = false)
    (key : Nat) : s.readPa pa key n = (s.mem.readLe pa n, false) := by
  induction n generalizing pa with
  | zero => rfl
  | succ n ih =>
    have first : s.readByte pa key = (s.mem.read pa, false) := State.readByte_scratch (h 0 (by omega)) (hl 0 (by omega)) key
    rw [State.readPa, first, ih, Memory.readLe]
    · rfl
    · intro i hi
      rw [show pa + 1 + i = pa + (i + 1) by omega]
      exact h _ (by omega)
    · intro i hi
      rw [show pa + 1 + i = pa + (i + 1) by omega]
      exact hl _ (by omega)

/-- No byte of n from an offset of a quad's scratchpad is lost. -/
structure PadWhole (s : State) (a off n : Nat) : Prop where
  quad : a < 192
  inside : off + n ≤ 2 ^ 22
  kept : ∀ i, i < n → s.isLost (spAddr a (off + i)) = false

theorem spAddr_add (a off i : Nat) : spAddr a off + i = spAddr a (off + i) := Nat.add_assoc ..

theorem State.spRead_whole {s : State} {a off n : Nat} (h : PadWhole s a off n) : s.spRead a off n = (s.mem.readLe (spAddr a off) n, false) := by
  refine State.readPa_scratch (fun i hi => ?_) (fun i hi => ?_) 0
  · have := h.inside
    rw [spAddr_add]
    exact inScratch_spAddr h.quad (by omega)
  · rw [spAddr_add]
    exact h.kept i hi

/-! ### Writes -/

/-- The state after writes to scratchpads: memory as given, and the `PHINT` records of quads may end. -/
structure PadStep (s t : State) (m : Memory) : Prop where
  only : ∃ quads, t = { s with quads := quads, mem := m }
  quads : ∀ b, ∃ phint, t.quadAt b = { s.quadAt b with phint := phint }

namespace PadStep
variable {s t : State} {m : Memory}

theorem refl (s : State) : PadStep s s s.mem := ⟨⟨s.quads, rfl⟩, fun b => ⟨(s.quadAt b).phint, rfl⟩⟩

theorem trans {u : State} {m' : Memory} (h : PadStep s t m) (h' : PadStep t u m') : PadStep s u m' := by
  obtain ⟨q, rfl⟩ := h.only
  obtain ⟨q', rfl⟩ := h'.only
  refine ⟨⟨q', rfl⟩, fun b => ?_⟩
  obtain ⟨p, hp⟩ := h.quads b
  obtain ⟨p', hp'⟩ := h'.quads b
  exact ⟨p', by rw [hp', hp]⟩

variable (h : PadStep s t m)
include h

theorem mem : t.mem = m := by
  obtain ⟨q, rfl⟩ := h.only
  rfl

theorem isLost (pa : Nat) : t.isLost pa = s.isLost pa := by
  obtain ⟨q, rfl⟩ := h.only
  rfl

theorem whole {a off n : Nat} (hw : PadWhole s a off n) : PadWhole t a off n :=
  ⟨hw.quad, hw.inside, fun i hi => by rw [h.isLost, hw.kept i hi]⟩

theorem acc : t.acc = s.acc := by
  obtain ⟨q, rfl⟩ := h.only
  rfl

theorem sett : t.sett = s.sett := by
  obtain ⟨q, rfl⟩ := h.only
  rfl

theorem cmds (b : Nat) : (t.quadAt b).cmds = (s.quadAt b).cmds := by
  obtain ⟨p, hp⟩ := h.quads b
  rw [hp]

theorem bankFlags (b : Nat) : (t.quadAt b).bankFlags = (s.quadAt b).bankFlags := by
  obtain ⟨p, hp⟩ := h.quads b
  rw [hp]

theorem settState (b : Nat) : (t.quadAt b).sett = (s.quadAt b).sett := by
  obtain ⟨p, hp⟩ := h.quads b
  rw [hp]

end PadStep

theorem State.phintWrite_step (s : State) (a off n : Nat) : PadStep s (s.phintWrite a off n) s.mem := by
  unfold State.phintWrite
  dsimp only
  split
  · exact PadStep.refl s
  · split
    · exact PadStep.refl s
    · refine ⟨⟨_, rfl⟩, fun b => ?_⟩
      rw [State.quadAt_setQuad]
      split
      · next hb => exact ⟨[], by rw [hb]⟩
      · exact ⟨_, rfl⟩

theorem PadStep.setMem {s t : State} {m : Memory} (h : PadStep s t m) (k : Memory) : PadStep s { t with mem := k } k := by
  obtain ⟨q, rfl⟩ := h.only
  exact ⟨⟨q, rfl⟩, h.quads⟩

/-- A store to a scratchpad where nothing is lost. -/
theorem State.storePa_scratch {s : State} {pa : Nat} (h : InScratch pa) (hl : s.isLost pa = false) (tenant key n v : Nat) (whole : Bool) :
    (s.storePa tenant key pa n v whole).2 = false ∧ PadStep s (s.storePa tenant key pa n v whole).1 (s.mem.writeLe pa n v) := by
  have step := s.phintWrite_step (pa / 2 ^ 24 % 256) (pa % 2 ^ 24) n
  have lost := step.isLost pa
  rw [hl] at lost
  unfold State.storePa
  simp only [h.scratch, if_true, h.home, h.device, h.peer, lost, Bool.false_and, Bool.false_eq_true, if_false]
  rw [step.mem]
  exact ⟨trivial, step.setMem _⟩

theorem State.spWrite_whole {s : State} {a off n : Nat} (h : PadWhole s a off n) (hn : 0 < n) (tenant v : Nat) :
    (s.spWrite tenant a off n v).2 = false ∧ PadStep s (s.spWrite tenant a off n v).1 (s.mem.writeLe (spAddr a off) n v) := by
  have := h.inside
  exact State.storePa_scratch (inScratch_spAddr h.quad (by omega)) (h.kept 0 hn) ..

theorem PadWhole.drop {s : State} {a off n k : Nat} (h : PadWhole s a off n) (hk : k ≤ n) : PadWhole s a (off + k) (n - k) := by
  have := h.inside
  exact ⟨h.quad, by omega, fun i hi => by rw [Nat.add_assoc]; exact h.kept _ (by omega)⟩

/-- A landing in pieces writes its bytes as one write does. -/
theorem State.spLand_whole {s : State} {a off n : Nat} (h : PadWhole s a off n) (tenant k v : Nat) (hk : n ≠ 0 → n + off % 128 ≤ 128 * k) :
    (s.spLand tenant a k off n v).2 = false ∧ PadStep s (s.spLand tenant a k off n v).1 (s.mem.writeLe (spAddr a off) n v) := by
  induction k generalizing s off n v with
  | zero =>
    have none : n = 0 := by
      by_contra hn
      have := hk hn
      omega
    subst none
    exact ⟨rfl, PadStep.refl s⟩
  | succ k ih =>
    rw [State.spLand]
    dsimp only
    split
    · next hn =>
      subst hn
      exact ⟨rfl, PadStep.refl s⟩
    · next hn =>
      set len := min n (128 - off % 128)
      have hlen : len ≤ n ∧ len ≤ 128 - off % 128 ∧ (len = n ∨ len = 128 - off % 128) := by omega
      clear_value len
      have room := hk hn
      have := h.inside
      have here : InScratch (spAddr a off) := inScratch_spAddr h.quad (by omega)
      have lost : s.isLost (spAddr a off) = false := h.kept 0 (by omega)
      obtain ⟨kept, step⟩ := State.storePa_scratch here lost tenant 0 len (v % 2 ^ (8 * len)) (len == 128)
      obtain ⟨kept', step'⟩ := ih (step.whole (h.drop hlen.1)) (v / 2 ^ (8 * len)) fun _ => by omega
      refine ⟨by rw [kept, kept']; rfl, ?_⟩
      have whole := step.trans step'
      rwa [step.mem, Memory.writeLe_mod, ← spAddr_add, ← Memory.writeLe_add, Nat.add_sub_cancel' hlen.1] at whole

end Sys2Proof.Machine
end

section
/-! What the commands of Ashlar leave when they finish (R272 to R274): the accumulators, the bank flags, and the unit without the command. -/
namespace Sys2Proof.Machine

/-! ### Values written one after the other -/

/-- A list of values written into a map, in order. -/
def SMap.setAll {α β : Type} [DecidableEq α] (d : α) (key : β → Nat) (val : β → α) (l : List β) (m : SMap α) : SMap α :=
  l.foldl (fun m x => m.set d (key x) (val x)) m

section
variable {α β : Type} [DecidableEq α] {d : α} {key : β → Nat} {val : β → α} {l : List β} {m : SMap α} {k : Nat}

theorem SMap.get_setAll_other (h : ∀ x ∈ l, key x ≠ k) : SMap.get d (SMap.setAll d key val l m) k = SMap.get d m k := by
  unfold SMap.setAll
  induction l generalizing m with
  | nil => rfl
  | cons x l ih =>
    rw [List.foldl_cons, ih fun y hy => h y (List.mem_cons_of_mem _ hy), SMap.get_set_other _ _ _ (h x (List.mem_cons_self ..)).symm]

/-- A key reads as the values written there, which agree. -/
theorem SMap.get_setAll_mem {v : α} (hk : ∃ x ∈ l, key x = k) (h : ∀ y ∈ l, key y = k → val y = v) :
    SMap.get d (SMap.setAll d key val l m) k = v := by
  induction l generalizing m with
  | nil =>
    obtain ⟨x, hx, -⟩ := hk
    cases hx
  | cons y l ih =>
    show SMap.get d (SMap.setAll d key val l (m.set d (key y) (val y))) k = v
    by_cases hl : ∃ z ∈ l, key z = k
    · exact ih hl fun z hz => h z (List.mem_cons_of_mem _ hz)
    · have hy : key y = k := by
        obtain ⟨x, hx, hxk⟩ := hk
        rcases List.mem_cons.1 hx with rfl | hx
        · exact hxk
        · exact absurd ⟨x, hx, hxk⟩ hl
      rw [SMap.get_setAll_other fun z hz hz' => hl ⟨z, hz, hz'⟩, hy, SMap.get_set_same, h y (List.mem_cons_self ..) hy]

end

/-- Flags gathered over a list. -/
theorem getLsbD_foldl_or {w : Nat} {β : Type} (f : BitVec w) (g : β → BitVec w) (l : List β) (k : Nat) :
    (l.foldl (fun f x => f ||| g x) f).getLsbD k = true ↔ f.getLsbD k = true ∨ ∃ x ∈ l, (g x).getLsbD k = true := by
  induction l generalizing f with
  | nil => simp
  | cons x l ih =>
    rw [List.foldl_cons, ih, BitVec.getLsbD_or, Bool.or_eq_true, or_assoc, List.exists_mem_cons_iff]

/-! ### The unit without the command -/

theorem State.bbLandOf_none {s : State} {a n : Nat} {c : Cmd} {f : TileFlags} {x y : Bool} (h : c.bb = none) : s.bbLandOf a c n f x y = s := by
  unfold State.bbLandOf
  split
  · rw [h]
    rfl
  · rfl

theorem State.quadAt_dropCmd (s : State) (a seq b : Nat) : (s.dropCmd a seq).quadAt b =
    if b = a then { s.quadAt a with cmds := (s.quadAt a).cmds.filter fun c => c.seq != seq } else s.quadAt b :=
  State.quadAt_setQuad ..

theorem State.bankFlags_dropCmd (s : State) (a seq b : Nat) : ((s.dropCmd a seq).quadAt b).bankFlags = (s.quadAt b).bankFlags := by
  rw [State.quadAt_dropCmd]
  split
  · next h => rw [h]
  · rfl

theorem State.sett_dropCmd (s : State) (a seq b : Nat) : ((s.dropCmd a seq).quadAt b).sett = (s.quadAt b).sett := by
  rw [State.quadAt_dropCmd]
  split
  · next h => rw [h]
  · rfl

/-! ### Banks -/

theorem MatOp.bank_lt (m : MatOp) : m.bank < 4 := Nat.mod_lt _ (by norm_num)

theorem MatOp.mem_cells {m : MatOp} {x : Nat × Nat} : x ∈ m.cells ↔ x.1 < m.em ∧ x.2 < m.en := by
  obtain ⟨i, j⟩ := x
  simp [MatOp.cells]

theorem accKey_inj {a b k l r p c q : Nat} (hk : k < 4) (hl : l < 4) (hr : r < 128) (hp : p < 128) (hc : c < 128) (hq : q < 128) :
    accKey a k r c = accKey b l p q ↔ a = b ∧ k = l ∧ r = p ∧ c = q := by
  unfold accKey
  omega

/-- The key of an element of the placed region. -/
def MatOp.cellKey (m : MatOp) (a : Nat) (x : Nat × Nat) : Nat := accKey a m.bank (m.row0 + x.1) (m.col0 + x.2)

/-- The accumulators with the placed region written. -/
def accPlaced (acc : SMap (BitVec 32)) (a : Nat) (m : MatOp) (v : Nat × Nat → Nat) : SMap (BitVec 32) :=
  SMap.setAll 0 (m.cellKey a) (fun x => BitVec.ofNat 32 (v x)) m.cells acc

def State.withAcc (s : State) (acc : SMap (BitVec 32)) : State := { s with acc := acc }

/-- A pass over the placed region that writes each element and gathers flags. -/
theorem foldl_cells {s : State} {a : Nat} {m : MatOp} {v : Nat × Nat → Nat} {g : Nat × Nat → TileFlags}
    {step : State × TileFlags → Nat × Nat → State × TileFlags}
    (h : ∀ acc f x, x ∈ m.cells → step (s.withAcc acc, f) x
      = (s.withAcc (acc.set 0 (m.cellKey a x) (BitVec.ofNat 32 (v x))), f ||| g x)) (f : TileFlags) :
    m.cells.foldl step (s, f) = (s.withAcc (accPlaced s.acc a m v), m.cells.foldl (fun f x => f ||| g x) f) := by
  have part (l : List (Nat × Nat)) (hl : ∀ x ∈ l, x ∈ m.cells) (acc : SMap (BitVec 32)) (f : TileFlags) :
      l.foldl step (s.withAcc acc, f)
        = (s.withAcc (SMap.setAll 0 (m.cellKey a) (fun x => BitVec.ofNat 32 (v x)) l acc), l.foldl (fun f x => f ||| g x) f) := by
    induction l generalizing acc f with
    | nil => rfl
    | cons x l ih =>
      rw [List.foldl_cons, h acc f x (hl x (List.mem_cons_self ..)), ih fun y hy => hl y (List.mem_cons_of_mem _ hy)]
      rfl
  exact part m.cells (fun _ hx => hx) s.acc f

end Sys2Proof.Machine

namespace Sys2Proof
open Machine

theorem placedRegion_of {s t : State} {a : Nat} {m : MatOp} (hin : InBank m) {v : Nat × Nat → Nat} (h : t.acc = accPlaced s.acc a m v) :
    PlacedRegion s t a m fun i j => v (i, j) := by
  obtain ⟨hrow, hcol⟩ := hin
  have bank := m.bank_lt
  refine ⟨fun i j hi hj => ?_, fun b k r c hk hr hc hout => ?_⟩
  · rw [bankElem, h]
    refine SMap.get_setAll_mem ⟨(i, j), MatOp.mem_cells.2 ⟨hi, hj⟩, rfl⟩ fun x hx hkey => ?_
    obtain ⟨hx1, hx2⟩ := MatOp.mem_cells.1 hx
    obtain ⟨-, -, h1, h2⟩ := (accKey_inj bank bank (by omega) (by omega) (by omega) (by omega)).1 hkey
    rw [show x = (i, j) from Prod.ext (by omega) (by omega)]
  · rw [bankElem, bankElem, h]
    refine SMap.get_setAll_other fun x hx hkey => hout ?_
    obtain ⟨hx1, hx2⟩ := MatOp.mem_cells.1 hx
    obtain ⟨rfl, rfl, rfl, rfl⟩ := (accKey_inj bank hk (by omega) hr (by omega) hc).1 hkey
    exact ⟨rfl, rfl, by omega, by omega, by omega, by omega⟩

/-- A running command that finishes. -/
theorem exec_completion_of_runs {s : State} {a : Nat} {c : Cmd} (h : Runs s a c) (hop : c.op ≠ .marker) :
    exec (.engineCommandCompletion a c.seq) s = .next (s.finishCmd a c) := by
  show execEngineCommandCompletion a c.seq s = _
  unfold execEngineCommandCompletion
  dsimp only
  rw [h.found]
  have marker : (c.op == CmdOp.marker) = false := beq_eq_false_iff_ne.2 hop
  simp only [marker, h.running.1, QuadState.runsOn, h.phase, beq_self_eq_true, bne_iff_ne.2 h.running.2, Bool.false_eq_true,
    if_false, Bool.and_self, if_true]

theorem left_dropCmd {s t : State} {a : Nat} {c : Cmd} (h : (t.quadAt a).cmds = (s.quadAt a).cmds) : Left s (t.dropCmd a c.seq) a c := by
  rw [Left, State.quadAt_dropCmd, if_pos rfl, h]

theorem bankFlag_dropCmd (s : State) (a seq b : Nat) (m : MatOp) (k : Nat) : bankFlag (s.dropCmd a seq) b m k = bankFlag s b m k := by
  rw [bankFlag, State.bankFlags_dropCmd]
  rfl

theorem bankFlag_setBankFlags (s : State) (a : Nat) (m : MatOp) (f : TileFlags) (k : Nat) :
    bankFlag (s.setBankFlags a m.bank f) a m k = f.getLsbD k := by
  have hb := m.bank_lt
  have hm : m.bank % 4 = m.bank := Nat.mod_eq_of_lt hb
  rw [bankFlag, State.setBankFlags, State.quadAt_setQuad, if_pos rfl]
  simp [hm, hb]

theorem bankFlag_raiseBank (s : State) (a : Nat) (m : MatOp) (f : TileFlags) (k : Nat) :
    bankFlag (s.raiseBank a m.bank f) a m k = (bankFlag s a m k || f.getLsbD k) := by
  have hb := m.bank_lt
  have hm : m.bank % 4 = m.bank := Nat.mod_eq_of_lt hb
  rw [bankFlag, State.raiseBank, State.quadAt_setQuad, if_pos rfl, bankFlag]
  simp [hm, hb]

theorem State.cmds_setBankFlags (s : State) (a bank : Nat) (f : TileFlags) (b : Nat) :
    ((s.setBankFlags a bank f).quadAt b).cmds = (s.quadAt b).cmds := by
  rw [State.setBankFlags, State.quadAt_setQuad]
  split
  · next h => rw [h]
  · rfl

theorem State.cmds_raiseBank (s : State) (a bank : Nat) (f : TileFlags) (b : Nat) :
    ((s.raiseBank a bank f).quadAt b).cmds = (s.quadAt b).cmds := by
  rw [State.raiseBank, State.quadAt_setQuad]
  split
  · next h => rw [h]
  · rfl

end Sys2Proof
end

section
/-! `MZERO`, `MLD` and `MMA` as they finish (R263, R270, R272, R274), and the joint product (R273). -/
namespace Sys2Proof
open Machine

theorem fieldN_extract (x : Word) (lo : Nat) (w : Nat) : fieldN x.toNat lo w = (x.extractLsb' lo w).toNat := by
  rw [fieldN, BitVec.extractLsb'_toNat, Nat.shiftRight_eq_div_pow]

theorem State.countLost_zero (s : State) (tenant : Nat) : s.countLost tenant 0 = s := by
  unfold State.countLost
  simp

/-! ### The state that the commands share -/

/-- A command of Ashlar without a barrier has finished from a state in which its engine has written the placed region and the flags of its
bank. -/
structure Wrote (s u : State) (a : Nat) (m : MatOp) (v : Nat → Nat → Nat) (flag : Nat → Prop) : Prop where
  acc : u.acc = accPlaced s.acc a m fun x => v x.1 x.2
  flags : ∀ k, k < 7 → (bankFlag u a m k = true ↔ flag k)
  cmds : ∀ b, (u.quadAt b).cmds = (s.quadAt b).cmds
  mem : u.mem = s.mem
  strands : u.strands = s.strands
  homes : u.homes = s.homes

/-- What such a command leaves. -/
theorem Wrote.finishes {s u : State} {a : Nat} {c : Cmd} {m : MatOp} {v : Nat → Nat → Nat} {flag : Nat → Prop} (h : Wrote s u a m v flag)
    (hr : Runs s a c) (hop : c.op ≠ .marker) (hin : InBank m) (hf : s.finishCmd a c = u.dropCmd a c.seq) :
    ∃ t : State, exec (.engineCommandCompletion a c.seq) s = .next t ∧ PlacedRegion s t a m v
      ∧ (∀ k, k < 7 → (bankFlag t a m k = true ↔ flag k)) ∧ Left s t a c ∧ t.mem = s.mem ∧ t.strands = s.strands :=
  ⟨u.dropCmd a c.seq, by rw [exec_completion_of_runs hr hop, hf], placedRegion_of hin (v := fun x => v x.1 x.2) h.acc,
    fun k hk => by rw [bankFlag_dropCmd]; exact h.flags k hk, left_dropCmd (h.cmds a), h.mem, h.strands⟩

/-- A command that lands its bytes at no barrier. -/
theorem finishCmd_mzero {s : State} {a : Nat} {c : Cmd} {m : MatOp} (hop : c.op = .mzero m) (hb : c.bb = none) :
    s.finishCmd a c = (s.runMzero a m).dropCmd a c.seq := by
  unfold State.finishCmd
  simp only [hop, State.bbLandOf_none hb]

theorem finishCmd_mld {s : State} {a : Nat} {c : Cmd} {m : MatOp} (hop : c.op = .mld m) (hb : c.bb = none) :
    s.finishCmd a c = (s.runMld a c.tenant m).dropCmd a c.seq := by
  unfold State.finishCmd
  simp only [hop, State.bbLandOf_none hb]

theorem finishCmd_mma {s : State} {a : Nat} {c : Cmd} {m : MatOp} (hop : c.op = .mma m) (hj : m.joint = false) (hb : c.bb = none) :
    s.finishCmd a c = (s.runMma a c.tenant m c.gen m.allChunks).dropCmd a c.seq := by
  unfold State.finishCmd
  simp only [hop, hj, State.bbLandOf_none hb, Bool.false_eq_true, if_false]

/-! ### `MZERO` and `MLD` -/

theorem runMzero_wrote (s : State) (a : Nat) (m : MatOp) : Wrote s (s.runMzero a m) a m (fun _ _ => 0) fun _ => False := by
  have zeroed (l : List (Nat × Nat)) (s : State) :
      l.foldl (fun s ij => s.setAcc a m.bank (m.row0 + ij.1) (m.col0 + ij.2) 0) s
        = s.withAcc (SMap.setAll 0 (m.cellKey a) (fun _ => BitVec.ofNat 32 0) l s.acc) := by
    induction l generalizing s with
    | nil => rfl
    | cons x l ih =>
      rw [List.foldl_cons, ih]
      rfl
  unfold State.runMzero
  rw [zeroed]
  refine ⟨rfl, fun k _ => ?_, fun b => State.cmds_setBankFlags (s.withAcc _) a m.bank 0 b, rfl, rfl, rfl⟩
  rw [bankFlag_setBankFlags]
  simp

theorem foldl_or_zero {w : Nat} {β : Type} (l : List β) (f : BitVec w) : l.foldl (fun f _ => f ||| 0) f = f := by
  induction l generalizing f with
  | nil => rfl
  | cons x l ih => rw [List.foldl_cons, ih]; simp

theorem runMld_wrote {s : State} {a : Nat} {m : MatOp} (ha : a < 192) (hw : ∀ off, off < 2 ^ 22 → s.isLost (padAddr a off) = false)
    (hrow : ∀ i, i < m.em → m.a.toNat + i * (m.pitch.extractLsb' 0 32).toNat + 4 * m.en ≤ 2 ^ 22) (tenant : Nat) :
    Wrote s (s.runMld a tenant m) a m
      (fun i j => s.mem.readLe (padAddr a (m.a.toNat + i * (m.pitch.extractLsb' 0 32).toNat + 4 * j)) 4) fun k => bankFlag s a m k = true := by
  unfold State.runMld
  dsimp only
  rw [foldl_cells (a := a) (g := fun _ => 0)
    (v := fun x => s.mem.readLe (padAddr a (m.a.toNat + x.1 * (m.pitch.extractLsb' 0 32).toNat + 4 * x.2)) 4) ?step, foldl_or_zero]
  case step =>
    intro acc f x hx
    obtain ⟨hi, hj⟩ := MatOp.mem_cells.1 hx
    have row := hrow x.1 hi
    have whole : PadWhole (s.withAcc acc) a (m.a.toNat + x.1 * (m.pitch.extractLsb' 0 32).toNat + 4 * x.2) 4 :=
      ⟨ha, by omega, fun i hi => hw _ (by omega)⟩
    dsimp only
    rw [fieldN_extract, State.spRead_whole whole]
    simp only [Bool.false_eq_true, if_false]
    exact Prod.ext rfl (by simp)
  rw [State.countLost_zero]
  refine ⟨rfl, fun k _ => ?_, fun b => State.cmds_raiseBank (s.withAcc _) a m.bank 0 b, rfl, rfl, rfl⟩
  rw [bankFlag_raiseBank]
  simp only [BitVec.ofNat_eq_ofNat, BitVec.getLsbD_zero, Bool.or_false]
  rfl

/-! ### The product -/

theorem State.cmds_matStart (s : State) (a : Nat) (m : MatOp) (b : Nat) :
    ((if m.accum then s else s.setBankFlags a m.bank 0).quadAt b).cmds = (s.quadAt b).cmds := by
  split
  · rfl
  · exact State.cmds_setBankFlags ..

theorem State.matStart_rest (s : State) (a : Nat) (m : MatOp) : (if m.accum then s else s.setBankFlags a m.bank 0).acc = s.acc
    ∧ (if m.accum then s else s.setBankFlags a m.bank 0).mem = s.mem
    ∧ (if m.accum then s else s.setBankFlags a m.bank 0).strands = s.strands
    ∧ (if m.accum then s else s.setBankFlags a m.bank 0).homes = s.homes := by
  split <;> exact ⟨rfl, rfl, rfl, rfl⟩

theorem State.quadAt_congr {s t : State} (h : t.quads = s.quads) (b : Nat) : t.quadAt b = s.quadAt b := by
  rw [State.quadAt, State.quadAt, h]

theorem State.countLost_rest (s : State) (tenant : Nat) (f : TileFlags) : (s.countLost tenant f).acc = s.acc
    ∧ (s.countLost tenant f).quads = s.quads ∧ (s.countLost tenant f).mem = s.mem ∧ (s.countLost tenant f).strands = s.strands
    ∧ (s.countLost tenant f).homes = s.homes := by
  unfold State.countLost
  split <;> exact ⟨rfl, rfl, rfl, rfl, rfl⟩

/-- Element x of a product, by what its chunks make of what it starts from. -/
def productAt (s : State) (a : Nat) (m : MatOp) (chunks : Nat)
    (halves : Nat → Nat → List ((Nat → Machine.Num × TileFlags) × (Nat → Machine.Num × TileFlags))) (x : Nat × Nat) : Nat × TileFlags :=
  matElement (matInt m.fa) (chunkTerms m.fa m.blog) (shapeK m.shape) chunks
    (if m.accum then s.getAcc a m.bank (m.row0 + x.1) (m.col0 + x.2) else 0) (halves x.1 x.2)

/-- The conditions that it raises. -/
def productFlags (m : MatOp) (e : Nat × TileFlags) : TileFlags := e.2 ||| if !matInt m.fa && isNan32 e.1 then nanFlag else 0

theorem getLsbD_nanFlag {k : Nat} : nanFlag.getLsbD k = true ↔ k = 5 := by
  show (BitVec.ofNat 7 (2 ^ 5)).getLsbD k = true ↔ k = 5
  rw [BitVec.getLsbD_ofNat, Nat.testBit_two_pow]
  simp
  omega

theorem getLsbD_productFlags {m : MatOp} {e : Nat × TileFlags} {k : Nat} : (productFlags m e).getLsbD k = true ↔
    e.2.getLsbD k = true ∨ k = 5 ∧ matInt m.fa = false ∧ (decodeFloat e.1 8).isNan = true := by
  rw [productFlags, BitVec.getLsbD_or, Bool.or_eq_true]
  cases hi : matInt m.fa <;> cases hn : isNan32 e.1 <;> rw [isNan32] at hn <;> simp [hn, getLsbD_nanFlag]

/-- A product leaves its elements in the placed region, and adds its conditions to the flags of the bank. -/
theorem matProduct_wrote (s : State) (a tenant : Nat) (m : MatOp) (chunks : Nat)
    (halves : Nat → Nat → List ((Nat → Machine.Num × TileFlags) × (Nat → Machine.Num × TileFlags))) (extra : TileFlags) :
    Wrote s (s.matProduct a tenant m chunks halves extra) a m (fun i j => (productAt s a m chunks halves (i, j)).1) fun k =>
      (m.accum = true ∧ bankFlag s a m k = true) ∨ extra.getLsbD k = true
        ∨ ∃ x ∈ m.cells, (productFlags m (productAt s a m chunks halves x)).getLsbD k = true := by
  unfold State.matProduct
  dsimp only
  set u : State := if m.accum then s else s.setBankFlags a m.bank 0
  obtain ⟨uacc, umem, ustrands, uhomes⟩ : u.acc = s.acc ∧ u.mem = s.mem ∧ u.strands = s.strands ∧ u.homes = s.homes :=
    State.matStart_rest s a m
  rw [foldl_cells (a := a) (v := fun x => (productAt s a m chunks halves x).1)
    (g := fun x => productFlags m (productAt s a m chunks halves x)) ?step]
  case step =>
    intro acc f x _
    have start : u.getAcc a m.bank (m.row0 + x.1) (m.col0 + x.2) = s.getAcc a m.bank (m.row0 + x.1) (m.col0 + x.2) := by
      unfold State.getAcc
      rw [uacc]
    dsimp only
    rw [start]
    exact Prod.ext rfl (BitVec.or_assoc ..)
  have first (k : Nat) : bankFlag u a m k = true ↔ m.accum = true ∧ bankFlag s a m k = true := by
    show bankFlag (if m.accum then s else s.setBankFlags a m.bank 0) a m k = true ↔ _
    cases m.accum
    · simp [bankFlag_setBankFlags]
    · simp
  obtain ⟨acc, quads, mem, strands, homes⟩ := State.countLost_rest ((u.withAcc (accPlaced u.acc a m fun x => (productAt s a m chunks halves x).1)).raiseBank
    a m.bank (m.cells.foldl (fun f x => f ||| productFlags m (productAt s a m chunks halves x)) extra)) tenant
    (m.cells.foldl (fun f x => f ||| productFlags m (productAt s a m chunks halves x)) extra)
  have quad (b : Nat) := State.quadAt_congr quads b
  refine ⟨acc.trans (by rw [← uacc]; rfl), fun k _ => ?_, fun b => ?_, mem.trans umem, strands.trans ustrands, homes.trans uhomes⟩
  · rw [bankFlag, quad a]
    refine (Bool.eq_iff_iff.1 (bankFlag_raiseBank (u.withAcc _) a m _ k)).trans ?_
    rw [Bool.or_eq_true, getLsbD_foldl_or]
    exact or_congr (first k) Iff.rfl
  · rw [quad b, State.cmds_raiseBank]
    exact State.cmds_matStart s a m b

/-! ### The statement for one unit -/

theorem productElem_eq (s : State) (a : Nat) (m : MatOp) (i j : Nat)
    (halves : Nat → Nat → List ((Nat → Machine.Num × TileFlags) × (Nat → Machine.Num × TileFlags))) :
    productElem s a m i j (halves i j) = productAt s a m m.allChunks halves (i, j) := rfl

theorem matrixCommandsFinish : Parts.MatrixCommandsFinish := by
  intro s a c m hr hb hin
  refine ⟨fun hop => ?_, fun hop hrow => ?_, fun hop hj => ?_⟩
  · obtain ⟨t, ht, placed, flags, left, mem, strands⟩ :=
      (runMzero_wrote s a m).finishes hr (by simp [hop]) hin (finishCmd_mzero hop hb)
    refine ⟨t, ht, placed, fun k => ?_, left, mem, strands⟩
    by_cases hk : k < 7
    · exact Bool.eq_false_iff.2 fun h => (flags k hk).1 h
    · exact BitVec.getLsbD_of_ge _ _ (by omega)
  · obtain ⟨t, ht, placed, flags, left, mem, strands⟩ :=
      (runMld_wrote hr.quad hr.whole hrow c.tenant).finishes hr (by simp [hop]) hin (finishCmd_mld hop hb)
    refine ⟨t, ht, placed, fun k => ?_, left, mem, strands⟩
    by_cases hk : k < 7
    · exact Bool.eq_iff_iff.2 (flags k hk)
    · exact (BitVec.getLsbD_of_ge _ _ (by omega)).trans (BitVec.getLsbD_of_ge _ _ (by omega)).symm
  · obtain ⟨t, ht, placed, flags, left, mem, strands⟩ :=
      (matProduct_wrote s a c.tenant m m.allChunks (fun i j => [(s.matAOf a m c.gen i, s.matB a m j)]) (s.bankExtra a m c.gen)).finishes hr
        (by simp [hop]) hin (finishCmd_mma hop hj hb)
    refine ⟨t, ht, placed, fun k hk => (flags k hk).trans (or_congr Iff.rfl (or_congr Iff.rfl ?_)), left, mem, strands⟩
    simp only [Prod.exists, MatOp.mem_cells, getLsbD_productFlags, and_assoc]
    rfl

end Sys2Proof
end

section
/-! A joint operation as it finishes (R16, R273): four products one after the other, each of the operands as they were at the start. -/
namespace Sys2Proof
open Machine

/-- A member of a joint operation: its place in the bond sequence, its quad, its command and the operands of its matrix instruction. -/
abbrev Member := Nat × Nat × Cmd × MatOp

/-- The operands of an element, as the halves of K in order. -/
abbrev Halves := Nat → Nat → List ((Nat → Machine.Num × TileFlags) × (Nat → Machine.Num × TileFlags))

theorem bondAgents_nodup (die bond : Nat) : (bondAgents die bond).Nodup := by
  simp [bondAgents, bondQuads]

/-- The members of a joint operation lie in four quads. -/
theorem jointMembers_quads {s : State} {die bond lid no : Nat} {l : List (Nat × Cmd × MatOp)} (h : s.jointMembers die bond lid no = some l) :
    l.length = 4 ∧ (l.map Prod.fst).Nodup := by
  unfold State.jointMembers at h
  dsimp only at h
  split at h
  next hl =>
    cases h
    refine ⟨hl, ?_⟩
    have sub (r : List Nat) : ((r.filterMap fun a => ((s.quadAt a).jointCmd lid no).map fun x => (a, x)).map Prod.fst).Sublist r := by
      induction r with
      | nil => exact .slnil
      | cons a r ih =>
        rw [List.filterMap_cons]
        cases (s.quadAt a).jointCmd lid no with
        | none => exact ih.cons a
        | some x => exact ih.cons_cons a
    exact (sub _).nodup (bondAgents_nodup die bond)
  next => cases h

/-- An element of another quad, or outside every region, is what it was. -/
theorem bankElem_of_placed {s u : State} {a : Nat} {m : MatOp} {v : Nat → Nat → Nat} (h : PlacedRegion s u a m v) {b k r c : Nat} (hb : b ≠ a)
    (hk : k < 4) (hr : r < 128) (hc : c < 128) : bankElem u b k r c = bankElem s b k r c :=
  h.2 b k r c hk hr hc fun hin => hb hin.1

/-- What the products of the members leave together. -/
structure Joined (s u : State) (l : List Member) (chunks : Nat) (halves : Nat → Halves) : Prop where
  mem : u.mem = s.mem
  strands : u.strands = s.strands
  cmds : ∀ b, (u.quadAt b).cmds = (s.quadAt b).cmds
  others : ∀ b k r c, b ∉ l.map (·.2.1) → k < 4 → r < 128 → c < 128 → bankElem u b k r c = bankElem s b k r c
  placed : ∀ x ∈ l, ∀ i j, i < x.2.2.2.em → j < x.2.2.2.en →
    bankElem u x.2.1 x.2.2.2.bank (x.2.2.2.row0 + i) (x.2.2.2.col0 + j)
      = BitVec.ofNat 32 (productAt s x.2.1 x.2.2.2 chunks (halves x.1) (i, j)).1

/-- The members' products one after the other. -/
def joinAll (chunks : Nat) (halves : Nat → Halves) (extra : Member → TileFlags) (l : List Member) (s : State) : State :=
  l.foldl (fun t x => t.matProduct x.2.1 x.2.2.1.tenant x.2.2.2 chunks (halves x.1) (extra x)) s

theorem productAt_congr {s t : State} {a : Nat} {m : MatOp} {i j : Nat} (chunks : Nat) (halves : Halves)
    (h : bankElem t a m.bank (m.row0 + i) (m.col0 + j) = bankElem s a m.bank (m.row0 + i) (m.col0 + j)) :
    productAt t a m chunks halves (i, j) = productAt s a m chunks halves (i, j) := by
  have start : t.getAcc a m.bank (m.row0 + i) (m.col0 + j) = s.getAcc a m.bank (m.row0 + i) (m.col0 + j) := congrArg BitVec.toNat h
  rw [productAt, productAt, start]

theorem joinAll_joined (s : State) (l : List Member) (chunks : Nat) (halves : Nat → Halves) (extra : Member → TileFlags)
    (distinct : (l.map (·.2.1)).Nodup) (hin : ∀ x ∈ l, InBank x.2.2.2) : Joined s (joinAll chunks halves extra l s) l chunks halves := by
  induction l generalizing s with
  | nil => exact ⟨rfl, rfl, fun _ => rfl, fun _ _ _ _ _ _ _ _ => rfl, fun x hx => by cases hx⟩
  | cons x l ih =>
    obtain ⟨hx, distinct⟩ := List.nodup_cons.1 distinct
    have wrote := matProduct_wrote s x.2.1 x.2.2.1.tenant x.2.2.2 chunks (halves x.1) (extra x)
    set t := s.matProduct x.2.1 x.2.2.1.tenant x.2.2.2 chunks (halves x.1) (extra x)
    have placed := placedRegion_of (hin x (List.mem_cons_self ..)) (v := fun y => (productAt s x.2.1 x.2.2.2 chunks (halves x.1) y).1) wrote.acc
    have rest := ih t distinct fun y hy => hin y (List.mem_cons_of_mem _ hy)
    refine ⟨rest.mem.trans wrote.mem, rest.strands.trans wrote.strands, fun b => (rest.cmds b).trans (wrote.cmds b),
      fun b k r c hb hk hr hc => ?_, fun y hy i j hi hj => ?_⟩
    · rw [List.map_cons, List.mem_cons, not_or] at hb
      exact (rest.others b k r c hb.2 hk hr hc).trans (bankElem_of_placed placed hb.1 hk hr hc)
    · have bank := y.2.2.2.bank_lt
      obtain ⟨hrow, hcol⟩ := hin y hy
      rcases List.mem_cons.1 hy with rfl | hy
      · exact (rest.others _ _ _ _ hx bank (by omega) (by omega)).trans (placed.1 i j hi hj)
      · have apart : y.2.1 ≠ x.2.1 := fun h => hx (List.mem_map.2 ⟨y, hy, h⟩)
        refine (rest.placed y hy i j hi hj).trans ?_
        rw [productAt_congr chunks (halves y.1) (bankElem_of_placed placed apart bank (by omega) (by omega))]

/-- The commands of the members leave their units, and nothing else changes. -/
theorem foldl_dropCmd (l : List (Nat × Cmd × MatOp)) (s : State) : ∃ t : State, t = l.foldl (fun s x => s.dropCmd x.1 x.2.1.seq) s
    ∧ t.mem = s.mem ∧ t.acc = s.acc ∧ t.strands = s.strands ∧ (∀ b, ∀ y ∈ (t.quadAt b).cmds, y ∈ (s.quadAt b).cmds)
    ∧ ∀ x ∈ l, ∀ y ∈ (t.quadAt x.1).cmds, y.seq ≠ x.2.1.seq := by
  induction l generalizing s with
  | nil => exact ⟨s, rfl, rfl, rfl, rfl, fun _ _ h => h, fun x hx => by cases hx⟩
  | cons x l ih =>
    obtain ⟨t, ht, mem, acc, strands, kept, gone⟩ := ih (s.dropCmd x.1 x.2.1.seq)
    refine ⟨t, ht, mem, acc, strands, fun b y hy => ?_, fun z hz y hy => ?_⟩
    · have := kept b y hy
      rw [State.quadAt_dropCmd] at this
      split at this
      next h =>
        subst h
        exact List.mem_of_mem_filter this
      next => exact this
    · rcases List.mem_cons.1 hz with rfl | hz
      · have := kept _ y hy
        rw [State.quadAt_dropCmd, if_pos rfl] at this
        simpa using (List.mem_filter.1 this).2
      · exact gone z hz y hy

theorem foldl_leave {l : List (Nat × Cmd × MatOp)} (hb : ∀ x ∈ l, x.2.1.bb = none) (s : State) :
    l.foldl (fun s x => (s.bbLandOf x.1 x.2.1 x.2.2.counted 0 false false).dropCmd x.1 x.2.1.seq) s
      = l.foldl (fun s x => s.dropCmd x.1 x.2.1.seq) s := by
  induction l generalizing s with
  | nil => rfl
  | cons x l ih =>
    rw [List.foldl_cons, List.foldl_cons, State.bbLandOf_none (hb x (List.mem_cons_self ..)), ih fun y hy => hb y (List.mem_cons_of_mem _ hy)]

/-- The operands of a member's half, zero for a place that is empty. -/
def memberOps (s : State) (l : List (Nat × Cmd × MatOp)) (k : Nat) :
    (Nat → Nat → Machine.Num × TileFlags) × (Nat → Nat → Machine.Num × TileFlags) :=
  match l[k]? with
  | some x => (s.matAOf x.1 x.2.2 x.2.1.gen, s.matB x.1 x.2.2)
  | none => (fun _ _ => (.fin false 0 0, 0), fun _ _ => (.fin false 0 0, 0))

/-- The halves of the member at place k: A from the members of its row, B from those of its column. -/
def jointHalves (s : State) (l : List (Nat × Cmd × MatOp)) (k : Nat) : Halves := fun i j =>
  [((memberOps s l (memberAt (memberRow k) 0)).1 i, (memberOps s l (memberAt 0 (memberCol k))).2 j),
    ((memberOps s l (memberAt (memberRow k) 1)).1 i, (memberOps s l (memberAt 1 (memberCol k))).2 j)]

theorem getD_memberOps (s : State) (l : List (Nat × Cmd × MatOp)) (k : Nat) :
    (l.map fun x => (s.matAOf x.1 x.2.2 x.2.1.gen, s.matB x.1 x.2.2)).getD k
      (fun _ _ => (.fin false 0 0, 0), fun _ _ => (.fin false 0 0, 0)) = memberOps s l k := by
  rw [List.getD_eq_getElem?_getD, List.getElem?_map, memberOps]
  cases l[k]? <;> rfl

theorem runJoint_eq (s : State) (l : List (Nat × Cmd × MatOp)) (chunks : Nat) : s.runJoint l chunks
    = joinAll chunks (jointHalves s l) (fun x => s.bankExtra x.2.1 x.2.2.2 x.2.2.1.gen) ((List.range 4).zip l) s := by
  unfold State.runJoint
  simp only [getD_memberOps]
  rfl

theorem finishCmd_joint {s : State} {a : Nat} {c : Cmd} {m : MatOp} {l : List (Nat × Cmd × MatOp)} (hop : c.op = .mma m) (hj : m.joint = true)
    (hl : s.jointMembers (a / 48) (bondOf (a % 48)) c.lid c.jointNo = some l) (hrun : ∀ x ∈ l, x.2.1.state = .running ∧ x.2.1.bb = none) :
    s.finishCmd a c = l.foldl (fun s x => s.dropCmd x.1 x.2.1.seq) (s.runJoint l m.allChunks) := by
  have all : (l.all fun x => x.2.1.state == .running) = true := by
    simpa using fun x y z hx => (hrun (x, y, z) hx).1
  unfold State.finishCmd
  simp only [hop, hj, if_true, State.finishJoint, hl, all]
  exact foldl_leave (fun x hx => (hrun x hx).2) _

theorem jointCommandsFinish : Parts.JointCommandsFinish := by
  intro s a c m l hr hop hj hl hall zero opA opB at_
  have left (k : Nat) : opA k = (memberOps s l k).1 := by
    cases h : l[k]? <;> simp only [opA, memberOps, h] <;> rfl
  have right (k : Nat) : opB k = (memberOps s l k).2 := by
    cases h : l[k]? <;> simp only [opB, memberOps, h] <;> rfl
  obtain ⟨four, distinct⟩ := jointMembers_quads hl
  obtain ⟨t, ht, mem, acc, strands, -, gone⟩ := foldl_dropCmd l (s.runJoint l m.allChunks)
  have joined : Joined s (s.runJoint l m.allChunks) ((List.range 4).zip l) m.allChunks (jointHalves s l) := by
    rw [runJoint_eq]
    refine joinAll_joined s _ _ _ _ ?_ fun x hx => (hall _ (List.of_mem_zip hx).2).2.2.1
    have snd : ((List.range 4).zip l).map (·.2.1) = l.map Prod.fst := by
      have := List.map_snd_zip (l₁ := List.range 4) (l₂ := l) (by simp [four])
      conv_rhs => rw [← this, List.map_map]
      rfl
    rw [snd]
    exact distinct
  refine ⟨t, ?_, mem.trans joined.mem, strands.trans joined.strands, gone, fun k q d x hk i j hi hj => ?_⟩
  · rw [exec_completion_of_runs hr (by simp [hop]), finishCmd_joint hop hj hl fun x hx => ⟨(hall x hx).1, (hall x hx).2.1⟩, ht]
  · have hk4 : k < 4 := by
      obtain ⟨hlt, -⟩ := List.getElem?_eq_some_iff.1 hk
      omega
    have member : (k, q, d, x) ∈ (List.range 4).zip l := by
      refine List.mem_of_getElem? (i := k) ?_
      rw [List.getElem?_zip_eq_some]
      exact ⟨by simp [hk4], hk⟩
    have chunks : x.allChunks = m.allChunks := congrArg (2 * ·) (hall _ (List.of_mem_zip member).2).2.2.2
    have placed := joined.placed _ member i j hi hj
    intro r col
    rw [left, left, right, right, bankElem, acc]
    refine placed.trans ?_
    rw [← chunks]
    rfl

end Sys2Proof
end

section
/-! `SLOAD` and `SSORT` as they finish (R278, R279): the Sett array of a quad as a map of its cells. -/
namespace Sys2Proof.Machine

/-! ### Parts of a map put together -/

section
variable {α : Type} {d : α}

theorem SMap.find_append (l r : SMap α) (k : Nat) : SMap.find (l ++ r) k = (SMap.find l k).or (SMap.find r k) := by
  induction l with
  | nil => rfl
  | cons e l ih =>
    obtain ⟨j, v⟩ := e
    by_cases h : j = k
    · simp [SMap.find, h]
    · simpa [SMap.find, h] using ih

theorem SMap.find_filter_key (p : Nat → Bool) (m : SMap α) (k : Nat) :
    SMap.find (m.filter fun e => p e.1) k = if p k then SMap.find m k else none := by
  induction m with
  | nil => simp [SMap.find]
  | cons e m ih =>
    obtain ⟨j, v⟩ := e
    by_cases h : j = k
    · subst h
      cases hp : p j
      · rw [List.filter_cons_of_neg (by simp [hp]), ih, hp]
        rfl
      · rw [List.filter_cons_of_pos (by simpa using hp)]
        simp [SMap.find]
    · cases hp : p j
      · rw [List.filter_cons_of_neg (by simp [hp]), ih]
        simp [SMap.find, h]
      · rw [List.filter_cons_of_pos (by simpa using hp)]
        simpa [SMap.find, h] using ih

theorem SMap.find_eq_none {m : SMap α} {k : Nat} (h : ∀ e ∈ m, e.1 ≠ k) : SMap.find m k = none := by
  induction m with
  | nil => rfl
  | cons e m ih =>
    rw [SMap.find, if_neg (h e (List.mem_cons_self ..)), ih fun x hx => h x (List.mem_cons_of_mem _ hx)]

/-- A table of values, of which those that an unlisted key reads as are left out. -/
theorem SMap.get_table [DecidableEq α] (key : Nat → Nat) (hkey : Function.Injective key) (f : Nat → α) (l : List Nat) (k : Nat) :
    SMap.get d ((l.map fun p => (key p, f p)).filter fun e => e.2 != d) (key k) = if k ∈ l then f k else d := by
  induction l with
  | nil => rfl
  | cons p l ih =>
    rw [List.map_cons]
    by_cases hd : f p = d
    · rw [List.filter_cons_of_neg (by simp [hd]), ih]
      by_cases hk : k = p
      · subst hk
        simp [hd]
      · simp [hk]
    · rw [List.filter_cons_of_pos (by simp [hd]), SMap.get]
      by_cases hk : k = p
      · subst hk
        simp
      · rw [if_neg fun h => hk (hkey h).symm, ih]
        simp [hk]

end

/-! ### The Sett array -/

theorem settKey_injective (a : Nat) : Function.Injective (settKey a) := fun x y h => by
  unfold settKey at h
  omega

theorem State.find_setSettArray (s : State) (a : Nat) (l : Array SettCell) (b k : Nat) (hk : k < 16384) :
    SMap.get SettCell.reset (s.setSettArray a l).sett (settKey b k)
      = if b = a then l.getD k SettCell.reset else SMap.get SettCell.reset s.sett (settKey b k) := by
  have quad : settKey b k / 2 ^ 14 = b := by
    unfold settKey
    omega
  have lower := SMap.find_filter_key (fun j => decide (j / 2 ^ 14 < a)) s.sett (settKey b k)
  have upper := SMap.find_filter_key (fun j => decide (a < j / 2 ^ 14)) s.sett (settKey b k)
  rw [quad] at lower upper
  unfold State.setSettArray
  dsimp only
  rw [SMap.get_eq_find, SMap.find_append, SMap.find_append, lower, upper]
  by_cases hb : b = a
  · subst hb
    have mine := SMap.get_table (d := SettCell.reset) (settKey b) (settKey_injective b) (fun p => l.getD p SettCell.reset) (List.range 16384) k
    rw [SMap.get_eq_find, if_pos (List.mem_range.2 hk)] at mine
    simp only [lt_irrefl, decide_false, Bool.false_eq_true, if_false, if_true, Option.none_or, Option.or_none]
    exact mine
  · have mine : SMap.find (((List.range 16384).map fun p => (settKey a p, l.getD p SettCell.reset)).filter fun e => e.2 != SettCell.reset)
        (settKey b k) = none := by
      refine SMap.find_eq_none fun e he => ?_
      obtain ⟨p, hp, rfl⟩ := List.mem_map.1 (List.mem_of_mem_filter he)
      have := List.mem_range.1 hp
      unfold settKey
      omega
    rw [mine, Option.or_none, if_neg hb, SMap.get_eq_find]
    rcases Nat.lt_or_gt_of_ne hb with h | h
    · simp [h, Nat.lt_asymm h]
    · simp [h, Nat.lt_asymm h]

end Sys2Proof.Machine

namespace Sys2Proof
open Machine

theorem cellAt_setSettArray (s : State) (a : Nat) (l : Array SettCell) (b : Nat) {k : Nat} (hk : k < 16384) :
    cellAt (s.setSettArray a l) b k = if b = a then l.getD k { pad := true, bits := 0, pos := 0 } else cellAt s b k :=
  State.find_setSettArray s a l b k hk

/-- What `SLOAD` puts into a cell. -/
def loadedCell (s : State) (a src n t : Nat) : SettCell :=
  if t < n then { pad := false, bits := BitVec.ofNat 64 (s.mem.readLe (padAddr a (src + 8 * t)) 8), pos := t }
  else { pad := true, bits := 0, pos := t }

theorem finishCmd_sload {s : State} {a : Nat} {c : Cmd} {src n : Nat} (hop : c.op = .sload src n) (hb : c.bb = none) :
    s.finishCmd a c = (s.runSload a c.tenant src n).dropCmd a c.seq := by
  unfold State.finishCmd
  simp only [hop, State.bbLandOf_none hb]

theorem finishCmd_ssort {s : State} {a : Nat} {c : Cmd} {ty : Nat} {desc canz : Bool} {nph : Nat} (hop : c.op = .ssort ty desc canz nph)
    (hb : c.bb = none) : s.finishCmd a c = (s.finishSort a c).dropCmd a c.seq := by
  unfold State.finishCmd
  simp only [hop, State.bbLandOf_none hb]

/-- The pass of `SLOAD` over the cells, none of whose bytes are lost. -/
theorem runSload_cells {s : State} {a src n : Nat} (hw : ∀ t, t < n → PadWhole s a (src + 8 * t) 8) (k : Nat) :
    (List.range k).foldl (fun (r : Array SettCell × Bool) t =>
      if t < n then
        let x := s.spRead a (src + 8 * t) 8
        (r.1.push { pad := false, bits := BitVec.ofNat 64 x.1, pos := t }, r.2 || x.2)
      else (r.1.push { pad := true, bits := 0, pos := t }, r.2)) (#[], false)
      = (((List.range k).map (loadedCell s a src n)).toArray, false) := by
  induction k with
  | zero => rfl
  | succ k ih =>
    rw [List.range_succ, List.foldl_append, ih, List.map_append, List.foldl_cons, List.foldl_nil, List.map_singleton, ← List.push_toArray]
    by_cases hk : k < n
    · rw [if_pos hk, State.spRead_whole (hw k hk), loadedCell, if_pos hk]
      simp
      rfl
    · rw [if_neg hk, loadedCell, if_neg hk]

theorem loadAndSortCommandsFinish : Parts.LoadAndSortCommandsFinish := by
  refine ⟨fun s a c src n hr hb hop hn hin => ?_, fun s a c ty desc canz nph hr hb hop => ?_⟩
  · have cells := runSload_cells (n := n) (src := src) (s := s) (a := a)
      (fun t ht => ⟨hr.quad, by omega, fun i hi => hr.whole _ (by omega)⟩) 16384
    have ran : s.runSload a c.tenant src n = (s.setSettArray a ((List.range 16384).map (loadedCell s a src n)).toArray).setQuad a
        { s.quadAt a with sett := { (s.quadAt a).sett with
            loaded := true, latched := false, phase := 0, step := 0, count := n, lostLatch := false } } := by
      unfold State.runSload
      rw [cells]
      simp only [Bool.false_eq_true, if_false, State.countLost_zero]
      rfl
    refine ⟨(s.runSload a c.tenant src n).dropCmd a c.seq, by rw [exec_completion_of_runs hr (by simp [hop]), finishCmd_sload hop hb],
      fun k hk => ?_, fun b k hba hk => ?_, ?_, left_dropCmd ?_, ?_, ?_⟩
    · rw [ran]
      refine (cellAt_setSettArray s a _ a hk).trans ?_
      simp [hk, loadedCell]
    · rw [ran]
      exact (cellAt_setSettArray s a _ b hk).trans (if_neg hba)
    · rw [State.sett_dropCmd, ran, State.quadAt_setQuad, if_pos rfl]
      exact ⟨rfl, rfl, rfl, rfl, rfl, rfl⟩
    · rw [ran, State.quadAt_setQuad, if_pos rfl]
    · rw [ran]
      rfl
    · rw [ran]
      rfl
  · refine ⟨(s.finishSort a c).dropCmd a c.seq, by rw [exec_completion_of_runs hr (by simp [hop]), finishCmd_ssort hop hb], rfl, ?_,
      fun k hk => ?_, fun b k hba hk => ?_, left_dropCmd ?_, rfl⟩
    · rw [State.sett_dropCmd, State.finishSort, State.quadAt_setQuad, if_pos rfl]
      rfl
    · exact (cellAt_setSettArray _ a _ a hk).trans (if_pos rfl)
    · exact (cellAt_setSettArray _ a _ b hk).trans (if_neg hba)
    · rw [State.finishSort, State.quadAt_setQuad, if_pos rfl]
      rfl

end Sys2Proof
end

section
/-! `MST` and `SSTORE` as they finish (R275, R280): rows of converted elements with their conditions, and cells in their order. -/
namespace Sys2Proof.Machine

@[simp] theorem State.bbLand_none (s : State) (tenant a n : Nat) (f : TileFlags) (x y : Bool) : s.bbLand tenant a none n f x y = s := rfl

/-! ### Elements packed one after the other -/

theorem packElems_append (w : Nat) (l : List Nat) (x : Nat) : packElems w (l ++ [x]) = packElems w l + x % 2 ^ w * 2 ^ (w * l.length) := by
  induction l with
  | nil => simp [packElems]
  | cons e l ih =>
    rw [List.cons_append, packElems, ih, packElems, List.length_cons, Nat.mul_succ, Nat.add_comm (w * l.length) w, pow_add]
    ring

/-- A pass over the first numbers that goes from each stage to the next. -/
theorem foldl_range_of_step {β : Type} {F : β → Nat → β} {A : Nat → β} (h : ∀ k, F (A k) k = A (k + 1)) (k : Nat) :
    (List.range k).foldl F (A 0) = A k := by
  induction k with
  | zero => rfl
  | succ k ih => rw [List.range_succ, List.foldl_append, ih, List.foldl_cons, List.foldl_nil, h]

/-- Rows of n bytes written one after the other. -/
def Memory.writeRows (m : Memory) (n : Nat) (start val : Nat → Nat) (k : Nat) : Memory :=
  (List.range k).foldl (fun m i => m.writeLe (start i) n (val i)) m

section
variable (m : Memory) (n : Nat) (start val : Nat → Nat)

theorem Memory.writeRows_succ (k : Nat) :
    m.writeRows n start val (k + 1) = (m.writeRows n start val k).writeLe (start k) n (val k) := by
  rw [Memory.writeRows, List.range_succ, List.foldl_append]
  rfl

theorem Memory.read_writeRows_outside {k x : Nat} (h : ∀ i, i < k → x < start i ∨ start i + n ≤ x) :
    (m.writeRows n start val k).read x = m.read x := by
  induction k with
  | zero => rfl
  | succ k ih => rw [Memory.writeRows_succ, Memory.read_writeLe_outside _ _ _ _ _ (h k (by omega)), ih fun i hi => h i (by omega)]

theorem Memory.readLe_writeRows {k i : Nat} (hi : i < k)
    (apart : ∀ i j, i < j → j < k → start i + n ≤ start j ∨ start j + n ≤ start i) :
    (m.writeRows n start val k).readLe (start i) n = val i % 2 ^ (8 * n) := by
  induction k with
  | zero => omega
  | succ k ih =>
    rw [Memory.writeRows_succ]
    by_cases hk : i = k
    · subst hk
      rw [Memory.readLe_writeLe, pow_mul]
      norm_num
    · rw [Memory.readLe_writeLe_outside _ ((apart i k (by omega) (by omega)).imp id id),
        ih (by omega) fun i j hij hj => apart i j hij (by omega)]

end

end Sys2Proof.Machine

namespace Sys2Proof
open Machine

/-! ### `MST` -/

/-- The element of an `MST` at (i, j), and what its conversion raises. -/
def mstElem (s : State) (a : Nat) (c : Cmd) (m : MatOp) (i j : Nat) : Nat × FFlags :=
  storedElem m (bankElem s a m.bank (m.row0 + i) (m.col0 + j)).toNat (storedDraw c m i j)

/-- The conditions of an element stored (R275). -/
def mstFlags (m : MatOp) (e : Nat × FFlags) : TileFlags := tileFlags e.2 ||| if isNanPattern e.1 m.ft then nanFlag else 0

/-- The generator after k elements (R100). -/
def mstGen (c : Cmd) (m : MatOp) (k : Nat) : Word := if m.srnd = 5 then genStep^[k] c.gen else c.gen

/-- The bytes of row i. -/
def mstRowValue (s : State) (a : Nat) (c : Cmd) (m : MatOp) (i : Nat) : Nat :=
  packElems (typeBits m.ft) ((List.range m.en).map fun j => (mstElem s a c m i j).1)

/-- The conditions of row i. -/
def mstRowFlags (s : State) (a : Nat) (c : Cmd) (m : MatOp) (i : Nat) : TileFlags :=
  (List.range m.en).foldl (fun f j => f ||| mstFlags m (mstElem s a c m i j)) 0

theorem mstGen_succ (c : Cmd) (m : MatOp) (k : Nat) : (if m.srnd = 5 then genStep (mstGen c m k) else mstGen c m k) = mstGen c m (k + 1) := by
  unfold mstGen
  split
  · rw [Function.iterate_succ_apply']
  · rfl

theorem mstDraw_eq (c : Cmd) (m : MatOp) (i j : Nat) :
    (if m.srnd = 5 then genDraw (mstGen c m (i * m.en + j + 1)) else 0) = storedDraw c m i j := by
  unfold storedDraw mstGen
  split <;> rfl

theorem mstRow_eq {s t : State} (hacc : t.acc = s.acc) (a : Nat) (c : Cmd) (m : MatOp) (i : Nat) :
    t.mstRow a m i (mstGen c m (i * m.en)) = (mstRowValue s a c m i, mstRowFlags s a c m i, mstGen c m ((i + 1) * m.en)) := by
  have get (j : Nat) : t.getAcc a m.bank (m.row0 + i) (m.col0 + j) = (bankElem s a m.bank (m.row0 + i) (m.col0 + j)).toNat := by
    unfold State.getAcc
    rw [hacc]
    rfl
  rw [Nat.succ_mul]
  refine foldl_range_of_step (A := fun k => (packElems (typeBits m.ft) ((List.range k).map fun j => (mstElem s a c m i j).1),
    (List.range k).foldl (fun f j => f ||| mstFlags m (mstElem s a c m i j)) 0, mstGen c m (i * m.en + k))) (fun k => ?_) m.en
  dsimp only
  rw [mstGen_succ, mstDraw_eq, get, List.range_succ, List.map_append, List.map_singleton, packElems_append, List.foldl_append]
  refine Prod.ext ?_ (Prod.ext (BitVec.or_assoc ..) rfl)
  simp only [List.length_map, List.length_range]
  rfl

/-- The bytes that the rows of an `MST` leave in memory. -/
def mstMem (s : State) (a : Nat) (c : Cmd) (m : MatOp) (k : Nat) : Memory :=
  s.mem.writeRows m.rowBytes (fun i => spAddr a (rowOff m i)) (mstRowValue s a c m) k

/-- The flags of the status word after k rows. -/
def mstStatus (s : State) (a : Nat) (c : Cmd) (m : MatOp) (k : Nat) : TileFlags :=
  (List.range k).foldl (fun f i => f ||| mstRowFlags s a c m i) (s.bankFlagsOf a m.bank)

theorem mstStatus_succ (s : State) (a : Nat) (c : Cmd) (m : MatOp) (k : Nat) :
    mstStatus s a c m (k + 1) = mstStatus s a c m k ||| mstRowFlags s a c m k := by
  rw [mstStatus, List.range_succ, List.foldl_append]
  rfl

theorem rowOff_eq (m : MatOp) (i : Nat) : m.a.toNat + i * fieldN m.pitch.toNat 0 32 = rowOff m i := by rw [fieldN_extract, rowOff]

/-- The pass of `MST` over its rows. -/
theorem mstRows_step {s : State} {a : Nat} {c : Cmd} {m : MatOp} (hw : ∀ i, i < m.em → PadWhole s a (rowOff m i) m.rowBytes) (k : Nat)
    (hk : k ≤ m.em) : ∃ t, (List.range k).foldl (fun (r : State × TileFlags × Word) i =>
      let q := r.1.mstRow a m i r.2.2
      let w := r.1.spLand c.tenant a (m.rowBytes / 128 + 2) (m.a.toNat + i * fieldN m.pitch.toNat 0 32) m.rowBytes q.1
      (w.1, r.2.1 ||| q.2.1 ||| (if w.2 then lostFlag else 0), q.2.2)) (s, s.bankFlagsOf a m.bank, c.gen)
        = (t, mstStatus s a c m k, mstGen c m (k * m.en)) ∧ PadStep s t (mstMem s a c m k) := by
  induction k with
  | zero =>
    refine ⟨s, ?_, PadStep.refl s⟩
    rw [Nat.zero_mul]
    refine Prod.ext rfl (Prod.ext rfl ?_)
    unfold mstGen
    split <;> rfl
  | succ k ih =>
    obtain ⟨t, ht, step⟩ := ih (by omega)
    obtain ⟨kept, landed⟩ := State.spLand_whole (step.whole (hw k (by omega))) c.tenant (m.rowBytes / 128 + 2) (mstRowValue s a c m k)
      fun _ => by omega
    rw [step.mem] at landed
    rw [List.range_succ, List.foldl_append, ht, List.foldl_cons, List.foldl_nil]
    dsimp only
    rw [mstRow_eq step.acc, rowOff_eq, kept]
    refine ⟨_, Prod.ext rfl (Prod.ext ?_ rfl), ?_⟩
    · rw [mstStatus_succ]
      simp
    · rw [mstMem, Memory.writeRows_succ]
      exact step.trans landed

/-! ### The status word -/

theorem statusWord_testBit (f : TileFlags) : (f.toNat + 2 ^ 31).testBit 31 = true ∧ ∀ k, k < 31 → (f.toNat + 2 ^ 31).testBit k = f.getLsbD k := by
  have hf : f.toNat < 2 ^ 31 := f.isLt.trans (by norm_num)
  rw [Nat.add_comm]
  refine ⟨?_, fun k hk => Nat.testBit_two_pow_add_gt hk _⟩
  rw [Nat.testBit_two_pow_add_eq, Nat.testBit_lt_two_pow hf]
  rfl

theorem getLsbD_mstFlags {m : MatOp} {e : Nat × FFlags} {k : Nat} : (mstFlags m e).getLsbD k = true ↔
    (tileFlags e.2).getLsbD k = true ∨ k = 5 ∧ isNanPattern e.1 m.ft = true := by
  rw [mstFlags, BitVec.getLsbD_or, Bool.or_eq_true]
  cases hn : isNanPattern e.1 m.ft
  · simp
  · simp [getLsbD_nanFlag]

theorem getLsbD_mstStatus {s : State} {a : Nat} {c : Cmd} {m : MatOp} {k : Nat} : (mstStatus s a c m m.em).getLsbD k = true ↔
    bankFlag s a m k = true ∨ ∃ i j, i < m.em ∧ j < m.en ∧ ((tileFlags (mstElem s a c m i j).2).getLsbD k = true
      ∨ k = 5 ∧ isNanPattern (mstElem s a c m i j).1 m.ft = true) := by
  have bank : (s.bankFlagsOf a m.bank).getLsbD k = bankFlag s a m k := by
    rw [State.bankFlagsOf, Nat.mod_eq_of_lt m.bank_lt]
    rfl
  rw [mstStatus, getLsbD_foldl_or, bank]
  simp only [mstRowFlags, getLsbD_foldl_or, getLsbD_mstFlags, BitVec.ofNat_eq_ofNat, BitVec.getLsbD_zero, Bool.false_eq_true, false_or,
    List.mem_range]
  refine or_congr Iff.rfl ⟨fun ⟨i, hi, j, hj, h⟩ => ⟨i, j, hi, hj, h⟩, fun ⟨i, j, hi, hj, h⟩ => ⟨i, hi, j, hj, h⟩⟩

/-! ### What `MST` leaves -/

theorem rowOff_apart {m : MatOp} (h : m.em ≤ 1 ∨ m.rowBytes ≤ (m.pitch.extractLsb' 0 32).toNat) {i j : Nat} (hij : i < j) (hj : j < m.em) :
    rowOff m i + m.rowBytes ≤ rowOff m j := by
  rcases h with h | h
  · omega
  · unfold rowOff
    have := Nat.mul_le_mul_right (m.pitch.extractLsb' 0 32).toNat (show i + 1 ≤ j from hij)
    rw [Nat.succ_mul] at this
    omega

/-- The rows as they stand in memory. -/
theorem readLe_mstMem {s : State} {a : Nat} {c : Cmd} {m : MatOp} (h : m.em ≤ 1 ∨ m.rowBytes ≤ (m.pitch.extractLsb' 0 32).toNat) {i : Nat}
    (hi : i < m.em) : (mstMem s a c m m.em).readLe (spAddr a (rowOff m i)) m.rowBytes = mstRowValue s a c m i := by
  rw [mstMem, Memory.readLe_writeRows _ _ _ _ hi fun i j hij hj => .inl ?apart]
  case apart =>
    have := rowOff_apart h hij hj
    unfold spAddr
    omega
  refine Nat.mod_eq_of_lt ((packElems_lt ..).trans_le (Nat.pow_le_pow_right (by norm_num) ?_))
  rw [List.length_map, List.length_range, MatOp.rowBytes, Nat.mul_comm]
  omega

theorem mstRowValue_elem (s : State) (a : Nat) (c : Cmd) (m : MatOp) (i : Nat) {j : Nat} (hj : j < m.en) :
    mstRowValue s a c m i / 2 ^ (typeBits m.ft * j) % 2 ^ typeBits m.ft = (mstElem s a c m i j).1 % 2 ^ typeBits m.ft := by
  have := elemOf_packElems (typeBits m.ft) ((List.range m.en).map fun j => (mstElem s a c m i j).1) j (by simpa using hj)
  rw [List.getElem_map, List.getElem_range] at this
  exact this

theorem StoreFits.padWhole {s : State} {a : Nat} {m : MatOp} (h : StoreFits m) (ha : a < 192)
    (hw : ∀ off, off < 2 ^ 22 → s.isLost (padAddr a off) = false) :
    (∀ i, i < m.em → PadWhole s a (rowOff m i) m.rowBytes) ∧ PadWhole s a m.b.toNat 4 := by
  have hword := h.word
  exact ⟨fun i hi => ⟨ha, h.rows i hi, fun k hk => hw _ (by have := h.rows i hi; omega)⟩, ha, hword, fun k hk => hw _ (by omega)⟩

/-- `MST` without a barrier: its rows, then its status word. -/
theorem runMst_step {s : State} {a : Nat} {c : Cmd} {m : MatOp} (hb : c.bb = none) (fits : StoreFits m) (ha : a < 192)
    (hw : ∀ off, off < 2 ^ 22 → s.isLost (padAddr a off) = false) : PadStep s (s.runMst a c m)
      ((mstMem s a c m m.em).writeLe (spAddr a m.b.toNat) 4 ((mstStatus s a c m m.em).toNat + 2 ^ 31)) := by
  obtain ⟨rows, word⟩ := StoreFits.padWhole fits ha hw
  obtain ⟨t, ht, step⟩ := mstRows_step (c := c) rows m.em le_rfl
  unfold State.runMst
  dsimp only at ht ⊢
  rw [ht, hb]
  dsimp only
  rw [State.bbLand_none, State.bbLand_none]
  obtain ⟨-, wrote⟩ := State.spWrite_whole (step.whole word) (by norm_num) c.tenant ((mstStatus s a c m m.em).toNat + 2 ^ 31)
  rw [step.mem] at wrote
  exact step.trans wrote

theorem finishCmd_mst {s : State} {a : Nat} {c : Cmd} {m : MatOp} (hop : c.op = .mst m) : s.finishCmd a c = (s.runMst a c m).dropCmd a c.seq := by
  unfold State.finishCmd
  simp only [hop]

theorem mstFinishes {s : State} {a : Nat} {c : Cmd} {m : MatOp} (hr : Runs s a c) (hb : c.bb = none) (hop : c.op = .mst m) (fits : StoreFits m) :
    ∃ t : State, exec (.engineCommandCompletion a c.seq) s = .next t
      ∧ (∀ i j, i < m.em → j < m.en →
        padBytes t a (rowOff m i) m.rowBytes / 2 ^ (typeBits m.ft * j) % 2 ^ typeBits m.ft = (mstElem s a c m i j).1 % 2 ^ typeBits m.ft)
      ∧ (let w := padBytes t a m.b.toNat 4
        w.testBit 31 = true ∧ (∀ k, 7 ≤ k → k < 31 → w.testBit k = false)
          ∧ ∀ k, k < 7 → (w.testBit k = true ↔ bankFlag s a m k = true ∨ ∃ i j, i < m.em ∧ j < m.en
            ∧ ((tileFlags (mstElem s a c m i j).2).getLsbD k = true ∨ k = 5 ∧ isNanPattern (mstElem s a c m i j).1 m.ft = true)))
      ∧ (∀ x, OutsidePads a x ((m.b.toNat, 4) :: (List.range m.em).map fun i => (rowOff m i, m.rowBytes)) → t.mem.read x = s.mem.read x)
      ∧ t.acc = s.acc ∧ Left s t a c := by
  have step := runMst_step (c := c) hb fits hr.quad hr.whole
  have mem : ((s.runMst a c m).dropCmd a c.seq).mem = _ := step.mem
  refine ⟨(s.runMst a c m).dropCmd a c.seq, by rw [exec_completion_of_runs hr (by simp [hop]), finishCmd_mst hop], fun i j hi hj => ?_, ?_,
    fun x hx => ?_, step.acc, left_dropCmd (step.cmds a)⟩
  · have apart := fits.apart i hi
    have row : padBytes ((s.runMst a c m).dropCmd a c.seq) a (rowOff m i) m.rowBytes = mstRowValue s a c m i := by
      rw [padBytes, mem, ← readLe_mstMem fits.pitch hi]
      refine Memory.readLe_writeLe_outside _ ?_
      unfold Apart at apart
      unfold spAddr padAddr
      omega
    rw [row, mstRowValue_elem s a c m i hj]
  · have word : padBytes ((s.runMst a c m).dropCmd a c.seq) a m.b.toNat 4 = (mstStatus s a c m m.em).toNat + 2 ^ 31 := by
      have := (mstStatus s a c m m.em).isLt
      rw [padBytes, mem]
      refine (Memory.readLe_writeLe ..).trans (Nat.mod_eq_of_lt ?_)
      norm_num
      omega
    obtain ⟨done, bits⟩ := statusWord_testBit (mstStatus s a c m m.em)
    rw [word]
    exact ⟨done, fun k h7 h31 => (bits k h31).trans (BitVec.getLsbD_of_ge _ _ h7), fun k hk => by rw [bits k (by omega), getLsbD_mstStatus]⟩
  · rw [mem, Memory.read_writeLe_outside, mstMem, Memory.read_writeRows_outside]
    · intro i hi
      exact hx (rowOff m i, m.rowBytes) (List.mem_cons_of_mem _ (List.mem_map.2 ⟨i, List.mem_range.2 hi, rfl⟩))
    · exact hx (m.b.toNat, 4) (List.mem_cons_self ..)

end Sys2Proof
end

section
/-! `SSTORE` as it finishes (R280), and what a command counts at its barrier as it leaves (R265, R294). -/
namespace Sys2Proof
open Machine

/-! ### `SSTORE` -/

/-- The cell that `SSTORE` stores k-th. -/
def storedCell (s : State) (a : Nat) (raw : Bool) (k : Nat) : SettCell :=
  (s.settArray a).getD (if raw then k else snakeCell k) SettCell.reset

/-- It is stored as it is, and not as a pad. -/
def fullCell (s : State) (a : Nat) (raw : Bool) (k : Nat) : Prop :=
  (s.quadAt a).sett.loaded = true ∧ (storedCell s a raw k).pad = false

/-- A pad, or a cell of an array that is not loaded. -/
def emptyCell (s : State) (a : Nat) (x : SettCell) : Bool := x.pad || !(s.quadAt a).sett.loaded

theorem emptyCell_of_full {s : State} {a : Nat} {raw : Bool} {k : Nat} (h : fullCell s a raw k) : emptyCell s a (storedCell s a raw k) = false := by
  rw [emptyCell, h.1, h.2]
  rfl

theorem emptyCell_of_not_full {s : State} {a : Nat} {raw : Bool} {k : Nat} (h : ¬fullCell s a raw k) :
    emptyCell s a (storedCell s a raw k) = true := by
  cases he : emptyCell s a (storedCell s a raw k)
  · rw [emptyCell, Bool.or_eq_false_iff, Bool.not_eq_false'] at he
    exact absurd ⟨he.2, he.1⟩ h
  · rfl

/-- The keys that `SSTORE` stores, and the positions. -/
def storedKeys (s : State) (a n : Nat) (raw : Bool) : Nat :=
  packElems 64 ((s.storedCells a n raw).map fun x => if emptyCell s a x then 0 else x.bits.toNat)
def storedPositions (s : State) (a n : Nat) (raw : Bool) : Nat :=
  packElems 16 ((s.storedCells a n raw).map fun x => if emptyCell s a x then 0xFFFF else x.pos)

/-- A member of what is stored, of w bits. -/
theorem packed_storedCells (s : State) (a n : Nat) (raw : Bool) (w : Nat) (f : SettCell → Nat) {k : Nat} (hk : k < n) :
    packElems w ((s.storedCells a n raw).map f) / 2 ^ (w * k) % 2 ^ w = f (storedCell s a raw k) % 2 ^ w := by
  have := elemOf_packElems w ((s.storedCells a n raw).map f) k (by simpa [State.storedCells] using hk)
  simp only [State.storedCells, List.getElem_map, List.getElem_range] at this
  exact this

/-- Memory after `SSTORE`, before what it counts at a barrier. -/
def sstoreMem (s : State) (a dst n pos : Nat) (hasPos raw : Bool) : Memory :=
  if hasPos then (s.mem.writeLe (spAddr a dst) (8 * n) (storedKeys s a n raw)).writeLe (spAddr a pos) (2 * n) (storedPositions s a n raw)
  else s.mem.writeLe (spAddr a dst) (8 * n) (storedKeys s a n raw)

/-- What `SSTORE` does before it counts at a barrier: nothing that it stores is lost. -/
theorem runSstore_step {s : State} {a : Nat} {c : Cmd} {dst n pos : Nat} {hasPos raw : Bool} (hd : PadWhole s a dst (8 * n))
    (hp : hasPos = true → PadWhole s a pos (2 * n)) : ∃ t, PadStep s t (sstoreMem s a dst n pos hasPos raw)
      ∧ s.runSstore a c dst n pos hasPos raw = t.bbLand c.tenant a c.bb (8 * n + if hasPos then 2 * n else 0)
        (if (s.quadAt a).sett.lostLatch then lostFlag else 0) false false := by
  obtain ⟨kept, keys⟩ := State.spLand_whole hd c.tenant (8 * n / 128 + 2) (storedKeys s a n raw) fun _ => by omega
  unfold State.runSstore
  cases hasPos with
  | false =>
    refine ⟨_, keys, ?_⟩
    rw [storedKeys] at kept
    unfold emptyCell at kept
    simp only [kept, Bool.false_eq_true, if_false, Bool.false_or]
    rfl
  | true =>
    obtain ⟨kept', positions⟩ := State.spLand_whole (keys.whole (hp rfl)) c.tenant (2 * n / 128 + 2) (storedPositions s a n raw) fun _ => by omega
    rw [keys.mem] at positions
    refine ⟨_, keys.trans positions, ?_⟩
    rw [storedKeys, storedPositions] at kept'
    rw [storedKeys] at kept
    unfold emptyCell at kept kept'
    simp only [kept, kept', if_true, Bool.false_or]
    rfl

theorem finishCmd_sstore {s : State} {a : Nat} {c : Cmd} {dst n pos : Nat} {hasPos raw : Bool} (hop : c.op = .sstore dst n pos hasPos raw) :
    s.finishCmd a c = (s.runSstore a c dst n pos hasPos raw).dropCmd a c.seq := by
  unfold State.finishCmd
  simp only [hop]

theorem padBytes_keys {s t : State} {a dst n pos : Nat} {hasPos raw : Bool} (hmem : t.mem = sstoreMem s a dst n pos hasPos raw)
    (apart : hasPos = true → Apart dst (8 * n) pos (2 * n)) {k : Nat} (hk : k < n) :
    padBytes t a (dst + 8 * k) 8 = if emptyCell s a (storedCell s a raw k) then 0 else (storedCell s a raw k).bits.toNat := by
  have key : (s.mem.writeLe (spAddr a dst) (8 * n) (storedKeys s a n raw)).readLe (spAddr a (dst + 8 * k)) 8
      = if emptyCell s a (storedCell s a raw k) then 0 else (storedCell s a raw k).bits.toNat := by
    rw [← spAddr_add, Memory.readLe_writeLe_part _ _ _ _ _ _ (by omega), storedKeys, ← Nat.mul_assoc, packed_storedCells _ _ _ _ _ _ hk]
    refine Nat.mod_eq_of_lt ?_
    split
    · norm_num
    · exact BitVec.isLt _
  rw [padBytes, hmem, ← key, sstoreMem]
  split
  next h =>
    have := apart h
    refine Memory.readLe_writeLe_outside _ ?_
    unfold Apart at this
    unfold padAddr spAddr
    omega
  next => rfl

theorem padBytes_positions {s t : State} {a dst n pos : Nat} {raw : Bool} (hmem : t.mem = sstoreMem s a dst n pos true raw) {k : Nat}
    (hk : k < n) : padBytes t a (pos + 2 * k) 2 = (if emptyCell s a (storedCell s a raw k) then 0xFFFF else (storedCell s a raw k).pos) % 2 ^ 16 := by
  rw [padBytes, hmem, sstoreMem, if_pos rfl]
  have piece := Memory.readLe_writeLe_part (s.mem.writeLe (spAddr a dst) (8 * n) (storedKeys s a n raw)) (spAddr a pos) (2 * n)
    (storedPositions s a n raw) (2 * k) 2 (by omega)
  rw [storedPositions, ← Nat.mul_assoc, packed_storedCells _ _ _ _ _ _ hk, spAddr_add] at piece
  exact piece

theorem sstoreFinishes {s : State} {a : Nat} {c : Cmd} {dst n pos : Nat} {hasPos raw : Bool} (hr : Runs s a c) (hb : c.bb = none)
    (hop : c.op = .sstore dst n pos hasPos raw) (hin : dst + 8 * n ≤ 2 ^ 22)
    (hpos : hasPos = true → pos + 2 * n ≤ 2 ^ 22 ∧ Apart dst (8 * n) pos (2 * n)) :
    ∃ t : State, exec (.engineCommandCompletion a c.seq) s = .next t
      ∧ (∀ k, k < n → (fullCell s a raw k → padBytes t a (dst + 8 * k) 8 = (storedCell s a raw k).bits.toNat)
        ∧ (¬fullCell s a raw k → padBytes t a (dst + 8 * k) 8 = 0))
      ∧ (hasPos = true → ∀ k, k < n → (fullCell s a raw k → padBytes t a (pos + 2 * k) 2 = (storedCell s a raw k).pos % 2 ^ 16)
        ∧ (¬fullCell s a raw k → padBytes t a (pos + 2 * k) 2 = 0xFFFF))
      ∧ (∀ x, OutsidePads a x ((dst, 8 * n) :: if hasPos then [(pos, 2 * n)] else []) → t.mem.read x = s.mem.read x)
      ∧ t.sett = s.sett ∧ Left s t a c := by
  obtain ⟨t, step, ran⟩ := runSstore_step (c := c) (raw := raw) ⟨hr.quad, hin, fun i hi => hr.whole _ (by omega)⟩ fun h =>
    ⟨hr.quad, (hpos h).1, fun i hi => hr.whole _ (by have := (hpos h).1; omega)⟩
  rw [hb, State.bbLand_none] at ran
  have mem : (t.dropCmd a c.seq).mem = _ := step.mem
  refine ⟨t.dropCmd a c.seq, by rw [exec_completion_of_runs hr (by simp [hop]), finishCmd_sstore hop, ran], fun k hk => ⟨fun hf => ?_, fun hf => ?_⟩,
    fun hp k hk => ?_, fun x hx => ?_, step.sett, left_dropCmd (step.cmds a)⟩
  · rw [padBytes_keys mem (fun h => (hpos h).2) hk, emptyCell_of_full hf]
    rfl
  · rw [padBytes_keys mem (fun h => (hpos h).2) hk, emptyCell_of_not_full hf]
    rfl
  · subst hp
    refine ⟨fun hf => ?_, fun hf => ?_⟩
    · rw [padBytes_positions mem hk, emptyCell_of_full hf]
      rfl
    · rw [padBytes_positions mem hk, emptyCell_of_not_full hf]
      rfl
  · have keys := hx (dst, 8 * n) (List.mem_cons_self ..)
    rw [mem, sstoreMem]
    split
    next h =>
      subst h
      have positions := hx (pos, 2 * n) (by simp)
      exact (Memory.read_writeLe_outside _ _ _ _ _ positions).trans (Memory.read_writeLe_outside _ _ _ _ _ keys)
    next => exact Memory.read_writeLe_outside _ _ _ _ _ keys

theorem storeCommandsFinish : Parts.StoreCommandsFinish :=
  ⟨fun _ _ _ _ hr hb hop fits => mstFinishes hr hb hop fits,
    fun _ _ _ _ _ _ _ _ hr hb hop _ hin hpos => sstoreFinishes hr hb hop hin hpos⟩

end Sys2Proof
end

section
/-! What a command counts at its barrier as it leaves (R263, R265, R294). -/
namespace Sys2Proof
open Machine

/-! ### The count on the word of a barrier -/

/-- The word v is b with n bytes more arrived (R265). -/
def BarrierCount (b v n : Nat) : Prop :=
  v % 2 ^ 32 = b % 2 ^ 32 ∧ v / 2 ^ 65 = b / 2 ^ 65
    ∧ (b % 2 ^ 32 ≠ 0 → v / 2 ^ 32 % 2 ^ 32 = (b / 2 ^ 32 % 2 ^ 32 + n) % (b % 2 ^ 32)
      ∧ v.testBit 64 = (b.testBit 64 != ((b / 2 ^ 32 % 2 ^ 32 + n) / (b % 2 ^ 32) % 2 == 1)))
    ∧ (b % 2 ^ 32 = 0 → v / 2 ^ 32 % 2 ^ 32 = (b / 2 ^ 32 % 2 ^ 32 + n) % 2 ^ 32 ∧ v.testBit 64 = b.testBit 64)

theorem setField_arrived (b v : Nat) : setField b 32 32 v = b % 2 ^ 32 + v % 2 ^ 32 * 2 ^ 32 + b / 2 ^ 64 * 2 ^ 64 := by
  unfold setField fieldN
  omega

theorem setField_phase (b v : Nat) : setField b 64 1 v = b % 2 ^ 64 + v % 2 * 2 ^ 64 + b / 2 ^ 65 * 2 ^ 65 := by
  unfold setField fieldN
  omega

theorem testBit_sixtyfour (b : Nat) : b.testBit 64 = decide (b / 2 ^ 64 % 2 = 1) := Nat.testBit_eq_decide_div_mod_eq ..

theorem bne_parity (p q : Nat) : (decide ((p + q) % 2 = 1)) = (decide (p % 2 = 1) != (q % 2 == 1)) := by
  rcases Nat.mod_two_eq_zero_or_one p with hp | hp <;> rcases Nat.mod_two_eq_zero_or_one q with hq | hq <;> simp [Nat.add_mod, hp, hq]

theorem bne_bne_parity (c : Bool) (p q : Nat) : ((c != (p % 2 == 1)) != (q % 2 == 1)) = (c != ((p + q) % 2 == 1)) := by
  rcases Nat.mod_two_eq_zero_or_one p with hp | hp <;> rcases Nat.mod_two_eq_zero_or_one q with hq | hq <;> simp [Nat.add_mod, hp, hq]

theorem phase_toNat (b : Nat) : (bbPhase b).toNat = b / 2 ^ 64 % 2 := by
  unfold bbPhase fieldN
  generalize b / 2 ^ 64 = x
  rcases Nat.mod_two_eq_zero_or_one x with h | h <;> simp [h]

theorem bbCount_counts {b : Nat} (hb : b < 2 ^ 128) (n : Nat) : BarrierCount b (bbCount b n) n ∧ bbCount b n < 2 ^ 128 := by
  unfold bbCount
  dsimp only
  have he : bbExpect b = b % 2 ^ 32 := by
    unfold bbExpect fieldN
    rw [pow_zero, Nat.div_one]
  have hy : bbArrived b = b / 2 ^ 32 % 2 ^ 32 := rfl
  rw [he, hy]
  set x := b / 2 ^ 32 % 2 ^ 32 + n
  split
  next h0 =>
    rw [setField_arrived]
    have high : (b % 2 ^ 32 + x % 2 ^ 32 * 2 ^ 32 + b / 2 ^ 64 * 2 ^ 64) / 2 ^ 64 = b / 2 ^ 64 := by omega
    refine ⟨⟨by omega, by omega, fun h => absurd h0 h, fun _ => ⟨by omega, ?_⟩⟩, by omega⟩
    rw [testBit_sixtyfour, testBit_sixtyfour, high]
  next h0 =>
    have small : x % (b % 2 ^ 32) < 2 ^ 32 := (Nat.mod_lt _ (Nat.pos_of_ne_zero h0)).trans (by omega)
    rw [setField_phase, setField_arrived, phase_toNat]
    generalize hd : x / (b % 2 ^ 32) = d at *
    generalize hr : x % (b % 2 ^ 32) = r at *
    set v := (b % 2 ^ 32 + r % 2 ^ 32 * 2 ^ 32 + b / 2 ^ 64 * 2 ^ 64) % 2 ^ 64 + (b / 2 ^ 64 % 2 + d) % 2 * 2 ^ 64
      + (b % 2 ^ 32 + r % 2 ^ 32 * 2 ^ 32 + b / 2 ^ 64 * 2 ^ 64) / 2 ^ 65 * 2 ^ 65 with hv
    have phase : v / 2 ^ 64 % 2 = (b / 2 ^ 64 % 2 + d) % 2 := by omega
    refine ⟨⟨by omega, by omega, fun _ => ⟨?_, ?_⟩, fun h => absurd h h0⟩, by omega⟩
    · rw [hr]
      omega
    · rw [hd, testBit_sixtyfour, testBit_sixtyfour, phase, bne_parity, Nat.mod_mod]

/-- Two landings count together. -/
theorem BarrierCount.trans {b v w n k : Nat} (h : BarrierCount b v n) (h' : BarrierCount v w k) : BarrierCount b w (n + k) := by
  obtain ⟨e, top, some, none⟩ := h
  obtain ⟨e', top', some', none'⟩ := h'
  rw [e] at e' some' none'
  refine ⟨e', top'.trans top, fun h0 => ?_, fun h0 => ?_⟩
  · obtain ⟨arrived, phase⟩ := some h0
    obtain ⟨arrived', phase'⟩ := some' h0
    set y := b / 2 ^ 32 % 2 ^ 32
    set x := b % 2 ^ 32
    have turns : (y + (n + k)) / x = (y + n) / x + ((y + n) % x + k) / x := by
      conv_lhs => rw [← Nat.add_assoc, ← Nat.div_add_mod (y + n) x, Nat.add_assoc]
      exact Nat.mul_add_div (Nat.pos_of_ne_zero h0) _ _
    refine ⟨by rw [arrived', arrived, Nat.mod_add_mod, Nat.add_assoc], ?_⟩
    rw [phase', phase, arrived, turns]
    exact bne_bne_parity ..
  · obtain ⟨arrived, phase⟩ := none h0
    obtain ⟨arrived', phase'⟩ := none' h0
    exact ⟨by rw [arrived', arrived, Nat.mod_add_mod, Nat.add_assoc], phase'.trans phase⟩

/-! ### A landing at a barrier -/

theorem padWhole_barrier {s : State} {a off : Nat} (ha : a < 192) (h : BarrierPlace off) (hl : s.isLost (padAddr a off) = false) :
    PadWhole s a off 16 := by
  obtain ⟨halign, hin⟩ := h
  refine ⟨ha, hin, fun i hi => ?_⟩
  have one : spAddr a (off + i) / 128 = spAddr a off / 128 := by
    unfold spAddr
    omega
  have here : s.isLost (spAddr a off) = false := hl
  rw [State.isLost, (inScratch_spAddr ha (by omega)).home, Bool.false_or] at here ⊢
  rw [one, here]

theorem padWhole_congr {s u : State} {a off n : Nat} (h : PadWhole s a off n) (hh : u.homes = s.homes) : PadWhole u a off n := by
  have inside := h.inside
  refine ⟨h.quad, inside, fun i hi => ?_⟩
  have kept := h.kept i hi
  have here : InScratch (spAddr a (off + i)) := inScratch_spAddr h.quad (by omega)
  rw [State.isLost, here.home, Bool.false_or] at kept ⊢
  rw [hh, kept]

/-- A landing of n bytes, with no condition, at a barrier that is not lost. -/
theorem bbLand_counts {s : State} {a off n : Nat} (h : PadWhole s a off 16) (hn : 0 < n) (tenant : Nat) :
    PadStep s (s.bbLand tenant a (some off) n 0 false false) (s.mem.writeLe (spAddr a off) 16 (bbCount (barrierBytes s a off) n)) := by
  have read : s.bbRead a off = barrierBytes s a off := by
    rw [State.bbRead, State.spRead_whole h]
    rfl
  have here : s.isLost (spAddr a off) = false := h.kept 0 (by norm_num)
  unfold State.bbLand
  dsimp only
  rw [if_neg (by rw [here]; exact Bool.false_ne_true), read, if_neg (by omega)]
  have plain : barrierBytes s a off ||| (0 : TileFlags).toNat * 2 ^ 69 ||| false.toNat * 2 ^ 76 ||| false.toNat * 2 ^ 77 = barrierBytes s a off := by
    simp
  rw [plain]
  exact (State.spWrite_whole h (by norm_num) tenant _).2

theorem barrierBytes_lt (s : State) (a off : Nat) : barrierBytes s a off < 2 ^ 128 := Memory.readLe_lt ..

theorem countsBytes_of_landed {s t : State} {a off n : Nat} (hmem : t.mem = s.mem.writeLe (spAddr a off) 16 (bbCount (barrierBytes s a off) n)) :
    CountsBytes s t a off n := by
  obtain ⟨counts, small⟩ := bbCount_counts (barrierBytes_lt s a off) n
  have after : barrierBytes t a off = bbCount (barrierBytes s a off) n := by
    rw [barrierBytes, hmem]
    refine (Memory.readLe_writeLe ..).trans (Nat.mod_eq_of_lt ?_)
    norm_num at small ⊢
    exact small
  show BarrierCount _ (barrierBytes t a off) n
  rw [after]
  exact counts

theorem CountsBytes.congr_left {s u t : State} {a off n : Nat} (h : CountsBytes u t a off n) (hb : barrierBytes u a off = barrierBytes s a off) :
    CountsBytes s t a off n := by
  have counts : BarrierCount (barrierBytes u a off) (barrierBytes t a off) n := h
  rw [hb] at counts
  exact counts

/-! ### Commands that leave with their bytes counted -/

/-- What a command does before it counts, as its barrier and its unit see it. -/
structure Counting (s u : State) (a off : Nat) : Prop where
  word : barrierBytes u a off = barrierBytes s a off
  cmds : (u.quadAt a).cmds = (s.quadAt a).cmds
  homes : u.homes = s.homes

theorem Counting.of_mem {s u : State} {a off : Nat} (hmem : u.mem = s.mem) (hcmds : (u.quadAt a).cmds = (s.quadAt a).cmds)
    (hhomes : u.homes = s.homes) : Counting s u a off := ⟨by rw [barrierBytes, hmem, barrierBytes], hcmds, hhomes⟩

theorem State.mem_dropCmd (s : State) (a seq : Nat) : (s.dropCmd a seq).mem = s.mem := rfl

/-- The landing at the barrier, and the command's leaving. -/
theorem Counting.counts {s u : State} {a off n : Nat} {c : Cmd} (h : Counting s u a off) (hw : PadWhole s a off 16) (hn : 0 < n) :
    Left s ((u.bbLand c.tenant a (some off) n 0 false false).dropCmd a c.seq) a c
      ∧ CountsBytes s ((u.bbLand c.tenant a (some off) n 0 false false).dropCmd a c.seq) a off n := by
  have step := bbLand_counts (padWhole_congr hw h.homes) hn c.tenant
  refine ⟨left_dropCmd ((step.cmds a).trans h.cmds), CountsBytes.congr_left (countsBytes_of_landed ?_) h.word⟩
  exact (State.mem_dropCmd ..).trans step.mem

theorem bbLandOf_own {s : State} {a n : Nat} {c : Cmd} {f : TileFlags} {x y : Bool} (h : ∀ d, c.op ≠ .hsend d) :
    s.bbLandOf a c n f x y = s.bbLand c.tenant a c.bb n f x y := by
  unfold State.bbLandOf State.bbAgent
  cases hop : c.op with
  | hsend d => exact absurd hop (h d)
  | _ => rfl

/-- A command whose effect comes first, and then its count. -/
theorem counts_of_effect {s u : State} {a off n : Nat} {c : Cmd} (hr : Runs s a c) (hb : c.bb = some off) (hp : BarrierPlace off) (hn : 0 < n)
    (hop : c.op ≠ .marker) (hsend : ∀ d, c.op ≠ .hsend d) (h : Counting s u a off)
    (hf : s.finishCmd a c = (u.bbLandOf a c n 0 false false).dropCmd a c.seq) :
    ∃ t : State, exec (.engineCommandCompletion a c.seq) s = .next t ∧ Left s t a c ∧ CountsBytes s t a off n := by
  obtain ⟨left, counts⟩ := h.counts (c := c) (padWhole_barrier hr.quad hp (hr.whole off (by have := hp.2; omega))) hn
  exact ⟨_, by rw [exec_completion_of_runs hr hop, hf, bbLandOf_own hsend, hb], left, counts⟩

/-! ### The effects -/

theorem MatOp.sizes (m : MatOp) : 1 ≤ m.em ∧ 1 ≤ m.en := by
  unfold MatOp.em MatOp.en shapeM shapeN
  constructor <;> split <;> omega

theorem MatOp.counted_pos (m : MatOp) : 0 < m.counted := by
  obtain ⟨hm, hn⟩ := MatOp.sizes m
  unfold MatOp.counted
  positivity

theorem MatOp.rowBytes_pos (m : MatOp) : 0 < m.rowBytes := by
  have := Nat.mul_le_mul (MatOp.sizes m).2 (typeBits_pos m.ft)
  unfold MatOp.rowBytes
  omega

theorem Wrote.counting {s u : State} {a : Nat} {m : MatOp} {v : Nat → Nat → Nat} {flag : Nat → Prop} (h : Wrote s u a m v flag) (off : Nat) :
    Counting s u a off := .of_mem h.mem (h.cmds a) h.homes

/-- `MLD`, of whatever it reads. -/
theorem runMld_counting (s : State) (a tenant : Nat) (m : MatOp) (off : Nat) : Counting s (s.runMld a tenant m) a off := by
  have pass (l : List (Nat × Nat)) (acc : SMap (BitVec 32)) (f : TileFlags) : ∃ acc' f', l.foldl (fun (r : State × TileFlags) ij =>
      let x := r.1.spRead a (m.a.toNat + ij.1 * fieldN m.pitch.toNat 0 32 + 4 * ij.2) 4
      (r.1.setAcc a m.bank (m.row0 + ij.1) (m.col0 + ij.2) x.1, if x.2 then lostFlag else r.2)) (s.withAcc acc, f) = (s.withAcc acc', f') := by
    induction l generalizing acc f with
    | nil => exact ⟨acc, f, rfl⟩
    | cons x l ih => exact ih _ _
  obtain ⟨acc, f, h⟩ := pass m.cells s.acc 0
  have ran : s.runMld a tenant m = (((s.withAcc acc).raiseBank a m.bank f).countLost tenant f) := by
    unfold State.runMld
    exact congrArg (fun r : State × TileFlags => (r.1.raiseBank a m.bank r.2).countLost tenant r.2) h
  obtain ⟨-, quads, mem, -, homes⟩ := State.countLost_rest ((s.withAcc acc).raiseBank a m.bank f) tenant f
  rw [ran]
  refine .of_mem mem ?_ homes
  rw [State.quadAt_congr quads, State.cmds_raiseBank]
  rfl

theorem runSload_counting (s : State) (a tenant src n off : Nat) : Counting s (s.runSload a tenant src n) a off := by
  unfold State.runSload
  extract_lets r filled q counted
  obtain ⟨-, -, mem, -, homes⟩ := State.countLost_rest filled tenant (if r.2 then lostFlag else 0)
  refine .of_mem mem ?_ homes
  rw [State.quadAt_setQuad, if_pos rfl]
  rfl

theorem finishSort_counting (s : State) (a : Nat) (c : Cmd) (off : Nat) : Counting s (s.finishSort a c) a off := by
  refine .of_mem rfl ?_ rfl
  rw [State.finishSort, State.quadAt_setQuad, if_pos rfl]
  rfl

/-! ### The commands of Ashlar and Sett -/

theorem matrixCounts {s : State} {a off : Nat} {c : Cmd} {m : MatOp} (hr : Runs s a c) (hb : c.bb = some off) (hp : BarrierPlace off)
    (hop : c.op = .mzero m ∨ c.op = .mld m ∨ c.op = .mma m ∧ m.joint = false) :
    ∃ t : State, exec (.engineCommandCompletion a c.seq) s = .next t ∧ Left s t a c ∧ CountsBytes s t a off (4 * m.em * m.en) := by
  rcases hop with hop | hop | ⟨hop, hj⟩
  · refine counts_of_effect hr hb hp (MatOp.counted_pos m) (by simp [hop]) (by simp [hop]) ((runMzero_wrote s a m).counting off) ?_
    unfold State.finishCmd
    simp only [hop]
    rfl
  · refine counts_of_effect hr hb hp (MatOp.counted_pos m) (by simp [hop]) (by simp [hop]) (runMld_counting s a c.tenant m off) ?_
    unfold State.finishCmd
    simp only [hop]
    rfl
  · refine counts_of_effect hr hb hp (MatOp.counted_pos m) (by simp [hop]) (by simp [hop])
      ((matProduct_wrote s a c.tenant m m.allChunks (fun i j => [(s.matAOf a m c.gen i, s.matB a m j)]) (s.bankExtra a m c.gen)).counting off) ?_
    unfold State.finishCmd
    simp only [hop, hj, Bool.false_eq_true, if_false]
    rfl

theorem loadCounts {s : State} {a off src n : Nat} {c : Cmd} (hr : Runs s a c) (hb : c.bb = some off) (hp : BarrierPlace off)
    (hop : c.op = .sload src n) :
    ∃ t : State, exec (.engineCommandCompletion a c.seq) s = .next t ∧ Left s t a c ∧ CountsBytes s t a off 131072 := by
  refine counts_of_effect hr hb hp (by norm_num) (by simp [hop]) (by simp [hop]) (runSload_counting s a c.tenant src n off) ?_
  unfold State.finishCmd
  simp only [hop]

theorem sortCounts {s : State} {a off ty nph : Nat} {desc canz : Bool} {c : Cmd} (hr : Runs s a c) (hb : c.bb = some off) (hp : BarrierPlace off)
    (hop : c.op = .ssort ty desc canz nph) :
    ∃ t : State, exec (.engineCommandCompletion a c.seq) s = .next t ∧ Left s t a c ∧ CountsBytes s t a off 131072 := by
  refine counts_of_effect hr hb hp (by norm_num) (by simp [hop]) (by simp [hop]) (finishSort_counting s a c off) ?_
  unfold State.finishCmd
  simp only [hop]

/-- A barrier apart from what is written reads as before. -/
theorem barrierBytes_of_apart {s t : State} {m : Memory} {a off b n v : Nat} (h : PadStep s t (m.writeLe (spAddr a b) n v)) (hm : m = s.mem)
    (ha : Apart b n off 16) : barrierBytes t a off = barrierBytes s a off := by
  subst hm
  rw [barrierBytes, h.mem]
  refine Memory.readLe_writeLe_outside _ ?_
  unfold Apart at ha
  unfold spAddr
  omega

theorem barrierBytes_mstRows {s t : State} {a off : Nat} {c : Cmd} {m : MatOp} (h : PadStep s t (mstMem s a c m m.em))
    (ha : ∀ i, i < m.em → Apart (rowOff m i) m.rowBytes off 16) : barrierBytes t a off = barrierBytes s a off := by
  rw [barrierBytes, h.mem, mstMem]
  refine Memory.readLe_congr fun i hi => Memory.read_writeRows_outside _ _ _ _ fun r hr => ?_
  have := ha r hr
  unfold Apart at this
  unfold spAddr
  omega

theorem storeCounts {s : State} {a off : Nat} {c : Cmd} {m : MatOp} (hr : Runs s a c) (hb : c.bb = some off) (hp : BarrierPlace off)
    (hop : c.op = .mst m) (fits : StoreFits m) (hword : Apart m.b.toNat 4 off 16)
    (hrows : ∀ i, i < m.em → Apart (rowOff m i) m.rowBytes off 16) :
    ∃ t : State, exec (.engineCommandCompletion a c.seq) s = .next t ∧ Left s t a c ∧ CountsBytes s t a off (m.em * m.rowBytes + 4) := by
  obtain ⟨rows, word⟩ := StoreFits.padWhole (s := s) fits hr.quad hr.whole
  obtain ⟨t, ht, step⟩ := mstRows_step (c := c) rows m.em le_rfl
  have barrier : PadWhole s a off 16 := padWhole_barrier hr.quad hp (hr.whole off (by have := hp.2; omega))
  have landed := bbLand_counts (step.whole barrier) (Nat.mul_pos (MatOp.sizes m).1 (MatOp.rowBytes_pos m)) c.tenant
  set t₁ := t.bbLand c.tenant a (some off) (m.em * m.rowBytes) 0 false false
  obtain ⟨-, wrote⟩ := State.spWrite_whole (landed.whole (step.whole word)) (by norm_num) c.tenant ((mstStatus s a c m m.em).toNat + 2 ^ 31)
  set t₂ := (t₁.spWrite c.tenant a m.b.toNat 4 ((mstStatus s a c m m.em).toNat + 2 ^ 31)).1
  have landed' := bbLand_counts (wrote.whole (landed.whole (step.whole barrier))) (show 0 < 4 by norm_num) c.tenant
  have ran : s.runMst a c m = t₂.bbLand c.tenant a (some off) 4 0 false false := by
    unfold State.runMst
    dsimp only at ht ⊢
    rw [ht, hb]
  refine ⟨(t₂.bbLand c.tenant a (some off) 4 0 false false).dropCmd a c.seq, ?_, ?_, ?_⟩
  · rw [exec_completion_of_runs hr (by simp [hop]), finishCmd_mst hop, ran]
  · exact left_dropCmd ((landed'.cmds a).trans ((wrote.cmds a).trans ((landed.cmds a).trans (step.cmds a))))
  · have first : CountsBytes s t₁ a off (m.em * m.rowBytes) :=
      CountsBytes.congr_left (countsBytes_of_landed landed.mem) (barrierBytes_mstRows step hrows)
    have second : CountsBytes t₁ ((t₂.bbLand c.tenant a (some off) 4 0 false false).dropCmd a c.seq) a off 4 :=
      CountsBytes.congr_left (countsBytes_of_landed ((State.mem_dropCmd ..).trans landed'.mem)) (barrierBytes_of_apart wrote rfl hword)
    exact BarrierCount.trans first second

theorem settStoreCounts {s : State} {a off dst n pos : Nat} {hasPos raw : Bool} {c : Cmd} (hr : Runs s a c) (hb : c.bb = some off)
    (hp : BarrierPlace off) (hop : c.op = .sstore dst n pos hasPos raw) (hn : 1 ≤ n) (hin : dst + 8 * n ≤ 2 ^ 22)
    (hapart : Apart dst (8 * n) off 16) (hpos : hasPos = true → pos + 2 * n ≤ 2 ^ 22 ∧ Apart pos (2 * n) off 16)
    (hlatch : (s.quadAt a).sett.lostLatch = false) :
    ∃ t : State, exec (.engineCommandCompletion a c.seq) s = .next t ∧ Left s t a c
      ∧ CountsBytes s t a off (8 * n + if hasPos then 2 * n else 0) := by
  obtain ⟨t, step, ran⟩ := runSstore_step (c := c) (raw := raw) ⟨hr.quad, hin, fun i hi => hr.whole _ (by omega)⟩ fun h =>
    ⟨hr.quad, (hpos h).1, fun i hi => hr.whole _ (by have := (hpos h).1; omega)⟩
  rw [hb, hlatch, if_neg Bool.false_ne_true] at ran
  have barrier : PadWhole s a off 16 := padWhole_barrier hr.quad hp (hr.whole off (by have := hp.2; omega))
  have word : barrierBytes t a off = barrierBytes s a off := by
    unfold Apart at hapart
    rw [barrierBytes, step.mem, sstoreMem]
    split
    next h =>
      have positions := (hpos h).2
      unfold Apart at positions
      rw [Memory.readLe_writeLe_outside _ (by unfold spAddr; omega), Memory.readLe_writeLe_outside _ (by unfold spAddr; omega), barrierBytes]
    next => exact Memory.readLe_writeLe_outside _ (by unfold spAddr; omega)
  have landed := bbLand_counts (step.whole barrier) (show 0 < 8 * n + if hasPos then 2 * n else 0 by omega) c.tenant
  refine ⟨_, by rw [exec_completion_of_runs hr (by simp [hop]), finishCmd_sstore hop, ran],
    left_dropCmd ((landed.cmds a).trans (step.cmds a)), CountsBytes.congr_left (countsBytes_of_landed ?_) word⟩
  exact (State.mem_dropCmd ..).trans landed.mem

/-! ### Markers -/

theorem exec_marker {s : State} {a : Nat} {c : Cmd} (hfound : (s.quadAt a).cmdOf c.seq = some c) (hop : c.op = .marker) (hstate : c.state = .queued)
    (hheld : c.held = false) (hphase : (s.quadAt a).phase = .running) (hrel : (s.quadAt a).released c = true)
    (hbehind : ∀ id ∈ c.behind, s.accessOut a id = false) :
    exec (.engineCommandCompletion a c.seq) s = .next ((s.bbLandOf a c 4 0 false false).dropCmd a c.seq) := by
  have ready : s.cmdReady a c = true := by
    rw [State.cmdReady, QuadState.mayStart, hstate, hheld, hphase, hrel, List.all_eq_true.2 fun id hid => by rw [hbehind id hid]; rfl]
    rfl
  show execEngineCommandCompletion a c.seq s = _
  unfold execEngineCommandCompletion
  dsimp only
  rw [hfound]
  simp only [hop, beq_self_eq_true, if_true, ready, State.finishCmd]

theorem markerCounts {s : State} {a off : Nat} {c : Cmd} (ha : a < 192) (hfound : (s.quadAt a).cmdOf c.seq = some c) (hop : c.op = .marker)
    (hstate : c.state = .queued) (hheld : c.held = false) (hphase : (s.quadAt a).phase = .running) (hrel : (s.quadAt a).released c = true)
    (hbehind : ∀ id ∈ c.behind, s.accessOut a id = false) (hb : c.bb = some off) (hp : BarrierPlace off)
    (hl : s.isLost (padAddr a off) = false) :
    ∃ t : State, exec (.engineCommandCompletion a c.seq) s = .next t ∧ Left s t a c ∧ CountsBytes s t a off 4 := by
  have still : Counting s s a off := ⟨rfl, rfl, rfl⟩
  obtain ⟨left, counts⟩ := still.counts (c := c) (padWhole_barrier ha hp hl) (show 0 < 4 by norm_num)
  exact ⟨_, by rw [exec_marker hfound hop hstate hheld hphase hrel hbehind, bbLandOf_own (by simp [hop]), hb], left, counts⟩

theorem finishedCommandsCountTheirBytes : Parts.FinishedCommandsCountTheirBytes :=
  ⟨fun _ _ _ _ hr hb hp => ⟨fun _ hop => matrixCounts hr hb hp hop, fun _ _ hop => loadCounts hr hb hp hop,
      fun _ _ _ _ hop => sortCounts hr hb hp hop, fun _ hop fits hword hrows => storeCounts hr hb hp hop fits hword hrows,
      fun _ _ _ _ _ hop hn _ hin hapart hpos hlatch => settStoreCounts hr hb hp hop hn hin hapart hpos hlatch⟩,
    fun _ _ _ _ ha hfound hop hstate hheld hphase hrel hbehind hb hp hl =>
      markerCounts ha hfound hop hstate hheld hphase hrel hbehind hb hp hl⟩

/-- Settles O32: each engine's command leaves its effect, its count and the unit, by the rules of the scratchpad, the accumulators and the Sett
array. -/
theorem engineCommandsFinish : Obligations.EngineCommandsFinish :=
  ⟨matrixCommandsFinish, jointCommandsFinish, loadAndSortCommandsFinish, storeCommandsFinish, finishedCommandsCountTheirBytes⟩

end Sys2Proof
end

section
/-! What the work of the home dies leaves alone (R119 to R136): every part of the machine beyond their own, the copies, and the logs. -/
namespace Sys2Proof.Machine

/-- The state without what the homes' work may change: their own part, the copies and their recency, the snoop filter, what parties are told, the
counters and the log; and, unless `full`, without memory and the quads, which a write at a home changes too. -/
def State.beyond (full : Bool) (s : State) : State :=
  { s with
    homes := Homes.reset, copies := [], recency := []
    hub := { s.hub with snoop := [], told := [] }
    sys := { s.sys with counters := [], log := [], eltail := 0 }
    mem := if full then s.mem else [], quads := if full then s.quads else [] }

/-! ### Branches and passes -/

@[simp] theorem State.beyond_ite (m : Bool) (c : Prop) [Decidable c] (s t : State) :
    (if c then s else t).beyond m = if c then s.beyond m else t.beyond m := by
  split <;> rfl

@[simp] theorem State.beyond_foldl {α : Type} {m : Bool} {f : State → α → State} (h : ∀ s x, (f s x).beyond m = s.beyond m) (l : List α)
    (s : State) : (l.foldl f s).beyond m = s.beyond m := by
  induction l generalizing s with
  | nil => rfl
  | cons x r ih => rw [List.foldl_cons, ih, h]

@[simp] theorem State.setHomes_beyond (m : Bool) (s : State) (h : Homes) : (s.setHomes h).beyond m = s.beyond m := rfl

theorem State.setCounters_beyond (m : Bool) (s : State) (c : SMap Counter) : (s.setSys { s.sys with counters := c }).beyond m = s.beyond m := rfl

theorem State.setLog_beyond (m : Bool) (s : State) (t : Word) (l : SMap (BitVec 256)) :
    (s.setSys { s.sys with eltail := t, log := l }).beyond m = s.beyond m := rfl

/-! ### The work of a home -/

@[simp] theorem State.countN_beyond (m : Bool) (s : State) (pa n : Nat) : (s.countN pa n).beyond m = s.beyond m := by
  unfold State.countN
  split
  · rfl
  · exact State.setCounters_beyond ..

@[simp] theorem State.count1_beyond (m : Bool) (s : State) (pa : Nat) : (s.count1 pa).beyond m = s.beyond m := State.countN_beyond ..

@[simp] theorem State.logEvent_beyond (m : Bool) (s : State) (pa struct kind agent tenant : Nat) : (s.logEvent pa struct kind agent tenant).beyond m = s.beyond m := by
  simp only [State.logEvent]
  split
  · rw [State.count1_beyond]
  · exact State.setLog_beyond ..

@[simp] theorem State.logSystem_beyond (m : Bool) (s : State) (kind sub unit : Nat) : (s.logSystem kind sub unit).beyond m = s.beyond m := by simp [State.logSystem]

@[simp] theorem State.setStack_beyond (m : Bool) (s : State) (k : Nat) (l : List Nat) : (s.setStack k l).beyond m = s.beyond m := rfl

@[simp] theorem State.setCopy_beyond (m : Bool) (s : State) (a line : Nat) (c : L2Copy) : (s.setCopy a line c).beyond m = s.beyond m := rfl

@[simp] theorem State.dropCopy_beyond (m : Bool) (s : State) (a line : Nat) : (s.dropCopy a line).beyond m = s.beyond m := rfl

@[simp] theorem State.dropAllCopies_beyond (m : Bool) (s : State) (line : Nat) : (s.dropAllCopies line).beyond m = s.beyond m := rfl

@[simp] theorem State.dropOtherCopies_beyond (m : Bool) (s : State) (a line : Nat) : (s.dropOtherCopies a line).beyond m = s.beyond m := rfl

@[simp] theorem State.setDir_beyond (m : Bool) (s : State) (region : Nat) (e : DirEntry) : (s.setDir region e).beyond m = s.beyond m := by
  unfold State.setDir
  split <;> simp

@[simp] theorem State.freeDir_beyond (m : Bool) (s : State) (region : Nat) : (s.freeDir region).beyond m = s.beyond m := by
  unfold State.freeDir
  split <;> simp

@[simp] theorem State.holdDir_beyond (m : Bool) (s : State) (region : Nat) : (s.holdDir region).beyond m = s.beyond m := by
  unfold State.holdDir
  split <;> simp

@[simp] theorem State.updLine_beyond (m : Bool) (s : State) (line : Nat) (f : DirEntry → Nat → DirEntry) : (s.updLine line f).beyond m = s.beyond m := by
  simp [State.updLine]

@[simp] theorem State.markLost_beyond (m : Bool) (s : State) (line : Nat) : (s.markLost line).beyond m = s.beyond m := by simp [State.markLost]

@[simp] theorem State.setSnoop_beyond (m : Bool) (s : State) (line : Nat) (e : SnoopEntry) : (s.setSnoop line e).beyond m = s.beyond m := rfl

@[simp] theorem State.setReqs_beyond (m : Bool) (s : State) (line : Nat) (l : List Request) : (s.setReqs line l).beyond m = s.beyond m := rfl

@[simp] theorem State.setHead_beyond (m : Bool) (s : State) (line : Nat) (r : Request) : (s.setHead line r).beyond m = s.beyond m := rfl

@[simp] theorem State.fillBuffers_beyond (m : Bool) (s : State) : s.fillBuffers.beyond m = s.beyond m := by simp [State.fillBuffers]

@[simp] theorem State.dropReqs_beyond (m : Bool) (s : State) (line : Nat) (p : Request → Bool) : (s.dropReqs line p).beyond m = s.beyond m := by
  simp [State.dropReqs]

@[simp] theorem State.settleMoving_beyond (m : Bool) (s : State) : s.settleMoving.beyond m = s.beyond m := rfl

@[simp] theorem State.dropParts_beyond (m : Bool) (s : State) (no : Nat) : (s.dropParts no).beyond m = s.beyond m := by
  simp only [State.dropParts]
  (repeat' split) <;> simp

@[simp] theorem State.popReq_beyond (m : Bool) (s : State) (line : Nat) : (s.popReq line).beyond m = s.beyond m := by
  unfold State.popReq
  split <;> simp

@[simp] theorem State.appendReq_beyond (m : Bool) (s : State) (line : Nat) (r : Request) : (s.appendReq line r).beyond m = s.beyond m := by simp [State.appendReq]

@[simp] theorem State.homeWork_beyond (m : Bool) (s : State) (line : Nat) (kind : ReqKind) : (s.homeWork line kind).beyond m = s.beyond m := by
  simp [State.homeWork]

@[simp] theorem State.takePlace_beyond (m : Bool) (s : State) (line no : Nat) (kind : ReqKind) : (s.takePlace line no kind).beyond m = s.beyond m := by
  simp [State.takePlace]

@[simp] theorem State.evictCopy_beyond (m : Bool) (s : State) (a line : Nat) : (s.evictCopy a line).beyond m = s.beyond m := by
  unfold State.evictCopy
  (repeat' split) <;> simp

@[simp] theorem State.clearWay_beyond (m : Bool) (s : State) (a tenant key line : Nat) (kind : ReqKind) : (s.clearWay a tenant key line kind).beyond m = s.beyond m := by
  unfold State.clearWay
  (repeat' split) <;> simp

@[simp] theorem State.requestLine_beyond (m : Bool) (s : State) (a core tenant key line : Nat) (kind : ReqKind) :
    (s.requestLine a core tenant key line kind).beyond m = s.beyond m := by simp [State.requestLine]

@[simp] theorem State.answerBare_beyond (m : Bool) (s : State) (r : Request) (line : Nat) (write : Bool) : (s.answerBare r line write).beyond m = s.beyond m := by
  simp only [State.answerBare]
  (repeat' split) <;> simp

@[simp] theorem State.useAnswer_beyond (m : Bool) (s : State) (agent line : Nat) (write : Bool) : (s.useAnswer agent line write).beyond m = s.beyond m := by
  unfold State.useAnswer
  split <;> simp

@[simp] theorem State.askLine_beyond (m : Bool) (s : State) (core agent tenant key pa : Nat) (kind : ReqKind) :
    (s.askLine core agent tenant key pa kind).beyond m = s.beyond m := by simp [State.askLine]

@[simp] theorem State.fillL1_beyond (m : Bool) (s : State) (core a line : Nat) : (s.fillL1 core a line).beyond m = s.beyond m := by
  refine (State.beyond_foldl (fun s x => ?_) _ _).trans rfl
  split <;> rfl

@[simp] theorem State.fillLlc_beyond (m : Bool) (s : State) (core tenant key line : Nat) (modified : Bool) :
    (s.fillLlc core tenant key line modified).beyond m = s.beyond m := by
  unfold State.fillLlc
  (repeat' split) <;> simp

@[simp] theorem State.touchCopy_beyond (m : Bool) (s : State) (core a pa : Nat) (write : Bool) : (s.touchCopy core a pa write).beyond m = s.beyond m := by
  unfold State.touchCopy
  (repeat' split) <;> simp

@[simp] theorem State.trace_beyond (m : Bool) (s : State) (line agent event ans : Nat) : (s.trace line agent event ans).beyond m = s.beyond m := by
  simp [State.trace]

@[simp] theorem State.setDirT_beyond (m : Bool) (s : State) (region agent : Nat) (e : DirEntry) (line : Nat) : (s.setDirT region agent e line).beyond m = s.beyond m := by
  simp [State.setDirT]

@[simp] theorem State.updLineT_beyond (m : Bool) (s : State) (line agent : Nat) (f : DirEntry → Nat → DirEntry) : (s.updLineT line agent f).beyond m = s.beyond m := by
  simp [State.updLineT]

@[simp] theorem State.recallLines_beyond (m : Bool) (s : State) (lines : List Nat) : (s.recallLines lines).1.beyond m = s.beyond m := by simp [State.recallLines]

@[simp] theorem State.unbind_beyond (m : Bool) (s : State) (tid : Nat) (t : TileRec) : (s.unbind tid t).beyond m = s.beyond m := by simp [State.unbind]

@[simp] theorem State.putCopy_beyond (m : Bool) (s : State) (a line core tenant key : Nat) (st : CopyState) :
    (s.putCopy a line core tenant key st).beyond m = s.beyond m := by
  simp only [State.putCopy]
  (repeat' split) <;> simp

@[simp] theorem State.cleanCopy_beyond (m : Bool) (s : State) (a line : Nat) : (s.cleanCopy a line).beyond m = s.beyond m := by
  unfold State.cleanCopy
  split <;> simp

@[simp] theorem State.repairDirectory_beyond (m : Bool) (s : State) (region : Nat) : (s.repairDirectory region).beyond m = s.beyond m := by
  simp [State.repairDirectory]

@[simp] theorem State.dissolve_beyond (m : Bool) (s : State) (tid : Nat) : (s.dissolve tid).beyond m = s.beyond m := by
  unfold State.dissolve
  split <;> simp

@[simp] theorem State.finishRepair_beyond (m : Bool) (s : State) (region : Nat) : (s.finishRepair region).beyond m = s.beyond m := by simp [State.finishRepair]

@[simp] theorem State.raiseHorizon_beyond (m : Bool) (s : State) (line c : Nat) : (s.raiseHorizon line c).beyond m = s.beyond m := by
  simp only [State.raiseHorizon]
  (repeat' split) <;> simp

@[simp] theorem State.shareOwner_beyond (m : Bool) (s : State) (line : Nat) : (s.shareOwner line).beyond m = s.beyond m := by
  unfold State.shareOwner
  split <;> simp

@[simp] theorem State.llcFor_beyond (m : Bool) (s : State) (r : Request) (line : Nat) (modified : Bool) : (s.llcFor r line modified).beyond m = s.beyond m := by
  simp [State.llcFor]

@[simp] theorem State.countLostRead_beyond (m : Bool) (s : State) (tenant key pa : Nat) : (s.countLostRead tenant key pa).beyond m = s.beyond m := rfl

@[simp] theorem State.readCounted_beyond (m : Bool) (s : State) (tenant key pa n : Nat) : (s.readCounted tenant key pa n).1.beyond m = s.beyond m := by
  simp [State.readCounted]

@[simp] theorem State.tell_beyond (m : Bool) (s : State) (party : Nat) (x : PartyReply) : (s.tell party x).beyond m = s.beyond m := rfl

@[simp] theorem State.tellHost_beyond (m : Bool) (s : State) (agent line : Nat) : (s.tellHost agent line).beyond m = s.beyond m := by simp [State.tellHost]

@[simp] theorem State.grantS_beyond (m : Bool) (s : State) (r : Request) (line : Nat) : (s.grantS r line).beyond m = s.beyond m := by simp [State.grantS]

@[simp] theorem State.grantL_beyond (m : Bool) (s : State) (r : Request) (line c : Nat) : (s.grantL r line c).beyond m = s.beyond m := by simp [State.grantL]

@[simp] theorem State.grantO_beyond (m : Bool) (s : State) (r : Request) (line : Nat) : (s.grantO r line).beyond m = s.beyond m := by simp [State.grantO]

@[simp] theorem State.takeLine_beyond (m : Bool) (s : State) (line : Nat) : (s.takeLine line).beyond m = s.beyond m := by simp [State.takeLine]

@[simp] theorem State.afterHorizon_beyond (m : Bool) (s : State) (r : Request) (line : Nat) {done : State} (h : done.beyond m = s.beyond m) :
    (s.afterHorizon r line done).beyond m = s.beyond m := by
  unfold State.afterHorizon
  split
  · exact h
  · simp

@[simp] theorem State.horizonO_beyond (m : Bool) (s : State) (r : Request) (line : Nat) : (s.horizonO r line).beyond m = s.beyond m := by simp [State.horizonO]

@[simp] theorem State.holdReq_beyond (m : Bool) (s : State) (r : Request) (line : Nat) : (s.holdReq r line).beyond m = s.beyond m := rfl

@[simp] theorem State.recallFor_beyond (m : Bool) (s : State) (r : Request) (line : Nat) (own : Bool) : (s.recallFor r line own).1.beyond m = s.beyond m := by
  simp [State.recallFor]

@[simp] theorem State.vacate_beyond (m : Bool) (s : State) (line : Nat) : (s.vacate line).beyond m = s.beyond m := by simp [State.vacate]

@[simp] theorem State.finishS_beyond (m : Bool) (s : State) (r : Request) (line : Nat) : (s.finishS r line).beyond m = s.beyond m := by simp [State.finishS]

@[simp] theorem State.finishLost_beyond (m : Bool) (s : State) (r : Request) (line : Nat) : (s.finishLost r line).beyond m = s.beyond m := by
  unfold State.finishLost
  split <;> simp

@[simp] theorem State.dropProbe_beyond (m : Bool) (s : State) (agent line : Nat) : (s.dropProbe agent line).beyond m = s.beyond m := rfl

@[simp] theorem State.dropHostWrites_beyond (m : Bool) (s : State) (here : Nat → Bool) : (s.dropHostWrites here).beyond m = s.beyond m := by
  simp [State.dropHostWrites]

end Sys2Proof.Machine
end

section
/-! What the writes at the home dies leave alone: every part of the machine beyond their own, the copies, the logs, memory and the quads. -/
namespace Sys2Proof.Machine

/-! ### What equal parts beyond the homes give -/

section
variable {m : Bool} {s t : State} (h : t.beyond m = s.beyond m)
include h

theorem strands_of_beyond : t.strands = s.strands := (congrArg (fun u : State => u.strands) h :)
theorem time_of_beyond : t.time = s.time := (congrArg (fun u : State => u.time) h :)
theorem keystone_of_beyond : t.keystone = s.keystone := (congrArg (fun u : State => u.keystone) h :)
theorem hdie_of_beyond : t.sys.hdie = s.sys.hdie := (congrArg (fun u : State => u.sys.hdie) h :)
theorem bifail_of_beyond : t.sys.bifail = s.sys.bifail := (congrArg (fun u : State => u.sys.bifail) h :)
theorem portDown_of_beyond : t.sys.portDown = s.sys.portDown := (congrArg (fun u : State => u.sys.portDown) h :)
theorem ops_of_beyond : t.hub.ops = s.hub.ops := (congrArg (fun u : State => u.hub.ops) h :)

theorem keyNow_of_beyond (k : Nat) : t.keyNow k = s.keyNow k := by rw [State.keyNow, State.keyNow, keystone_of_beyond h]
theorem keyCleared_of_beyond (k : Nat) : t.keyCleared k = s.keyCleared k := by rw [State.keyCleared, State.keyCleared, keystone_of_beyond h]
theorem homeLost_of_beyond (pa : Nat) : t.homeLost pa = s.homeLost pa := by
  rw [State.homeLost, State.homeLost, State.homeState, State.homeState, hdie_of_beyond h]
theorem hostFailed_of_beyond (a : Nat) : t.hostFailed a = s.hostFailed a := by rw [State.hostFailed, State.hostFailed, bifail_of_beyond h]

end

theorem mem_of_beyond {s t : State} (h : t.beyond true = s.beyond true) : t.mem = s.mem := (congrArg (fun u : State => u.mem) h :)

theorem quiet_of_beyond {s t : State} (h : t.beyond true = s.beyond true) : Quiet s t where
  memory := mem_of_beyond h
  cores := ⟨(congrArg (fun u : State => u.strands) h :), (congrArg (fun u : State => u.cores) h :), (congrArg (fun u : State => u.pool) h :), (congrArg (fun u : State => u.localMem) h :)⟩
  quads := ⟨(congrArg (fun u : State => u.quads) h :), (congrArg (fun u : State => u.acc) h :), (congrArg (fun u : State => u.sett) h :), (congrArg (fun u : State => u.barriers) h :)⟩

/-! ### Writes -/

@[simp] theorem State.setMem_beyond (s : State) (k : Memory) : State.beyond false { s with mem := k } = s.beyond false := rfl

@[simp] theorem State.phintWrite_beyond (s : State) (a off n : Nat) : (s.phintWrite a off n).beyond false = s.beyond false := by
  simp only [State.phintWrite]
  (repeat' split) <;> rfl

@[simp] theorem State.rekeyLine_beyond (s : State) (line : Nat) (key : Nat × Nat) (whole : Bool) :
    (s.rekeyLine line key whole).beyond false = s.beyond false := by
  unfold State.rekeyLine
  dsimp only
  split <;> rfl

@[simp] theorem State.storePa_beyond (s : State) (tenant key pa n v : Nat) (whole : Bool) :
    (s.storePa tenant key pa n v whole).1.beyond false = s.beyond false := by
  unfold State.storePa
  extract_lets u homes freed zeroed found keyed
  have hu : u.beyond false = s.beyond false := by simp [u]
  have hzeroed : zeroed.beyond false = u.beyond false := State.setMem_beyond freed _
  clear_value zeroed
  have hfound : found.beyond false = s.beyond false := by simp [found, hzeroed, hu]
  have hkeyed : keyed.beyond false = s.beyond false := by simp [keyed, hfound]
  clear_value u keyed
  (repeat' split) <;> simp [hu, hkeyed]

@[simp] theorem State.storeAt_beyond (s : State) (tenant key pa n v : Nat) (whole : Bool) :
    (s.storeAt tenant key pa n v whole).1.beyond false = s.beyond false := by
  simp only [State.storeAt]
  split <;> simp

@[simp] theorem State.loseLine_beyond (s : State) (line struct agent : Nat) (tenant : Option Nat) :
    (s.loseLine line struct agent tenant).beyond false = s.beyond false := by
  unfold State.loseLine
  split <;> simp

@[simp] theorem State.dissolveLost_beyond (s : State) (tid : Nat) : (s.dissolveLost tid).beyond false = s.beyond false := by
  simp only [State.dissolveLost]
  split
  · rfl
  · rw [State.logEvent_beyond, State.beyond_foldl, State.unbind_beyond]
    intro s l
    (repeat' split) <;> simp

@[simp] theorem State.homeStore_beyond (s : State) (w : HomeStore) : (s.homeStore w).beyond false = s.beyond false := by simp [State.homeStore]

@[simp] theorem State.loseAgent_beyond (s : State) (agent : Nat) : (s.loseAgent agent).beyond false = s.beyond false := by
  simp only [State.loseAgent]
  rw [State.beyond_foldl fun s r => State.setDir_beyond ..]
  refine (State.beyond_foldl (fun s l => ?_) _ _).trans (State.beyond_foldl (fun s x => State.dissolveLost_beyond s x) _ _)
  exact State.loseLine_beyond ..

/-! ### Answers counted -/

/-- Work on a line writes no memory where it is no write at the home. -/
theorem State.finishReq_beyond {m : Bool} (s : State) (r : Request) (line : Nat) (h : m = true → ∀ w, r.kind ≠ .homeWrite w) :
    (s.finishReq r line).beyond m = s.beyond m := by
  unfold State.finishReq
  split
  next w hk =>
    obtain rfl : m = false := by
      cases m
      · rfl
      · exact absurd hk (h rfl w)
    exact State.afterHorizon_beyond _ _ _ _ (by simp)
  · simp
  · simp
  · simp
  · simp
  · (repeat' split) <;> simp

theorem State.countAnswer_beyond {m : Bool} (s : State) (line : Nat) (h : m = true → ∀ r ∈ s.reqsAt line, ∀ w, r.kind ≠ .homeWrite w) :
    (s.countAnswer line).beyond m = s.beyond m := by
  unfold State.countAnswer
  split
  · rfl
  next r _ hr =>
    (repeat' split)
    · exact State.finishReq_beyond s r line fun hm => h hm r (by simp [hr])
    · simp
    · rfl

end Sys2Proof.Machine
end

section
/-! What the work of the home dies leaves of their own part: the lists of requests, what is lost and under which keys lines were written, the
horizons, the tiles, and the copies. -/
namespace Sys2Proof.Machine

/-- The part of the homes that entries, the LLC, the trace and the probes do not hold. -/
def State.books (s : State) : SMap (List Request) × List (Nat × Request) × List Nat × SMap (Nat × Nat) × SMap Nat × SMap Nat × SMap TileRec :=
  (s.homes.reqs, s.homes.ingress, s.homes.lost, s.homes.lineKeys, s.homes.horizons, s.homes.floors, s.homes.tiles)

/-! ### What equal books give -/

section
variable {s t : State} (h : t.books = s.books)
include h

theorem reqs_of_books : t.homes.reqs = s.homes.reqs := congrArg Prod.fst h
theorem ingress_of_books : t.homes.ingress = s.homes.ingress := (congrArg (fun x => x.2.1) h :)
theorem lost_of_books : t.homes.lost = s.homes.lost := (congrArg (fun x => x.2.2.1) h :)
theorem lineKeys_of_books : t.homes.lineKeys = s.homes.lineKeys := (congrArg (fun x => x.2.2.2.1) h :)
theorem horizons_of_books : t.homes.horizons = s.homes.horizons := (congrArg (fun x => x.2.2.2.2.1) h :)
theorem floors_of_books : t.homes.floors = s.homes.floors := (congrArg (fun x => x.2.2.2.2.2.1) h :)
theorem tiles_of_books : t.homes.tiles = s.homes.tiles := (congrArg (fun x => x.2.2.2.2.2.2) h :)

theorem reqsAt_of_books (line : Nat) : t.reqsAt line = s.reqsAt line := by rw [State.reqsAt, State.reqsAt, reqs_of_books h]
theorem horizonOf_of_books (line : Nat) : t.horizonOf line = s.horizonOf line := by
  rw [State.horizonOf, State.horizonOf, horizons_of_books h, floors_of_books h]
theorem queued_of_books {line : Nat} {l : List Request} (hq : Queued s line l) : Queued t line l :=
  ⟨(reqsAt_of_books h line).trans hq.1, by rw [ingress_of_books h]; exact hq.2⟩

end

section
variable {m : Bool} {s t : State} (hb : t.beyond m = s.beyond m) (hl : t.homes.lost = s.homes.lost)
include hb hl

theorem isLost_of_marks (pa : Nat) : t.isLost pa = s.isLost pa := by rw [State.isLost, State.isLost, homeLost_of_beyond hb, hl]

theorem plainStore_of_marks (hk : t.homes.lineKeys = s.homes.lineKeys) {pa key : Nat} (hp : PlainStore s pa key) : PlainStore t pa key := by
  obtain ⟨hlost, hpeer, hkey⟩ := hp
  refine ⟨(isLost_of_marks hb hl pa).trans hlost, hpeer, fun hd => ?_⟩
  rw [keyCleared_of_beyond hb, keyNow_of_beyond hb, State.lineKey, hk]
  exact hkey hd

end

theorem plainStore_of_books {m : Bool} {s t : State} (h : t.books = s.books) (hb : t.beyond m = s.beyond m) {pa key : Nat}
    (hp : PlainStore s pa key) : PlainStore t pa key := plainStore_of_marks hb (lost_of_books h) (lineKeys_of_books h) hp

/-! ### Books and copies after each operation -/

@[simp] theorem State.trace_books (s : State) (line agent event ans : Nat) : (s.trace line agent event ans).books = s.books := by
  simp only [State.trace]
  (repeat' split) <;> rfl

@[simp] theorem State.trace_copies (s : State) (line agent event ans : Nat) : (s.trace line agent event ans).copies = s.copies := by
  simp only [State.trace]
  (repeat' split) <;> rfl

@[simp] theorem State.trace_dir (s : State) (line agent event ans : Nat) : (s.trace line agent event ans).homes.dir = s.homes.dir := by
  simp only [State.trace]
  (repeat' split) <;> rfl

@[simp] theorem State.setCopy_books (s : State) (a line : Nat) (c : L2Copy) : (s.setCopy a line c).books = s.books := rfl
@[simp] theorem State.dropCopy_books (s : State) (a line : Nat) : (s.dropCopy a line).books = s.books := rfl
@[simp] theorem State.dropAllCopies_books (s : State) (line : Nat) : (s.dropAllCopies line).books = s.books := rfl
@[simp] theorem State.dropOtherCopies_books (s : State) (a line : Nat) : (s.dropOtherCopies a line).books = s.books := rfl
@[simp] theorem State.setSnoop_books (s : State) (line : Nat) (e : SnoopEntry) : (s.setSnoop line e).books = s.books := rfl
@[simp] theorem State.setSnoop_copies (s : State) (line : Nat) (e : SnoopEntry) : (s.setSnoop line e).copies = s.copies := rfl
@[simp] theorem State.setStack_books (s : State) (k : Nat) (l : List Nat) : (s.setStack k l).books = s.books := rfl
@[simp] theorem State.setStack_copies (s : State) (k : Nat) (l : List Nat) : (s.setStack k l).copies = s.copies := rfl
@[simp] theorem State.dropProbe_books (s : State) (a line : Nat) : (s.dropProbe a line).books = s.books := rfl
@[simp] theorem State.dropProbe_copies (s : State) (a line : Nat) : (s.dropProbe a line).copies = s.copies := rfl

@[simp] theorem State.cleanCopy_books (s : State) (a line : Nat) : (s.cleanCopy a line).books = s.books := by
  unfold State.cleanCopy
  split <;> rfl

@[simp] theorem State.setDir_books (s : State) (region : Nat) (e : DirEntry) : (s.setDir region e).books = s.books := by
  unfold State.setDir
  split <;> rfl

@[simp] theorem State.setDir_copies (s : State) (region : Nat) (e : DirEntry) : (s.setDir region e).copies = s.copies := by
  unfold State.setDir
  split <;> rfl

@[simp] theorem State.updLine_books (s : State) (line : Nat) (f : DirEntry → Nat → DirEntry) : (s.updLine line f).books = s.books := State.setDir_books ..
@[simp] theorem State.updLine_copies (s : State) (line : Nat) (f : DirEntry → Nat → DirEntry) : (s.updLine line f).copies = s.copies :=
  State.setDir_copies ..

@[simp] theorem State.freeDir_books (s : State) (region : Nat) : (s.freeDir region).books = s.books := by
  unfold State.freeDir
  (repeat' split) <;> rfl

@[simp] theorem State.freeDir_copies (s : State) (region : Nat) : (s.freeDir region).copies = s.copies := by
  unfold State.freeDir
  (repeat' split) <;> rfl

@[simp] theorem State.holdDir_books (s : State) (region : Nat) : (s.holdDir region).books = s.books := by
  unfold State.holdDir
  split <;> rfl

@[simp] theorem State.fillLlc_books (s : State) (core tenant key line : Nat) (modified : Bool) :
    (s.fillLlc core tenant key line modified).books = s.books := by
  unfold State.fillLlc
  (repeat' split) <;> rfl

@[simp] theorem State.fillLlc_copies (s : State) (core tenant key line : Nat) (modified : Bool) :
    (s.fillLlc core tenant key line modified).copies = s.copies := by
  unfold State.fillLlc
  (repeat' split) <;> rfl

@[simp] theorem State.fillLlc_dir (s : State) (core tenant key line : Nat) (modified : Bool) :
    (s.fillLlc core tenant key line modified).homes.dir = s.homes.dir := by
  unfold State.fillLlc
  (repeat' split) <;> rfl

/-! ### Lists of requests -/

theorem State.reqsAt_setReqs (s : State) (line : Nat) (l : List Request) (k : Nat) :
    (s.setReqs line l).reqsAt k = if k = line then l else s.reqsAt k := SMap.get_set ..

theorem State.reqsAt_setReqs_same (s : State) (line : Nat) (l : List Request) : (s.setReqs line l).reqsAt line = l := SMap.get_set_same ..

theorem State.reqsAt_setReqs_other (s : State) {line k : Nat} (l : List Request) (h : k ≠ line) : (s.setReqs line l).reqsAt k = s.reqsAt k :=
  SMap.get_set_other _ _ _ h

theorem State.queued_setReqs {s : State} {line : Nat} (h : ∀ x ∈ s.homes.ingress, x.1 ≠ line) (l : List Request) :
    Queued (s.setReqs line l) line l := ⟨State.reqsAt_setReqs_same .., h⟩

/-- One request of the ingress enters its list, or is held on. -/
def State.enterList (s : State) (x : Nat × Request) : State :=
  if s.sliceFull x.1 then s.setHomes { s.homes with ingress := s.homes.ingress ++ [x] } else s.setReqs x.1 (s.reqsAt x.1 ++ [x.2])

theorem State.fillBuffers_eq (s : State) : s.fillBuffers = s.homes.ingress.foldl State.enterList (s.setHomes { s.homes with ingress := [] }) := rfl

theorem State.enterList_queued {s : State} {line : Nat} {l : List Request} (h : Queued s line l) {x : Nat × Request} (hx : x.1 ≠ line) :
    Queued (s.enterList x) line l := by
  unfold State.enterList
  split
  · refine ⟨h.1, fun y hy => ?_⟩
    rcases List.mem_append.1 hy with hy | hy
    · exact h.2 y hy
    · exact List.mem_singleton.1 hy ▸ hx
  · exact ⟨(State.reqsAt_setReqs_other _ _ hx.symm).trans h.1, h.2⟩

theorem foldl_queued {α : Type} {line : Nat} {l : List Request} {f : State → α → State} {k : List α}
    (hf : ∀ s, ∀ x ∈ k, Queued s line l → Queued (f s x) line l) {s : State} (h : Queued s line l) : Queued (k.foldl f s) line l := by
  induction k generalizing s with
  | nil => exact h
  | cons x k ih => exact ih (fun s y hy => hf s y (List.mem_cons_of_mem x hy)) (hf s x List.mem_cons_self h)

/-- What the ingress holds for other lines enters their lists, or stays there. -/
theorem State.fillBuffers_queued {s : State} {line : Nat} {l : List Request} (h : Queued s line l) : Queued s.fillBuffers line l := by
  rw [State.fillBuffers_eq]
  exact foldl_queued (fun _ x hx hu => State.enterList_queued hu (h.2 x hx)) ⟨h.1, by simp [State.setHomes]⟩

/-- The requests that match leave the list; those of other lines stand. -/
theorem State.dropReqs_queued {s : State} {line : Nat} {l : List Request} (h : Queued s line l) {p : Request → Bool}
    (hp : ∀ x ∈ l, p x = false) : Queued (s.dropReqs line p) line l := by
  have hl : (s.reqsAt line).filter (fun r => !p r) = l := by
    rw [h.1]
    exact List.filter_eq_self.2 fun x hx => by simp [hp x hx]
  unfold State.dropReqs
  rw [hl]
  have hq := State.queued_setReqs h.2 l
  dsimp only
  split
  · exact hq
  · exact State.fillBuffers_queued ⟨hq.1, fun x hx => hq.2 x (List.mem_filter.1 hx).1⟩

/-- One line's places of an operation are given up. -/
def State.dropPlace (no : Nat) (s : State) (k : Nat) : State :=
  (s.setReqs k ((s.reqsAt k).filter fun r => !(r.kind == .part && r.no == no))).freeDir (regionOf k)

/-- Giving up the places of an operation is a pass over lines, and MOVING settles. -/
theorem State.dropParts_eq (s : State) (no : Nat) :
    s.dropParts no = s ∨ ∃ ls : List Nat, s.dropParts no = (ls.foldl (State.dropPlace no) s).settleMoving := by
  unfold State.dropParts
  dsimp only
  split
  · exact .inl rfl
  next => exact .inr ⟨_, rfl⟩

theorem State.dropPlace_queued {s : State} {line no : Nat} {l : List Request} (h : Queued s line l)
    (hl : ∀ x ∈ l, x.kind = .part → x.no ≠ no) (k : Nat) : Queued (s.dropPlace no k) line l := by
  have stays : l.filter (fun r => !(r.kind == .part && r.no == no)) = l :=
    List.filter_eq_self.2 fun x hx => by
      by_cases hk : x.kind = .part
      · simp [hl x hx hk]
      · simp [hk]
  refine queued_of_books (State.freeDir_books ..) ⟨?_, h.2⟩
  rw [State.reqsAt_setReqs]
  split
  next e => rw [← e, h.1, stays]
  next => exact h.1

/-- The places of another operation are not those of the requests of a list. -/
theorem State.dropParts_queued {s : State} {line no : Nat} {l : List Request} (h : Queued s line l)
    (hl : ∀ x ∈ l, x.kind = .part → x.no ≠ no) : Queued (s.dropParts no) line l := by
  rcases s.dropParts_eq no with e | ⟨ls, e⟩ <;> rw [e]
  · exact h
  · exact foldl_queued (fun _ k _ hu => State.dropPlace_queued hu hl k) h

/-- The request at the head is complete: its list goes on, its entry and its places are given up, and the ingress fills the buffers. -/
theorem State.popReq_eq {s : State} {line : Nat} {r : Request} {rest : List Request} (h : s.reqsAt line = r :: rest) {u v : State}
    (hu : u = (s.setReqs line rest).freeDir (regionOf line)) (hv : v = if r.kind == .repair then u else u.dropParts r.no) :
    s.popReq line = if v.homes.ingress.isEmpty then v else v.fillBuffers := by
  subst hu hv
  unfold State.popReq
  rw [h]

/-- The request at the head has left the list. -/
theorem State.popReq_queued {s : State} {line : Nat} {r : Request} {rest : List Request} (h : Queued s line (r :: rest))
    (hr : ∀ x ∈ rest, x.kind = .part → x.no ≠ r.no) : Queued (s.popReq line) line rest := by
  have hu : Queued ((s.setReqs line rest).freeDir (regionOf line)) line rest :=
    queued_of_books (State.freeDir_books ..) (State.queued_setReqs h.2 rest)
  rw [State.popReq_eq h.1 rfl rfl]
  generalize hv : (if r.kind == .repair then _ else _ : State) = v
  have : Queued v line rest := by
    rw [← hv]
    split
    · exact hu
    · exact State.dropParts_queued hu hr
  split
  · exact this
  · exact State.fillBuffers_queued this

/-! ### Copies after passes -/

theorem foldl_keeps {α β : Type} {f : State → α → State} (g : State → β) (hf : ∀ s x, g (f s x) = g s) (k : List α) (s : State) :
    g (k.foldl f s) = g s := by
  induction k generalizing s with
  | nil => rfl
  | cons x k ih => exact (ih _).trans (hf s x)

theorem State.enterList_copies (s : State) (x : Nat × Request) : (s.enterList x).copies = s.copies := by
  unfold State.enterList
  split <;> rfl

@[simp] theorem State.fillBuffers_copies (s : State) : s.fillBuffers.copies = s.copies := by
  rw [State.fillBuffers_eq]
  exact foldl_keeps State.copies State.enterList_copies _ _

theorem State.dropPlace_copies (no : Nat) (s : State) (k : Nat) : (s.dropPlace no k).copies = s.copies := State.freeDir_copies ..

@[simp] theorem State.dropParts_copies (s : State) (no : Nat) : (s.dropParts no).copies = s.copies := by
  rcases s.dropParts_eq no with e | ⟨ls, e⟩ <;> rw [e]
  exact foldl_keeps State.copies (State.dropPlace_copies no) ls s

@[simp] theorem State.popReq_copies (s : State) (line : Nat) : (s.popReq line).copies = s.copies := by
  cases h : s.reqsAt line with
  | nil => unfold State.popReq; rw [h]
  | cons r rest =>
    rw [State.popReq_eq h rfl rfl]
    generalize hv : (if r.kind == .repair then _ else _ : State) = v
    have : v.copies = s.copies := by
      rw [← hv]
      split <;> simp [State.setReqs, State.setHomes]
    split <;> simp [this]

/-! ### The state of a line -/

/-- An entry that is freed had every line in I, and a region without one has too. -/
theorem line_of_idle {e : DirEntry} (h : e.idle = true) (i : Nat) : e.line i = .I := by
  obtain ⟨hl, -⟩ := Bool.and_eq_true .. ▸ h
  unfold DirEntry.line
  by_cases hi : i < e.lines.toList.length
  · rw [List.getD_eq_getElem _ _ hi]
    simpa using List.all_eq_true.1 hl _ (List.getElem_mem hi)
  · exact List.getD_eq_default _ _ (not_lt.1 hi)

theorem line_reset (i : Nat) : DirEntry.reset.line i = .I := line_of_idle (by decide) i

theorem State.homeLine_of_dir {s t : State} (h : t.homes.dir = s.homes.dir) (line : Nat) : homeLine t line = homeLine s line := by
  rw [homeLine, homeLine, State.dirAt, State.dirAt, h]

/-- Erasing an entry that is idle leaves every line in the state that it had. -/
theorem homeLine_erase {s t : State} {region : Nat} (h : t.homes.dir = s.homes.dir.erase region) (hi : (s.dirAt region).idle = true) (line : Nat) :
    homeLine t line = homeLine s line := by
  by_cases e : line / 4 = region
  · have ht : t.dirAt (line / 4) = DirEntry.reset := by rw [State.dirAt, h, e, SMap.get_eq_find, SMap.find_erase_same]; rfl
    rw [homeLine, ht, line_reset, homeLine, e, line_of_idle hi]
  · have ht : t.dirAt (line / 4) = s.dirAt (line / 4) := by
      rw [State.dirAt, State.dirAt, h, SMap.get_eq_find, SMap.get_eq_find, SMap.find_erase_other _ e]
    rw [homeLine, ht, homeLine]

theorem State.dirAt_of_find {s : State} {region : Nat} {e : DirEntry} (h : SMap.find s.homes.dir region = some e) : s.dirAt region = e := by
  rw [State.dirAt, SMap.get_eq_find, h]
  rfl

@[simp] theorem State.homeLine_freeDir (s : State) (region line : Nat) : homeLine (s.freeDir region) line = homeLine s line := by
  unfold State.freeDir
  cases he : SMap.find s.homes.dir region with
  | none => rfl
  | some e =>
    dsimp only
    split
    next hi =>
      obtain ⟨hidle, -⟩ := (Bool.and_eq_true .. ▸ hi)
      exact homeLine_erase rfl (by rwa [State.dirAt_of_find he]) line
    · rfl

/-- An entry that changes is found from then on, but for one that is freed. -/
theorem State.homeLine_setDir (s : State) {region line : Nat} (h : line / 4 = region) (e : DirEntry) :
    homeLine (s.setDir region e) line = e.line (line % 4) := by
  have of_dir {t : State} {x : DirEntry} (ht : t.dirAt region = x) : homeLine t line = x.line (line % 4) := by rw [homeLine, h, ht]
  unfold State.setDir
  split
  next he => exact of_dir he.symm
  next =>
    by_cases hi : (e.idle && !s.regionBusy region) = true
    · simp only [hi, ↓reduceIte]
      rw [line_of_idle (Bool.and_eq_true .. ▸ hi).1, of_dir (x := DirEntry.reset), line_reset]
      rw [State.dirAt, SMap.get_eq_find]
      exact congrArg (Option.getD · _) (SMap.find_erase_same ..)
    · simp only [hi]
      exact of_dir (State.dirAt_of_find (SMap.find_put_same ..))

theorem State.enterList_dir (s : State) (x : Nat × Request) : (s.enterList x).homes.dir = s.homes.dir := by
  unfold State.enterList
  split <;> rfl

theorem State.homeLine_settleMoving (s : State) (line : Nat) : homeLine s.settleMoving line = homeLine s line := State.homeLine_of_dir rfl line

theorem State.homeLine_setReqs (s : State) (k : Nat) (l : List Request) (line : Nat) : homeLine (s.setReqs k l) line = homeLine s line :=
  State.homeLine_of_dir rfl line

theorem State.homeLine_dropPlace (no : Nat) (s : State) (k line : Nat) : homeLine (s.dropPlace no k) line = homeLine s line := by
  rw [State.dropPlace, State.homeLine_freeDir, State.homeLine_setReqs]

@[simp] theorem State.homeLine_dropParts (s : State) (no line : Nat) : homeLine (s.dropParts no) line = homeLine s line := by
  rcases s.dropParts_eq no with e | ⟨ls, e⟩ <;> rw [e]
  rw [State.homeLine_settleMoving]
  exact foldl_keeps (homeLine · line) (fun s x => State.homeLine_dropPlace no s x line) ls s

@[simp] theorem State.homeLine_fillBuffers (s : State) (line : Nat) : homeLine s.fillBuffers line = homeLine s line := by
  have h : s.fillBuffers.homes.dir = s.homes.dir := by
    rw [State.fillBuffers_eq]
    exact foldl_keeps (fun u => u.homes.dir) State.enterList_dir _ _
  exact State.homeLine_of_dir h line

@[simp] theorem State.homeLine_popReq (s : State) (line k : Nat) : homeLine (s.popReq line) k = homeLine s k := by
  cases h : s.reqsAt line with
  | nil => unfold State.popReq; rw [h]
  | cons r rest =>
    rw [State.popReq_eq h rfl rfl]
    generalize hu : (s.setReqs line rest).freeDir (regionOf line) = u
    have : homeLine u k = homeLine s k := by rw [← hu, State.homeLine_freeDir, State.homeLine_setReqs]
    (repeat' split) <;> simp [this]

end Sys2Proof.Machine
end

section
/-! Plain lines: reads and writes of memory, and a host's write-back. -/
namespace Sys2Proof.Machine

theorem State.phintWrite_eq (s : State) (a off n : Nat) : ∃ q, s.phintWrite a off n = { s with quads := q } := by
  simp only [State.phintWrite]
  (repeat' split) <;> exact ⟨_, rfl⟩

/-- A store to a plain line writes its bytes, and beyond memory only the record of a quad's scratchpad changes. -/
theorem State.storePa_plain {s : State} {pa key : Nat} (h : PlainStore s pa key) (tenant n v : Nat) (whole : Bool) :
    ∃ q, s.storePa tenant key pa n v whole = ({ s with quads := q, mem := s.mem.writeLe pa n v }, false) := by
  obtain ⟨hl, hp, hk⟩ := h
  obtain ⟨q, hq⟩ : ∃ q, (if isScratch pa then s.phintWrite (pa / 2 ^ 24 % 256) (pa % 2 ^ 24) n else s) = { s with quads := q } := by
    split
    · exact State.phintWrite_eq ..
    · exact ⟨s.quads, rfl⟩
  have hl' : State.isLost { s with quads := q } pa = false := hl
  have hhome : State.homeLost { s with quads := q } pa = false := (Bool.or_eq_false_iff.1 hl).1
  refine ⟨q, ?_⟩
  unfold State.storePa
  rw [hq]
  by_cases hd : isDevice pa = true
  · have hc : State.keyCleared { s with quads := q } key = false := (hk hd).1
    have hr : State.rekeyLine { s with quads := q } (pa / 128) (State.keyNow { s with quads := q } key) whole = { s with quads := q } := by
      unfold State.rekeyLine
      exact if_pos (hk hd).2
    simp [hl', hhome, hd, hc, hr, hp]
  · simp [hl', hhome, hd, hp]

theorem State.storeAt_plain {s : State} {pa key : Nat} (h : PlainStore s pa key) (tenant n v : Nat) (whole : Bool) :
    ∃ q, (s.storeAt tenant key pa n v whole).1 = { s with quads := q, mem := s.mem.writeLe pa n v } := by
  obtain ⟨q, hq⟩ := State.storePa_plain h tenant n v whole
  exact ⟨q, by simp [State.storeAt, hq, h.1]⟩

theorem holds_of_writeLe {s t : State} {pa n v : Nat} (h : t.mem = s.mem.writeLe pa n v) : Holds s t pa n v :=
  ⟨fun i hi => by rw [h, Memory.read_writeLe_inside _ _ _ _ _ hi], fun x hx => by rw [h, Memory.read_writeLe_outside _ _ _ _ _ hx]⟩

/-! ### Reads -/

/-- The bytes of one line have its window, and so its loss and its key. -/
theorem State.isLost_sameLine {s : State} {pa c : Nat} (h : c / 128 = pa / 128) : s.isLost c = s.isLost pa := by
  have hw : window c = window pa := by unfold Machine.window; omega
  rw [State.isLost, State.isLost, State.homeLost, State.homeLost, isDevice, isDevice, hw, h]

theorem plainStore_sameLine {s : State} {pa c key : Nat} (h : c / 128 = pa / 128) (hp : PlainStore s pa key) : PlainStore s c key := by
  have hw : window c = window pa := by unfold Machine.window; omega
  rw [PlainStore, State.isLost_sameLine h, isPeer, isDevice, hw, h]
  exact hp

theorem State.readByte_plain {s : State} {pa key : Nat} (h : PlainStore s pa key) : s.readByte pa key = (s.mem.read pa, false) := by
  obtain ⟨hl, hp, hk⟩ := h
  unfold State.readByte
  by_cases hd : isDevice pa = true
  · obtain ⟨hc, hline⟩ := hk hd
    simp [hd, hl, hc, hline, State.plainByte]
  · simp [hd, hl, hp]

theorem State.readPa_plain {s : State} {key : Nat} {n pa : Nat} (h : ∀ i, i < n → PlainStore s (pa + i) key) :
    s.readPa pa key n = (s.mem.readLe pa n, false) := by
  induction n generalizing pa with
  | zero => rfl
  | succ n ih =>
    have hb := State.readByte_plain (h 0 (by omega))
    have hr := ih (pa := pa + 1) fun i hi => by
      have := h (i + 1) (by omega)
      rwa [Nat.add_comm i 1, ← Nat.add_assoc] at this
    simp only [Nat.add_zero] at hb
    simp [State.readPa, hb, hr, Memory.readLe]

theorem State.readPa_inLine {s : State} {pa key n : Nat} (h : PlainStore s pa key) (hn : pa % 128 + n ≤ 128) :
    s.readPa pa key n = (s.mem.readLe pa n, false) :=
  State.readPa_plain fun i hi => plainStore_sameLine (by omega) h

end Sys2Proof.Machine
end

section
/-! A host's write-back at the head of its line's list (R134, R396). -/
namespace Sys2Proof.Machine

theorem portAgent_failed (s : State) {port : Nat} (h : port < 2) : s.hostFailed (200 + port) = s.sys.bifail.getLsbD port := by
  unfold State.hostFailed
  obtain rfl | rfl : port = 0 ∨ port = 1 := by omega
  all_goals simp

theorem line_lt_of_device {line : Nat} (h : isDevice (128 * line) = true) : line < 2 ^ 45 := by
  have : window (128 * line) < 6 := of_decide_eq_true h
  unfold Machine.window at this
  omega

theorem line_lt_of_hostMem {line : Nat} (h : isHostMem (128 * line) = true) : line < 2 ^ 45 := by
  have : window (128 * line) = 0xC ∨ window (128 * line) = 0xD := by simpa [isHostMem] using h
  unfold Machine.window at this
  omega

/-! ### Copies of a line -/

theorem State.copyAt_eq_none {s : State} {a line : Nat} (h : SMap.find s.copies (copyKey a line) = none) : s.copyAt a line = none := by
  rw [State.copyAt, h]

theorem State.copyAt_congr {s t : State} (hc : t.copies = s.copies) (ht : t.time = s.time) (a line : Nat) : t.copyAt a line = s.copyAt a line := by
  rw [State.copyAt, State.copyAt, hc, ht]

theorem State.copyAt_dropCopy (s : State) (a line : Nat) : (s.dropCopy a line).copyAt a line = none :=
  State.copyAt_eq_none (SMap.find_erase_same ..)

theorem State.copyAt_dropAllCopies (s : State) {line : Nat} (h : line < 2 ^ 45) (a : Nat) : (s.dropAllCopies line).copyAt a line = none := by
  refine State.copyAt_eq_none (SMap.find_eq_none fun e he => ?_)
  have hne : e.1 % 2 ^ 45 ≠ line := by simpa using (List.mem_filter.1 he).2
  intro hk
  rw [hk, copyKey] at hne
  omega

/-! ### Of a line that the host owns -/

theorem line_setLine (e : DirEntry) {i : Nat} (hi : i < 4) (x : LineState) : (e.setLine i x).line i = x := by
  unfold DirEntry.setLine
  rw [dif_pos hi, DirEntry.line]
  simp [hi]

theorem line_clearLine (e : DirEntry) {i : Nat} (hi : i < 4) (x : LineState) : (e.clearLine i x).line i = x :=
  line_setLine (e.unpointAll i) hi x

theorem State.popReq_served {s u : State} {line : Nat} {h r : Request} {rest : List Request} (hq : Unbegun s line h rest) (hno : r.no = h.no)
    (hu : Queued u line (r :: rest)) : (u.popReq line).reqsAt line = rest :=
  (State.popReq_queued hu fun x hx hk => hno ▸ hq.alone x hx hk).1

/-- The data are written, and the line is in I (R119). -/
theorem State.takePutO_hostPut {s : State} {h : Request} {line : Nat} {d : List Byte} (hk : h.kind = .hostPut d)
    (ho : homeOwner s line = some h.agent) (hp : PlainStore s (128 * line) h.key) :
    (s.takePutO h line).books = s.books ∧ (s.takePutO h line).beyond false = s.beyond false
      ∧ (s.takePutO h line).mem = s.mem.writeLe (128 * line) 128 (leOfBytes d) ∧ homeLine (s.takePutO h line) line = .I := by
  obtain ⟨q, hq⟩ := State.storeAt_plain hp h.tenant 128 (leOfBytes d) false
  have e : s.takePutO h line =
      ((s.storeAt h.tenant h.key (128 * line) 128 (leOfBytes d) false).1.updLine line fun e i => e.clearLine i .I).llcFor h line true := by
    unfold State.takePutO
    rw [hk]
    exact if_pos ho
  rw [e, State.llcFor]
  generalize hu : (s.storeAt h.tenant h.key (128 * line) 128 (leOfBytes d) false).1 = u at hq
  have hbooks : u.books = s.books := by rw [hq]; rfl
  have hmem : u.mem = s.mem.writeLe (128 * line) 128 (leOfBytes d) := by rw [hq]
  refine ⟨by simp [hbooks], by simp [← hu], ?_, ?_⟩
  · refine (mem_of_beyond (s := u) ?_).trans hmem
    simp
  · rw [State.homeLine_of_dir (State.fillLlc_dir ..), State.updLine, State.homeLine_setDir _ (region := regionOf line) rfl]
    exact line_clearLine _ (Nat.mod_lt _ (by norm_num)) _

theorem serveHostPut_owned {s : State} {line : Nat} {h : Request} {rest : List Request} {d : List Byte} (hq : Unbegun s line h rest)
    (hf : s.hostFailed h.agent = false) (hk : h.kind = .hostPut d) (ho : homeOwner s line = some h.agent) (hp : PlainStore s (128 * line) h.key) :
    (s.serveHostPut h line d).strands = s.strands ∧ (s.serveHostPut h line d).reqsAt line = rest
      ∧ (s.serveHostPut h line d).mem = s.mem.writeLe (128 * line) 128 (leOfBytes d) ∧ homeLine (s.serveHostPut h line d) line = .I := by
  have e : s.serveHostPut h line d = ((s.dropCopy h.agent line).takePutO h line).popReq line := by
    unfold State.serveHostPut
    rw [if_neg (by simp [hf]), if_neg (by simp [hp.1])]
    exact if_pos ho
  obtain ⟨hbooks, hbeyond, hmem, hline⟩ := State.takePutO_hostPut (s := s.dropCopy h.agent line) hk ho hp
  rw [e]
  generalize (s.dropCopy h.agent line).takePutO h line = u at *
  have hpop : (u.popReq line).beyond true = u.beyond true := State.popReq_beyond ..
  exact ⟨(strands_of_beyond hpop).trans (strands_of_beyond hbeyond), State.popReq_served hq rfl (queued_of_books hbooks hq.queue),
    (mem_of_beyond hpop).trans hmem, (State.homeLine_popReq ..).trans hline⟩

/-! ### Of a line that the host does not own -/

theorem State.dirAt_congr {s t : State} (h : t.homes.dir = s.homes.dir) (region : Nat) : t.dirAt region = s.dirAt region := by
  rw [State.dirAt, State.dirAt, h]

theorem State.dirAt_holdDir (s : State) (region k : Nat) : (s.holdDir region).dirAt k = s.dirAt k := by
  unfold State.holdDir
  split
  · rfl
  next h =>
    rw [State.dirAt, State.setHomes, SMap.get_put, State.dirAt]
    split
    next e =>
      have hn : SMap.find s.homes.dir k = none := by simpa [e] using h
      rw [SMap.get_eq_find, hn]
      rfl
    · rfl

theorem State.tileOf_congr {s t : State} (hd : ∀ r, t.dirAt r = s.dirAt r) (ht : t.homes.tiles = s.homes.tiles) (line : Nat) :
    t.tileOf line = s.tileOf line := by
  rw [State.tileOf, State.tileOf, hd, ht]

/-- The write of a line's 128 bytes that a write-back becomes. -/
def hostStore (h : Request) (line : Nat) (d : List Byte) : HomeStore :=
  { pa := 128 * line, bytes := 128, val := leOfBytes d, tenant := h.tenant, key := h.key, whole := false }

theorem homeStore_hostStore {s : State} {h : Request} {line : Nat} {d : List Byte} (hd : isDevice (128 * line) = true)
    (hp : PlainStore s (128 * line) h.key) :
    (s.homeStore (hostStore h line d)).books = s.books ∧ (s.homeStore (hostStore h line d)).mem = s.mem.writeLe (128 * line) 128 (leOfBytes d)
      ∧ (s.homeStore (hostStore h line d)).copies = (s.dropAllCopies line).copies := by
  have hl : lineOf (128 * line) = line := Nat.mul_div_cancel_left _ (by norm_num)
  have hlost : (s.dropAllCopies line).isLost (128 * line) = false := hp.1
  have htake : s.takeLine line = (s.dropAllCopies line).updLine line fun e i => (e.clearLine i .I).sweep := by
    unfold State.takeLine
    rw [if_pos hd]
    exact if_neg (by simp [hlost])
  have e : s.homeStore (hostStore h line d)
      = ((s.takeLine line).storeAt h.tenant h.key (128 * line) 128 (leOfBytes d) false).1.fillLlc 784 h.tenant h.key line true := by
    unfold State.homeStore
    simp [hostStore, hd, hl]
  generalize hu : s.takeLine line = u at e
  have hbooks : u.books = s.books := by rw [← hu, htake]; simp
  have hbeyond : u.beyond true = s.beyond true := by rw [← hu]; simp
  have hcopies : u.copies = (s.dropAllCopies line).copies := by rw [← hu, htake]; simp
  obtain ⟨q, hq⟩ := State.storeAt_plain (plainStore_of_books hbooks hbeyond hp) h.tenant 128 (leOfBytes d) false
  rw [e, hq]
  refine ⟨?_, ?_, ?_⟩
  · rw [State.fillLlc_books]
    exact hbooks
  · refine (mem_of_beyond (State.fillLlc_beyond ..)).trans ?_
    rw [← mem_of_beyond hbeyond]
  · rw [State.fillLlc_copies]
    exact hcopies

theorem otherHolders_congr {s t : State} (h : ∀ r, t.dirAt r = s.dirAt r) (line agent : Nat) : otherHolders t line agent = otherHolders s line agent := by
  simp only [otherHolders, homeLine, homeHolders, h]

theorem State.targets_eq (s : State) (line agent : Nat) : s.targets line agent = otherHolders s line agent := by
  unfold State.targets otherHolders
  cases h : homeLine s line <;> rw [homeLine] at h <;> simp only [regionOf, h] <;> rfl

/-- A request of the home's own to write, with nobody to probe and the horizon past, is performed at once. -/
theorem State.serve_homeWrite {s : State} {r : Request} {line : Nat} {w : HomeStore} (hk : r.kind = .homeWrite w) (hph : r.phase = .held)
    (ha : r.agent = 255) (htile : s.tileOf line = none) (hlost : s.isLost (128 * line) = false) (hold : otherHolders s line 255 = [])
    (hh : s.horizonOf line ≤ s.time) (hd : (SMap.find s.homes.dir (line / 4)).isSome ∨ s.homes.dir.length < 8) :
    s.serve r line 2 = (((s.holdDir (regionOf line)).trace line 255 9 0).homeStore w).popReq line := by
  generalize hu : s.holdDir (regionOf line) = u
  have hbooks : u.books = s.books := by rw [← hu]; simp
  have hbeyond : u.beyond true = s.beyond true := by rw [← hu]; simp
  have hdir (k : Nat) : u.dirAt k = s.dirAt k := by rw [← hu, State.dirAt_holdDir]
  have hfree : s.dirFree (regionOf line) = true := by
    unfold State.dirFree
    rcases hd with hd | hd
    · rw [regionOf, hd]; rfl
    · simp [hd]
  have hrestore : u.restoreLost line = u := by
    have : line ∉ u.homes.lost := by
      rw [lost_of_books hbooks]
      have := (Bool.or_eq_false_iff.1 hlost).2
      rw [Nat.mul_div_cancel_left _ (by norm_num)] at this
      simpa using this
    unfold State.restoreLost
    simp [this]
  have hprobed : u.probed r line = [] := by
    unfold State.probed
    simp only [hk, ReqKind.takes, ha, ↓reduceIte, State.targets_eq, otherHolders_congr hdir, hold]
    rfl
  have hfinish : u.finishReq r line = ((u.trace line 255 9 0).homeStore w).popReq line := by
    unfold State.finishReq
    rw [hk]
    dsimp only
    unfold State.afterHorizon
    rw [if_pos (by rwa [horizonOf_of_books hbooks, time_of_beyond hbeyond]), ha]
  have hline : s.serveLine r line = u.finishReq r line := by
    have hroom : s.dirRoom line = (u, true) := by
      unfold State.dirRoom
      rw [← hu]
      exact if_pos hfree
    unfold State.serveLine
    rw [if_neg (by simp [State.hostFailed, ha]), hroom]
    dsimp only
    rw [hrestore, State.probeFor, hprobed]
    rfl
  have hserve : s.serve r line 2 = s.serveLine r line := by
    unfold State.serve
    rw [if_neg (by simp [hph])]
    dsimp only
    rw [htile]
  rw [hserve, hline, hfinish]

theorem serveHostPut_unowned {s : State} {line : Nat} {h : Request} {rest : List Request} {d : List Byte} (hq : Unbegun s line h rest)
    (hf : s.hostFailed h.agent = false) (hdev : isDevice (128 * line) = true) (htile : s.tileOf line = none)
    (ho : homeOwner s line ≠ some h.agent) (hp : PlainStore s (128 * line) h.key) (hold : otherHolders s line 255 = [])
    (hh : s.horizonOf line ≤ s.time) (hd : (SMap.find s.homes.dir (line / 4)).isSome ∨ s.homes.dir.length < 8) :
    (s.serveHostPut h line d).strands = s.strands ∧ (s.serveHostPut h line d).reqsAt line = rest
      ∧ (s.serveHostPut h line d).mem = s.mem.writeLe (128 * line) 128 (leOfBytes d) ∧ ∀ b, (s.serveHostPut h line d).copyAt b line = none := by
  let r : Request := { h with agent := 255, kind := .homeWrite (hostStore h line d), phase := .held }
  generalize hu : s.setHead line r = u
  have hqueue : Queued u line (r :: rest) := by
    rw [← hu, State.setHead, hq.queue.1]
    exact State.queued_setReqs hq.queue.2 _
  have hplain : PlainStore u (128 * line) h.key := by rw [← hu]; exact hp
  have hdir : u.homes.dir = s.homes.dir := by rw [← hu]; rfl
  have hbeyond : u.beyond true = s.beyond true := by rw [← hu]; simp
  have e : s.serveHostPut h line d
      = (((u.holdDir (regionOf line)).trace line 255 9 0).homeStore (hostStore h line d)).popReq line := by
    have hs : s.serveHostPut h line d = u.serve r line 2 := by
      unfold State.serveHostPut
      rw [if_neg (by simp [hf]), if_neg (by simp [hp.1]), ← hu]
      exact if_neg ho
    rw [hs]
    refine State.serve_homeWrite rfl rfl rfl ?_ hplain.1 ?_ ?_ ?_
    · rw [← hu]
      exact htile
    · rw [otherHolders_congr (State.dirAt_congr hdir)]
      exact hold
    · rw [← hu]
      exact hh
    · rw [hdir]
      exact hd
  generalize hv : (u.holdDir (regionOf line)).trace line 255 9 0 = v at e
  have hvb : v.books = u.books := by rw [← hv]; simp
  have hvr : v.beyond true = s.beyond true := by rw [← hv, ← hbeyond]; simp
  obtain ⟨hb, hm, hc⟩ := homeStore_hostStore (h := h) (d := d) hdev
    (plainStore_of_books hvb (hvr.trans hbeyond.symm) hplain)
  have hw : (v.homeStore (hostStore h line d)).beyond false = v.beyond false := State.homeStore_beyond ..
  rw [e]
  generalize v.homeStore (hostStore h line d) = x at *
  have hpop : (x.popReq line).beyond true = x.beyond true := State.popReq_beyond ..
  refine ⟨?_, State.popReq_served (r := r) hq rfl (queued_of_books (hb.trans hvb) hqueue), ?_, fun b => ?_⟩
  · exact ((strands_of_beyond hpop).trans (strands_of_beyond hw)).trans (strands_of_beyond hvr)
  · rw [mem_of_beyond hpop, hm, mem_of_beyond hvr]
  · refine (State.copyAt_congr ((State.popReq_copies ..).trans hc) ?_ b line).trans
      (State.copyAt_dropAllCopies v (line_lt_of_device hdev) b)
    exact (time_of_beyond hpop).trans (time_of_beyond hw)

/-- R134, R396: the write-back of a host's that is served. -/
theorem hostPut_served {s : State} {port line : Nat} {h : Request} {rest : List Request} {d : List Byte} (hport : port < 2)
    (hq : Unbegun s line h rest) (ha : h.agent = 200 + port) (hk : h.kind = .hostPut d) (hdev : isDevice (128 * line) = true)
    (htile : s.tileOf line = none) (hb : s.sys.bifail.getLsbD port = false) (hp : PlainStore s (128 * line) h.key) :
    (homeOwner s line = some (200 + port) → ∃ t : State, exec (.puto (200 + port) line) s = .next t ∧ t.strands = s.strands
      ∧ t.reqsAt line = rest ∧ Holds s t (128 * line) 128 (leOfBytes d) ∧ homeLine t line = .I)
    ∧ (homeOwner s line ≠ some (200 + port) → otherHolders s line 255 = [] → s.horizonOf line ≤ s.time →
      ((SMap.find s.homes.dir (line / 4)).isSome ∨ s.homes.dir.length < 8) → ∃ t : State, exec (.puto (200 + port) line) s = .next t
      ∧ t.strands = s.strands ∧ t.reqsAt line = rest ∧ Holds s t (128 * line) 128 (leOfBytes d) ∧ ∀ b, t.copyAt b line = none) := by
  have hhost : isHostMem (128 * line) = false := by
    have : window (128 * line) < 6 := of_decide_eq_true hdev
    unfold isHostMem
    simp
    omega
  generalize hu : (if h.phase = .waiting then s.trace line h.agent 3 0 else s) = u
  have hbooks : u.books = s.books := by rw [← hu]; split <;> simp
  have hbeyond : u.beyond true = s.beyond true := by rw [← hu]; split <;> simp
  have hdir : u.homes.dir = s.homes.dir := by rw [← hu]; split <;> simp
  have hqu : Unbegun u line h rest := ⟨queued_of_books hbooks hq.queue, hq.phase, hq.alone⟩
  have hplain := plainStore_of_books hbooks hbeyond hp
  have htu : u.tileOf line = none := (State.tileOf_congr (State.dirAt_congr hdir) (tiles_of_books hbooks) line).trans htile
  have hfail : u.hostFailed h.agent = false := by rw [hostFailed_of_beyond hbeyond, ha, portAgent_failed s hport, hb]
  have hown : homeOwner u line = homeOwner s line := by rw [homeOwner, homeOwner, State.dirAt_congr hdir]
  have e : exec (.puto (200 + port) line) s = .next (u.serveHostPut h line d) := by
    have hput : h.isPutO (200 + port) = true := by simp [Request.isPutO, ha, hk]
    have hhead : h.atHead = true := by
      rcases hq.phase with hph | hph <;> simp [Request.atHead, hph]
    have : s.servePutO h line = u.serveHostPut h line d := by
      unfold State.servePutO
      rw [hu]
      dsimp only
      rw [htu, hk]
    refine (?_ : execPuto (200 + port) line s = _)
    unfold execPuto
    rw [hq.queue.1]
    simp [hput, hhead, hhost, this]
  have hmem := mem_of_beyond hbeyond
  refine ⟨fun ho => ?_, fun ho hold hh hd => ?_⟩
  · obtain ⟨hs, hr, hm, hl⟩ := serveHostPut_owned hqu hfail hk (by rw [hown, ho, ha]) hplain
    exact ⟨_, e, hs.trans (strands_of_beyond hbeyond), hr, holds_of_writeLe (hm.trans (by rw [hmem])), hl⟩
  · obtain ⟨hs, hr, hm, hc⟩ := serveHostPut_unowned (d := d) hqu hfail hdev htu (by rwa [hown, ha]) hplain
      (by rwa [otherHolders_congr (State.dirAt_congr hdir)]) (by rwa [horizonOf_of_books hbooks, time_of_beyond hbeyond]) (by rwa [hdir])
    exact ⟨_, e, hs.trans (strands_of_beyond hbeyond), hr, holds_of_writeLe (hm.trans (by rw [hmem])), hc⟩

end Sys2Proof.Machine
end

section
/-! The rows of the host ports: requests, register reads, answers, timeouts, snoops and the link (R134, R135, R325, R326, R396, R414). -/
namespace Sys2Proof.Machine

/-! ### Requests (R134, R325) -/

theorem State.hdmPa_of {s : State} {port hpa off : Nat} (h : hpa = SMap.get 0 s.hub.hdmBase port + off) (ho : off < 6 * 2 ^ 37) :
    s.hdmPa port hpa = some (off / 2 ^ 37 * 2 ^ 48 + off % 2 ^ 37) := by
  have e : hpa - SMap.get 0 s.hub.hdmBase port = off := by omega
  unfold State.hdmPa
  dsimp only
  rw [e]
  exact if_neg (by omega)

theorem State.sliceFull_arrivals (s : State) (n line : Nat) : (s.setHomes { s.homes with arrivals := n }).sliceFull line = s.sliceFull line := rfl

/-- A request that finds room in its slice's buffer joins its line's list. -/
theorem State.appendReq_room {s : State} {line : Nat} {r : Request} (hi : r.agent ∉ s.homes.isolated) (hf : s.sliceFull line = false) :
    (s.appendReq line r).reqsAt line = s.reqsAt line ++ [{ r with no := s.homes.arrivals }] := by
  unfold State.appendReq
  rw [if_neg (by simpa using hi)]
  dsimp only
  rw [State.sliceFull_arrivals, hf]
  exact State.reqsAt_setReqs_same ..

theorem quiet_tell (s : State) (party : Nat) (x : PartyReply) : Quiet s (s.tell party x) := quiet_of_beyond (State.tell_beyond ..)

theorem told_tell (s : State) (party : Nat) (x : PartyReply) : SMap.find (s.tell party x).hub.told party = some x := SMap.find_put_same ..

/-- A host's request joins the list of its line. -/
def State.hostAsk (s : State) (port pa : Nat) (k : ReqKind) : State := s.appendReq (lineOf pa) (newReq s (200 + port) 784 0 (s.keyOfTenant 0) k)

/-- One that reads, or asks for ownership, gets zeros while BIFAIL is 1. -/
def State.hostRead (s : State) (port pa : Nat) (k : ReqKind) : State :=
  if s.sys.bifail.getLsbD port then s.tell (96 + port) (.value 0) else s.hostAsk port pa k

theorem exec_hostRequest (port : Nat) (r : HostReq) (s : State) : exec (.hostRequest port r) s = execHostRequest port r s := rfl

section
variable {s : State} {port hpa pa : Nat} (hup : s.portUp port = true) (hpa' : s.hdmPa port (hpa / 128 * 128) = some pa)
  (hheld : (s.homeState (window pa) == .held) = false)
include hup hpa' hheld

omit hup in
/-- A line whose home is not held in reset goes on. -/
theorem hostRequest_goesOn (f : Nat → State) (r : HostReq) : (match s.hdmPa port (hpa / 128 * 128) with
    | none => .next s
    | some pa => .next (if s.homeState (window pa) == .held then s.heldHome port r else f pa) : Out) = .next (f pa) := by
  rw [hpa']
  dsimp only
  rw [hheld]
  rfl

theorem hostRequest_read : exec (.hostRequest port (.read hpa)) s = .next (s.hostRead port pa .getS) :=
  (if_neg (by simp [hup])).trans (hostRequest_goesOn hpa' hheld (s.hostRead port · .getS) (.read hpa))

theorem hostRequest_own : exec (.hostRequest port (.own hpa)) s = .next (s.hostRead port pa (.getO false)) :=
  (if_neg (by simp [hup])).trans (hostRequest_goesOn hpa' hheld (s.hostRead port · (.getO false)) (.own hpa))

theorem hostRequest_evict : exec (.hostRequest port (.evict hpa)) s = .next (s.hostAsk port pa .putS) :=
  (if_neg (by simp [hup])).trans (hostRequest_goesOn hpa' hheld (s.hostAsk port · .putS) (.evict hpa))

theorem hostRequest_writeBack (d : List Byte) : exec (.hostRequest port (.writeBack hpa d)) s
    = .next (if s.sys.bifail.getLsbD port || d.length ≠ 128 then s else s.hostAsk port pa (.hostPut d)) :=
  (if_neg (by simp [hup])).trans (hostRequest_goesOn hpa' hheld
    (fun pa => if s.sys.bifail.getLsbD port || d.length ≠ 128 then s else s.hostAsk port pa (.hostPut d)) (.writeBack hpa d))

end

/-- A request of a host has joined the list of the line of `pa`. -/
def HostAsks (s : State) (port pa : Nat) (r : HostReq) (k : ReqKind) : Prop :=
  ∃ (t : State) (x : Request), exec (.hostRequest port r) s = .next t ∧ t.mem = s.mem ∧ t.strands = s.strands
    ∧ t.reqsAt (pa / 128) = s.reqsAt (pa / 128) ++ [x] ∧ x.agent = 200 + port ∧ x.kind = k ∧ x.tenant = 0 ∧ x.issued = s.time

theorem hostAsks_of {s : State} {port pa : Nat} (hi : (200 + port) ∉ s.homes.isolated) (hroom : s.sliceFull (pa / 128) = false) {r : HostReq}
    {k : ReqKind} (e : exec (.hostRequest port r) s = .next (s.hostAsk port pa k)) : HostAsks s port pa r k := by
  have hq : (s.hostAsk port pa k).beyond true = s.beyond true := State.appendReq_beyond ..
  exact ⟨_, _, e, mem_of_beyond hq, strands_of_beyond hq, State.appendReq_room hi hroom, rfl, rfl, rfl, rfl⟩

theorem hostRequestsJoin {s : State} {port hpa pa : Nat} (hup : s.portUp port = true) (hpa' : s.hdmPa port (hpa / 128 * 128) = some pa)
    (hheld : s.homeState (pa / 2 ^ 48) ≠ .held) :
    (s.sys.bifail.getLsbD port = true → ∃ t : State, exec (.hostRequest port (.read hpa)) s = .next t ∧ Quiet s t
      ∧ SMap.find t.hub.told (96 + port) = some (.value 0))
    ∧ (s.sys.bifail.getLsbD port = false → (200 + port) ∉ s.homes.isolated → s.sliceFull (pa / 128) = false →
    HostAsks s port pa (.read hpa) .getS ∧ HostAsks s port pa (.own hpa) (.getO false) ∧ HostAsks s port pa (.evict hpa) .putS
    ∧ ∀ d, d.length = 128 → HostAsks s port pa (.writeBack hpa d) (.hostPut d)) := by
  have hw : (s.homeState (window pa) == .held) = false := beq_eq_false_iff_ne.2 hheld
  have hread := hostRequest_read hup hpa' hw
  have hown := hostRequest_own hup hpa' hw
  unfold State.hostRead at hread hown
  refine ⟨fun hf => ?_, fun hf hi hroom => ?_⟩
  · rw [if_pos hf] at hread
    exact ⟨_, hread, quiet_tell .., told_tell ..⟩
  · rw [if_neg (by simp [hf])] at hread hown
    refine ⟨hostAsks_of hi hroom hread, hostAsks_of hi hroom hown, hostAsks_of hi hroom (hostRequest_evict hup hpa' hw), fun d hd => ?_⟩
    exact hostAsks_of hi hroom ((hostRequest_writeBack hup hpa' hw d).trans (by rw [if_neg (by simp [hf, hd])]))

/-! ### Reads of registers (R326) -/

theorem barReadAnswers {s : State} {port : Nat} (hup : s.portUp port = true) (mailbox : Bool) (off n : Nat) :
    let ok := (n = 4 ∨ n = 8) ∧ off % n = 0 ∧ off < (if mailbox then 2 ^ 16 else 2 ^ 24)
    ∃ t : State, exec (.hostRequest port (.barRead mailbox off n)) s = .next t ∧ Quiet s t
      ∧ (ok → SMap.find t.hub.told (96 + port) = some (.value (s.regRead ((if mailbox then 0xF000000000000 else 0xA100000000000) + off) n)))
      ∧ (¬ok → SMap.find t.hub.told (96 + port) = some .unsupported) := by
  intro ok
  have e : exec (.hostRequest port (.barRead mailbox off n)) s = .next (s.barRead port mailbox off n) := by
    rw [exec_hostRequest, execHostRequest]
    exact if_neg (by simp [hup])
  have hok : ((n == 4 || n == 8) && off % n == 0 && decide (off < if mailbox then 2 ^ 16 else 2 ^ 24)) = decide ok := by
    rw [Bool.eq_iff_iff]
    simp [ok, and_assoc]
  refine ⟨_, e, ?_, fun h => ?_, fun h => ?_⟩ <;> unfold State.barRead <;> dsimp only <;> rw [hok]
  · exact quiet_tell ..
  · rw [if_pos (by simpa using h)]
    exact told_tell ..
  · rw [if_neg (by simpa using h)]
    exact told_tell ..

/-! ### Snoops of host memory (R135) -/

theorem State.snoop_setSnoop (s : State) (line : Nat) (e : SnoopEntry) : SMap.get SnoopEntry.reset (s.setSnoop line e).hub.snoop line = e := by
  unfold State.setSnoop
  exact SMap.get_set_same ..

theorem exec_hostSnoop {s : State} {line : Nat} (hm : isHostMem (128 * line) = true)
    (hup : s.sys.portDown.getLsbD (window (128 * line) - 0xC) = false) (inv : Bool) : exec (.hostSnoop line inv) s =
      if inv then .next ((s.dropAllCopies line).setSnoop line SnoopEntry.reset)
      else .next (((s.snoopAt line).agents.foldl (fun s a => s.cleanCopy a line) s).setSnoop line
        { s.snoopAt line with owned := false, older := 0 }) :=
  if_neg (by simp [hm, hup])

theorem hostSnoops {s : State} {line : Nat} (hm : isHostMem (128 * line) = true)
    (hup : s.sys.portDown.getLsbD (window (128 * line) - 0xC) = false) :
    (∃ t : State, exec (.hostSnoop line true) s = .next t ∧ Quiet s t ∧ (∀ a, t.copyAt a line = none)
      ∧ (SMap.get SnoopEntry.reset t.hub.snoop line).agents = [])
    ∧ ∃ t : State, exec (.hostSnoop line false) s = .next t ∧ Quiet s t ∧ (SMap.get SnoopEntry.reset t.hub.snoop line).owned = false := by
  refine ⟨⟨_, (exec_hostSnoop hm hup true).trans (if_pos rfl), quiet_of_beyond (by simp), fun a => ?_, ?_⟩,
    _, (exec_hostSnoop hm hup false).trans (if_neg Bool.false_ne_true), quiet_of_beyond (by simp), ?_⟩
  · exact (State.copyAt_congr (State.setSnoop_copies ..) rfl a line).trans (State.copyAt_dropAllCopies s (line_lt_of_hostMem hm) a)
  · rw [State.snoop_setSnoop]
    rfl
  · rw [State.snoop_setSnoop]

/-! ### Timeouts and the link (R396, R414) -/

/-- A port found silent sets its bit of BIFAIL; beyond the homes, memory and the quads nothing else changes. -/
theorem State.hostSilent_beyond (s : State) (port line : Nat) : ∃ u : State, u.beyond false = s.beyond false
    ∧ (s.hostSilent port line).beyond false = (u.setSys { u.sys with bifail := u.sys.bifail ||| (1#2 <<< port) }).beyond false :=
  ⟨((s.dropProbe (portAgent port) line).loseAgent (portAgent port)).logEvent (128 * line) 0 8 (portAgent port) 0, by simp,
    State.countAnswer_beyond _ _ (by simp)⟩

section
variable (s : State) (port line : Nat)

theorem State.hostSilent_strands : (s.hostSilent port line).strands = s.strands := by
  obtain ⟨u, hu, hs⟩ := s.hostSilent_beyond port line
  have silent := strands_of_beyond hs
  have lost := strands_of_beyond hu
  exact silent.trans lost

theorem State.hostSilent_time : (s.hostSilent port line).time = s.time := by
  obtain ⟨u, hu, hs⟩ := s.hostSilent_beyond port line
  have silent := time_of_beyond hs
  have lost := time_of_beyond hu
  exact silent.trans lost

theorem State.hostSilent_portDown : (s.hostSilent port line).sys.portDown = s.sys.portDown := by
  obtain ⟨u, hu, hs⟩ := s.hostSilent_beyond port line
  have silent := portDown_of_beyond hs
  have lost := portDown_of_beyond hu
  exact silent.trans lost

end

theorem getLsbD_raise {x : BitVec 2} {port : Nat} (h : port < 2) : (x ||| (1#2 <<< port)).getLsbD port = true := by
  obtain rfl | rfl : port = 0 ∨ port = 1 := by omega
  all_goals simp

theorem bitoTimeouts {s : State} {port line : Nat} {p : Probe} (hport : port < 2) (hp : s.probeOf (200 + port) line = some p) :
    ∃ t : State, exec (.bitoTimeout port line) s = .next t ∧ t.sys.bifail.getLsbD port = true ∧ t.strands = s.strands
      ∧ t.time = max s.time (p.sent + 1600 * (s.sys.bito.toList.getD port 0).toNat) := by
  let later : State := { s with time := max s.time (p.sent + usCycles (s.sys.bito.toList.getD port 0).toNat) }
  have e : exec (.bitoTimeout port line) s = .next (later.hostSilent port line) := by
    refine (?_ : execBitoTimeout port line s = _)
    unfold execBitoTimeout
    rw [if_pos hport, portAgent, hp]
  obtain ⟨u, -, hs⟩ := later.hostSilent_beyond port line
  refine ⟨_, e, ?_, later.hostSilent_strands port line, later.hostSilent_time port line⟩
  rw [bifail_of_beyond hs]
  exact getLsbD_raise hport

/-- A port that is lost: its bit is set, and strands and time stand. -/
theorem State.losePort_spec (s : State) {port : Nat} (h : port < 2) : (s.losePort port).sys.portDown.getLsbD port = true
    ∧ (s.losePort port).strands = s.strands ∧ (s.losePort port).time = s.time := by
  unfold State.losePort
  extract_lets sys down logged silent here gone
  have hlog : logged.beyond false = down.beyond false := State.logSystem_beyond ..
  have kept {β : Type} (g : State → β) (hg : ∀ u line, g (u.hostSilent port line) = g u) : g silent = g logged :=
    foldl_keeps (f := fun (s : State) (p : Probe) => s.hostSilent port p.line) g (fun u p => hg u p.line) _ _
  have hdown : silent.sys.portDown = logged.sys.portDown := kept (fun u => u.sys.portDown) fun u => State.hostSilent_portDown u port
  have hstrands : silent.strands = logged.strands := kept State.strands fun u => State.hostSilent_strands u port
  have htime : silent.time = logged.time := kept State.time fun u => State.hostSilent_time u port
  have hgone : gone.beyond false = silent.beyond false := by
    refine State.beyond_foldl (fun s e => ?_) _ _
    extract_lets modified v
    have hv : v.beyond false = s.beyond false := by simp [v]
    split
    · exact ((State.logEvent_beyond ..).trans (State.setMem_beyond v _)).trans hv
    · exact hv
  have hdrop : (gone.dropHostWrites here).beyond false = gone.beyond false := State.dropHostWrites_beyond ..
  have hback := hdrop.trans hgone
  refine ⟨?_, ?_, ?_⟩
  · rw [portDown_of_beyond hback, hdown, portDown_of_beyond hlog]
    exact getLsbD_raise h
  · rw [strands_of_beyond hback, hstrands, strands_of_beyond hlog]
    rfl
  · rw [time_of_beyond hback, htime, time_of_beyond hlog]
    rfl

theorem linkRows {s : State} {port : Nat} (hport : port < 2) :
    (SMap.find s.sys.linkDown port = none →
      (∃ t : State, exec (.cxlLinkDown port false) s = .next t ∧ t.mem = s.mem ∧ SMap.find t.sys.linkDown port = some (s.time + 1)
        ∧ t.sys.portDown = s.sys.portDown)
      ∧ (∃ t : State, exec (.cxlLinkDown port true) s = .next t ∧ t.sys.portDown.getLsbD port = true ∧ t.strands = s.strands))
    ∧ (∀ x, SMap.find s.sys.linkDown port = some (x + 1) →
      (∃ t : State, exec (.cxlRetrainTimeout port) s = .next t ∧ t.time = max s.time (x + 160000000) ∧ t.sys.portDown.getLsbD port = true)
      ∧ (∃ t : State, exec (.cxlLinkUp port) s = .next t ∧ SMap.find t.sys.linkDown port = none ∧ t.mem = s.mem)) := by
  refine ⟨fun hl => ⟨?_, ?_⟩, fun x hl => ⟨?_, ?_⟩⟩
  · have e : exec (.cxlLinkDown port false) s = .next (s.setSys { s.sys with linkDown := s.sys.linkDown.put port (s.time + 1) }) := by
      refine (?_ : execCxlLinkDown port false s = _)
      unfold execCxlLinkDown
      rw [if_neg (by omega), hl]
      rfl
    exact ⟨_, e, rfl, SMap.find_put_same .., rfl⟩
  · have e : exec (.cxlLinkDown port true) s = .next (s.losePort port) := by
      refine (?_ : execCxlLinkDown port true s = _)
      unfold execCxlLinkDown
      rw [if_neg (by omega), hl]
      rfl
    obtain ⟨hdown, hst, -⟩ := s.losePort_spec hport
    exact ⟨_, e, hdown, hst⟩
  · have e : exec (.cxlRetrainTimeout port) s = .next (State.losePort { s with time := max s.time (x + 160000000) } port) := by
      refine (?_ : execCxlRetrainTimeout port s = _)
      unfold execCxlRetrainTimeout
      rw [hl]
    obtain ⟨hdown, -, ht⟩ := State.losePort_spec { s with time := max s.time (x + 160000000) } hport
    exact ⟨_, e, ht, hdown⟩
  · have e : exec (.cxlLinkUp port) s = .next (s.setSys { s.sys with linkDown := s.sys.linkDown.erase port }) := by
      refine (?_ : execCxlLinkUp port s = _)
      unfold execCxlLinkUp
      rw [hl]
      rfl
    exact ⟨_, e, SMap.find_erase_same .., rfl⟩

/-! ### The harts' tenant register (R330) -/

theorem vlntenantWrites (s : State) {hart : Nat} (h : hart < 16) (v : BitVec 6) :
    (∃ t : State, exec (.vlntenantWrite hart true v) s = .next t ∧ SMap.get 0 t.hub.vlntenant hart = v ∧ Quiet s t
      ∧ t.opsOf hart = (s.opsOf hart).map fun x => { x with bound := some (s.partyTenant hart x) })
    ∧ (∃ t : State, exec (.vlntenantWrite hart false v) s = .next t ∧ SMap.find t.hub.told hart = some .illegal ∧ t.hub.vlntenant = s.hub.vlntenant
      ∧ t.opsOf hart = s.opsOf hart ∧ Quiet s t) := by
  constructor
  · refine ⟨_, if_neg (by omega), ?_, ⟨rfl, ⟨rfl, rfl, rfl, rfl⟩, ⟨rfl, rfl, rfl, rfl⟩⟩, ?_⟩
    · exact SMap.get_set_same ..
    · refine (SMap.get_set_same ..).trans (List.map_congr_left fun x _ => ?_)
      simp [State.partyTenant, isHart, h]
  · exact ⟨_, if_neg (by omega), told_tell .., rfl, rfl, quiet_tell ..⟩

end Sys2Proof.Machine
end

section
/-! The answer of a host to a back-invalidation (R134, R121). -/
namespace Sys2Proof.Machine

/-! ### What a store leaves of the lists -/

/-- The lists of requests and the copies. -/
def State.lists (s : State) : SMap (List Request) × List (Nat × Request) × SMap L2Copy := (s.homes.reqs, s.homes.ingress, s.copies)

theorem State.lists_of_books {s t : State} (h : t.books = s.books) (hc : t.copies = s.copies) : t.lists = s.lists := by
  rw [State.lists, State.lists, reqs_of_books h, ingress_of_books h, hc]

theorem copies_of_lists {s t : State} (h : t.lists = s.lists) : t.copies = s.copies := (congrArg (fun x => x.2.2) h :)

theorem queued_of_lists {s t : State} (h : t.lists = s.lists) {line : Nat} {l : List Request} (hq : Queued s line l) : Queued t line l := by
  have hr : t.homes.reqs = s.homes.reqs := congrArg Prod.fst h
  have hi : t.homes.ingress = s.homes.ingress := (congrArg (fun x => x.2.1) h :)
  refine ⟨?_, by rw [hi]; exact hq.2⟩
  rw [State.reqsAt, hr]
  exact hq.1

theorem State.setSys_lists (s : State) (y : Sys) : (s.setSys y).lists = s.lists := rfl

theorem State.count1_lists (s : State) (pa : Nat) : (s.count1 pa).lists = s.lists := by
  unfold State.count1 State.countN
  exact State.setSys_lists ..

theorem State.logEvent_lists (s : State) (pa struct kind agent tenant : Nat) : (s.logEvent pa struct kind agent tenant).lists = s.lists := by
  simp only [State.logEvent]
  split
  · exact State.count1_lists ..
  · exact State.setSys_lists ..

theorem State.phintWrite_lists (s : State) (a off n : Nat) : (s.phintWrite a off n).lists = s.lists := by
  obtain ⟨q, hq⟩ := s.phintWrite_eq a off n
  rw [hq]
  rfl

theorem State.rekeyLine_lists (s : State) (line : Nat) (key : Nat × Nat) (whole : Bool) : (s.rekeyLine line key whole).lists = s.lists := by
  unfold State.rekeyLine
  dsimp only
  split <;> rfl

theorem State.setMem_lists (s : State) (k : Memory) : State.lists { s with mem := k } = s.lists := rfl

theorem State.storePa_lists (s : State) (tenant key pa n v : Nat) (whole : Bool) : (s.storePa tenant key pa n v whole).1.lists = s.lists := by
  unfold State.storePa
  extract_lets u homes freed zeroed found keyed
  have hu : u.lists = s.lists := by
    simp only [u]
    split
    · exact State.phintWrite_lists ..
    · rfl
  have hfreed : freed.lists = u.lists := rfl
  have hzeroed : zeroed.lists = freed.lists := State.setMem_lists freed _
  clear_value zeroed freed
  have hfound : found.lists = s.lists := by
    simp only [found]
    split
    · rw [State.logEvent_lists, hzeroed, hfreed, hu]
    · exact hu
  have hkeyed : keyed.lists = s.lists := by
    simp only [keyed]
    split
    · rw [State.rekeyLine_lists, hfound]
    · exact hfound
  clear_value u keyed
  (repeat' split)
  · exact (State.count1_lists ..).trans hu
  · exact (State.count1_lists ..).trans hu
  · exact (State.count1_lists ..).trans hu
  · exact hkeyed
  · exact (State.setMem_lists keyed _).trans hkeyed

theorem State.storeAt_lists (s : State) (tenant key pa n v : Nat) (whole : Bool) : (s.storeAt tenant key pa n v whole).1.lists = s.lists := by
  simp only [State.storeAt]
  split
  · exact (State.lists_of_books (State.updLine_books ..) (State.updLine_copies ..)).trans (State.storePa_lists ..)
  · exact State.storePa_lists ..

/-! ### What the home takes from its lists -/

theorem State.enterList_lost (s : State) (x : Nat × Request) : (s.enterList x).homes.lost = s.homes.lost := by
  unfold State.enterList
  split <;> rfl

theorem State.enterList_lineKeys (s : State) (x : Nat × Request) : (s.enterList x).homes.lineKeys = s.homes.lineKeys := by
  unfold State.enterList
  split <;> rfl

theorem State.dropReqs_marks (s : State) (line : Nat) (p : Request → Bool) :
    (s.dropReqs line p).homes.lost = s.homes.lost ∧ (s.dropReqs line p).homes.lineKeys = s.homes.lineKeys := by
  unfold State.dropReqs
  dsimp only
  split
  · exact ⟨rfl, rfl⟩
  · rw [State.fillBuffers_eq]
    exact ⟨foldl_keeps (fun u : State => u.homes.lost) State.enterList_lost _ _, foldl_keeps (fun u : State => u.homes.lineKeys) State.enterList_lineKeys _ _⟩

/-! ### The row -/

/-- The host's copy after its answer, and its requests to write the line back dropped. -/
def State.birspTaken (s : State) (port line : Nat) (p : Probe) : State :=
  let u := (s.dropProbe (200 + port) line).dropReqs line (Request.isPutO (200 + port))
  if p.invalidate then u.dropCopy (200 + port) line else u.cleanCopy (200 + port) line

/-- The data of the answer in memory and in the LLC. -/
def State.birspData (s : State) (port line : Nat) (d : List Byte) : State :=
  if d.length = 128 && !s.isLost (128 * line) && !s.sys.bifail.getLsbD port then
    (s.storeAt 0 (s.keyOfTenant 0) (128 * line) 128 (leOfBytes d) false).1.fillLlc 784 0 (s.keyOfTenant 0) line true
  else s

section
variable {s : State} {port line : Nat}

theorem exec_birsp {p : Probe} {l : List Request} (hport : port < 2) (hp : s.probeOf (200 + port) line = some p) (hq : Queued s line l)
    (hl : ∀ x ∈ l, x.isPutO (200 + port) = false) (d : List Byte) :
    exec (.birsp port line d) s = .next ((((s.birspTaken port line p).birspData port line d).trace line (200 + port) 8 0).countAnswer line) := by
  have hput : ((s.reqsAt line) ++ ((s.homes.ingress.filter fun x => x.1 == line).map Prod.snd)).find? (Request.isPutO (200 + port)) = none := by
    refine List.find?_eq_none.2 fun x hx => ?_
    rcases List.mem_append.1 hx with hx | hx
    · simpa using hl x (hq.1 ▸ hx)
    · obtain ⟨y, hy, -⟩ := List.mem_map.1 hx
      obtain ⟨hy, hline⟩ := List.mem_filter.1 hy
      exact absurd (by simpa using hline) (hq.2 y hy)
  refine (?_ : execBirsp port line d s = _)
  unfold execBirsp
  dsimp only [portAgent]
  rw [if_pos hport, hp]
  dsimp only
  rw [hput]
  rfl

variable {l : List Request} (hq : Queued s line l) (hl : ∀ x ∈ l, x.isPutO (200 + port) = false) (p : Probe)

theorem State.birspTaken_beyond : (s.birspTaken port line p).beyond true = s.beyond true := by simp [State.birspTaken]

theorem State.birspTaken_marks : (s.birspTaken port line p).homes.lost = s.homes.lost
    ∧ (s.birspTaken port line p).homes.lineKeys = s.homes.lineKeys := by
  have h := (s.dropProbe (200 + port) line).dropReqs_marks line (Request.isPutO (200 + port))
  have hc (u : State) : (u.cleanCopy (200 + port) line).homes = u.homes := by
    unfold State.cleanCopy
    split <;> rfl
  simp only [State.birspTaken]
  split
  · exact h
  · rw [hc]
    exact h

include hq hl in
theorem State.birspTaken_queued : Queued (s.birspTaken port line p) line l := by
  have h : Queued ((s.dropProbe (200 + port) line).dropReqs line (Request.isPutO (200 + port))) line l :=
    State.dropReqs_queued (queued_of_books (State.dropProbe_books ..) hq) hl
  simp only [State.birspTaken]
  split
  · exact queued_of_books (State.dropCopy_books ..) h
  · exact queued_of_books (State.cleanCopy_books ..) h

theorem State.birspTaken_copyAt (hi : p.invalidate = true) : (s.birspTaken port line p).copyAt (200 + port) line = none := by
  simp only [State.birspTaken, hi]
  exact State.copyAt_dropCopy ..

theorem State.birspData_beyond (d : List Byte) : (s.birspData port line d).beyond false = s.beyond false := by
  unfold State.birspData
  split <;> simp

theorem State.birspData_lists (d : List Byte) : (s.birspData port line d).lists = s.lists := by
  unfold State.birspData
  split
  · exact (State.lists_of_books (State.fillLlc_books ..) (State.fillLlc_copies ..)).trans (State.storeAt_lists ..)
  · rfl

theorem State.birspData_mem {d : List Byte} (hd : d.length = 128) (hb : s.sys.bifail.getLsbD port = false)
    (hp : PlainStore s (128 * line) (s.keyOfTenant 0)) :
    (s.birspData port line d).mem = s.mem.writeLe (128 * line) 128 (leOfBytes d) := by
  obtain ⟨q, hstore⟩ := State.storeAt_plain hp 0 128 (leOfBytes d) false
  unfold State.birspData
  rw [if_pos (by simp [hd, hb, hp.1]), hstore]
  exact mem_of_beyond (State.fillLlc_beyond ..)

/-- The second answer but one of a head that probes is counted. -/
theorem State.countAnswer_two {r : Request} {rest : List Request} (h : s.reqsAt line = r :: rest) (hph : r.phase = .probing 2) :
    s.countAnswer line = s.setHead line { r with phase := .probing 1 } := by
  unfold State.countAnswer
  rw [h]
  dsimp only
  rw [hph]
  rfl

end

theorem birspCounts {s : State} {port line : Nat} {p : Probe} (hport : port < 2) (hp : s.probeOf (200 + port) line = some p) (d : List Byte)
    (l : List Request) (hq : Queued s line l) (hl : ∀ x ∈ l, x.isPutO (200 + port) = false ∧ ∀ w, x.kind ≠ .homeWrite w) :
    ∃ t : State, exec (.birsp port line d) s = .next t ∧ t.strands = s.strands
      ∧ (d.length ≠ 128 → t.mem = s.mem)
      ∧ (d.length = 128 → s.sys.bifail.getLsbD port = false → PlainStore s (128 * line) (s.keyOfTenant 0) → Holds s t (128 * line) 128 (leOfBytes d))
      ∧ (∀ r rest, p.invalidate = true → l = r :: rest → r.phase = .probing 2 →
        t.copyAt (200 + port) line = none ∧ t.reqsAt line = { r with phase := .probing 1 } :: rest) := by
  refine ⟨_, exec_birsp hport hp hq (fun x hx => (hl x hx).1) d, ?_⟩
  have hub : (s.birspTaken port line p).beyond true = s.beyond true := State.birspTaken_beyond p
  have huq : Queued (s.birspTaken port line p) line l := State.birspTaken_queued hq (fun x hx => (hl x hx).1) p
  have hcopy : p.invalidate = true → (s.birspTaken port line p).copyAt (200 + port) line = none := State.birspTaken_copyAt p
  obtain ⟨hlost, hkeys⟩ := State.birspTaken_marks (s := s) (port := port) (line := line) p
  generalize s.birspTaken port line p = u at *
  have hvb : (u.birspData port line d).beyond false = u.beyond false := State.birspData_beyond d
  have hvl : (u.birspData port line d).lists = u.lists := State.birspData_lists d
  have hvm : d.length = 128 → s.sys.bifail.getLsbD port = false → PlainStore s (128 * line) (s.keyOfTenant 0) →
      (u.birspData port line d).mem = s.mem.writeLe (128 * line) 128 (leOfBytes d) := fun hd hb hplain => by
    have hkey : u.keyOfTenant 0 = s.keyOfTenant 0 := by
      rw [State.keyOfTenant, State.keyOfTenant, State.keyIndex, State.keyIndex, keystone_of_beyond hub]
    rw [State.birspData_mem hd (by rw [bifail_of_beyond hub, hb]) (hkey ▸ plainStore_of_marks hub hlost hkeys hplain), mem_of_beyond hub]
  have hvn : d.length ≠ 128 → u.birspData port line d = u := fun hd => by
    unfold State.birspData
    exact if_neg (by simp [hd])
  generalize u.birspData port line d = v at *
  have hwb : (v.trace line (200 + port) 8 0).beyond true = v.beyond true := State.trace_beyond ..
  have hwl : (v.trace line (200 + port) 8 0).lists = u.lists :=
    (State.lists_of_books (State.trace_books ..) (State.trace_copies ..)).trans hvl
  generalize v.trace line (200 + port) 8 0 = w at *
  have hwq : Queued w line l := queued_of_lists hwl huq
  have hcount : (w.countAnswer line).beyond true = w.beyond true :=
    State.countAnswer_beyond w line fun _ x hx => (hl x (hwq.1 ▸ hx)).2
  have hmem : (w.countAnswer line).mem = v.mem := (mem_of_beyond hcount).trans (mem_of_beyond hwb)
  refine ⟨?_, fun hd => ?_, fun hd hb hplain => ?_, fun r rest hi hr hph => ?_⟩
  · exact (((strands_of_beyond hcount).trans (strands_of_beyond hwb)).trans (strands_of_beyond hvb)).trans (strands_of_beyond hub)
  · rw [hmem, hvn hd, mem_of_beyond hub]
  · exact holds_of_writeLe (hmem.trans (hvm hd hb hplain))
  · have hhead : w.reqsAt line = r :: rest := hwq.1.trans hr
    rw [State.countAnswer_two hhead hph]
    constructor
    · refine (State.copyAt_congr (copies_of_lists hwl) ?_ _ _).trans (hcopy hi)
      exact (time_of_beyond hwb).trans (time_of_beyond hvb)
    · rw [State.setHead, hhead]
      exact State.reqsAt_setReqs_same ..

end Sys2Proof.Machine
end

section
/-! Lines of host memory that the host gives to the device (R135). -/
namespace Sys2Proof.Machine

theorem Memory.read_writeBytes_inside (m : Memory) (a : Nat) (l : List Byte) {i : Nat} (h : i < l.length) :
    (m.writeBytes a l).read (a + i) = l.getD i 0 := by
  induction l generalizing m a i with
  | nil => exact absurd h (Nat.not_lt_zero i)
  | cons b r ih =>
    cases i with
    | zero =>
      refine (Memory.read_writeBytes_outside (m.write a b) (a + 1) a r (.inl (by omega))).trans ?_
      exact Memory.read_write_same ..
    | succ i =>
      rw [← Nat.add_assoc, Nat.add_right_comm]
      exact ih (m.write a b) (a + 1) (Nat.lt_of_succ_lt_succ h)

/-! ### The L2 takes a copy -/

/-- The victim of a fill is one of the lines that the set holds. -/
theorem fillWay_victim {mask ways : Nat} {held : List (Nat × Nat)} {stack : List Nat} {x : Nat}
    (h : (fillWay mask ways held stack).2 = some x) : ∃ e ∈ held, e.1 = x := by
  unfold fillWay at h
  dsimp only at h
  split at h
  · cases h
  · split at h
    next y hy =>
      obtain rfl : y = x := Option.some.inj h
      rcases List.mem_append.1 (List.mem_of_getLast? hy) with hm | hm
      · obtain ⟨e, he, hx⟩ := List.any_eq_true.1 (List.mem_filter.1 hm).2
        exact ⟨e, he, beq_iff_eq.1 ((Bool.and_eq_true_iff.1 hx).1)⟩
      · obtain ⟨e, he, rfl⟩ := List.mem_map.1 hm
        exact ⟨e, (List.mem_filter.1 he).1, rfl⟩
    next => cases h

theorem State.appendReq_queued {s : State} {line k : Nat} {l : List Request} (h : Queued s line l) (hk : k ≠ line) (r : Request) :
    Queued (s.appendReq k r) line l := by
  unfold State.appendReq
  split
  · exact h
  · dsimp only
    split
    · refine ⟨h.1, fun y hy => ?_⟩
      rcases List.mem_append.1 hy with hy | hy
      · exact h.2 y hy
      · exact List.mem_singleton.1 hy ▸ hk
    · exact ⟨(State.reqsAt_setReqs_other _ _ hk.symm).trans h.1, h.2⟩

theorem State.appendReq_copies (s : State) (line : Nat) (r : Request) : (s.appendReq line r).copies = s.copies := by
  unfold State.appendReq
  dsimp only
  (repeat' split) <;> rfl

theorem State.evictCopy_queued {s : State} {line k : Nat} {l : List Request} (h : Queued s line l) (hk : k ≠ line) (a : Nat) :
    Queued (s.evictCopy a k) line l := by
  have hd : Queued (s.dropCopy a k) line l := queued_of_books (State.dropCopy_books ..) h
  unfold State.evictCopy
  (repeat' split)
  · exact hd
  · exact hd
  · exact State.appendReq_queued hd hk _
  · exact State.appendReq_queued hd hk _

theorem State.evictCopy_copies (s : State) (a line : Nat) : (s.evictCopy a line).copies = s.copies.erase (copyKey a line) := by
  unfold State.evictCopy
  (repeat' split)
  · rfl
  · rfl
  · exact State.appendReq_copies ..
  · exact State.appendReq_copies ..

theorem State.copyAt_of_find {s : State} {a line : Nat} {c : L2Copy} (h : SMap.find s.copies (copyKey a line) = some c)
    (hc : ∀ e, c.st ≠ .leased e) : s.copyAt a line = some c := by
  unfold State.copyAt
  rw [h]
  dsimp only
  split
  next e he => exact absurd he (hc e)
  next => rfl

theorem State.copyAt_congr_find {s t : State} {a line : Nat} (h : SMap.find t.copies (copyKey a line) = SMap.find s.copies (copyKey a line))
    (ht : t.time = s.time) : t.copyAt a line = s.copyAt a line := by rw [State.copyAt, State.copyAt, h, ht]

/-- What a fill of an L2 leaves: the copy, the requests for its line, and every other copy but that of a victim. -/
structure Filled (s t : State) (a line tenant key : Nat) (st : CopyState) : Prop where
  copy : ∃ c, t.copyAt a line = some c ∧ c.st = st ∧ c.tenant = tenant ∧ c.key = key
    ∧ (s.copyAt a line = none → c.presence = 0 ∧ c.modified = none)
    ∧ ∀ old, s.copyAt a line = some old → old.tenant = tenant → old.key = key → c.presence = old.presence
  queue : ∀ l, Queued s line l → t.reqsAt line = l
  others : ∀ k, k ≠ copyKey a line → SMap.find s.copies k = none → SMap.find t.copies k = none

theorem filled_held {s : State} {a line : Nat} {st : CopyState} {c : L2Copy} (hc : s.copyAt a line = some c) (hst : ∀ e, st ≠ .leased e) (k : Nat)
    (l : List Nat) : Filled s ((s.setCopy a line { c with st := st }).setStack k l) a line c.tenant c.key st where
  copy := ⟨_, State.copyAt_of_find (SMap.find_put_same ..) hst, rfl, rfl, rfl, fun h => by simp [hc] at h,
    fun old h _ _ => by rw [← Option.some.inj (hc.symm.trans h)]⟩
  queue := fun l h => h.1
  others := fun k hk h => (SMap.find_put_other _ _ hk).trans h

theorem filled_fresh {s u : State} {a line tenant key : Nat} {st : CopyState} {c : L2Copy} (hst : ∀ e, st ≠ .leased e)
    (hold : ∀ old, s.copyAt a line = some old → ¬(old.tenant = tenant ∧ old.key = key)) (hq : ∀ l, Queued s line l → Queued u line l)
    (hu : ∀ k, SMap.find s.copies k = none → SMap.find u.copies k = none) (hs : c.st = st) (ht : c.tenant = tenant) (hk : c.key = key)
    (hp : c.presence = 0) (hm : c.modified = none) (k : Nat) (l : List Nat) :
    Filled s ((u.setCopy a line c).setStack k l) a line tenant key st where
  copy := ⟨c, State.copyAt_of_find (SMap.find_put_same ..) (hs ▸ hst), hs, ht, hk, fun _ => ⟨hp, hm⟩, fun old h ht hk => absurd ⟨ht, hk⟩ (hold old h)⟩
  queue := fun l h => (hq l h).1
  others := fun k hk h => (SMap.find_put_other _ _ hk).trans (hu k h)

/-- A victim other than the line is given up. -/
theorem evicted_of_fillWay {s : State} {a line : Nat} {mask : Nat} {held : List (Nat × Nat)} {stack : List Nat} (hh : ∀ e ∈ held, e.1 ≠ line) :
    let t : State := match (fillWay mask 16 held stack).2 with | some x => s.evictCopy a x | none => s
    (∀ l, Queued s line l → Queued t line l) ∧ ∀ k, SMap.find s.copies k = none → SMap.find t.copies k = none := by
  cases hw : (fillWay mask 16 held stack).2 with
  | none => exact ⟨fun l h => h, fun k h => h⟩
  | some x =>
    intro t
    obtain ⟨e, he, rfl⟩ := fillWay_victim hw
    refine ⟨fun l h => State.evictCopy_queued h (hh e he) a, fun k h => ?_⟩
    rw [State.evictCopy_copies]
    by_cases hk : k = copyKey a e.1
    · rw [hk, SMap.find_erase_same]
    · rw [SMap.find_erase_other _ hk, h]

theorem State.putCopy_filled (s : State) {a : Nat} (ha : a < 197) (line core tenant key : Nat) {st : CopyState} (hst : ∀ e, st ≠ .leased e) :
    Filled s (s.putCopy a line core tenant key st) a line tenant key st := by
  unfold State.putCopy
  rw [if_neg (by omega)]
  extract_lets k share mine leased u held w v live
  cases hmine : mine with
  | some c =>
    have hc : s.copyAt a line = some c ∧ c.tenant = tenant ∧ c.key = key := by
      cases hcopy : s.copyAt a line with
      | none => simp [mine, hcopy] at hmine
      | some x =>
        simp only [mine, hcopy, Option.ite_none_right_eq_some, Option.some.injEq] at hmine
        obtain ⟨⟨ht, hk⟩, rfl⟩ := hmine
        exact ⟨rfl, ht, hk⟩
    obtain ⟨hc, rfl, rfl⟩ := hc
    have hl : leased = false := by
      cases st with
      | leased e => exact absurd rfl (hst e)
      | shared => rfl
      | owned => rfl
    dsimp only
    rw [hl]
    exact filled_held hc hst _ _
  | none =>
    have hold (old : L2Copy) (h : s.copyAt a line = some old) : ¬(old.tenant = tenant ∧ old.key = key) := fun hk => by
      simp [mine, h, hk] at hmine
    have hbooks : u.books = s.books := by
      simp only [u]
      (repeat' split) <;> simp
    have hcopies : u.copies = s.copies := by
      simp only [u]
      (repeat' split) <;> simp
    have hh : ∀ e ∈ held, e.1 ≠ line := fun e he => by
      obtain ⟨x, hx, rfl⟩ := List.mem_map.1 he
      exact bne_iff_ne.1 (Bool.and_eq_true_iff.1 (List.mem_filter.1 hx).2).2
    obtain ⟨hq, hfind⟩ := evicted_of_fillWay (s := u) (a := a)
      (mask := match share with | some r => fieldN r 0 16 | none => 0xFFFF) (stack := u.stack k) hh
    exact filled_fresh hst hold (fun l h => hq l (queued_of_books hbooks h)) (fun j h => hfind j (by rw [hcopies, h])) rfl rfl rfl rfl rfl _ _

/-! ### The hub grants a line of host memory -/

/-- What a clean copy keeps. -/
def State.copyMark (s : State) (a line : Nat) : Option (Nat × Nat × BitVec 4) := (s.copyAt a line).map fun c => (c.tenant, c.key, c.presence)

theorem copyKey_inj {a b line : Nat} (h : copyKey a line = copyKey b line) : a = b := by
  unfold copyKey at h
  omega

theorem State.cleanCopy_mark (s : State) (b a line : Nat) : (s.cleanCopy b line).copyMark a line = s.copyMark a line := by
  unfold State.cleanCopy
  cases hb : s.copyAt b line with
  | none => rfl
  | some c =>
    by_cases h : a = b
    · subst h
      have hclean : (s.setCopy a line { c with st := .shared, modified := none }).copyAt a line = some { c with st := .shared, modified := none } :=
        State.copyAt_of_find (SMap.find_put_same ..) (by simp)
      simp only [State.copyMark, hclean, hb, Option.map_some]
    · have hfind := SMap.find_put_other s.copies { c with st := .shared, modified := none } (mt copyKey_inj h : copyKey a line ≠ copyKey b line)
      have hcopy : (s.setCopy b line { c with st := .shared, modified := none }).copyAt a line = s.copyAt a line := State.copyAt_congr_find hfind rfl
      simp only [State.copyMark, hcopy]

/-- A grant of a copy after others were cleaned. -/
theorem hasCopy_of_filled {s u t : State} {r : Request} {line : Nat} {st : CopyState} (h : Filled u t r.agent line r.tenant r.key st)
    (hm : u.copyMark r.agent line = s.copyMark r.agent line) : HasCopy s t r line st := by
  obtain ⟨c, hc, hst, ht, hk, hnone, hsome⟩ := h.copy
  refine ⟨c, hc, hst, ht, hk, fun hs => hnone ?_, fun old hs hot hok => ?_⟩
  · simpa [State.copyMark, hs] using hm
  · obtain ⟨x, hx, hxt, hxk, hxp⟩ : ∃ x, u.copyAt r.agent line = some x ∧ x.tenant = old.tenant ∧ x.key = old.key ∧ x.presence = old.presence := by
      simpa [State.copyMark, hs] using hm
    rw [hsome x hx (hxt.trans hot) (hxk.trans hok), hxp]

section
variable {s : State} {line : Nat} {r : Request} {rest : List Request} (hq : Queued s line (r :: rest))
  (hp : ∀ x ∈ rest, x.kind = .part → x.no ≠ r.no) (ha : r.agent < 192)
include hq hp ha

theorem grantHost_getS (hk : r.kind = .getS) : (s.grantHost r line).beyond true = s.beyond true ∧ (s.grantHost r line).reqsAt line = rest
    ∧ HasCopy s (s.grantHost r line) r line .shared := by
  let e := s.snoopAt line
  let u := (e.agents.foldl (fun s a => s.cleanCopy a line) (s.popReq line)).setSnoop line
    { e with agents := if e.agents.contains r.agent then e.agents else e.agents ++ [r.agent] }
  have hgrant : s.grantHost r line = u.putCopy r.agent line r.core r.tenant r.key .shared := by
    unfold State.grantHost
    rw [hk]
  have hfill := State.putCopy_filled u (show r.agent < 197 by omega) line r.core r.tenant r.key (st := .shared) (by simp)
  have hfold : Queued (e.agents.foldl (fun s a => s.cleanCopy a line) (s.popReq line)) line rest :=
    foldl_queued (fun v a _ hv => queued_of_books (State.cleanCopy_books ..) hv) (State.popReq_queued hq hp)
  have hmark : u.copyMark r.agent line = s.copyMark r.agent line := by
    have h1 : u.copyMark r.agent line = (e.agents.foldl (fun s a => s.cleanCopy a line) (s.popReq line)).copyMark r.agent line := by
      have hcopy : u.copyAt r.agent line = _ := State.copyAt_congr (State.setSnoop_copies ..) rfl r.agent line
      rw [State.copyMark, hcopy, State.copyMark]
    have h2 : (e.agents.foldl (fun s a => s.cleanCopy a line) (s.popReq line)).copyMark r.agent line = (s.popReq line).copyMark r.agent line :=
      foldl_keeps (fun v => v.copyMark r.agent line) (fun v a => State.cleanCopy_mark v a r.agent line) _ _
    rw [h1, h2, State.copyMark, State.copyAt_congr (State.popReq_copies ..) (time_of_beyond (State.popReq_beyond true s line)), State.copyMark]
  rw [hgrant]
  exact ⟨by simp [u], hfill.queue rest (queued_of_books (State.setSnoop_books ..) hfold), hasCopy_of_filled hfill hmark⟩

theorem grantHost_getO {w : Bool} (hl : line < 2 ^ 45) (hk : r.kind = .getO w) : (s.grantHost r line).beyond true = s.beyond true
    ∧ (s.grantHost r line).reqsAt line = rest ∧ HasCopy s (s.grantHost r line) r line .owned
    ∧ ∀ b, b ≠ r.agent → (s.grantHost r line).copyAt b line = none := by
  let u := ((s.popReq line).dropOtherCopies r.agent line).setSnoop line { agents := [r.agent], owned := true, older := (s.snoopAt line).older }
  have hgrant : s.grantHost r line = u.putCopy r.agent line r.core r.tenant r.key .owned := by
    unfold State.grantHost
    rw [hk]
  have hfill := State.putCopy_filled u (show r.agent < 197 by omega) line r.core r.tenant r.key (st := .owned) (by simp)
  have hdrop : Queued ((s.popReq line).dropOtherCopies r.agent line) line rest :=
    queued_of_books (State.dropOtherCopies_books ..) (State.popReq_queued hq hp)
  have hcopies : u.copies = s.copies.filter fun e => e.1 % 2 ^ 45 != line || e.1 / 2 ^ 45 == r.agent := by
    rw [← State.popReq_copies s line]
    rfl
  have hmark : u.copyMark r.agent line = s.copyMark r.agent line := by
    have hfind : SMap.find u.copies (copyKey r.agent line) = SMap.find s.copies (copyKey r.agent line) := by
      rw [hcopies, SMap.find_filter_key (fun k => k % 2 ^ 45 != line || k / 2 ^ 45 == r.agent)]
      have : copyKey r.agent line / 2 ^ 45 = r.agent := by unfold copyKey; omega
      exact if_pos (by rw [this]; simp)
    have htime : u.time = s.time := time_of_beyond (State.popReq_beyond true s line)
    rw [State.copyMark, State.copyAt_congr_find hfind htime, State.copyMark]
  have hother (b : Nat) (hb : b ≠ r.agent) : SMap.find u.copies (copyKey b line) = none := by
    rw [hcopies]
    refine SMap.find_eq_none fun e he hkey => ?_
    have hkeep := (List.mem_filter.1 he).2
    have h1 : e.1 % 2 ^ 45 = line := by rw [hkey, copyKey]; omega
    have h2 : e.1 / 2 ^ 45 = b := by rw [hkey, copyKey]; omega
    rw [h1, h2] at hkeep
    simp [hb] at hkeep
  rw [hgrant]
  refine ⟨by simp [u], hfill.queue rest (queued_of_books (State.setSnoop_books ..) hdrop), hasCopy_of_filled hfill hmark, fun b hb => ?_⟩
  exact State.copyAt_eq_none (hfill.others _ (fun h => hb (copyKey_inj h)) (hother b hb))

end

/-- A line of host memory with the data that the host gives, and its entry of the snoop filter. -/
def State.hostGiven (s : State) (line : Nat) (d : List Byte) (e : SnoopEntry) : State :=
  State.setSnoop { s with mem := s.mem.writeBytes (128 * line) d } line e

/-- The host's answer grants the request at the head, with the data given. -/
theorem exec_cxlCacheResponse {s : State} {line : Nat} (hm : isHostMem (128 * line) = true)
    (hup : s.portUp (window (128 * line) - 0xC) = true) {r : Request} {rest : List Request} (hr : s.reqsAt line = r :: rest) {d : List Byte}
    (hd : d.length = 128) (he : (s.snoopAt line).owned = false) {owned : Bool}
    (hk : r.kind = .getS ∨ (∃ w, r.kind = .getO w) ∧ owned = true) :
    ∃ e, exec (.cxlCacheResponse line owned d) s = .next ((s.hostGiven line d e).grantHost r line) := by
  have hfresh : (if d.length = 128 && !(s.snoopAt line).owned then { s with mem := s.mem.writeBytes (128 * line) d } else s : State)
      = { s with mem := s.mem.writeBytes (128 * line) d } := if_pos (by simp [hd, he])
  have h : exec (.cxlCacheResponse line owned d) s = execCxlCacheResponse line owned d s := rfl
  rw [h]
  unfold execCxlCacheResponse
  dsimp only
  rw [if_neg (by simp [hm, hup]), hr]
  dsimp only
  rw [hfresh]
  rcases hk with hk | ⟨⟨w, hk⟩, rfl⟩ <;> rw [hk]
  · exact ⟨_, rfl⟩
  · exact ⟨_, rfl⟩

theorem hostDataGranted {s : State} {line : Nat} (hm : isHostMem (128 * line) = true) (r : Request) (rest : List Request) (d : List Byte)
    (hup : s.portUp (window (128 * line) - 0xC) = true) (hq : Queued s line (r :: rest)) (hp : ∀ x ∈ rest, x.kind = .part → x.no ≠ r.no)
    (ha : r.agent < 192) (hd : d.length = 128) (he : (SMap.get SnoopEntry.reset s.hub.snoop line).owned = false) :
    (r.kind = .getS → ∃ t : State, exec (.cxlCacheResponse line false d) s = .next t ∧ t.reqsAt line = rest ∧ HasCopy s t r line .shared
      ∧ (∀ i, i < 128 → t.mem.read (128 * line + i) = d.getD i 0) ∧ t.strands = s.strands)
    ∧ (∀ w, r.kind = .getO w → ∃ t : State, exec (.cxlCacheResponse line true d) s = .next t ∧ t.reqsAt line = rest ∧ HasCopy s t r line .owned
      ∧ (∀ i, i < 128 → t.mem.read (128 * line + i) = d.getD i 0) ∧ (∀ b, b ≠ r.agent → t.copyAt b line = none)) := by
  have hbooks (e : SnoopEntry) : (s.hostGiven line d e).books = s.books := State.setSnoop_books ..
  have hcopy (e : SnoopEntry) : (s.hostGiven line d e).copyAt r.agent line = s.copyAt r.agent line :=
    State.copyAt_congr (State.setSnoop_copies ..) rfl _ _
  have given {e : SnoopEntry} {t : State} (ht : t.beyond true = (s.hostGiven line d e).beyond true) :
      (∀ i, i < 128 → t.mem.read (128 * line + i) = d.getD i 0) ∧ t.strands = s.strands := by
    have hmem : t.mem = s.mem.writeBytes (128 * line) d := mem_of_beyond ht
    have hst : t.strands = (s.hostGiven line d e).strands := strands_of_beyond ht
    refine ⟨fun i hi => ?_, hst⟩
    rw [hmem]
    exact Memory.read_writeBytes_inside _ _ _ (hd ▸ hi)
  refine ⟨fun hk => ?_, fun w hk => ?_⟩
  · obtain ⟨e, hrow⟩ := exec_cxlCacheResponse hm hup hq.1 hd he (owned := false) (.inl hk)
    obtain ⟨hb, hreqs, hc⟩ := grantHost_getS (queued_of_books (hbooks e) hq) hp ha hk
    obtain ⟨hbytes, hst⟩ := given hb
    unfold HasCopy at hc ⊢
    rw [hcopy] at hc
    exact ⟨_, hrow, hreqs, hc, hbytes, hst⟩
  · obtain ⟨e, hrow⟩ := exec_cxlCacheResponse hm hup hq.1 hd he (owned := true) (.inr ⟨⟨w, hk⟩, rfl⟩)
    obtain ⟨hb, hreqs, hc, hnone⟩ := grantHost_getO (queued_of_books (hbooks e) hq) hp ha (line_lt_of_hostMem hm) hk
    obtain ⟨hbytes, -⟩ := given hb
    unfold HasCopy at hc ⊢
    rw [hcopy] at hc
    exact ⟨_, hrow, hreqs, hc, hbytes, hnone⟩

end Sys2Proof.Machine
end

section
/-! The accesses of a hart (R27, R136, R151, R329). -/
namespace Sys2Proof.Machine

theorem exec_party_load {s : State} {core : Nat} (h : 768 ≤ core) (id : Nat) :
    exec (.loadPerformed core id [] []) s = .next (s.partyStep (core - 768) id false []) := if_pos h

theorem exec_party_store {s : State} {core : Nat} (h : 768 ≤ core) (id : Nat) :
    exec (.storePerformed core id []) s = .next (s.partyStep (core - 768) id true []) := if_pos h

theorem exec_hart_load (s : State) (p id : Nat) : exec (.loadPerformed (768 + p) id [] []) s = .next (s.partyStep p id false []) := by
  rw [exec_party_load (Nat.le_add_right ..), Nat.add_sub_cancel_left]

theorem exec_hart_store (s : State) (p id : Nat) : exec (.storePerformed (768 + p) id []) s = .next (s.partyStep p id true []) := by
  rw [exec_party_store (Nat.le_add_right ..), Nat.add_sub_cancel_left]

/-! ### Which operation goes on (R151) -/

theorem State.partyStep_hart {s : State} {p : Nat} (hp : p < 16) (id : Nat) (write : Bool) (ext : List Byte) : s.partyStep p id write ext =
    match splitOp id (s.opsOf p) with
    | none => s
    | some (earlier, op) =>
      if op.kind.isFence || op.kind.writes != write || !mayFollow earlier op then s else s.partyGo p earlier op ext := by
  have h93 : (p == 93) = false := beq_eq_false_iff_ne.2 (by omega)
  have hpeer : isPeerParty p = false := by
    unfold isPeerParty
    simp only [Bool.and_eq_false_iff, decide_eq_false_iff_not]
    omega
  unfold State.partyStep
  simp only [h93, hpeer]
  rfl

/-- Nothing stands before a hart's first operation. -/
theorem State.partyStep_first {s : State} {p : Nat} (hp : p < 16) {op : PartyOp} {rest : List PartyOp} (h : s.opsOf p = op :: rest)
    (hf : op.kind.isFence = false) (ext : List Byte) : s.partyStep p op.id op.kind.writes ext = s.partyGo p [] op ext := by
  have hsplit : splitOp op.id (op :: rest) = some ([], op) := if_pos rfl
  rw [State.partyStep_hart hp, h, hsplit]
  exact if_neg (by simp [hf, mayFollow, fenceHolds])

theorem State.partyStep_held {s : State} {p : Nat} (hp : p < 16) {y f x : PartyOp} {rest : List PartyOp} (h : s.opsOf p = y :: f :: x :: rest)
    (hy : y.id ≠ x.id) (hf : f.id ≠ x.id) (ho : f.kind.orders y.kind x.kind = true) (write : Bool) (ext : List Byte) :
    s.partyStep p x.id write ext = s := by
  have hsplit : splitOp x.id (y :: f :: x :: rest) = some ([y, f], x) := by simp [splitOp, hy, hf]
  have hheld : mayFollow [y, f] x = false := by simp [mayFollow, fenceHolds, ho]
  rw [State.partyStep_hart hp, h, hsplit]
  exact if_pos (by simp [hheld])

theorem fencesHoldBack {s : State} {p : Nat} {y f x : PartyOp} {rest : List PartyOp} (hp : p < 16) (h : s.opsOf p = y :: f :: x :: rest)
    (hy : y.id ≠ x.id) (hf : f.id ≠ x.id) (hx : x.kind = .load) (v : Nat) (rr rw wr ww : Bool) :
    (y.kind = .load → f.kind = .fence true rw wr ww → exec (.loadPerformed (768 + p) x.id [] []) s = .next s)
    ∧ (y.kind = .store v → f.kind = .fence rr rw true ww → exec (.loadPerformed (768 + p) x.id [] []) s = .next s) := by
  refine ⟨fun hyk hfk => ?_, fun hyk hfk => ?_⟩
  · rw [exec_hart_load, State.partyStep_held hp h hy hf (by simp [hyk, hfk, hx, PartyKind.orders, PartyKind.reads])]
  · rw [exec_hart_load, State.partyStep_held hp h hy hf (by simp [hyk, hfk, hx, PartyKind.orders, PartyKind.reads, PartyKind.writes])]

/-! ### What is done -/

/-- The operations of a hart once its first is performed. -/
def opsLeft (op : PartyOp) (rest : List PartyOp) : List PartyOp := dropFences (rest.filter fun y => y.id != op.id)

theorem State.opsOf_partyDone {s u : State} {p : Nat} {op : PartyOp} {rest : List PartyOp} (h : s.opsOf p = op :: rest)
    (hu : u.hub.ops = s.hub.ops) (x : PartyReply) : (u.partyDone p op.id x).opsOf p = opsLeft op rest := by
  have hops : u.opsOf p = op :: rest := by rw [State.opsOf, hu]; exact h
  have hleft : (op :: rest).filter (fun y => y.id != op.id) = rest.filter fun y => y.id != op.id :=
    List.filter_cons_of_neg (by simp)
  rw [opsLeft, ← hleft, ← hops]
  exact SMap.get_set_same ..

theorem State.told_partyDone (s : State) (p id : Nat) (x : PartyReply) : SMap.find (s.partyDone p id x).hub.told p = some x := SMap.find_put_same ..

theorem State.mem_partyDone (s : State) (p id : Nat) (x : PartyReply) : (s.partyDone p id x).mem = s.mem := rfl
theorem State.strands_partyDone (s : State) (p id : Nat) (x : PartyReply) : (s.partyDone p id x).strands = s.strands := rfl
theorem quiet_partyDone (s : State) (p id : Nat) (x : PartyReply) : Quiet s (s.partyDone p id x) :=
  ⟨rfl, ⟨rfl, rfl, rfl, rfl⟩, ⟨rfl, rfl, rfl, rfl⟩⟩

/-! ### The access itself -/

theorem agentOf_hart {p : Nat} (hp : p < 16) : agentOf (partyCore p) = 192 + p / 4 := by
  unfold partyCore agentOf
  rw [if_neg (by omega)]
  omega

theorem hasAgent_hart {p : Nat} (hp : p < 16) : hasAgent p = true := by simp [hasAgent, isHart, hp]

theorem window_of_device {pa : Nat} (h : isDevice pa = true) : isControl pa = false ∧ isPeer pa = false := by
  have : window pa < 6 := of_decide_eq_true h
  simp only [isControl, isPeer, Bool.or_eq_false_iff, beq_eq_false_iff_ne]
  omega

theorem inLine_of_partyMay {s : State} {p : Nat} {op : PartyOp} (h : s.partyMay p op = true) : op.pa % 128 + op.bytes ≤ 128 := by
  unfold State.partyMay at h
  simp only [Bool.and_eq_true, PartyOp.inLine, decide_eq_true_eq] at h
  exact h.1.2.2

theorem partyForward_nil (op : PartyOp) : partyForward [] op = none := by
  unfold partyForward
  split <;> rfl

@[simp] theorem State.fillL1_books (s : State) (core a line : Nat) : (s.fillL1 core a line).books = s.books := by
  refine (foldl_keeps State.books (fun s x => ?_) _ _).trans rfl
  split <;> rfl

@[simp] theorem State.touchCopy_books (s : State) (core a pa : Nat) (write : Bool) : (s.touchCopy core a pa write).books = s.books := by
  unfold State.touchCopy
  (repeat' split) <;> simp

theorem partyTenant_of_beyond {m : Bool} {s t : State} (h : t.beyond m = s.beyond m) (p : Nat) (op : PartyOp) :
    t.partyTenant p op = s.partyTenant p op := by
  have hv : t.hub.vlntenant = s.hub.vlntenant := (congrArg (fun u : State => u.hub.vlntenant) h :)
  rw [State.partyTenant, State.partyTenant, hv]

theorem partyKey_of_beyond {m : Bool} {s t : State} (h : t.beyond m = s.beyond m) (p : Nat) (op : PartyOp) : t.partyKey p op = s.partyKey p op := by
  simp only [State.partyKey, partyTenant_of_beyond h, State.keyOfTenant, State.keyIndex, keystone_of_beyond h]

/-- A read by a hart of a plain line of device memory. -/
theorem State.partyRead_device {s : State} {p : Nat} {op : PartyOp} (hdev : isDevice op.pa = true) (hplain : PlainStore s op.pa (s.partyKey p op))
    (hl : op.pa % 128 + op.bytes ≤ 128) (ext : List Byte) :
    s.partyRead p op ext = (s.touchCopy (partyCore p) (agentOf (partyCore p)) op.pa false, s.mem.readLe op.pa op.bytes) := by
  obtain ⟨hc, hpeer⟩ := window_of_device hdev
  unfold State.partyRead
  rw [if_neg (by simp [hc]), if_neg (by simp [hpeer]), State.readPa_inLine hplain hl]
  rfl

/-- A write by a hart to a plain line of device memory. -/
theorem State.partyWrite_device {s : State} {p : Nat} {op : PartyOp} (hp : p < 16) (hdev : isDevice op.pa = true)
    (hplain : PlainStore s op.pa (s.partyKey p op)) (v : Nat) :
    (s.partyWrite p op v).mem = s.mem.writeLe op.pa op.bytes v ∧ (s.partyWrite p op v).beyond false = s.beyond false := by
  generalize hu : s.touchCopy (partyCore p) (agentOf (partyCore p)) op.pa true = u
  have hub : u.beyond true = s.beyond true := by rw [← hu]; simp
  have hbooks : u.books = s.books := by rw [← hu]; simp
  have e : s.partyWrite p op v = (u.storeAt (s.partyTenant p op) (s.partyKey p op) op.pa op.bytes v (op.bytes == 128)).1 := by
    unfold State.partyWrite
    rw [if_neg (by simp [(window_of_device hdev).1]), if_pos (hasAgent_hart hp), hu]
  obtain ⟨q, hq⟩ := State.storeAt_plain (plainStore_of_books hbooks hub hplain) (s.partyTenant p op) op.bytes v (op.bytes == 128)
  constructor
  · rw [e, hq, ← mem_of_beyond hub]
  · have hs : (s.partyWrite p op v).beyond false = u.beyond false := by rw [e, State.storeAt_beyond]
    rw [hs, ← hu, State.touchCopy_beyond]

theorem State.partyStamp_keeps (s : State) (p : Nat) (op : PartyOp) :
    (s.partyStamp p op).mem = s.mem ∧ (s.partyStamp p op).strands = s.strands ∧ (s.partyStamp p op).hub.ops = s.hub.ops := by
  unfold State.partyStamp
  split <;> exact ⟨rfl, rfl, rfl⟩

section
variable {s : State} {p : Nat} {op : PartyOp} {rest : List PartyOp} (hp : p < 16) (hops : s.opsOf p = op :: rest)

theorem ite_or_false {α : Type} {a b c : Bool} {x y : α} (ha : a = false) (hb : b = false) :
    (if a || b || c then x else y) = if c then x else y := by
  subst ha hb
  rfl

/-- The value that an operation gives, and the state in which it is performed, as the hart is told. -/
def State.partyAnswered (s : State) (p : Nat) (op : PartyOp) (ext : List Byte) : State :=
  ((s.partyPerform p op ext).1.useAnswer (agentOf (partyCore p)) (lineOf op.pa) op.kind.writes).partyDone p op.id
    (.value (s.partyPerform p op ext).2)

include hp in
theorem State.partyGo_first (hk : op.kind.plain = true ∨ ∃ k t v e, op.kind = .amo k t v e) (hmay : s.partyMay p op = true)
    (ext : List Byte) : s.partyGo p [] op ext = if s.partyReady p op then s.partyAnswered p op ext else s.partyAsk p op := by
  have hfirm : isFirmware p = false := by
    unfold isFirmware
    simp only [Bool.or_eq_false_iff, beq_eq_false_iff_ne]
    omega
  have hcsr : op.kind.isCsr = false := by
    rcases hk with hk | ⟨k, t, v, e, hk⟩
    · cases h : op.kind <;> simp [h, PartyKind.plain] at hk <;> rfl
    · rw [hk]; rfl
  have hfails : (match op.kind with | .conditional _ => !s.reserves p (lineOf op.pa) | _ => false) = false := by
    rcases hk with hk | ⟨k, t, v, e, hk⟩
    · cases h : op.kind <;> simp [h, PartyKind.plain] at hk <;> rfl
    · rw [hk]
  have hposted : (match op.kind with | .store _ => !hasAgent p && !isScratch op.pa | _ => false) = false := by
    rw [hasAgent_hart hp]
    split <;> rfl
  unfold State.partyGo
  rw [if_neg (by simp [hcsr]), if_neg (by simp [hmay]), if_neg (by simp [hfirm]), partyForward_nil]
  dsimp only
  rw [if_neg (by simp [meeting])]
  exact ite_or_false hfails hposted

include hp in
theorem State.partyReady_hart (hdev : isDevice op.pa = true) :
    s.partyReady p op = s.lineReady (192 + p / 4) op.pa (s.partyTenant p op) (s.partyKey p op) op.kind.writes := by
  unfold State.partyReady
  rw [if_pos (by simp [hdev]), if_pos (hasAgent_hart hp), agentOf_hart hp]

include hops in
/-- What the hart is told, and what is left of its operations. -/
theorem State.partyAnswered_spec {x : State × Nat} (hx : s.partyPerform p op [] = x) (hst : x.1.strands = s.strands)
    (ho : x.1.hub.ops = s.hub.ops) : (s.partyAnswered p op []).mem = x.1.mem ∧ (s.partyAnswered p op []).strands = s.strands
    ∧ (s.partyAnswered p op []).opsOf p = opsLeft op rest ∧ SMap.find (s.partyAnswered p op []).hub.told p = some (.value x.2) := by
  unfold State.partyAnswered
  rw [hx]
  have hu : (x.1.useAnswer (agentOf (partyCore p)) (lineOf op.pa) op.kind.writes).beyond true = x.1.beyond true := State.useAnswer_beyond ..
  generalize x.1.useAnswer (agentOf (partyCore p)) (lineOf op.pa) op.kind.writes = u at hu
  refine ⟨(State.mem_partyDone ..).trans (mem_of_beyond hu), ?_, State.opsOf_partyDone hops ((ops_of_beyond hu).trans ho) _, State.told_partyDone ..⟩
  exact ((State.strands_partyDone ..).trans (strands_of_beyond hu)).trans hst

include hp hops

theorem partyStep_ready (hk : op.kind.plain = true ∨ ∃ k t v e, op.kind = .amo k t v e) (hmay : s.partyMay p op = true)
    (hdev : isDevice op.pa = true) (hr : s.lineReady (192 + p / 4) op.pa (s.partyTenant p op) (s.partyKey p op) op.kind.writes = true) :
    s.partyStep p op.id op.kind.writes [] = s.partyAnswered p op [] := by
  have hf : op.kind.isFence = false := by
    rcases hk with hk | ⟨k, t, v, e, hk⟩
    · cases h : op.kind <;> simp [h, PartyKind.plain] at hk <;> rfl
    · rw [hk]; rfl
  rw [State.partyStep_first hp hops hf, State.partyGo_first hp hk hmay, State.partyReady_hart hp hdev, if_pos hr]

theorem hartLoads (hk : op.kind = .load) (hmay : s.partyMay p op = true) (hdev : isDevice op.pa = true)
    (hplain : PlainStore s op.pa (s.partyKey p op))
    (hr : s.lineReady (192 + p / 4) op.pa (s.partyTenant p op) (s.partyKey p op) false = true) :
    ∃ t : State, exec (.loadPerformed (768 + p) op.id [] []) s = .next t ∧ t.mem = s.mem ∧ t.strands = s.strands ∧ t.opsOf p = opsLeft op rest
      ∧ SMap.find t.hub.told p = some (.value (s.mem.readLe op.pa op.bytes)) := by
  have hw : op.kind.writes = false := by rw [hk]; rfl
  have hstep := partyStep_ready hp hops (.inl (by rw [hk]; rfl)) hmay hdev (by rwa [hw])
  rw [hw] at hstep
  have hperform : s.partyPerform p op [] = (s.touchCopy (partyCore p) (agentOf (partyCore p)) op.pa false, s.mem.readLe op.pa op.bytes) := by
    unfold State.partyPerform
    rw [hk]
    exact State.partyRead_device hdev hplain (inLine_of_partyMay hmay) []
  have htouch : (s.touchCopy (partyCore p) (agentOf (partyCore p)) op.pa false).beyond true = s.beyond true := State.touchCopy_beyond ..
  obtain ⟨hm, hst, ho, htold⟩ := State.partyAnswered_spec hops hperform (strands_of_beyond htouch) (ops_of_beyond htouch)
  exact ⟨_, (exec_hart_load ..).trans (congrArg _ hstep), hm.trans (mem_of_beyond htouch), hst, ho, htold⟩

theorem hartStores {v : Nat} (hk : op.kind = .store v) (hmay : s.partyMay p op = true) (hdev : isDevice op.pa = true)
    (hplain : PlainStore s op.pa (s.partyKey p op))
    (hr : s.lineReady (192 + p / 4) op.pa (s.partyTenant p op) (s.partyKey p op) true = true) :
    ∃ t : State, exec (.storePerformed (768 + p) op.id []) s = .next t ∧ Holds s t op.pa op.bytes v ∧ t.strands = s.strands
      ∧ t.opsOf p = opsLeft op rest ∧ SMap.find t.hub.told p = some (.value 0) := by
  have hw : op.kind.writes = true := by rw [hk]; rfl
  have hstep := partyStep_ready hp hops (.inl (by rw [hk]; rfl)) hmay hdev (by rwa [hw])
  rw [hw] at hstep
  have hperform : s.partyPerform p op [] = (s.partyWrite p op v, 0) := by
    unfold State.partyPerform
    rw [hk]
  obtain ⟨hmem, hb⟩ := State.partyWrite_device hp hdev hplain v
  obtain ⟨hm, hst, ho, htold⟩ := State.partyAnswered_spec hops hperform (strands_of_beyond hb) (ops_of_beyond hb)
  exact ⟨_, (exec_hart_store ..).trans (congrArg _ hstep), holds_of_writeLe (hm.trans hmem), hst, ho, htold⟩

theorem hartAmos {k : AtomicOp} {ty v e : Nat} (hk : op.kind = .amo k ty v e) (hmay : s.partyMay p op = true) (hdev : isDevice op.pa = true)
    (hplain : PlainStore s op.pa (s.partyKey p op))
    (hr : s.lineReady (192 + p / 4) op.pa (s.partyTenant p op) (s.partyKey p op) true = true) :
    let old := s.mem.readLe op.pa op.bytes
    ∃ t : State, exec (.storePerformed (768 + p) op.id []) s = .next t ∧ t.strands = s.strands ∧ t.opsOf p = opsLeft op rest
      ∧ SMap.find t.hub.told p = some (.value old)
      ∧ match (atomicResult k ty old (v % 2 ^ (8 * op.bytes)) (e % 2 ^ (8 * op.bytes))).1 with
        | some n => Holds s t op.pa op.bytes n
        | none => t.mem = s.mem := by
  intro old
  have hw : op.kind.writes = true := by rw [hk]; rfl
  have hstep := partyStep_ready hp hops (.inr ⟨k, ty, v, e, hk⟩) hmay hdev (by rwa [hw])
  rw [hw] at hstep
  generalize hu : s.touchCopy (partyCore p) (agentOf (partyCore p)) op.pa false = u
  have hub : u.beyond true = s.beyond true := by rw [← hu]; simp
  have hbooks : u.books = s.books := by rw [← hu]; simp
  have hread : s.partyRead p op [] = (u, old) := by
    rw [← hu]
    exact State.partyRead_device hdev hplain (inLine_of_partyMay hmay) []
  cases hres : (atomicResult k ty old (v % 2 ^ (8 * op.bytes)) (e % 2 ^ (8 * op.bytes))).1 with
  | none =>
    have hperform : s.partyPerform p op [] = (u.partyStamp p op, old) := by
      unfold State.partyPerform
      rw [hk]
      dsimp only
      rw [hread]
      dsimp only
      rw [hres]
    obtain ⟨hm, hst, ho⟩ := u.partyStamp_keeps p op
    obtain ⟨hm', hst', ho', htold⟩ := State.partyAnswered_spec hops hperform (hst.trans (strands_of_beyond hub)) (ho.trans (ops_of_beyond hub))
    exact ⟨_, (exec_hart_store ..).trans (congrArg _ hstep), hst', ho', htold, (hm'.trans hm).trans (mem_of_beyond hub)⟩
  | some n =>
    have hperform : s.partyPerform p op [] = ((u.partyWrite p op n).partyStamp p op, old) := by
      unfold State.partyPerform
      rw [hk]
      dsimp only
      rw [hread]
      dsimp only
      rw [hres]
    have hkey : PlainStore u op.pa (u.partyKey p op) := partyKey_of_beyond hub p op ▸ plainStore_of_books hbooks hub hplain
    obtain ⟨hmem, hb⟩ := State.partyWrite_device hp hdev hkey n
    obtain ⟨hm, hst, ho⟩ := (u.partyWrite p op n).partyStamp_keeps p op
    obtain ⟨hm', hst', ho', htold⟩ := State.partyAnswered_spec hops hperform ((hst.trans (strands_of_beyond hb)).trans (strands_of_beyond hub))
      ((ho.trans (ops_of_beyond hb)).trans (ops_of_beyond hub))
    refine ⟨_, (exec_hart_store ..).trans (congrArg _ hstep), hst', ho', htold, holds_of_writeLe ?_⟩
    rw [hm', hm, hmem, mem_of_beyond hub]

/-! ### Accesses that fault, or wait for their line -/

theorem partyStep_faults (hf : op.kind.isFence = false) (hc : op.kind.isCsr = false) (hmay : s.partyMay p op = false) :
    s.partyStep p op.id op.kind.writes [] = s.partyDone p op.id (.fault op.kind.acc) := by
  rw [State.partyStep_first hp hops hf]
  unfold State.partyGo
  rw [if_neg (by simp [hc]), if_pos (by simp [hmay])]

theorem hartLoadFaults (hk : op.kind = .load) (hmay : s.partyMay p op = false) :
    ∃ t : State, exec (.loadPerformed (768 + p) op.id [] []) s = .next t ∧ Quiet s t ∧ t.opsOf p = opsLeft op rest
      ∧ SMap.find t.hub.told p = some (.fault 2) := by
  have hstep := partyStep_faults hp hops (by rw [hk]; rfl) (by rw [hk]; rfl) hmay
  rw [hk] at hstep
  exact ⟨_, (exec_hart_load ..).trans (congrArg _ hstep), quiet_partyDone .., State.opsOf_partyDone hops rfl _, State.told_partyDone ..⟩

theorem hartStoreFaults {v : Nat} (hk : op.kind = .store v) (hmay : s.partyMay p op = false) :
    ∃ t : State, exec (.storePerformed (768 + p) op.id []) s = .next t ∧ Quiet s t ∧ t.opsOf p = opsLeft op rest
      ∧ SMap.find t.hub.told p = some (.fault 3) := by
  have hstep := partyStep_faults hp hops (by rw [hk]; rfl) (by rw [hk]; rfl) hmay
  rw [hk] at hstep
  exact ⟨_, (exec_hart_store ..).trans (congrArg _ hstep), quiet_partyDone .., State.opsOf_partyDone hops rfl _, State.told_partyDone ..⟩

theorem hartLoadAsks (hk : op.kind = .load) (hmay : s.partyMay p op = true) (hdev : isDevice op.pa = true)
    (hr : s.lineReady (192 + p / 4) op.pa (s.partyTenant p op) (s.partyKey p op) false = false) :
    ∃ t : State, exec (.loadPerformed (768 + p) op.id [] []) s = .next t ∧ Quiet s t ∧ t.opsOf p = s.opsOf p := by
  have hw : op.kind.writes = false := by rw [hk]; rfl
  have hstep : s.partyStep p op.id false [] = s.partyAsk p op := by
    rw [← hw, State.partyStep_first hp hops (by rw [hk]; rfl), State.partyGo_first hp (.inl (by rw [hk]; rfl)) hmay,
      State.partyReady_hart hp hdev, hw, hr]
    rfl
  have hb : (s.partyAsk p op).beyond true = s.beyond true := by
    unfold State.partyAsk
    rw [if_neg (by simp [hdev]), if_pos (hasAgent_hart hp), State.askLine_beyond]
  exact ⟨_, (exec_hart_load ..).trans (congrArg _ hstep), quiet_of_beyond hb, by rw [State.opsOf, ops_of_beyond hb, State.opsOf]⟩

end

end Sys2Proof.Machine
end

section
/-! O39: the hosts and the harts. -/
namespace Sys2Proof
open Machine

theorem hostPortsAnswer : Parts.HostsAndTheirPorts := by
  refine ⟨?_, ?_, ?_, ?_, ?_, ?_, ?_⟩
  · intro s port hpa off _ hup hbase _ hal hrange pa hheld
    refine hostRequestsJoin hup ?_ hheld
    rw [show hpa / 128 * 128 = hpa by omega]
    exact State.hdmPa_of hbase hrange
  · intro s port line h rest d hport hq ha hk hdev htile hb hp
    exact hostPut_served hport hq ha hk hdev htile hb hp
  · intro s port mailbox off n _ hup
    exact barReadAnswers hup mailbox off n
  · intro s port line p hport hp
    exact ⟨fun d l hq hl => birspCounts hport hp d l hq hl, bitoTimeouts hport hp⟩
  · intro s line hm
    exact ⟨hostSnoops hm, fun r rest d => hostDataGranted hm r rest d⟩
  · intro s port hport
    exact linkRows hport
  · intro s hart v h
    exact vlntenantWrites s h v

theorem hartsPerformTheirAccesses : Parts.HartsPerformTheirAccesses := by
  constructor
  · intro s p op rest hp hops left key ready
    refine ⟨fun hk hmay hr => ?_, fun v hk hmay hr => ?_, fun k ty v e hk hmay hr => ?_, fun hk hmay => hartLoadFaults hp hops hk hmay,
      fun v hk hmay => hartStoreFaults hp hops hk hmay, fun hk hmay hdev hr => hartLoadAsks hp hops hk hmay hdev hr⟩
    · obtain ⟨hdev, hplain, hline⟩ := hr
      exact hartLoads hp hops hk hmay hdev hplain hline
    · obtain ⟨hdev, hplain, hline⟩ := hr
      exact hartStores hp hops hk hmay hdev hplain hline
    · obtain ⟨hdev, hplain, hline⟩ := hr
      exact hartAmos hp hops hk hmay hdev hplain hline
  · intro s p y f x rest v rw wr ww rr hp hops hy hf hx
    exact fencesHoldBack hp hops hy hf hx v rr rw wr ww

/-- Settles O39: each row of the host ports and of the harts is followed to its end. What the homes' work may change is blanked from the state
(`State.beyond`), so that every frame is an equation; a plain line is stored to and read in place; and the lists of requests are followed through the
end of a request (`State.popReq_queued`). -/
theorem hostsAndTheirPorts : Obligations.HostsAndTheirPorts := ⟨hostPortsAnswer, hartsPerformTheirAccesses⟩

end Sys2Proof
end

section
/-! The coursing table and its registers: commits, `CTTIME` and `TNSAVE` (R67, R70, R72). -/
namespace Sys2Proof.Machine

theorem quiet_setCoursing (s : State) (k : Coursing) : Quiet s (s.setCoursing k) :=
  ⟨rfl, ⟨rfl, rfl, rfl, rfl⟩, ⟨rfl, rfl, rfl, rfl⟩⟩

theorem State.wakePackage_eq (s : State) : ∃ p, s.wakePackage = s.setPower p := by
  unfold State.wakePackage
  split
  · exact ⟨_, rfl⟩
  · exact ⟨s.power, rfl⟩

@[simp] theorem State.wakePackage_coursing (s : State) : s.wakePackage.coursing = s.coursing := by
  obtain ⟨p, h⟩ := s.wakePackage_eq
  rw [h]
  rfl

theorem quiet_setCoursing_wakePackage (s : State) (k : Coursing) : Quiet s (s.setCoursing k).wakePackage := by
  obtain ⟨p, h⟩ := (s.setCoursing k).wakePackage_eq
  rw [h]
  exact ⟨rfl, ⟨rfl, rfl, rfl, rfl⟩, ⟨rfl, rfl, rfl, rfl⟩⟩

/-! ### Check 2 of R72 -/

theorem durationBad_iff (s : State) (copy : Bool) (drain late c : Nat) :
    durationBad s.coursing.table copy c drain late = true ↔ ShortCourse s copy drain late c := by
  simp [durationBad, ShortCourse, or_assoc]

/-- The first short course of a copy is the one that the check names. -/
theorem find_short {s : State} {copy : Bool} {drain late n c : Nat} (hc : c < n) (hs : ShortCourse s copy drain late c)
    (hfirst : ∀ e, e < c → ¬ShortCourse s copy drain late e) :
    ((List.range n).find? fun e => durationBad s.coursing.table copy e drain late) = some c := by
  rw [List.find?_range_eq_some]
  refine ⟨(durationBad_iff ..).2 hs, List.mem_range.2 hc, fun e he => ?_⟩
  have := mt (durationBad_iff ..).1 (hfirst e he)
  simpa using this

theorem find_short_none {s : State} {copy : Bool} {drain late n : Nat} (h : ∀ c, c < n → ¬ShortCourse s copy drain late c) :
    ((List.range n).find? fun e => durationBad s.coursing.table copy e drain late) = none := by
  rw [List.find?_range_eq_none]
  intro e he
  have := mt (durationBad_iff ..).1 (h e he)
  simpa using this

/-! ### Commits -/

theorem commitFailure_of_count {s : State} {copy : Bool} {n : Nat} (h : n = 0 ∨ 64 < n) : commitFailure s copy n = some (1, 0) := if_pos h

theorem commitFailure_of_short {s : State} {copy : Bool} {n c : Nat} (h1 : 1 ≤ n) (h64 : n ≤ 64) (hc : c < n)
    (hs : ShortCourse s copy s.coursing.drainlead.toNat s.coursing.overlim.toNat c)
    (hfirst : ∀ e, e < c → ¬ShortCourse s copy s.coursing.drainlead.toNat s.coursing.overlim.toNat e) :
    commitFailure s copy n = some (2, c) := by
  have hfind : ((List.range n).find? fun e => courseFails s copy e 2) = some c := find_short hc hs hfirst
  unfold commitFailure
  rw [if_neg (by omega), List.findSome?_cons, hfind]
  rfl

theorem State.commitApply_pending {s : State} (h : s.coursing.pending = true) (n : BitVec 7) :
    s.commitApply n = s.setCoursing { s.coursing with ncourse := n } := if_pos h

theorem State.commitApply_rejected {s : State} {n : BitVec 7} {x : Nat × Nat} (h : s.coursing.pending = false)
    (hx : commitFailure s s.shadowCopy n.toNat = some x) :
    s.commitApply n = s.setCoursing (Coursing.reject { s.coursing with ncourse := n } x.1 x.2) := by
  unfold State.commitApply
  rw [if_neg (by simp [h]), hx]

/-- A commit that passes every check: in the default course it sets the end of that course too (R70). -/
theorem State.commitApply_accepted {s : State} {n : BitVec 7} (h : s.coursing.pending = false)
    (hx : commitFailure s s.shadowCopy n.toNat = none) :
    ∃ k : Coursing, s.commitApply n = (s.setCoursing k).wakePackage
      ∧ k.pending = true ∧ k.pendingN = n ∧ k.ncourse = n ∧ k.active = s.coursing.active ∧ k.table = s.coursing.table
      ∧ k.rejected = s.coursing.rejected ∧ k.firstCommit = if s.coursing.enable then s.coursing.firstCommit else some s.time := by
  unfold State.commitApply
  rw [if_neg (by simp [h]), hx]
  by_cases he : s.coursing.enable = true
  · simp only [he, if_true]
    exact ⟨_, rfl, rfl, rfl, rfl, rfl, rfl, rfl, rfl⟩
  · simp only [he]
    exact ⟨_, rfl, rfl, rfl, rfl, rfl, rfl, rfl, rfl⟩

/-! ### `CTTIME` -/

/-- What the courses in use say of a `CTTIME` value (R72): the first course that would be too short, of the active copy and then of the pending one. -/
def State.cttimeFailure (s : State) (drain late : Nat) : Option Nat :=
  match if s.coursing.enable then (List.range s.coursing.activeN.toNat).find? (durationBad s.coursing.table s.coursing.active · drain late) else none with
  | some c => some c
  | none =>
    if s.coursing.pending then (List.range s.coursing.pendingN.toNat).find? (durationBad s.coursing.table s.shadowCopy · drain late) else none

theorem State.cttimeFailure_none {s : State} {drain late : Nat}
    (ha : s.coursing.enable = true → ∀ c, c < s.coursing.activeN.toNat → ¬ShortCourse s s.coursing.active drain late c)
    (hp : s.coursing.pending = true → ∀ c, c < s.coursing.pendingN.toNat → ¬ShortCourse s (!s.coursing.active) drain late c) :
    s.cttimeFailure drain late = none := by
  have hactive : (if s.coursing.enable then (List.range s.coursing.activeN.toNat).find? (durationBad s.coursing.table s.coursing.active · drain late)
      else none) = none := by
    split
    · exact find_short_none (ha ‹_›)
    · rfl
  unfold State.cttimeFailure
  rw [hactive]
  dsimp only
  split
  · exact find_short_none (hp ‹_›)
  · rfl

theorem State.cttimeFailure_active {s : State} {drain late c : Nat} (he : s.coursing.enable = true) (hc : c < s.coursing.activeN.toNat)
    (hs : ShortCourse s s.coursing.active drain late c) (hfirst : ∀ e, e < c → ¬ShortCourse s s.coursing.active drain late e) :
    s.cttimeFailure drain late = some c := by
  unfold State.cttimeFailure
  rw [if_pos he, find_short hc hs hfirst]

theorem State.cttimeApply_eq (s : State) (v : Word) :
    s.cttimeApply v = match s.cttimeFailure (v.toNat % 2 ^ 16) (v.toNat / 2 ^ 16 % 2 ^ 16) with
      | some c => s.setCoursing (s.coursing.reject 2 c)
      | none => s.setCoursing
          (if !s.coursing.enable && s.coursing.firstCommit.isNone then
            { s.coursing with
              drainlead := BitVec.ofNat 16 (v.toNat % 2 ^ 16), overlim := BitVec.ofNat 16 (v.toNat / 2 ^ 16 % 2 ^ 16)
              drainleadNow := BitVec.ofNat 16 (v.toNat % 2 ^ 16), overlimNow := BitVec.ofNat 16 (v.toNat / 2 ^ 16 % 2 ^ 16) }
          else { s.coursing with
              drainlead := BitVec.ofNat 16 (v.toNat % 2 ^ 16), overlim := BitVec.ofNat 16 (v.toNat / 2 ^ 16 % 2 ^ 16) }) := by
  have hdrain : fieldN v.toNat 0 16 = v.toNat % 2 ^ 16 := by simp [fieldN]
  unfold State.cttimeApply
  rw [hdrain]
  show (match s.cttimeFailure (v.toNat % 2 ^ 16) (v.toNat / 2 ^ 16 % 2 ^ 16) with | some c => _ | none => _) = _
  split
  · rfl
  · dsimp only
    split <;> rfl

end Sys2Proof.Machine
end

section
/-! O43: writes of the coursing table. -/
namespace Sys2Proof
open Machine

theorem exec_commit (n : BitVec 7) (s : State) : exec (.commit n) s = .next (s.commitApply n) := rfl
theorem exec_cttimeWrite (v : Word) (s : State) : exec (.cttimeWrite v) s = .next (s.cttimeApply v) := rfl
theorem exec_tnsaveWrite {tenant : Nat} (h : tenant < 64) (v : Word) (s : State) : exec (.tnsaveWrite tenant v) s = .next (s.tnsaveApply tenant v) :=
  if_pos h

theorem commit_rejected {s : State} {n : BitVec 7} {reason course : Nat} (h : s.coursing.pending = false)
    (hx : commitFailure s (!s.coursing.active) n.toNat = some (reason, course)) :
    ∃ t : State, exec (.commit n) s = .next t ∧ Quiet s t ∧ t.coursing =
      { s.coursing with ncourse := n, rejected := true, reason := BitVec.ofNat 4 reason, badcourse := BitVec.ofNat 6 course } :=
  ⟨_, (exec_commit ..).trans (congrArg _ (State.commitApply_rejected h hx)), quiet_setCoursing .., rfl⟩

theorem commit_accepted {s : State} {n : BitVec 7} (h : s.coursing.pending = false)
    (hx : commitFailure s (!s.coursing.active) n.toNat = none) :
    ∃ t : State, exec (.commit n) s = .next t ∧ Quiet s t ∧ t.coursing.pending = true ∧ t.coursing.pendingN = n ∧ t.coursing.ncourse = n
      ∧ t.coursing.active = s.coursing.active ∧ t.coursing.table = s.coursing.table ∧ t.coursing.rejected = s.coursing.rejected
      ∧ t.coursing.firstCommit = if s.coursing.enable then s.coursing.firstCommit else some s.time := by
  obtain ⟨k, hk, hfacts⟩ := State.commitApply_accepted h hx
  refine ⟨_, (exec_commit ..).trans (congrArg _ hk), quiet_setCoursing_wakePackage .., ?_⟩
  rw [State.wakePackage_coursing]
  exact hfacts

theorem cttime_accepted {s : State} {v : Word} (h : s.cttimeFailure (v.toNat % 2 ^ 16) (v.toNat / 2 ^ 16 % 2 ^ 16) = none) :
    ∃ t : State, exec (.cttimeWrite v) s = .next t ∧ Quiet s t ∧ t.coursing.drainlead = v.setWidth 16 ∧ t.coursing.overlim = v.extractLsb' 16 16
      ∧ t.coursing.rejected = s.coursing.rejected
      ∧ (s.coursing.enable = true → t.coursing.drainleadNow = s.coursing.drainleadNow ∧ t.coursing.overlimNow = s.coursing.overlimNow) := by
  have hdrain : BitVec.ofNat 16 (v.toNat % 2 ^ 16) = v.setWidth 16 := by
    apply BitVec.eq_of_toNat_eq
    simp
  have hlate : BitVec.ofNat 16 (v.toNat / 2 ^ 16 % 2 ^ 16) = v.extractLsb' 16 16 := by
    apply BitVec.eq_of_toNat_eq
    simp [Nat.shiftRight_eq_div_pow]
  refine ⟨_, (exec_cttimeWrite ..).trans (congrArg _ ((s.cttimeApply_eq v).trans (by rw [h]))), quiet_setCoursing .., ?_⟩
  rw [State.setCoursing_coursing, hdrain, hlate]
  by_cases hd : (!s.coursing.enable && s.coursing.firstCommit.isNone) = true
  · rw [if_pos hd]
    exact ⟨rfl, rfl, rfl, fun he => absurd hd (by simp [he])⟩
  · rw [if_neg hd]
    exact ⟨rfl, rfl, rfl, fun _ => ⟨rfl, rfl⟩⟩

/-- BASE of a `TNSAVE` value: its 40 bits, in units of 4 KiB. -/
theorem tnsave_base_eq_zero {v : Word} : BitVec.ofNat 52 (fieldN v.toNat 12 40 * 2 ^ 12) = 0 ↔ v.extractLsb' 12 40 = 0 := by
  have hlt : fieldN v.toNat 12 40 < 2 ^ 40 := Nat.mod_lt _ (by decide)
  have hbase : (v.extractLsb' 12 40).toNat = fieldN v.toNat 12 40 := by simp [fieldN, Nat.shiftRight_eq_div_pow]
  rw [← BitVec.toNat_inj, ← BitVec.toNat_inj, hbase, BitVec.toNat_ofNat, Nat.mod_eq_of_lt (by omega)]
  simp

/-- Settles O43: the first check of R72 that fails is found in its order, and each write is one update of the coursing record or none. -/
theorem tableWritesAreChecked : Obligations.TableWritesAreChecked := by
  refine ⟨fun s n => ⟨?_, ?_, ?_, ?_, ?_⟩, fun s v => ⟨?_, ?_⟩, fun s tenant v ht => ⟨?_, ?_⟩⟩
  · intro h
    exact ⟨_, (exec_commit ..).trans (congrArg _ (State.commitApply_pending h n)), quiet_setCoursing .., rfl⟩
  · intro h hn
    exact commit_rejected h (commitFailure_of_count (hn.imp (congrArg BitVec.toNat) id))
  · intro h h1 h64 c hc hs hfirst
    exact commit_rejected h (commitFailure_of_short h1 h64 hc hs hfirst)
  · intro h x hx
    exact commit_rejected h hx
  · intro h hx
    exact commit_accepted h hx
  · intro ha hp
    exact cttime_accepted (State.cttimeFailure_none ha hp)
  · intro c he hc hs hfirst
    refine ⟨_, (exec_cttimeWrite ..).trans (congrArg _ ((s.cttimeApply_eq v).trans ?_)), quiet_setCoursing s (s.coursing.reject 2 c), rfl⟩
    rw [State.cttimeFailure_active he hc hs hfirst]
  · intro hv
    have hb : (BitVec.ofNat 52 (fieldN v.toNat 12 40 * 2 ^ 12) == 0) = false := beq_eq_false_iff_ne.2 (mt tnsave_base_eq_zero.1 hv)
    have happly : s.tnsaveApply tenant v =
        s.setCoursing { s.coursing with tnsave := s.coursing.tnsave.set 0 tenant (BitVec.ofNat 52 (fieldN v.toNat 12 40 * 2 ^ 12)) } :=
      if_neg (by rw [hb]; simp)
    refine ⟨_, (exec_tnsaveWrite ht ..).trans (congrArg _ happly), quiet_setCoursing .., SMap.get_set_same .., fun m hm => SMap.get_set_other _ _ _ hm⟩
  · intro hv he hb
    have hbase : (BitVec.ofNat 52 (fieldN v.toNat 12 40 * 2 ^ 12) == 0) = true := beq_iff_eq.2 (tnsave_base_eq_zero.2 hv)
    exact (exec_tnsaveWrite ht ..).trans (congrArg _ (if_pos (by rw [hbase]; simp [he, hb])))

end Sys2Proof
end

section
/-! What the writes of Lintel and of the hub leave alone: every part of the machine beyond the homes, memory, the fault queues, the logs, and the
`PHINT` records and bank flags of the quads. -/
namespace Sys2Proof.Machine

/-- A quad without its `PHINT` record, which a write to its scratchpad may void, and without its bank flags. -/
def QuadState.unit (q : QuadState) : QuadState := { q with phint := [], bankFlags := Vector.replicate 4 0 }

/-- The quads in that sense. -/
def State.units (s : State) (a : Nat) : QuadState := (s.quadAt a).unit

/-- The state without what a write to memory, a fault record and a count may change, with the quads as their units. -/
def State.besides (s : State) : State × (Nat → QuadState) :=
  ({ s.beyond false with hub := { s.hub with snoop := [], told := [], faultQueues := [] } }, s.units)

theorem besides_of_parts {s t : State} (h : t.beyond false = s.beyond false) (hu : t.units = s.units) : t.besides = s.besides :=
  Prod.ext (congrArg (fun u : State => { u with hub := { u.hub with faultQueues := [] } }) h :) hu

theorem units_of_quads {s t : State} (h : t.quads = s.quads) : t.units = s.units := by
  funext a
  rw [State.units, State.units, State.quadAt, State.quadAt, h]

theorem units_of_beyond {s t : State} (h : t.beyond true = s.beyond true) : t.units = s.units :=
  units_of_quads (congrArg (fun u : State => u.quads) h :)

theorem besides_of_beyond {s t : State} (h : t.beyond true = s.beyond true) : t.besides = s.besides :=
  besides_of_parts (congrArg (fun u : State => { u with mem := [], quads := [] }) h :) (units_of_beyond h)

/-! ### What equal parts give -/

section
variable {s t : State} (h : t.besides = s.besides)
include h

theorem strands_of_besides : t.strands = s.strands := (congrArg (fun x => x.1.strands) h :)
theorem cores_of_besides : t.cores = s.cores := (congrArg (fun x => x.1.cores) h :)
theorem pool_of_besides : t.pool = s.pool := (congrArg (fun x => x.1.pool) h :)
theorem localMem_of_besides : t.localMem = s.localMem := (congrArg (fun x => x.1.localMem) h :)
theorem acc_of_besides : t.acc = s.acc := (congrArg (fun x => x.1.acc) h :)
theorem sett_of_besides : t.sett = s.sett := (congrArg (fun x => x.1.sett) h :)
theorem coursing_of_besides : t.coursing = s.coursing := (congrArg (fun x => x.1.coursing) h :)
theorem keystone_of_besides : t.keystone = s.keystone := (congrArg (fun x => x.1.keystone) h :)
theorem hdie_of_besides : t.sys.hdie = s.sys.hdie := (congrArg (fun x => x.1.sys.hdie) h :)
theorem launches_of_besides : t.hub.launches = s.hub.launches := (congrArg (fun x => x.1.hub.launches) h :)
theorem units_of_besides : t.units = s.units := congrArg Prod.snd h

theorem cmds_of_besides (a : Nat) : (t.quadAt a).cmds = (s.quadAt a).cmds := (congrArg (fun x => (x.2 a).cmds) h :)
theorem phase_of_besides (a : Nat) : (t.quadAt a).phase = (s.quadAt a).phase := (congrArg (fun x => (x.2 a).phase) h :)

end

/-! ### Branches and passes -/

@[simp] theorem State.besides_ite (c : Prop) [Decidable c] (s t : State) : (if c then s else t).besides = if c then s.besides else t.besides := by
  split <;> rfl

theorem State.besides_foldl {α : Type} {f : State → α → State} (h : ∀ s x, (f s x).besides = s.besides) (l : List α) (s : State) :
    (l.foldl f s).besides = s.besides := foldl_keeps State.besides h l s

/-! ### Writes to memory -/

@[simp] theorem State.setHomes_besides (s : State) (h : Homes) : (s.setHomes h).besides = s.besides := rfl
theorem State.setMem_besides (s : State) (k : Memory) : State.besides { s with mem := k } = s.besides := rfl
@[simp] theorem State.count1_besides (s : State) (pa : Nat) : (s.count1 pa).besides = s.besides := besides_of_beyond (State.count1_beyond ..)
@[simp] theorem State.logEvent_besides (s : State) (pa struct kind agent tenant : Nat) : (s.logEvent pa struct kind agent tenant).besides = s.besides :=
  besides_of_beyond (State.logEvent_beyond ..)
@[simp] theorem State.updLine_besides (s : State) (line : Nat) (f : DirEntry → Nat → DirEntry) : (s.updLine line f).besides = s.besides :=
  besides_of_beyond (State.updLine_beyond ..)
@[simp] theorem State.trace_besides (s : State) (line agent event ans : Nat) : (s.trace line agent event ans).besides = s.besides :=
  besides_of_beyond (State.trace_beyond ..)
@[simp] theorem State.appendReq_besides (s : State) (line : Nat) (r : Request) : (s.appendReq line r).besides = s.besides :=
  besides_of_beyond (State.appendReq_beyond ..)
@[simp] theorem State.evictCopy_besides (s : State) (a line : Nat) : (s.evictCopy a line).besides = s.besides :=
  besides_of_beyond (State.evictCopy_beyond ..)

theorem State.phintWrite_units (s : State) (a off n : Nat) : (s.phintWrite a off n).units = s.units := by
  funext b
  obtain ⟨p, hp⟩ := (s.phintWrite_step a off n).quads b
  rw [State.units, hp]
  rfl

theorem State.rekeyLine_units (s : State) (line : Nat) (key : Nat × Nat) (whole : Bool) : (s.rekeyLine line key whole).units = s.units := by
  unfold State.rekeyLine
  dsimp only
  split <;> rfl

theorem State.setMem_units (s : State) (k : Memory) : State.units { s with mem := k } = s.units := rfl

theorem State.storePa_units (s : State) (tenant key pa n v : Nat) (whole : Bool) : (s.storePa tenant key pa n v whole).1.units = s.units := by
  unfold State.storePa
  extract_lets u homes freed zeroed found keyed
  have hu : u.units = s.units := by
    simp only [u]
    split
    · exact State.phintWrite_units ..
    · rfl
  have hzeroed : zeroed.units = u.units := State.setMem_units freed _
  clear_value zeroed
  have hfound : found.units = s.units := by
    simp only [found]
    split
    · exact (units_of_beyond (State.logEvent_beyond ..)).trans (hzeroed.trans hu)
    · exact hu
  have hkeyed : keyed.units = s.units := by
    simp only [keyed]
    split
    · exact (State.rekeyLine_units ..).trans hfound
    · exact hfound
  clear_value u keyed
  have counted (pa : Nat) : (u.count1 pa).units = s.units := (units_of_beyond (State.count1_beyond ..)).trans hu
  (repeat' split)
  · exact counted _
  · exact counted _
  · exact counted _
  · exact hkeyed
  · exact hkeyed

@[simp] theorem State.storePa_besides (s : State) (tenant key pa n v : Nat) (whole : Bool) : (s.storePa tenant key pa n v whole).1.besides = s.besides :=
  besides_of_parts (State.storePa_beyond ..) (State.storePa_units ..)

@[simp] theorem State.storeAt_besides (s : State) (tenant key pa n v : Nat) (whole : Bool) : (s.storeAt tenant key pa n v whole).1.besides = s.besides := by
  simp only [State.storeAt]
  split <;> simp

@[simp] theorem State.takeLine_besides (s : State) (line : Nat) : (s.takeLine line).besides = s.besides := besides_of_beyond (State.takeLine_beyond ..)
@[simp] theorem State.fillLlc_besides (s : State) (core tenant key line : Nat) (modified : Bool) : (s.fillLlc core tenant key line modified).besides = s.besides :=
  besides_of_beyond (State.fillLlc_beyond ..)

@[simp] theorem State.homeStore_besides (s : State) (w : HomeStore) : (s.homeStore w).besides = s.besides := by simp [State.homeStore]

@[simp] theorem State.homeWriteLine_besides (s : State) (w : HomeStore) : (s.homeWriteLine w).besides = s.besides := by simp [State.homeWriteLine]

@[simp] theorem State.homeWrite_besides (s : State) (tenant key pa n v : Nat) (whole : Bool) : (s.homeWrite tenant key pa n v whole).besides = s.besides :=
  State.besides_foldl (fun _ _ => State.homeWriteLine_besides ..) _ _

/-! ### Writes of Lintel -/

@[simp] theorem State.lintelPut_besides (s : State) (tenant pa n v : Nat) : (s.lintelPut tenant pa n v).besides = s.besides := by simp [State.lintelPut]

@[simp] theorem State.lintelLines_besides (s : State) (tenant pa k v : Nat) : (s.lintelLines tenant pa k v).besides = s.besides := by
  induction k generalizing s pa v with
  | zero => rfl
  | succ k ih => rw [State.lintelLines, ih, State.lintelPut_besides]

@[simp] theorem State.lintelBlock_besides (s : State) (tenant pa n : Nat) (l : List (Nat × Byte)) : (s.lintelBlock tenant pa n l).besides = s.besides := by
  unfold State.lintelBlock
  extract_lets lo hi key later now gone homes freed free logged homes' keyed kept mem written
  have hlogged : logged.besides = s.besides :=
    State.besides_foldl (fun s x => by simp only [free, State.logEvent_besides]; split <;> simp) gone freed
  clear_value logged
  have hkeyed : keyed.besides = s.besides := by simp [keyed, hlogged]
  have hwritten : written.besides = keyed.besides := State.setMem_besides keyed _
  clear_value keyed written
  rw [State.besides_ite, State.besides_ite, State.besides_ite, State.besides_foldl fun _ _ => State.homeWriteLine_besides .., hwritten, hkeyed]
  simp

/-! ### Records of the hub -/

theorem State.hubWrite_besides {s u : State} {tenant asid va n v : Nat} (h : s.hubWrite tenant asid va n v = some u) : u.besides = s.besides := by
  unfold State.hubWrite at h
  split at h
  · rw [← Option.some.inj h, State.homeWrite_besides]
  · cases h

theorem State.hubWriteRecord_besides {s u : State} {tenant asid va v : Nat} (h : s.hubWriteRecord tenant asid va v = some u) : u.besides = s.besides := by
  unfold State.hubWriteRecord at h
  dsimp only at h
  split at h
  · split at h
    · exact State.hubWrite_besides h
    · cases h
  · split at h
    · cases h
    next x hx =>
      split at h
      · rw [← Option.some.inj h]
        exact State.hubWrite_besides hx
      · exact (State.hubWrite_besides h).trans (State.hubWrite_besides hx)

@[simp] theorem State.countHostDisc_besides (s : State) (tenant asid va : Nat) : (s.countHostDisc tenant asid va).besides = s.besides := by
  simp [State.countHostDisc]

@[simp] theorem State.setFaultQueue_besides (s : State) (tenant : Nat) (q : FaultQueue) : (s.setFaultQueue tenant q).besides = s.besides := rfl

@[simp] theorem State.faultWrite_besides (s : State) (tenant found : Nat) (f : FaultInfo) : (s.faultWrite tenant found f).2.besides = s.besides := by
  unfold State.faultWrite
  dsimp only
  split
  · split
    next u hu => exact (State.setFaultQueue_besides ..).trans (State.hubWrite_besides hu)
    · simp
  · rfl

@[simp] theorem State.lintelRecord_besides (s : State) (tenant code vaddr comp ord : Nat) : (s.lintelRecord tenant code vaddr comp ord).besides = s.besides :=
  State.faultWrite_besides ..

/-! ### Landings at byte barriers -/

@[simp] theorem State.bbLand_besides (s : State) (tenant agent : Nat) (bb : Option Nat) (n : Nat) (cond : TileFlags) (fault oor : Bool) :
    (s.bbLand tenant agent bb n cond fault oor).besides = s.besides := by
  unfold State.bbLand
  split
  · rfl
  · dsimp only
    split
    · exact State.count1_besides ..
    · exact State.storePa_besides ..

@[simp] theorem State.bbLandOf_besides (s : State) (a : Nat) (c : Cmd) (n : Nat) (cond : TileFlags) (fault oor : Bool) :
    (s.bbLandOf a c n cond fault oor).besides = s.besides := by
  unfold State.bbLandOf
  split <;> simp

@[simp] theorem State.raiseBank_besides (s : State) (a bank : Nat) (f : TileFlags) : (s.raiseBank a bank f).besides = s.besides := by
  refine besides_of_parts rfl (funext fun b => ?_)
  rw [State.units, State.raiseBank, State.quadAt_setQuad]
  split
  · subst b
    rfl
  · rfl

@[simp] theorem State.leaveLost_besides (s : State) (a : Nat) (c : Cmd) : (s.leaveLost a c).besides = s.besides := by
  unfold State.leaveLost
  split
  · simp
  · split <;> simp
  · rfl

end Sys2Proof.Machine
end

section
/-! Holders, courses and saves: what decides who holds what (R69, R71, R76), and what the save and the scrub of a core and of a quad change (R79, R80,
R87). -/
namespace Sys2Proof.Machine

/-! ### What decides who holds what -/

/-- The coursing record without what is saved and counted. -/
def Coursing.plan (k : Coursing) : Coursing := { k with savedCores := [], savedQuads := [], savelate := 0, overruns := 0 }

/-- The time, the plan of the courses and which compute dies are up: with them, which tenant holds what, now and after the coming boundary. -/
def State.clock (s : State) : State :=
  { State.reset with time := s.time, coursing := s.coursing.plan, sys := { Sys.reset with cdie := s.sys.cdie } }

/-- The clock, and the strands with their registers. -/
def State.aside (s : State) : State := { s.clock with strands := s.strands, pool := s.pool, localMem := s.localMem }

section
variable {s t : State} (h : t.clock = s.clock)
include h

theorem time_of_clock : t.time = s.time := (congrArg (fun u : State => u.time) h :)
theorem plan_of_clock : t.coursing.plan = s.coursing.plan := (congrArg (fun u : State => u.coursing) h :)
theorem holder_of_clock (core : Nat) : t.holder core = s.holder core := (congrArg (fun u : State => u.holder core) h :)
theorem quadHolder_of_clock (a : Nat) : t.quadHolder a = s.quadHolder a := (congrArg (fun u : State => u.quadHolder a) h :)
theorem coreChanges_of_clock (core : Nat) : t.coreChanges core = s.coreChanges core := (congrArg (fun u : State => u.coreChanges core) h :)
theorem lastCourse_of_clock : t.lastCourse = s.lastCourse := (congrArg (fun u : State => u.lastCourse) h :)

end

theorem clock_of_aside {s t : State} (h : t.aside = s.aside) : t.clock = s.clock :=
  (congrArg (fun u : State => { u with strands := [], pool := [], localMem := [] }) h :)
theorem strands_of_aside {s t : State} (h : t.aside = s.aside) : t.strands = s.strands := (congrArg (fun u : State => u.strands) h :)
theorem pool_of_aside {s t : State} (h : t.aside = s.aside) : t.pool = s.pool := (congrArg (fun u : State => u.pool) h :)
theorem localMem_of_aside {s t : State} (h : t.aside = s.aside) : t.localMem = s.localMem := (congrArg (fun u : State => u.localMem) h :)

theorem aside_of_besides {s t : State} (h : t.besides = s.besides) : t.aside = s.aside := (congrArg (fun x => x.1.aside) h :)

theorem State.aside_foldl {α : Type} {f : State → α → State} (h : ∀ s x, (f s x).aside = s.aside) (l : List α) (s : State) :
    (l.foldl f s).aside = s.aside := foldl_keeps State.aside h l s

@[simp] theorem State.setCore_aside (s : State) (c : Nat) (v : CoreState) : (s.setCore c v).aside = s.aside := rfl
theorem State.setCoursing_aside (s : State) {k : Coursing} (h : k.plan = s.coursing.plan) : (s.setCoursing k).aside = s.aside := by
  rw [State.aside, State.clock, State.setCoursing_coursing, h]
  rfl

/-! ### A core without its inbox -/

/-- A core without its inbox. -/
def CoreState.shell (c : CoreState) : CoreState := { c with inbox := [] }
def State.shell (s : State) (core : Nat) : CoreState := (s.coreAt core).shell

section
variable {s t : State} {core : Nat} (h : t.shell core = s.shell core)
include h

theorem phase_of_shell : (t.coreAt core).phase = (s.coreAt core).phase := (congrArg CoreState.phase h :)
theorem late_of_shell : (t.coreAt core).late = (s.coreAt core).late := (congrArg CoreState.late h :)
theorem coreSettled_of_shell : t.coreSettled core = s.coreSettled core :=
  (congrArg (fun c : CoreState => c.queue.all fun a => a.kind == .fence || (a.kind == .store && a.pieces.all fun p => p.done || p.refused)) h :)

end

theorem shell_of_cores {s t : State} (h : t.cores = s.cores) (core : Nat) : t.shell core = s.shell core := by
  rw [State.shell, State.shell, State.coreAt, State.coreAt, h]

theorem State.shell_setCore_other (s : State) {core c : Nat} (h : core ≠ c) (v : CoreState) : (s.setCore c v).shell core = s.shell core := by
  rw [State.shell, State.coreAt_setCore, if_neg h]
  rfl

/-! ### The save of a core -/

theorem State.detach_aside (s : State) (source : Nat) : (s.detach source).aside = s.aside := rfl

theorem State.detach_shell (s : State) (source core : Nat) : (s.detach source).shell core = s.shell core := by
  unfold State.shell State.coreAt State.detach
  simp only [State.setCoursing_cores]
  rw [SMap.get_eq_find, SMap.get_eq_find, SMap.find_map s.cores fun _ v =>
    { v with inbox := v.inbox.map fun p => if p.source = source then { p with source := noSource } else p }]
  cases SMap.find s.cores core <;> rfl

theorem State.detach_savedCore (s : State) (source n core : Nat) : ((s.detach source).savedCore n core).isSome = (s.savedCore n core).isSome := by
  unfold State.savedCore State.detach
  rw [State.setCoursing_coursing]
  dsimp only
  rw [SMap.find_map s.coursing.savedCores fun _ v =>
    { v with packets := v.packets.map fun p => if p.source = source then { p with source := noSource } else p }, Option.isSome_map]

@[simp] theorem State.saveStrand_besides (s : State) (tenant core slot : Nat) (st : Strand) : (s.saveStrand tenant core slot st).besides = s.besides := by
  unfold State.saveStrand
  rw [State.lintelBlock_besides, State.besides_foldl, State.lintelLines_besides]
  intro s i
  split <;> simp

/-- A save of a core: packets on their way from it are let go, its area is written, and Lintel's record of it is put. -/
theorem State.saveCore_eq (s : State) (tenant core : Nat) :
    ∃ (l : List (Nat × Strand)) (u : State) (v : SavedCore), u.besides = (l.foldl (fun s e => s.detach e.1) s).besides
      ∧ s.saveCore tenant core = u.setCoursing { u.coursing with savedCores := u.coursing.savedCores.put (768 * tenant + core) v } := by
  refine ⟨(s.strandsOf core).filter fun e => match e.2.wait with | .migrating _ => true | _ => false, _, _, ?_, rfl⟩
  refine (State.besides_foldl (fun s i => ?_) _ _).trans ((State.besides_foldl (fun s i => ?_) _ _).trans
    ((State.besides_foldl (fun _ _ => State.saveStrand_besides ..) _ _).trans ((State.lintelPut_besides ..).trans (State.lintelPut_besides ..))))
  · split <;> simp
  · split <;> simp

theorem State.saveCore_aside (s : State) (tenant core : Nat) : (s.saveCore tenant core).aside = s.aside := by
  obtain ⟨l, u, v, hu, h⟩ := s.saveCore_eq tenant core
  rw [h]
  refine (State.setCoursing_aside u rfl).trans ((aside_of_besides hu).trans ?_)
  exact State.aside_foldl (fun s e => State.detach_aside ..) _ _

theorem State.saveCore_shell (s : State) (tenant core c : Nat) : (s.saveCore tenant core).shell c = s.shell c := by
  obtain ⟨l, u, v, hu, h⟩ := s.saveCore_eq tenant core
  rw [h]
  refine (shell_of_cores (cores_of_besides hu) c).trans ?_
  exact foldl_keeps (State.shell · c) (fun s e => State.detach_shell ..) _ _

theorem State.saveCore_savedCore (s : State) (tenant core : Nat) : ((s.saveCore tenant core).savedCore tenant core).isSome = true := by
  obtain ⟨l, u, v, hu, h⟩ := s.saveCore_eq tenant core
  rw [h, State.savedCore, State.setCoursing_coursing, SMap.find_put_same]
  rfl

theorem State.saveCore_keepsSaved {s : State} {n c : Nat} (hs : (s.savedCore n c).isSome = true) (tenant core : Nat) :
    ((s.saveCore tenant core).savedCore n c).isSome = true := by
  obtain ⟨l, u, v, hu, h⟩ := s.saveCore_eq tenant core
  rw [h, State.savedCore, State.setCoursing_coursing, SMap.find_put]
  split
  · rfl
  · rw [coursing_of_besides hu, ← hs]
    exact foldl_keeps (fun s : State => (s.savedCore n c).isSome) (fun s e => State.detach_savedCore ..) _ _

/-! ### The scrub of a core -/

@[simp] theorem State.enterCore_aside (s : State) (core : Nat) : (s.enterCore core).aside = s.aside := rfl
@[simp] theorem State.scrubCore_clock (s : State) (core : Nat) : (s.scrubCore core).clock = s.clock := rfl

theorem State.enterCore_coreAt_other (s : State) {core c : Nat} (h : c ≠ core) : (s.enterCore core).coreAt c = s.coreAt c := by
  rw [State.enterCore, State.coreAt_setCore, if_neg h]

/-- The phase of a core that its holder takes next (R79, R86). -/
def State.entryPhase (s : State) (core : Nat) : EdgePhase :=
  if (s.holder core).isNone then .running else if s.coursing.edged && s.coreChanges core then .passed else .awaiting

theorem State.entryPhase_of_clock {s t : State} (h : t.clock = s.clock) (core : Nat) : t.entryPhase core = s.entryPhase core :=
  (congrArg (fun u : State => u.entryPhase core) h :)

theorem State.enterCore_coreAt (s : State) (core : Nat) : (s.enterCore core).coreAt core = { s.coreAt core with phase := s.entryPhase core } := by
  rw [State.enterCore, State.coreAt_setCore, if_pos rfl]
  rfl

theorem State.scrubCore_coreAt_other (s : State) {core c : Nat} (h : c ≠ core) : (s.scrubCore core).coreAt c = s.coreAt c := by
  unfold State.scrubCore
  rw [State.enterCore_coreAt_other _ h, State.coreAt_setCore, if_neg h]
  rfl

theorem State.scrubCore_coreAt (s : State) (core : Nat) :
    (s.scrubCore core).coreAt core = { s.coreAt core with queue := [], inbox := [], loopBuf := [], late := false, phase := s.entryPhase core } := by
  unfold State.scrubCore
  rw [State.enterCore_coreAt, State.coreAt_setCore, if_pos rfl]
  rfl

theorem State.scrubCore_strands (s : State) (core : Nat) : (s.scrubCore core).strands = s.strands.filter fun e => coreOf e.1 != core := rfl

theorem State.scrubCore_strandAt_other (s : State) {core k : Nat} (h : coreOf k ≠ core) : (s.scrubCore core).strandAt k = s.strandAt k := by
  rw [State.strandAt, State.scrubCore_strands, SMap.find_filter_key fun j => coreOf j != core]
  simp [h, State.strandAt]

/-- What the scrub leaves of a core (R87). -/
theorem State.scrubCore_scrubbed (s : State) (core : Nat) : CoreScrubbed (s.scrubCore core) core := by
  refine ⟨fun k hk => ?_, fun r hr => ?_, fun off ho => ?_, ?_, ?_⟩
  · rw [State.strandAt, State.scrubCore_strands, SMap.find_filter_key fun j => coreOf j != core]
    simp [hk]
  · have hp : (s.scrubCore core).pool = s.pool.filter fun e => e.1 / 64 != core := rfl
    rw [hp, SMap.get_eq_find, SMap.find_filter_key fun j => j / 64 != core]
    rw [show (64 * core + r) / 64 = core by omega]
    simp
  · have hp : (s.scrubCore core).localMem = s.localMem.filter fun e => e.1 / 2 ^ 18 != core := rfl
    rw [State.getLocal, hp, SMap.get_eq_find, SMap.find_filter_key fun j => j / 2 ^ 18 != core]
    rw [show (2 ^ 18 * core + off) / 2 ^ 18 = core by omega]
    simp
  · rw [State.scrubCore_coreAt]
  · rw [State.scrubCore_coreAt]

/-- A core stays scrubbed as long as its strands, its registers and its record stand. -/
theorem coreScrubbed_of_aside {s t : State} {core : Nat} (h : CoreScrubbed s core) (ha : t.aside = s.aside)
    (hq : (t.coreAt core).queue = (s.coreAt core).queue) (hi : (t.coreAt core).inbox = (s.coreAt core).inbox) : CoreScrubbed t core := by
  obtain ⟨hstrands, hpool, hlocal, hqueue, hinbox⟩ := h
  refine ⟨fun k hk => ?_, fun r hr => ?_, fun off ho => ?_, hq.trans hqueue, hi.trans hinbox⟩
  · rw [State.strandAt, strands_of_aside ha]
    exact hstrands k hk
  · rw [pool_of_aside ha]
    exact hpool r hr
  · rw [State.getLocal, localMem_of_aside ha]
    exact hlocal off ho

/-- The scrub of another core leaves a scrubbed one scrubbed. -/
theorem coreScrubbed_scrubCore_other {s : State} {core c : Nat} (h : CoreScrubbed s core) (hne : core ≠ c) : CoreScrubbed (s.scrubCore c) core := by
  obtain ⟨hstrands, hpool, hlocal, hqueue, hinbox⟩ := h
  have at_ := State.scrubCore_coreAt_other s hne
  refine ⟨fun k hk => ?_, fun r hr => ?_, fun off ho => ?_, by rw [at_, hqueue], by rw [at_, hinbox]⟩
  · rw [State.scrubCore_strandAt_other _ (hk ▸ hne)]
    exact hstrands k hk
  · have hp : (s.scrubCore c).pool = s.pool.filter fun e => e.1 / 64 != c := rfl
    have := hpool r hr
    rw [SMap.get_eq_find] at this
    rw [hp, SMap.get_eq_find, SMap.find_filter_key fun j => j / 64 != c]
    split
    · exact this
    · rfl
  · have hp : (s.scrubCore c).localMem = s.localMem.filter fun e => e.1 / 2 ^ 18 != c := rfl
    have := hlocal off ho
    rw [State.getLocal, SMap.get_eq_find] at this
    rw [State.getLocal, hp, SMap.get_eq_find, SMap.find_filter_key fun j => j / 2 ^ 18 != c]
    split
    · exact this
    · rfl

/-! ### A stopped core -/

theorem State.finishCore_of_phase {s : State} {core : Nat} (h : ∀ n, (s.coreAt core).phase ≠ .stopped n) : s.finishCore core = s := by
  unfold State.finishCore
  split
  next n hn => exact absurd hn (h n)
  next => rfl

theorem State.finishCore_unsettled {s : State} {core : Nat} (h : s.coreSettled core = false) : s.finishCore core = s := by
  unfold State.finishCore
  split
  · rw [if_pos (by simp [h])]
  · rfl

section
variable {s : State} {core n : Nat} (hp : (s.coreAt core).phase = .stopped n) (hs : s.coreSettled core = true)
include hp hs

theorem State.finishCore_saved (hh : s.holder core = some n) (hl : (s.coreAt core).late = false) :
    s.finishCore core = (s.saveCore n core).setCore core { (s.saveCore n core).coreAt core with phase := .saved n } := by
  have hclock : (s.saveCore n core).clock = s.clock := clock_of_aside (State.saveCore_aside ..)
  have hlate : ((s.saveCore n core).coreAt core).late = false := (late_of_shell (State.saveCore_shell ..)).trans hl
  unfold State.finishCore
  rw [hp]
  dsimp only
  rw [if_neg (by simp [hs]), if_pos]
  rw [holder_of_clock hclock, hh, hlate]
  simp

theorem State.finishCore_late (hh : s.holder core ≠ some n ∨ (s.coreAt core).late = true) :
    s.finishCore core = (s.saveCore n core).scrubCore core := by
  have hclock : (s.saveCore n core).clock = s.clock := clock_of_aside (State.saveCore_aside ..)
  have hlate : ((s.saveCore n core).coreAt core).late = (s.coreAt core).late := late_of_shell (State.saveCore_shell ..)
  unfold State.finishCore
  rw [hp]
  dsimp only
  rw [if_neg (by simp [hs]), if_neg]
  rw [holder_of_clock hclock, hlate]
  rcases hh with h | h <;> simp [h]

end

/-- All that may become of a core that is looked at. -/
theorem State.finishCore_cases (s : State) (core : Nat) :
    s.finishCore core = s
    ∨ ∃ n, (s.coreAt core).phase = .stopped n
      ∧ ((s.holder core = some n ∧ (s.coreAt core).late = false
          ∧ s.finishCore core = (s.saveCore n core).setCore core { (s.saveCore n core).coreAt core with phase := .saved n })
        ∨ ((s.holder core ≠ some n ∨ (s.coreAt core).late = true) ∧ s.finishCore core = (s.saveCore n core).scrubCore core)) := by
  by_cases hs : s.coreSettled core = true
  · by_cases hp : ∃ n, (s.coreAt core).phase = .stopped n
    · obtain ⟨n, hn⟩ := hp
      refine .inr ⟨n, hn, ?_⟩
      by_cases hh : s.holder core = some n ∧ (s.coreAt core).late = false
      · exact .inl ⟨hh.1, hh.2, State.finishCore_saved hn hs hh.1 hh.2⟩
      · have hlate : s.holder core ≠ some n ∨ (s.coreAt core).late = true := (not_and_or.1 hh).imp_right fun h => by simpa using h
        exact .inr ⟨hlate, State.finishCore_late hn hs hlate⟩
    · exact .inl (State.finishCore_of_phase fun n hn => hp ⟨n, hn⟩)
  · exact .inl (State.finishCore_unsettled (by simpa using hs))

@[simp] theorem State.finishCore_clock (s : State) (core : Nat) : (s.finishCore core).clock = s.clock := by
  rcases s.finishCore_cases core with h | ⟨n, -, ⟨-, -, h⟩ | ⟨-, h⟩⟩ <;> rw [h]
  · exact clock_of_aside ((State.setCore_aside ..).trans (State.saveCore_aside ..))
  · exact (State.scrubCore_clock ..).trans (clock_of_aside (State.saveCore_aside ..))

theorem State.finishCore_shell_other (s : State) {core c : Nat} (h : c ≠ core) : (s.finishCore core).shell c = s.shell c := by
  rcases s.finishCore_cases core with e | ⟨n, -, ⟨-, -, e⟩ | ⟨-, e⟩⟩ <;> rw [e]
  · rw [State.shell_setCore_other _ h, State.saveCore_shell]
  · rw [State.shell, State.scrubCore_coreAt_other _ h]
    exact State.saveCore_shell ..

theorem State.finishCore_strandAt_other (s : State) {core k : Nat} (h : coreOf k ≠ core) : (s.finishCore core).strandAt k = s.strandAt k := by
  have hsave (n : Nat) : (s.saveCore n core).strandAt k = s.strandAt k := by
    rw [State.strandAt, strands_of_aside (State.saveCore_aside ..), State.strandAt]
  rcases s.finishCore_cases core with e | ⟨n, -, ⟨-, -, e⟩ | ⟨-, e⟩⟩ <;> rw [e]
  · exact hsave n
  · rw [State.scrubCore_strandAt_other _ h, hsave]

/-! ### A stopped quad -/

@[simp] theorem State.putInbox_besides (s : State) (tenant a : Nat) (l : List InboxEntry) : (s.putInbox tenant a l).besides = s.besides := by
  unfold State.putInbox
  dsimp only
  rw [State.besides_foldl, State.lintelPut_besides]
  intro s i
  split <;> simp

@[simp] theorem State.putCmds_besides (s : State) (tenant a n : Nat) : (s.putCmds tenant a n).besides = s.besides := by
  unfold State.putCmds
  exact State.besides_foldl (fun _ _ => State.lintelLines_besides ..) _ _

/-- A save of a quad: its area is written, and Lintel's record of it is put. -/
theorem State.saveQuad_eq (s : State) (tenant a : Nat) : ∃ (u : State) (v : SavedQuad), u.besides = s.besides
    ∧ v.cmds = (s.quadAt a).cmds ∧ v.inbox = (s.quadAt a).inbox ∧ v.phint = (s.quadAt a).phint
    ∧ s.saveQuad tenant a = u.setCoursing { u.coursing with savedQuads := u.coursing.savedQuads.put (192 * tenant + a) v } := by
  refine ⟨_, _, ?_, rfl, rfl, rfl, rfl⟩
  rw [State.besides_foldl fun _ _ => State.lintelBlock_besides .., State.lintelBlock_besides, State.lintelBlock_besides, State.putCmds_besides,
    State.lintelLines_besides, State.besides_foldl fun _ _ => State.lintelLines_besides .., State.lintelPut_besides, State.putInbox_besides,
    State.lintelPut_besides]

theorem State.saveQuad_aside (s : State) (tenant a : Nat) : (s.saveQuad tenant a).aside = s.aside := by
  obtain ⟨u, v, hu, -, -, -, h⟩ := s.saveQuad_eq tenant a
  rw [h]
  exact (State.setCoursing_aside u rfl).trans (aside_of_besides hu)

theorem State.saveQuad_units (s : State) (tenant a : Nat) : (s.saveQuad tenant a).units = s.units := by
  obtain ⟨u, v, hu, -, -, -, h⟩ := s.saveQuad_eq tenant a
  have hunits : u.units = s.units := units_of_besides hu
  rw [h]
  exact hunits

theorem State.finishQuad_of_phase {s : State} {a : Nat} (h : ∀ n, (s.quadAt a).phase ≠ .stopped n) : s.finishQuad a = s := by
  unfold State.finishQuad
  split
  next n hn => exact absurd hn (h n)
  next => rfl

theorem State.finishQuad_unsettled {s : State} {a : Nat} (h : s.quadSettled a = false) : s.finishQuad a = s := by
  unfold State.finishQuad
  split
  · rw [if_pos (by simp [h])]
  · rfl

section
variable {s : State} {a n : Nat} (hp : (s.quadAt a).phase = .stopped n) (hs : s.quadSettled a = true)
include hp hs

theorem State.finishQuad_saved (hh : s.quadHolder a = some n) (hl : (s.quadAt a).late = false) :
    s.finishQuad a = (s.saveQuad n a).setQuad a { (s.saveQuad n a).quadAt a with phase := .saved n } := by
  have hclock : (s.saveQuad n a).clock = s.clock := clock_of_aside (State.saveQuad_aside ..)
  have hlate : ((s.saveQuad n a).quadAt a).late = (s.quadAt a).late := (congrArg (fun f => (f a).late) (State.saveQuad_units s n a) :)
  unfold State.finishQuad
  rw [hp]
  dsimp only
  rw [if_neg (by simp [hs]), if_pos]
  rw [quadHolder_of_clock hclock, hh, hlate, hl]
  simp

theorem State.finishQuad_late (hh : s.quadHolder a ≠ some n ∨ (s.quadAt a).late = true) :
    s.finishQuad a = (s.saveQuad n a).scrubQuad a := by
  have hclock : (s.saveQuad n a).clock = s.clock := clock_of_aside (State.saveQuad_aside ..)
  have hlate : ((s.saveQuad n a).quadAt a).late = (s.quadAt a).late := (congrArg (fun f => (f a).late) (State.saveQuad_units s n a) :)
  unfold State.finishQuad
  rw [hp]
  dsimp only
  rw [if_neg (by simp [hs]), if_neg]
  rw [quadHolder_of_clock hclock, hlate]
  rcases hh with h | h <;> simp [h]

end

/-- All that may become of a quad that is looked at. -/
theorem State.finishQuad_cases (s : State) (a : Nat) :
    s.finishQuad a = s
    ∨ ∃ n, (s.quadAt a).phase = .stopped n ∧ s.quadSettled a = true
      ∧ ((s.quadHolder a = some n ∧ (s.quadAt a).late = false
          ∧ s.finishQuad a = (s.saveQuad n a).setQuad a { (s.saveQuad n a).quadAt a with phase := .saved n })
        ∨ ((s.quadHolder a ≠ some n ∨ (s.quadAt a).late = true) ∧ s.finishQuad a = (s.saveQuad n a).scrubQuad a)) := by
  by_cases hs : s.quadSettled a = true
  · by_cases hp : ∃ n, (s.quadAt a).phase = .stopped n
    · obtain ⟨n, hn⟩ := hp
      refine .inr ⟨n, hn, hs, ?_⟩
      by_cases hh : s.quadHolder a = some n ∧ (s.quadAt a).late = false
      · exact .inl ⟨hh.1, hh.2, State.finishQuad_saved hn hs hh.1 hh.2⟩
      · have hlate : s.quadHolder a ≠ some n ∨ (s.quadAt a).late = true := (not_and_or.1 hh).imp_right fun h => by simpa using h
        exact .inr ⟨hlate, State.finishQuad_late hn hs hlate⟩
    · exact .inl (State.finishQuad_of_phase fun n hn => hp ⟨n, hn⟩)
  · exact .inl (State.finishQuad_unsettled (by simpa using hs))

end Sys2Proof.Machine
end

section
/-! The events of a course: hold, edge, overrun stop and boundary (R69, R77 to R79, R82 to R84, R87). -/
namespace Sys2Proof.Machine

/-! ### What work outside the cores leaves -/

/-- The clock, the strands with their registers, and the cores. -/
def State.flank (s : State) : State × SMap CoreState := (s.aside, s.cores)

theorem aside_of_flank {s t : State} (h : t.flank = s.flank) : t.aside = s.aside := congrArg Prod.fst h
theorem clock_of_flank {s t : State} (h : t.flank = s.flank) : t.clock = s.clock := clock_of_aside (aside_of_flank h)
theorem cores_of_flank {s t : State} (h : t.flank = s.flank) : t.cores = s.cores := congrArg Prod.snd h
theorem coreAt_of_flank {s t : State} (h : t.flank = s.flank) (core : Nat) : t.coreAt core = s.coreAt core := by
  rw [State.coreAt, cores_of_flank h, State.coreAt]

theorem flank_of_besides {s t : State} (h : t.besides = s.besides) : t.flank = s.flank := Prod.ext (aside_of_besides h) (cores_of_besides h)

theorem State.flank_foldl {α : Type} {f : State → α → State} (h : ∀ s x, (f s x).flank = s.flank) (l : List α) (s : State) :
    (l.foldl f s).flank = s.flank := foldl_keeps State.flank h l s

@[simp] theorem State.setQuad_flank (s : State) (a : Nat) (v : QuadState) : (s.setQuad a v).flank = s.flank := rfl
@[simp] theorem State.setHub_flank (s : State) (h : Hub) : (s.setHub h).flank = s.flank := rfl
theorem State.setCoursing_flank (s : State) {k : Coursing} (h : k.plan = s.coursing.plan) : (s.setCoursing k).flank = s.flank :=
  Prod.ext (State.setCoursing_aside s h) rfl

@[simp] theorem State.updCmd_flank (s : State) (a seq : Nat) (f : Cmd → Cmd) : (s.updCmd a seq f).flank = s.flank := rfl

@[simp] theorem State.advanceSort_flank (s : State) (a : Nat) (c : Cmd) : (s.advanceSort a c).flank = s.flank := by
  unfold State.advanceSort
  split <;> rfl

@[simp] theorem State.stopQuad_flank (s : State) (a tenant : Nat) : (s.stopQuad a tenant).flank = s.flank := by
  have hsorts : (s.stopSorts a).flank = s.flank := State.flank_foldl (fun s c => (State.updCmd_flank ..).trans (State.advanceSort_flank s a c)) _ _
  unfold State.stopQuad
  split
  · exact hsorts
  · rfl
  · rfl

theorem State.lateSave_flank (s : State) (tenant : Nat) (core : Bool) : (s.lateSave tenant core).flank = s.flank := by
  have hrecord : ((s.lintelRecord tenant 0x24 0 0 0).count1 (execCounter tenant 0x50)).flank = s.flank := flank_of_besides (by simp)
  unfold State.lateSave
  dsimp only
  split
  · exact (State.setCoursing_flank _ rfl).trans hrecord
  · exact hrecord

@[simp] theorem State.lateQuad_flank (s : State) (a : Nat) : (s.lateQuad a).flank = s.flank := by
  unfold State.lateQuad
  dsimp only
  split
  · split
    · rfl
    · exact State.lateSave_flank ..
  · rfl

theorem State.saveQuad_flank (s : State) (tenant a : Nat) : (s.saveQuad tenant a).flank = s.flank := by
  obtain ⟨u, v, hu, -, -, -, h⟩ := s.saveQuad_eq tenant a
  rw [h]
  exact (State.setCoursing_flank u rfl).trans (flank_of_besides hu)

@[simp] theorem State.scrubQuad_flank (s : State) (a : Nat) : (s.scrubQuad a).flank = s.flank := rfl

@[simp] theorem State.finishQuad_flank (s : State) (a : Nat) : (s.finishQuad a).flank = s.flank := by
  rcases s.finishQuad_cases a with h | ⟨n, -, -, ⟨-, -, h⟩ | ⟨-, h⟩⟩ <;> rw [h]
  · exact (State.setQuad_flank ..).trans (State.saveQuad_flank ..)
  · exact (State.scrubQuad_flank ..).trans (State.saveQuad_flank ..)

@[simp] theorem State.turnQuad_flank (s : State) (a : Nat) : (s.turnQuad a).flank = s.flank := by
  unfold State.turnQuad
  split <;> rfl

@[simp] theorem State.scrubWays_flank (s : State) (a leaving : Nat) : (s.scrubWays a leaving).flank = s.flank := by
  unfold State.scrubWays
  split
  · rfl
  · exact State.flank_foldl (fun s l => flank_of_besides (State.evictCopy_besides ..)) _ _

theorem State.writeCompletion_besides (s : State) (tenant asid comp v : Nat) : (s.writeCompletion tenant asid comp v).2.besides = s.besides := by
  unfold State.writeCompletion
  split
  next u hu => exact State.hubWriteRecord_besides hu
  next => simp

@[simp] theorem State.reject_flank (s : State) (r asid tenant : Nat) (queue : Option Nat) (reason : Nat) :
    (s.reject r asid tenant queue reason).flank = s.flank := by
  have hwrite (u : State) (x : Nat) : (u.writeCompletion tenant asid (recComp r) x).2.flank = u.flank := flank_of_besides (State.writeCompletion_besides ..)
  have hcount : (s.count1 (execCounter tenant 0x10)).flank = s.flank := flank_of_besides (State.count1_besides ..)
  unfold State.reject
  dsimp only
  split
  · exact (hwrite ..).trans hcount
  · exact (State.setHub_flank ..).trans ((hwrite ..).trans hcount)

@[simp] theorem State.notePool_flank (s : State) : s.notePool.flank = s.flank := by
  unfold State.notePool
  split <;> rfl

@[simp] theorem State.recheckPending_flank (s : State) : s.recheckPending.flank = s.flank :=
  (State.flank_foldl (fun _ _ => (State.notePool_flank _).trans (State.reject_flank ..)) _ _).trans rfl

@[simp] theorem State.sleepQuads_flank (s : State) : s.sleepQuads.flank = s.flank := by
  unfold State.sleepQuads
  split
  · rfl
  · dsimp only
    exact State.flank_foldl (fun s a => State.setQuad_flank s a _) _ _

/-! ### Passes over the cores -/

/-- A pass that reaches one of its cores in a state P leaves it in Q, if each step does so there and keeps P and Q elsewhere. -/
theorem foldl_reaches {α : Type} {P Q : State → Prop} {f : State → α → State} {here : α → Prop} {l : List α} (hl : ∃ x ∈ l, here x)
    (hP : ∀ s x, ¬here x → P s → P (f s x)) (hPQ : ∀ s x, here x → P s → Q (f s x)) (hQ : ∀ s x, Q s → Q (f s x)) {s : State} (h : P s) :
    Q (l.foldl f s) := by
  induction l generalizing s with
  | nil => obtain ⟨x, hx, -⟩ := hl; cases hx
  | cons y l ih =>
    rw [List.foldl_cons]
    by_cases hy : here y
    · have keeps (k : List α) : ∀ {u : State}, Q u → Q (k.foldl f u) := by
        induction k with
        | nil => exact id
        | cons z k ih => exact fun hu => ih (hQ _ z hu)
      exact keeps l (hPQ s y hy h)
    · obtain ⟨x, hx, hhere⟩ := hl
      rcases List.mem_cons.1 hx with rfl | hx
      · exact absurd hhere hy
      · exact ih ⟨x, hx, hhere⟩ (hP s y hy h)

theorem foldl_holds {α : Type} {P : State → Prop} {f : State → α → State} (hP : ∀ s x, P s → P (f s x)) (l : List α) {s : State} (h : P s) :
    P (l.foldl f s) := by
  induction l generalizing s with
  | nil => exact h
  | cons x l ih => exact ih (hP s x h)

/-- A core that is not as at reset is listed. -/
theorem State.mem_cores {s : State} {core : Nat} (h : (s.coreAt core).phase ≠ .running) : ∃ e ∈ s.cores, e.1 = core := by
  by_contra hn
  refine h ?_
  rw [State.coreAt, SMap.get_eq_find, SMap.find_eq_none fun e he hk => hn ⟨e, he, hk⟩]
  rfl

end Sys2Proof.Machine
end

section
/-! The overrun stop (R84): what becomes of the one job that runs past the limit. -/
namespace Sys2Proof.Machine

/-- The commands that still run on stopped quads, by quad and number. -/
def State.overrunJobs (s : State) : List (Nat × Nat) :=
  s.quads.flatMap fun e =>
    match e.2.phase with
    | .stopped _ => (e.2.cmds.filter fun c => c.state == .running).map fun c => (e.1, c.seq)
    | _ => []

/-- One of them is stopped. -/
def State.overrunAt (s : State) (x : Nat × Nat) : State :=
  match (s.quadAt x.1).cmdOf x.2 with
  | some c => s.overrunJob x.1 c
  | none => s

theorem State.overrun_eq (s : State) (t : Nat) : s.overrun t =
    let u := s.overrunJobs.foldl State.overrunAt { s with time := max s.time t }
    u.setCoursing { u.coursing with overlimDone := true } := rfl

theorem State.overrun_idle {s : State} (h : ∀ e ∈ s.quads, (∃ n, e.2.phase = .stopped n) → ∀ c ∈ e.2.cmds, c.state ≠ .running) (t : Nat) :
    s.overrun t = ({ s with time := max s.time t } : State).setCoursing { s.coursing with overlimDone := true } := by
  have hjobs : s.overrunJobs = [] := by
    unfold State.overrunJobs
    rw [List.flatMap_eq_nil_iff]
    intro e he
    split
    next n hn =>
      rw [List.filter_eq_nil_iff.2 fun c hc => by simpa using h e he ⟨n, hn⟩ c hc]
      rfl
    next => rfl
  rw [State.overrun_eq, hjobs]
  rfl

section
variable {s : State} {a n : Nat} {q : QuadState} {c : Cmd} (hq : s.quads = [(a, q)]) (hp : q.phase = .stopped n) (hc : q.cmds = [c])
  (hr : c.state = .running)
include hq hp hc hr

theorem State.overrun_one (t : Nat) : s.overrun t =
    let u := ({ s with time := max s.time t } : State).overrunJob a c
    u.setCoursing { u.coursing with overlimDone := true } := by
  have hfound : (State.quadAt { s with time := max s.time t } a).cmdOf c.seq = some c := by
    simp [State.quadAt, hq, SMap.get, QuadState.cmdOf, hc]
  have hjobs : s.overrunJobs = [(a, c.seq)] := by simp [State.overrunJobs, hq, hp, hc, hr]
  have hat : State.overrunAt { s with time := max s.time t } (a, c.seq) = ({ s with time := max s.time t } : State).overrunJob a c := by
    unfold State.overrunAt
    rw [hfound]
  rw [State.overrun_eq, hjobs, List.foldl_cons, List.foldl_nil, hat]

end

/-- What the fault record of a stopped job leaves alone. -/
theorem State.cmdRecord_keeps (s : State) (a : Nat) (c : Cmd) (code acc vaddr f map : Nat) (stopped : Bool) (found : Nat) :
    let t := (s.cmdRecord a c code acc vaddr f map stopped found).2
    t.strands = s.strands ∧ t.coursing = s.coursing ∧ t.units = s.units := by
  have h : (s.cmdRecord a c code acc vaddr f map stopped found).2.besides = (s.updLaunch c.lid fun l => { l with faults := true }).besides := by
    simp [State.cmdRecord]
  exact ⟨(strands_of_besides h).trans rfl, (coursing_of_besides h).trans rfl, (units_of_besides h).trans rfl⟩

theorem State.updCmd_only {s : State} {a : Nat} {c d : Cmd} (h : (s.quadAt a).cmds = [c]) (hd : d.seq = c.seq) :
    ((s.updCmd a c.seq fun _ => d).quadAt a).cmdOf c.seq = some d := by
  simp [State.updCmd, State.quadAt_setQuad, h, QuadState.cmdOf, hd]

/-- A Hod command that has found where it ends: it stops once nothing of it is in flight, and goes on waiting until then. -/
theorem State.settleHod_failed (s : State) (a : Nat) {d : Cmd} (hf : d.failed.isSome = true) :
    ∃ (u : State) (y : Cmd), s.settleHod a d = u.updCmd a d.seq (fun _ => y) ∧ y.seq = d.seq
      ∧ u.strands = s.strands ∧ u.coursing = s.coursing ∧ u.units = s.units
      ∧ (d.flight = [] → (∃ job f m, y.state = .stopped job f m) ∧ y.flight = []) ∧ (d.flight ≠ [] → y = d) := by
  obtain ⟨x, hx⟩ := Option.isSome_iff_exists.1 hf
  unfold State.settleHod
  rw [hx]
  dsimp only
  by_cases he : d.flight = []
  · rw [if_pos (by simp [he])]
    generalize hg : State.cmdRecord s a d _ _ _ _ _ _ _ = r
    obtain ⟨hstrands, hcoursing, hunits⟩ := hg ▸ State.cmdRecord_keeps s a d ..
    have hcount (pa : Nat) (v : State) : (v.count1 pa).besides = v.besides := State.count1_besides ..
    have hu (u : State) (hb : u.besides = r.2.besides) : u.strands = s.strands ∧ u.coursing = s.coursing ∧ u.units = s.units :=
      ⟨(strands_of_besides hb).trans hstrands, (coursing_of_besides hb).trans hcoursing, (units_of_besides hb).trans hunits⟩
    refine ⟨_, _, rfl, rfl, ?_⟩
    rw [← and_assoc, ← and_assoc, and_assoc (a := _ = s.strands)]
    refine ⟨hu _ ?_, fun _ => ⟨⟨_, _, _, rfl⟩, rfl⟩, fun hne => absurd he hne⟩
    rw [hcount]
    split
    · rfl
    · exact hcount ..
  · rw [if_neg (by simpa using he)]
    exact ⟨s, d, rfl, rfl, rfl, rfl, rfl, fun h => absurd h he, fun _ => rfl⟩

/-- The Hod command as the overrun stop leaves it: it issues no further piece, and a refused piece is one that has not issued. -/
theorem State.overrunJob_hod (s : State) (a : Nat) {c : Cmd} (h : c.engine = some .hod) :
    ∃ d : Cmd, s.overrunJob a c = (s.settleHod a d).countOverrun d.tenant ∧ d.seq = c.seq ∧ d.state = c.state ∧ d.failed.isSome = true
      ∧ d.flight = c.flight.filter fun p => !c.refused.contains p := by
  unfold State.overrunJob
  rw [h]
  dsimp only
  refine ⟨_, rfl, ?_⟩
  cases hf : c.failed with
  | none => exact ⟨rfl, rfl, rfl, rfl⟩
  | some f =>
    dsimp only
    split
    · exact ⟨rfl, rfl, rfl, rfl⟩
    · exact ⟨rfl, rfl, by rw [hf]; rfl, rfl⟩

theorem State.overrunJob_sett (s : State) (a : Nat) {c : Cmd} (h : c.engine = some .sett) : s.overrunJob a c = s := by
  unfold State.overrunJob
  rw [h]

theorem State.countOverrun_keeps (s : State) (tenant : Nat) :
    (s.countOverrun tenant).strands = s.strands ∧ (s.countOverrun tenant).quads = s.quads
      ∧ (s.countOverrun tenant).coursing = { s.coursing with overruns := BitVec.ofNat 16 (min (s.coursing.overruns.toNat + 1) 0xFFFF) } := by
  have h : (s.countOverrun tenant).beyond true = _ := State.count1_beyond ..
  exact ⟨(congrArg (fun v : State => v.strands) h :), (congrArg (fun v : State => v.quads) h :), (congrArg (fun v : State => v.coursing) h :)⟩

end Sys2Proof.Machine
end

section
namespace Sys2Proof
open Machine

/-- R84: the Hod command that runs past the limit. -/
theorem overlimExpiry_hod {s : State} {o a n : Nat} {q : QuadState} {c : Cmd}
    (hexec : exec .overlimExpiry s = .next (s.overrun o)) (hq : s.quads = [(a, q)]) (hp : q.phase = .stopped n) (hc : q.cmds = [c])
    (hr : c.state = .running) (he : c.engine = some .hod) :
    ∃ (t : State) (x : Cmd), exec .overlimExpiry s = .next t
      ∧ t.coursing.overruns = BitVec.ofNat 16 (min (s.coursing.overruns.toNat + 1) 0xFFFF) ∧ t.coursing.overlimDone = true
      ∧ (t.quadAt a).cmdOf c.seq = some x ∧ t.strands = s.strands
      ∧ ((∀ p ∈ c.flight, p ∈ c.refused) → (∃ job f m, x.state = .stopped job f m) ∧ x.flight = [])
      ∧ ((∃ p ∈ c.flight, p ∉ c.refused) → x.state = .running ∧ x.failed.isSome = true ∧ ∀ p, p ∈ x.flight ↔ p ∈ c.flight ∧ p ∉ c.refused) := by
  obtain ⟨d, hjob, hseq, hstate, hfailed, hflight⟩ := State.overrunJob_hod { s with time := max s.time o } a he
  obtain ⟨u, y, hsettle, hy, hstrands, hcoursing, hunits, hstop, hgo⟩ := State.settleHod_failed { s with time := max s.time o } a hfailed
  have hcmds : (u.quadAt a).cmds = [c] := by
    have : (u.quadAt a).cmds = (s.quadAt a).cmds := (congrArg (fun f => (f a).cmds) hunits :)
    rw [this, State.quadAt, hq]
    simp [SMap.get, hc]
  obtain ⟨hkstrands, hkquads, hkcoursing⟩ := State.countOverrun_keeps (u.updCmd a d.seq fun _ => y) d.tenant
  rw [State.overrun_one hq hp hc hr, hjob, hsettle] at hexec
  refine ⟨_, y, hexec, ?_, rfl, ?_, hkstrands.trans hstrands, fun hall => ?_, fun ⟨p, hpf, hpr⟩ => ?_⟩
  · show ((u.updCmd a d.seq fun _ => y).countOverrun d.tenant).coursing.overruns = _
    rw [hkcoursing]
    show BitVec.ofNat 16 (min (u.coursing.overruns.toNat + 1) 0xFFFF) = _
    rw [hcoursing]
  · show (((u.updCmd a d.seq fun _ => y).countOverrun d.tenant).quadAt a).cmdOf c.seq = _
    rw [State.quadAt, hkquads, hseq]
    exact State.updCmd_only hcmds (hy.trans hseq)
  · exact hstop (by rw [hflight, List.filter_eq_nil_iff]; simpa using hall)
  · have hmem (p : Nat) : p ∈ d.flight ↔ p ∈ c.flight ∧ p ∉ c.refused := by simp [hflight]
    rw [hgo fun hnil => by simpa [hnil] using (hmem p).2 ⟨hpf, hpr⟩]
    exact ⟨hstate.trans hr, hfailed, hmem⟩

theorem overlimExpiry_stops {s : State} {o : Nat} (ho : s.edgeTime.map (· + usCycles s.coursing.overlimNow.toNat) = some o)
    (he : s.coursing.edged = true) (hd : s.coursing.overlimDone = false) :
    let overruns := BitVec.ofNat 16 (min (s.coursing.overruns.toNat + 1) 0xFFFF)
    ((∀ e ∈ s.quads, (∃ n, e.2.phase = .stopped n) → ∀ c ∈ e.2.cmds, c.state ≠ .running) → ∃ t : State, exec .overlimExpiry s = .next t ∧ Quiet s t
      ∧ t.time = max s.time o ∧ t.coursing = { s.coursing with overlimDone := true })
    ∧ (∀ a q n c, s.quads = [(a, q)] → q.phase = .stopped n → q.cmds = [c] → c.state = .running →
      (c.engine = some .hod → ∃ (t : State) (x : Cmd), exec .overlimExpiry s = .next t ∧ t.coursing.overruns = overruns ∧ t.coursing.overlimDone = true
        ∧ (t.quadAt a).cmdOf c.seq = some x ∧ t.strands = s.strands
        ∧ ((∀ p ∈ c.flight, p ∈ c.refused) → (∃ job f m, x.state = .stopped job f m) ∧ x.flight = [])
        ∧ ((∃ p ∈ c.flight, p ∉ c.refused) → x.state = .running ∧ x.failed.isSome = true ∧ ∀ p, p ∈ x.flight ↔ p ∈ c.flight ∧ p ∉ c.refused))
      ∧ (c.engine = some .sett → ∃ t : State, exec .overlimExpiry s = .next t ∧ Quiet s t ∧ t.coursing.overruns = s.coursing.overruns)) := by
  have hexec : exec .overlimExpiry s = .next (s.overrun o) := by
    show execOverlimExpiry s = _
    unfold execOverlimExpiry State.overrunTime
    rw [ho]
    exact if_pos (by simp [he, hd])
  have hquiet (x : Nat) (k : Coursing) : Quiet s (({ s with time := x } : State).setCoursing k) :=
    ⟨rfl, ⟨rfl, rfl, rfl, rfl⟩, ⟨rfl, rfl, rfl, rfl⟩⟩
  refine ⟨fun hidle => ?_, fun a q n c hq hp hc hr => ⟨overlimExpiry_hod hexec hq hp hc hr, fun hsett => ?_⟩⟩
  · exact ⟨_, hexec.trans (congrArg _ (State.overrun_idle hidle o)), hquiet .., rfl, rfl⟩
  · rw [State.overrun_one hq hp hc hr, State.overrunJob_sett _ _ hsett] at hexec
    exact ⟨_, hexec, hquiet .., rfl⟩

end Sys2Proof
end

section
/-! The edge and the boundary (R69, R77 to R79, R82, R83, R87). -/
namespace Sys2Proof.Machine

/-! ### The edge -/

/-- At the edge: a core, or a quad, that changes hands is stopped for its holder. -/
def State.stopHeld (s : State) (core : Nat) : State :=
  match s.holder core with
  | some n => s.stopCore core n
  | none => s
def State.stopHeldQuad (s : State) (a : Nat) : State :=
  match s.quadHolder a with
  | some n => s.stopQuad a n
  | none => s

/-- The edge's pass over the cores. -/
def State.edgeCores (s : State) (t : Nat) : State := ((List.range 768).filter s.coreChanges).foldl State.stopHeld { s with time := max s.time t }

/-- The hold and the edge of the course in force have happened (R78, R79). -/
def Coursing.pastEdge (k : Coursing) : Coursing := { k with held := true, edged := true }

theorem State.stopHeld_aside (s : State) (core : Nat) : (s.stopHeld core).aside = s.aside := by
  unfold State.stopHeld State.stopCore
  (repeat' split) <;> rfl

theorem State.stopHeldQuad_flank (s : State) (a : Nat) : (s.stopHeldQuad a).flank = s.flank := by
  unfold State.stopHeldQuad
  split
  · exact State.stopQuad_flank ..
  · rfl

/-- After its pass over the cores the edge stops quads, wakes others, and notes itself. -/
theorem State.edge_eq (s : State) (t : Nat) : ∃ u : State, u.flank = (s.edgeCores t).flank ∧ s.edge t = u.setCoursing u.coursing.pastEdge := by
  refine ⟨_, ?_, rfl⟩
  refine (State.flank_foldl (fun u (e : Nat × QuadState) => State.setQuad_flank u e.1 _) _ _).trans ?_
  exact State.flank_foldl State.stopHeldQuad_flank _ _

theorem State.edgeCores_aside (s : State) (t : Nat) : (s.edgeCores t).aside = State.aside { s with time := max s.time t } :=
  State.aside_foldl State.stopHeld_aside _ _

theorem State.edge_clock (s : State) (t : Nat) :
    (s.edge t).clock = (({ s with time := max s.time t } : State).setCoursing s.coursing.pastEdge).clock
      ∧ (s.edge t).strands = s.strands := by
  obtain ⟨u, hu, h⟩ := s.edge_eq t
  have ha : u.aside = State.aside { s with time := max s.time t } := (aside_of_flank hu).trans (State.edgeCores_aside s t)
  rw [h]
  exact ⟨(congrArg (fun v : State => { v.clock with coursing := v.coursing.pastEdge }) ha :), (congrArg (fun v : State => v.strands) ha :)⟩

theorem State.edge_plan (s : State) (t : Nat) : (s.edge t).coursing.plan = s.coursing.plan.pastEdge := plan_of_clock (s.edge_clock t).1
theorem State.edge_time (s : State) (t : Nat) : (s.edge t).time = max s.time t := time_of_clock (s.edge_clock t).1
theorem State.edge_holder (s : State) (t core : Nat) : (s.edge t).holder core = s.holder core := holder_of_clock (s.edge_clock t).1 core

theorem State.edge_coreAt (s : State) (t core : Nat) : (s.edge t).coreAt core = (s.edgeCores t).coreAt core := by
  obtain ⟨u, hu, h⟩ := s.edge_eq t
  rw [h]
  exact coreAt_of_flank hu core

theorem State.stopHeld_coreAt_other (s : State) {core c : Nat} (h : core ≠ c) : (s.stopHeld c).coreAt core = s.coreAt core := by
  have hset (v : CoreState) : (s.setCore c v).coreAt core = s.coreAt core := by rw [State.coreAt_setCore, if_neg h]
  unfold State.stopHeld State.stopCore
  split
  · split
    · exact hset _
    · exact hset _
    · rfl
  · rfl

theorem State.stopHeld_of_running {s : State} {core n : Nat} (hh : s.holder core = some n) (hp : (s.coreAt core).phase = .running) :
    (s.stopHeld core).coreAt core = { s.coreAt core with phase := .stopped n } := by
  unfold State.stopHeld
  rw [hh]
  dsimp only
  unfold State.stopCore
  rw [hp]
  dsimp only
  rw [State.coreAt_setCore, if_pos rfl]

theorem State.stopHeld_of_stopped {s : State} {core n : Nat} (hp : (s.coreAt core).phase = .stopped n) : s.stopHeld core = s := by
  unfold State.stopHeld State.stopCore
  rw [hp]
  split <;> rfl

/-- A running core whose holder leaves is stopped for it. -/
theorem State.edge_stops {s : State} {c n : Nat} (hc : c < 768) (hch : s.coreChanges c = true) (hh : s.holder c = some n)
    (hp : (s.coreAt c).phase = .running) (t : Nat) : (s.edge t).coreAt c = { s.coreAt c with phase := .stopped n } := by
  rw [State.edge_coreAt]
  unfold State.edgeCores
  refine foldl_reaches (here := (· = c)) (P := fun u => u.holder c = some n ∧ u.coreAt c = s.coreAt c)
    (Q := fun u => u.coreAt c = { s.coreAt c with phase := .stopped n }) ⟨c, List.mem_filter.2 ⟨List.mem_range.2 hc, hch⟩, rfl⟩ ?_ ?_ ?_ ⟨hh, rfl⟩
  · rintro u x hx ⟨hhold, hcore⟩
    exact ⟨(holder_of_clock (clock_of_aside (State.stopHeld_aside ..)) c).trans hhold, (State.stopHeld_coreAt_other _ (Ne.symm hx)).trans hcore⟩
  · rintro u x rfl ⟨hhold, hcore⟩
    rw [State.stopHeld_of_running hhold (by rw [hcore, hp]), hcore]
  · intro u x hstopped
    by_cases hx : c = x
    · subst hx
      rw [State.stopHeld_of_stopped (n := n) (by rw [hstopped]), hstopped]
    · rw [State.stopHeld_coreAt_other _ hx, hstopped]

/-- A core that runs on time: it is stopped only for the holder that it has, and its strands stand. -/
structure OnTime (s t : State) (core : Nat) : Prop where
  late : (t.coreAt core).late = false
  mine : ∀ n, (t.coreAt core).phase = .stopped n → t.holder core = some n
  strands : ∀ k, coreOf k = core → t.strandAt k = s.strandAt k

/-- What the pass over the cores makes of a core: another phase, stopped only for the holder. -/
theorem State.stopHeld_coreAt (s : State) (core : Nat) :
    ∃ p, (s.stopHeld core).coreAt core = { s.coreAt core with phase := p } ∧ ∀ n, p = .stopped n → (s.coreAt core).phase = p ∨ s.holder core = some n := by
  unfold State.stopHeld
  split
  next n hn =>
    unfold State.stopCore
    split
    · exact ⟨_, by rw [State.coreAt_setCore, if_pos rfl], fun m hm => .inr (by rw [hn, EdgePhase.stopped.inj hm])⟩
    · exact ⟨_, by rw [State.coreAt_setCore, if_pos rfl], fun _ h => by cases h⟩
    · exact ⟨_, rfl, fun _ _ => .inl rfl⟩
  next => exact ⟨_, rfl, fun _ _ => .inl rfl⟩

theorem OnTime.stopHeld {s t : State} {core : Nat} (h : OnTime s t core) (c : Nat) : OnTime s (t.stopHeld c) core := by
  have hholder : (t.stopHeld c).holder core = t.holder core := holder_of_clock (clock_of_aside (State.stopHeld_aside ..)) core
  refine ⟨?_, fun n hn => hholder.trans ?_, fun k hk => ?_⟩
  · by_cases hc : core = c
    · obtain ⟨p, hp, -⟩ := t.stopHeld_coreAt c
      rw [hc, hp, ← hc]
      exact h.late
    · rw [State.stopHeld_coreAt_other _ hc]
      exact h.late
  · by_cases hc : core = c
    · obtain ⟨p, hp, hmine⟩ := t.stopHeld_coreAt core
      rw [← hc, hp] at hn
      exact (hmine n hn).elim (fun hsame => h.mine n (hsame.trans hn)) id
    · rw [State.stopHeld_coreAt_other _ hc] at hn
      exact h.mine n hn
  · rw [State.strandAt, strands_of_aside (State.stopHeld_aside ..)]
    exact h.strands k hk

theorem OnTime.finishCore {s t : State} {core : Nat} (h : OnTime s t core) (c : Nat) : OnTime s (t.finishCore c) core := by
  have hholder : (t.finishCore c).holder core = t.holder core := holder_of_clock (State.finishCore_clock ..) core
  by_cases hc : core = c
  · subst hc
    rcases t.finishCore_cases core with e | ⟨n, hn, ⟨-, -, e⟩ | ⟨hlate, -⟩⟩
    · rwa [e]
    · have hcore : ((t.finishCore core).coreAt core) = { (t.saveCore n core).coreAt core with phase := .saved n } := by
        rw [e, State.coreAt_setCore, if_pos rfl]
      refine ⟨?_, fun m hm => ?_, fun k hk => ?_⟩
      · rw [hcore]
        exact (late_of_shell (State.saveCore_shell ..)).trans h.late
      · rw [hcore] at hm
        cases hm
      · rw [e, State.strandAt_setCore, State.strandAt, strands_of_aside (State.saveCore_aside ..)]
        exact h.strands k hk
    · exact absurd (h.mine n hn) (hlate.resolve_right (by simp [h.late]))
  · have hshell := State.finishCore_shell_other t hc
    refine ⟨(late_of_shell hshell).trans h.late, fun n hn => hholder.trans (h.mine n ((phase_of_shell hshell).symm.trans hn)), fun k hk => ?_⟩
    rw [State.finishCore_strandAt_other _ (hk ▸ hc)]
    exact h.strands k hk

/-- A core that runs on time keeps its strands through the edge and the saves that follow. -/
theorem State.edge_onTime {s : State} {core : Nat} (hp : (s.coreAt core).phase = .running) (hl : (s.coreAt core).late = false) (t : Nat) :
    OnTime s (s.edge t).finishCores core := by
  have hstart : OnTime s { s with time := max s.time t } core :=
    ⟨hl, fun n hn => absurd (hp.symm.trans hn) nofun, fun _ _ => rfl⟩
  have hcores : OnTime s (s.edgeCores t) core := foldl_holds (P := fun u => OnTime s u core) (fun u x hu => hu.stopHeld x) _ hstart
  have hedge : OnTime s (s.edge t) core := by
    refine ⟨by rw [State.edge_coreAt]; exact hcores.late, fun n hn => ?_, fun k _ => by rw [State.strandAt, (s.edge_clock t).2, State.strandAt]⟩
    rw [State.edge_coreAt] at hn
    rw [State.edge_holder]
    exact (holder_of_clock (clock_of_aside (s.edgeCores_aside t)) core).symm.trans (hcores.mine n hn)
  exact foldl_holds (P := fun u => OnTime s u core) (fun u x hu => hu.finishCore x.1) _ hedge

@[simp] theorem State.finishCores_clock (s : State) : s.finishCores.clock = s.clock := foldl_keeps State.clock (fun _ _ => State.finishCore_clock ..) _ _

theorem State.setCore_savedCore (s : State) (core : Nat) (v : CoreState) (n c : Nat) : (s.setCore core v).savedCore n c = s.savedCore n c := rfl
theorem State.scrubCore_savedCore (s : State) (core n c : Nat) : (s.scrubCore core).savedCore n c = s.savedCore n c := rfl

theorem State.finishCore_keepsSaved {s : State} {n c : Nat} (h : (s.savedCore n c).isSome = true) (core : Nat) :
    ((s.finishCore core).savedCore n c).isSome = true := by
  rcases s.finishCore_cases core with e | ⟨m, -, ⟨-, -, e⟩ | ⟨-, e⟩⟩ <;> rw [e]
  · exact h
  · rw [State.setCore_savedCore]
    exact State.saveCore_keepsSaved h ..
  · rw [State.scrubCore_savedCore]
    exact State.saveCore_keepsSaved h ..

/-- A settled core that is stopped on time is saved. -/
theorem State.finishCores_saves {s : State} {c n : Nat} (hp : (s.coreAt c).phase = .stopped n) (hs : s.coreSettled c = true)
    (hh : s.holder c = some n) (hl : (s.coreAt c).late = false) :
    (s.finishCores.coreAt c).phase = .saved n ∧ (s.finishCores.savedCore n c).isSome = true := by
  unfold State.finishCores
  refine foldl_reaches (here := fun e : Nat × CoreState => e.1 = c) (P := fun u => u.holder c = some n ∧ u.shell c = s.shell c)
    (Q := fun u => (u.coreAt c).phase = .saved n ∧ (u.savedCore n c).isSome = true) (State.mem_cores (by rw [hp]; nofun)) ?_ ?_ ?_ ⟨hh, rfl⟩
  · rintro u x hx ⟨hhold, hshell⟩
    exact ⟨(holder_of_clock (State.finishCore_clock ..) c).trans hhold, (State.finishCore_shell_other u (Ne.symm hx)).trans hshell⟩
  · rintro u ⟨x, v⟩ rfl ⟨hhold, hshell⟩
    have e := State.finishCore_saved ((phase_of_shell hshell).trans hp) ((coreSettled_of_shell hshell).trans hs) hhold ((late_of_shell hshell).trans hl)
    rw [e]
    exact ⟨by rw [State.coreAt_setCore, if_pos rfl], by rw [State.setCore_savedCore]; exact State.saveCore_savedCore ..⟩
  · rintro u ⟨x, v⟩ ⟨hsaved, hsome⟩
    by_cases hx : c = x
    · subst hx
      rw [State.finishCore_of_phase fun m hm => by rw [hsaved] at hm; cases hm]
      exact ⟨hsaved, hsome⟩
    · exact ⟨(phase_of_shell (State.finishCore_shell_other u hx)).trans hsaved, State.finishCore_keepsSaved hsome x⟩

/-- A core that has not settled stays as it is. -/
theorem State.finishCores_waits {s : State} {c : Nat} (hs : s.coreSettled c = false) : s.finishCores.shell c = s.shell c := by
  refine foldl_holds (P := fun u => u.shell c = s.shell c) (fun u e hu => ?_) _ rfl
  by_cases he : c = e.1
  · rw [State.finishCore_unsettled (he ▸ (coreSettled_of_shell hu).trans hs)]
    exact hu
  · exact (State.finishCore_shell_other u he).trans hu

/-! ### The boundary -/

/-- What the boundary makes of the coursing record (R69, R70, R72). -/
theorem Coursing.begin_spec (k : Coursing) (last : Bool) (b : Nat) :
    let x := k.begin last b
    x.began = b ∧ x.held = false ∧ x.edged = false ∧ x.donations = [] ∧ x.drainleadNow = k.drainlead ∧ x.overlimNow = k.overlim
    ∧ x.table = k.table ∧ x.enable = true
    ∧ (k.enable = true → last = false → x.course = k.course + 1 ∧ x.active = k.active ∧ x.frames = k.frames ∧ x.fstart = k.fstart
      ∧ x.pending = k.pending)
    ∧ (k.enable = false ∨ (last = true ∧ k.pending = true ∧ k.skipFrame = false) → x.course = 0 ∧ x.active = !k.active
      ∧ x.activeN = k.pendingN ∧ x.pending = false ∧ x.frames = k.frames + 1 ∧ x.fstart = BitVec.ofNat 64 b)
    ∧ (k.enable = true → last = true → (k.pending = false ∨ k.skipFrame = true) → x.course = 0 ∧ x.active = k.active
      ∧ x.activeN = k.activeN ∧ x.pending = k.pending ∧ x.frames = k.frames + 1 ∧ x.fstart = BitVec.ofNat 64 b) := by
  cases he : k.enable
  · simp [Coursing.begin, he]
  · cases last
    · simp [Coursing.begin, he]
    · cases hp : k.pending
      · simp [Coursing.begin, he, hp]
      · cases hs : k.skipFrame <;> simp [Coursing.begin, he, hp, hs]

theorem Coursing.begin_plan (k : Coursing) (last : Bool) (b : Nat) : (k.begin last b).plan = k.plan.begin last b := by
  have hk : k.plan.enable = k.enable ∧ k.plan.pending = k.pending ∧ k.plan.skipFrame = k.skipFrame := ⟨rfl, rfl, rfl⟩
  obtain ⟨he, hp, hs⟩ := hk
  unfold Coursing.begin
  dsimp only
  rw [he, hp, hs]
  (repeat' split) <;> rfl

/-- The state at a boundary, before the next course begins: what has settled is saved, and the saves that pass the boundary are counted. -/
def State.lateSaves (s : State) : State :=
  let s := s.finishCores.finishQuads
  let s := (s.cores.map Prod.fst).foldl State.lateCore s
  (s.quads.map Prod.fst).foldl State.lateQuad s

theorem State.finishQuads_flank (s : State) : s.finishQuads.flank = s.flank := State.flank_foldl (fun _ _ => State.finishQuad_flank ..) _ _

theorem State.lateCore_aside (s : State) (core : Nat) : (s.lateCore core).aside = s.aside := by
  unfold State.lateCore
  dsimp only
  split
  · split
    · rfl
    · exact (aside_of_flank (State.lateSave_flank ..)).trans (State.setCore_aside ..)
  · rfl

theorem State.lateSaves_clock (s : State) : s.lateSaves.clock = s.clock := by
  have hquads (l : List Nat) (u : State) : (l.foldl State.lateQuad u).clock = u.clock :=
    clock_of_flank (State.flank_foldl (fun _ _ => State.lateQuad_flank ..) _ _)
  have hcores (l : List Nat) (u : State) : (l.foldl State.lateCore u).clock = u.clock :=
    clock_of_aside (State.aside_foldl State.lateCore_aside _ _)
  exact (hquads ..).trans ((hcores ..).trans ((clock_of_flank (State.finishQuads_flank _)).trans (State.finishCores_clock _)))

/-- The state in which the next course has begun. -/
def State.begun (s : State) (b : Nat) : State :=
  let u := State.lateSaves { s with time := max s.time b }
  u.setCoursing (u.coursing.begin u.lastCourse b)

theorem State.begun_clock (s : State) (b : Nat) :
    (s.begun b).time = max s.time b ∧ (s.begun b).coursing.plan = s.coursing.plan.begin s.lastCourse b := by
  have hclock : (State.lateSaves { s with time := max s.time b }).clock = State.clock { s with time := max s.time b } := State.lateSaves_clock _
  refine ⟨time_of_clock hclock, ?_⟩
  have hlast : (State.lateSaves { s with time := max s.time b }).lastCourse = s.lastCourse := (lastCourse_of_clock hclock).trans rfl
  have hplan : (State.lateSaves { s with time := max s.time b }).coursing.plan = s.coursing.plan := (plan_of_clock hclock).trans rfl
  rw [State.begun, State.setCoursing_coursing, hlast, Coursing.begin_plan, hplan]

/-- The boundary: the next course begins, the ways that change hands are scrubbed, and the quads and cores that change hands are turned over. -/
theorem State.turn_eq (s : State) (b : Nat) : ∃ (u : State) (cores : List Nat), u.flank = (s.begun b).flank
    ∧ cores = (List.range 768).filter (State.finishQuads (State.finishCores { s with time := max s.time b })).coreChanges
    ∧ (s.turn b).flank = (cores.foldl State.turnCore u).flank := by
  unfold State.turn
  extract_lets s₀ s₁ cores quads s₂ s₃ ways fresh s₄ s₅ s₆ s₇
  refine ⟨s₆, cores, ?_, rfl, ?_⟩
  · refine (State.flank_foldl (fun _ _ => State.turnQuad_flank ..) _ _).trans ?_
    exact State.flank_foldl (fun u (x : Nat × Nat) => State.scrubWays_flank u _ _) _ _
  · refine (State.sleepQuads_flank _).trans ?_
    split
    · exact State.recheckPending_flank _
    · rfl

theorem State.turnCore_clock (s : State) (core : Nat) : (s.turnCore core).clock = s.clock := by
  unfold State.turnCore
  split
  · exact State.scrubCore_clock ..
  · exact State.scrubCore_clock ..
  · rfl
  · exact clock_of_aside (State.enterCore_aside ..)

theorem State.turnCore_coreAt_other (s : State) {core c : Nat} (h : core ≠ c) : (s.turnCore c).coreAt core = s.coreAt core := by
  unfold State.turnCore
  split
  · exact State.scrubCore_coreAt_other _ h
  · exact State.scrubCore_coreAt_other _ h
  · rfl
  · exact State.enterCore_coreAt_other _ h

theorem coreScrubbed_enterCore {s : State} {core : Nat} (h : CoreScrubbed s core) (c : Nat) : CoreScrubbed (s.enterCore c) core := by
  by_cases hc : core = c
  · subst hc
    exact coreScrubbed_of_aside h (State.enterCore_aside ..) (by rw [State.enterCore_coreAt]) (by rw [State.enterCore_coreAt])
  · exact coreScrubbed_of_aside h (State.enterCore_aside ..) (by rw [State.enterCore_coreAt_other _ hc]) (by rw [State.enterCore_coreAt_other _ hc])

theorem coreScrubbed_scrubCore {s : State} {core : Nat} (h : CoreScrubbed s core) (c : Nat) : CoreScrubbed (s.scrubCore c) core := by
  by_cases hc : core = c
  · subst hc
    exact State.scrubCore_scrubbed ..
  · exact coreScrubbed_scrubCore_other h hc

theorem coreScrubbed_turnCore {s : State} {core : Nat} (h : CoreScrubbed s core) (c : Nat) : CoreScrubbed (s.turnCore c) core := by
  unfold State.turnCore
  split
  · exact coreScrubbed_scrubCore h c
  · exact coreScrubbed_scrubCore h c
  · exact h
  · exact coreScrubbed_enterCore h c

/-- A saved core that changes hands is scrubbed at the boundary. -/
theorem turnCores_scrub {s : State} {cores : List Nat} {c n : Nat} (hc : c ∈ cores) (hp : (s.coreAt c).phase = .saved n) :
    CoreScrubbed (cores.foldl State.turnCore s) c := by
  refine foldl_reaches (here := (· = c)) (P := fun u => (u.coreAt c).phase = .saved n) (Q := fun u => CoreScrubbed u c) ⟨c, hc, rfl⟩ ?_ ?_ ?_ hp
  · intro u x hx hu
    rw [State.turnCore_coreAt_other _ (Ne.symm hx)]
    exact hu
  · rintro u x rfl hu
    unfold State.turnCore
    rw [hu]
    exact State.scrubCore_scrubbed ..
  · exact fun u x hu => coreScrubbed_turnCore hu x

/-- A saved core is still saved when the next course begins. -/
theorem State.begun_saved {s : State} {c n : Nat} (hp : (s.coreAt c).phase = .saved n) (b : Nat) : ((s.begun b).coreAt c).phase = .saved n := by
  have hfinish : ((State.finishCores { s with time := max s.time b }).coreAt c).phase = .saved n := by
    refine foldl_holds (P := fun u => (u.coreAt c).phase = .saved n) (fun u e hu => ?_) _ hp
    by_cases he : c = e.1
    · rw [State.finishCore_of_phase fun m hm => by rw [← he, hu] at hm; cases hm]
      exact hu
    · exact (phase_of_shell (State.finishCore_shell_other u he)).trans hu
  have hlate (l : List Nat) (u : State) (hu : (u.coreAt c).phase = .saved n) : ((l.foldl State.lateCore u).coreAt c).phase = .saved n := by
    refine foldl_holds (P := fun u => (u.coreAt c).phase = .saved n) (fun u x hu => ?_) _ hu
    unfold State.lateCore
    dsimp only
    split
    next m hm =>
      have hx : c ≠ x := by
        rintro rfl
        rw [hu] at hm
        cases hm
      split
      · exact hu
      · rw [coreAt_of_flank (State.lateSave_flank ..), State.coreAt_setCore, if_neg hx]
        exact hu
    next => exact hu
  have hquads (l : List Nat) (u : State) : (l.foldl State.lateQuad u).coreAt c = u.coreAt c :=
    coreAt_of_flank (State.flank_foldl (fun _ _ => State.lateQuad_flank ..) _ _) c
  show ((State.lateSaves { s with time := max s.time b }).coreAt c).phase = _
  unfold State.lateSaves
  dsimp only
  rw [hquads]
  refine hlate _ _ ?_
  rw [coreAt_of_flank (State.finishQuads_flank _)]
  exact hfinish

theorem State.turn_clock (s : State) (b : Nat) : (s.turn b).time = max s.time b ∧ (s.turn b).coursing.plan = s.coursing.plan.begin s.lastCourse b := by
  obtain ⟨u, cores, hu, -, h⟩ := s.turn_eq b
  have hclock : (s.turn b).clock = (s.begun b).clock :=
    (clock_of_flank h).trans ((foldl_keeps State.clock State.turnCore_clock cores u).trans (clock_of_flank hu))
  obtain ⟨ht, hk⟩ := s.begun_clock b
  exact ⟨(time_of_clock hclock).trans ht, (plan_of_clock hclock).trans hk⟩

theorem State.turn_scrubs {s : State} {c n : Nat} (hc : c < 768) (hch : s.coreChanges c = true) (hp : (s.coreAt c).phase = .saved n) (b : Nat) :
    CoreScrubbed (s.turn b) c := by
  obtain ⟨u, cores, hu, hcores, h⟩ := s.turn_eq b
  have hclock : (State.finishQuads (State.finishCores { s with time := max s.time b })).clock = State.clock { s with time := max s.time b } :=
    (clock_of_flank (State.finishQuads_flank _)).trans (State.finishCores_clock _)
  have hmem : c ∈ cores := by
    rw [hcores, List.mem_filter, List.mem_range, coreChanges_of_clock hclock]
    exact ⟨hc, hch⟩
  have hsaved : (u.coreAt c).phase = .saved n := by
    rw [coreAt_of_flank hu]
    exact State.begun_saved hp b
  exact coreScrubbed_of_aside (turnCores_scrub hmem hsaved) (aside_of_flank h) (by rw [coreAt_of_flank h]) (by rw [coreAt_of_flank h])

end Sys2Proof.Machine
end

section
/-! O44: the hold, the edge, the overrun limit and the boundary. -/
namespace Sys2Proof
open Machine

theorem exec_courseEdge {s : State} {e : Nat} (h : s.edgeTime = some e) (hd : s.coursing.edged = false) :
    exec .courseEdge s = .next (s.edge e).finishCores := by
  show execCourseEdge s = _
  unfold execCourseEdge
  rw [h]
  dsimp only
  rw [if_neg (by simp [hd])]

theorem exec_courseBoundary {s : State} {b : Nat} (h : s.boundary = some b) (he : s.coursing.edged = true) (ho : s.coursing.overlimDone = true) :
    exec .courseBoundary s = .next (s.turn b) := by
  show execCourseBoundary s = _
  unfold execCourseBoundary
  rw [h]
  cases hE : s.edgeTime <;> cases hO : s.overrunTime <;> simp [he, ho, hO]

theorem courseEdge_stops {s : State} {e : Nat} (he : s.edgeTime = some e) (hd : s.coursing.edged = false) :
    ∃ t : State, exec .courseEdge s = .next t ∧ t.time = max s.time e
    ∧ t.coursing.edged = true ∧ t.coursing.held = true ∧ t.coursing.course = s.coursing.course
    ∧ (∀ k, (s.coreAt (coreOf k)).phase = .running → (s.coreAt (coreOf k)).late = false → t.strandAt k = s.strandAt k)
    ∧ ∀ c n, c < 768 → s.coreChanges c = true → s.holder c = some n → (s.coreAt c).phase = .running → (s.coreAt c).late = false →
      (s.coreSettled c = true → (t.coreAt c).phase = .saved n ∧ (t.savedCore n c).isSome)
      ∧ (s.coreSettled c = false → (t.coreAt c).phase = .stopped n) := by
  have hplan : (s.edge e).finishCores.coursing.plan = s.coursing.plan.pastEdge := (plan_of_clock (State.finishCores_clock _)).trans (s.edge_plan e)
  refine ⟨_, exec_courseEdge he hd, (time_of_clock (State.finishCores_clock _)).trans (s.edge_time e), ?_, ?_, ?_, ?_, ?_⟩
  · exact (congrArg Coursing.edged hplan :)
  · exact (congrArg Coursing.held hplan :)
  · exact (congrArg Coursing.course hplan :)
  · exact fun k hp hl => (State.edge_onTime hp hl e).strands k rfl
  · intro c n hc hch hh hp hl
    have hcore := State.edge_stops hc hch hh hp e
    have hsettled : (s.edge e).coreSettled c = s.coreSettled c := by
      rw [State.coreSettled, hcore, State.coreSettled]
    refine ⟨fun hs => ?_, fun hs => ?_⟩
    · exact State.finishCores_saves (by rw [hcore]) (hsettled.trans hs) ((s.edge_holder e c).trans hh) (by rw [hcore]; exact hl)
    · rw [phase_of_shell (State.finishCores_waits (hsettled.trans hs)), hcore]

theorem courseBoundary_turns {s : State} {b : Nat} (hb : s.boundary = some b) (he : s.coursing.edged = true) (ho : s.coursing.overlimDone = true) :
    let k := s.coursing
    ∃ t : State, exec .courseBoundary s = .next t ∧ t.time = max s.time b ∧ t.coursing.began = b ∧ t.coursing.held = false ∧ t.coursing.edged = false
      ∧ t.coursing.donations = [] ∧ t.coursing.drainleadNow = k.drainlead ∧ t.coursing.overlimNow = k.overlim ∧ t.coursing.table = k.table
      ∧ t.coursing.enable = true
      ∧ (k.enable = true → s.lastCourse = false → t.coursing.course = k.course + 1 ∧ t.coursing.active = k.active ∧ t.coursing.frames = k.frames
        ∧ t.coursing.fstart = k.fstart ∧ t.coursing.pending = k.pending)
      ∧ (k.enable = false ∨ (s.lastCourse = true ∧ k.pending = true ∧ k.skipFrame = false) → t.coursing.course = 0 ∧ t.coursing.active = !k.active
        ∧ t.coursing.activeN = k.pendingN ∧ t.coursing.pending = false ∧ t.coursing.frames = k.frames + 1 ∧ t.coursing.fstart = BitVec.ofNat 64 b)
      ∧ (k.enable = true → s.lastCourse = true → (k.pending = false ∨ k.skipFrame = true) → t.coursing.course = 0 ∧ t.coursing.active = k.active
        ∧ t.coursing.activeN = k.activeN ∧ t.coursing.pending = k.pending ∧ t.coursing.frames = k.frames + 1
        ∧ t.coursing.fstart = BitVec.ofNat 64 b)
      ∧ ∀ c n, c < 768 → s.coreChanges c = true → (s.coreAt c).phase = .saved n → CoreScrubbed t c := by
  intro k
  obtain ⟨htime, hplan⟩ := s.turn_clock b
  have hexec := exec_courseBoundary hb he ho
  have hscrub (c n : Nat) (hc : c < 768) (hch : s.coreChanges c = true) (hp : (s.coreAt c).phase = .saved n) := State.turn_scrubs hc hch hp b
  generalize s.turn b = t at *
  have hspec := Coursing.begin_spec s.coursing.plan s.lastCourse b
  rw [← hplan] at hspec
  obtain ⟨h1, h2, h3, h4, h5, h6, h7, h8, h9, h10, h11⟩ := hspec
  exact ⟨t, hexec, htime, h1, h2, h3, h4, h5, h6, h7, h8, h9, h10, h11, hscrub⟩

/-- Settles O44: the edge and the boundary are passes over cores and quads. What decides who holds what (`State.clock`) stands through the saves, a
core that runs on time is only ever stopped for its holder (`OnTime`), and a pass reaches each core that it names (`foldl_reaches`). -/
theorem coursesBeginAndEnd : Obligations.CoursesBeginAndEnd := by
  refine ⟨fun s h hh hd => ?_, fun s e he hd => courseEdge_stops he hd, fun s o ho he hd => overlimExpiry_stops ho he hd,
    fun s b hb he ho => courseBoundary_turns hb he ho⟩
  refine ⟨({ s with time := max s.time h } : State).setCoursing { s.coursing with held := true }, ?_, ⟨rfl, ⟨rfl, rfl, rfl, rfl⟩, ⟨rfl, rfl, rfl, rfl⟩⟩, rfl, rfl⟩
  show execDrainLeadHold s = _
  unfold execDrainLeadHold
  rw [hh]
  exact if_neg (by simp [hd])

end Sys2Proof
end

section
/-! Saves of quads and cores, and late saves with their scrub (R80 to R82, R87, R314). -/
namespace Sys2Proof.Machine

/-! ### What a quad has left once it sleeps or is scrubbed -/

/-- Quads that fall asleep change in nothing else. -/
theorem State.sleepQuads_spec (s : State) : (∃ q, s.sleepQuads = { s with quads := q })
    ∧ ∀ b, ∃ x w, s.sleepQuads.quadAt b = { s.quadAt b with asleep := x, wakeAt := w } := by
  unfold State.sleepQuads
  split
  · exact ⟨⟨_, rfl⟩, fun b => ⟨_, _, rfl⟩⟩
  · dsimp only
    refine foldl_holds (P := fun u => (∃ q, u = { s with quads := q }) ∧ ∀ b, ∃ x w, u.quadAt b = { s.quadAt b with asleep := x, wakeAt := w })
      (fun u a hu => ?_) _ ⟨⟨_, rfl⟩, fun b => ⟨_, _, rfl⟩⟩
    obtain ⟨⟨q, hq⟩, hb⟩ := hu
    refine ⟨⟨_, by rw [hq]; rfl⟩, fun b => ?_⟩
    obtain ⟨x, w, hx⟩ := hb b
    rw [State.quadAt_setQuad]
    split
    next e =>
      subst e
      exact ⟨_, _, by rw [hx]⟩
    next => exact ⟨_, _, hx⟩

theorem State.sleepQuads_keeps (s : State) : s.sleepQuads.mem = s.mem ∧ s.sleepQuads.acc = s.acc ∧ s.sleepQuads.sett = s.sett
    ∧ s.sleepQuads.coursing = s.coursing := by
  obtain ⟨⟨q, hq⟩, -⟩ := s.sleepQuads_spec
  rw [hq]
  exact ⟨rfl, rfl, rfl, rfl⟩

/-- The phase of a quad that its holder takes next (R80, R86). -/
def State.quadEntryPhase (s : State) (a : Nat) : EdgePhase :=
  if (s.quadHolder a).isNone then .running else if s.coursing.edged && s.quadChanges a then .passed else .awaiting

theorem quadEntryPhase_of_clock {s t : State} (h : t.clock = s.clock) (a : Nat) : t.quadEntryPhase a = s.quadEntryPhase a :=
  (congrArg (fun u : State => u.quadEntryPhase a) h :)

theorem State.scrubQuad_quadAt (s : State) (a : Nat) : (s.scrubQuad a).quadAt a =
    { s.quadAt a with
      bankFlags := Vector.replicate 4 0, sett := SettState.reset, cmds := [], inbox := [], phint := [], late := false
      phase := s.quadEntryPhase a } := by
  unfold State.scrubQuad
  dsimp only
  rw [State.enterQuad, State.quadAt_setQuad, if_pos rfl, State.quadAt_setQuad, if_pos rfl]
  rfl

theorem State.scrubQuad_mem (s : State) (a : Nat) : (s.scrubQuad a).mem = s.mem.replace (spAddr a 0) (2 ^ 22) [] := rfl
theorem State.scrubQuad_acc (s : State) (a : Nat) : (s.scrubQuad a).acc = s.acc.filter fun e => e.1 / 2 ^ 16 != a := rfl
theorem State.scrubQuad_sett (s : State) (a : Nat) : (s.scrubQuad a).sett = s.sett.filter fun e => e.1 / 2 ^ 14 != a := rfl
theorem State.scrubQuad_coursing (s : State) (a : Nat) : (s.scrubQuad a).coursing = s.coursing := rfl

/-- A map without the keys of one part reads there as unlisted. -/
theorem SMap.get_filter_part {α : Type} (d : α) (m : SMap α) {n a i : Nat} (hi : i < n) :
    SMap.get d (m.filter fun e => e.1 / n != a) (n * a + i) = d := by
  have hpart : (n * a + i) / n = a := by
    rw [Nat.mul_add_div (by omega), Nat.div_eq_of_lt hi, Nat.add_zero]
  rw [SMap.get_eq_find, SMap.find_filter_key fun k => k / n != a, hpart]
  simp

theorem Memory.read_replace_nil (m : Memory) {a n i : Nat} (hi : i < n) : (m.replace a n []).read (a + i) = 0 := by
  unfold Memory.replace Memory.read
  rw [List.foldl_nil, SMap.get_eq_find, SMap.find_filter_key fun k => !(decide (a ≤ k) && decide (k < a + n))]
  simp [hi, Memory.unwritten]

theorem savedQuad_of_coursing {s t : State} (h : t.coursing = s.coursing) (n a : Nat) : t.savedQuad n a = s.savedQuad n a := by
  rw [State.savedQuad, h, State.savedQuad]

theorem savedCore_of_coursing {s t : State} (h : t.coursing = s.coursing) (n core : Nat) : t.savedCore n core = s.savedCore n core := by
  rw [State.savedCore, h, State.savedCore]

theorem exec_saveLateComplete_quad (s : State) (a : Nat) : exec (.saveLateComplete true a) s = .next (s.finishQuad a).sleepQuads := rfl
theorem exec_saveLateComplete_core (s : State) (core : Nat) : exec (.saveLateComplete false core) s = .next (s.finishCore core).sleepQuads := rfl
theorem exec_quadSave (s : State) (a : Nat) : exec (.quadSave a) s = .next (s.finishQuad a) := rfl

/-! ### The rows -/

section
variable {s : State} {a n : Nat} (hp : (s.quadAt a).phase = .stopped n)
include hp

/-- A settled quad is saved for its holder on time. -/
theorem quadSave_saves (hs : s.quadSettled a = true) (hh : s.quadHolder a = some n) (hl : (s.quadAt a).late = false) :
    ∃ (t : State) (v : SavedQuad), exec (.quadSave a) s = .next t ∧ CoresStand s t
      ∧ (t.quadAt a).phase = .saved n ∧ t.savedQuad n a = some v ∧ v.cmds = (s.quadAt a).cmds ∧ v.inbox = (s.quadAt a).inbox
      ∧ v.phint = (s.quadAt a).phint ∧ t.mem = (s.saveQuad n a).mem := by
  obtain ⟨u, v, hu, hcmds, hinbox, hphint, h⟩ := s.saveQuad_eq n a
  have hstand : CoresStand s u :=
    ⟨strands_of_besides hu, cores_of_besides hu, pool_of_besides hu, localMem_of_besides hu, acc_of_besides hu, sett_of_besides hu⟩
  refine ⟨_, v, (exec_quadSave ..).trans (congrArg _ (State.finishQuad_saved hp hs hh hl)), ?_, ?_, ?_, hcmds, hinbox, hphint, rfl⟩
  · rw [h]
    exact hstand
  · rw [State.quadAt_setQuad, if_pos rfl]
  · have hput : (s.saveQuad n a).savedQuad n a = some v := by
      rw [h, State.savedQuad, State.setCoursing_coursing, SMap.find_put_same]
    exact hput

/-- A quad's save that passed its boundary ends in the scrub. -/
theorem saveLateComplete_quad (hs : s.quadSettled a = true) (hh : s.quadHolder a ≠ some n ∨ (s.quadAt a).late = true) :
    ∃ t : State, exec (.saveLateComplete true a) s = .next t
      ∧ (t.savedQuad n a).isSome ∧ (∀ i, i < 2 ^ 22 → t.mem.read (spAddr a i) = 0) ∧ (t.quadAt a).cmds = [] ∧ (t.quadAt a).inbox = []
      ∧ (t.quadAt a).phint = [] ∧ (∀ i, i < 2 ^ 16 → SMap.get 0 t.acc (2 ^ 16 * a + i) = 0)
      ∧ (∀ i, i < 2 ^ 14 → SMap.get SettCell.reset t.sett (2 ^ 14 * a + i) = SettCell.reset)
      ∧ (t.quadAt a).phase = if (s.quadHolder a).isNone then .running else if s.coursing.edged && s.quadChanges a then .passed else .awaiting := by
  obtain ⟨x, w, hx⟩ := ((s.saveQuad n a).scrubQuad a).sleepQuads_spec.2 a
  obtain ⟨hmem, hacc, hsett, hcoursing⟩ := ((s.saveQuad n a).scrubQuad a).sleepQuads_keeps
  rw [State.scrubQuad_mem] at hmem
  rw [State.scrubQuad_acc] at hacc
  rw [State.scrubQuad_sett] at hsett
  rw [State.scrubQuad_coursing] at hcoursing
  have hphase : (s.saveQuad n a).quadEntryPhase a = s.quadEntryPhase a := quadEntryPhase_of_clock (clock_of_aside (State.saveQuad_aside ..)) a
  have hsaved : ((s.saveQuad n a).savedQuad n a).isSome = true := by
    obtain ⟨u, v, hu, -, -, -, h⟩ := s.saveQuad_eq n a
    rw [h, State.savedQuad, State.setCoursing_coursing, SMap.find_put_same]
    rfl
  have hexec := (exec_saveLateComplete_quad s a).trans (congrArg _ (congrArg _ (State.finishQuad_late hp hs hh)))
  rw [State.scrubQuad_quadAt, hphase] at hx
  generalize ((s.saveQuad n a).scrubQuad a).sleepQuads = t at *
  refine ⟨t, hexec, by rw [savedQuad_of_coursing hcoursing]; exact hsaved, fun i hi => ?_, by rw [hx], by rw [hx], by rw [hx], fun i hi => ?_,
    fun i hi => ?_, by rw [hx]; rfl⟩
  · rw [hmem, ← Nat.zero_add i, ← spAddr_add]
    exact Memory.read_replace_nil _ hi
  · rw [hacc]
    exact SMap.get_filter_part 0 _ hi
  · rw [hsett]
    exact SMap.get_filter_part SettCell.reset _ hi

end

/-- A core's save that passed its boundary ends in the scrub. -/
theorem saveLateComplete_core {s : State} {c n : Nat} (hp : (s.coreAt c).phase = .stopped n) (hs : s.coreSettled c = true)
    (hh : s.holder c ≠ some n ∨ (s.coreAt c).late = true) :
    ∃ t : State, exec (.saveLateComplete false c) s = .next t ∧ CoreScrubbed t c ∧ (t.savedCore n c).isSome
      ∧ (t.coreAt c).phase = if (s.holder c).isNone then .running else if s.coursing.edged && s.coreChanges c then .passed else .awaiting := by
  obtain ⟨-, -, -, hcoursing⟩ := ((s.saveCore n c).scrubCore c).sleepQuads_keeps
  have hflank := State.sleepQuads_flank ((s.saveCore n c).scrubCore c)
  have hcore := coreAt_of_flank hflank c
  refine ⟨_, (exec_saveLateComplete_core ..).trans (congrArg _ (congrArg _ (State.finishCore_late hp hs hh))),
    coreScrubbed_of_aside (State.scrubCore_scrubbed ..) (aside_of_flank hflank) (by rw [hcore]) (by rw [hcore]), ?_, ?_⟩
  · rw [savedCore_of_coursing hcoursing, State.scrubCore_savedCore]
    exact State.saveCore_savedCore ..
  · rw [hcore, State.scrubCore_coreAt]
    exact State.entryPhase_of_clock (clock_of_aside (State.saveCore_aside ..)) c

end Sys2Proof.Machine
end

section
/-! What a write at the home leaves of the other lines: a line that can be written at once stays so, and only the bytes of the written lines change. -/
namespace Sys2Proof.Machine

/-! ### Directory entries that lose holders -/

/-- An entry that has at most lost holders: no line gains one, and no line is newly bound to a tile. -/
structure Sheds (e x : DirEntry) : Prop where
  holders : ∀ i, e.holders i = [] → x.holders i = []
  bound : x.tb = 0 ∨ (x.tb = e.tb ∧ x.tid = e.tid)

theorem Sheds.refl (e : DirEntry) : Sheds e e := ⟨fun _ h => h, .inr ⟨rfl, rfl⟩⟩

theorem Sheds.trans {e x y : DirEntry} (h : Sheds e x) (h' : Sheds x y) : Sheds e y where
  holders i hi := h'.holders i (h.holders i hi)
  bound := by
    rcases h'.bound with hy | ⟨htb, htid⟩
    · exact .inl hy
    · rw [htb, htid]
      exact h.bound

theorem Sheds.reset (e : DirEntry) : Sheds e DirEntry.reset := ⟨fun _ _ => rfl, .inl rfl⟩

theorem Sheds.sweep (e : DirEntry) : Sheds e e.sweep := by
  unfold DirEntry.sweep
  split
  next h =>
    obtain ⟨hcoarse, hnone⟩ := Bool.and_eq_true .. ▸ h
    refine ⟨fun i hi => ?_, .inr ⟨rfl, rfl⟩⟩
    have hline : e.line i ≠ .S := by
      unfold DirEntry.line
      by_cases hlt : i < e.lines.toList.length
      · rw [List.getD_eq_getElem _ _ hlt]
        simpa using List.all_eq_true.1 hnone _ (List.getElem_mem hlt)
      · rw [List.getD_eq_default _ _ (not_lt.1 hlt)]
        exact nofun
    unfold DirEntry.holders at hi ⊢
    rw [if_pos hcoarse] at hi ⊢
    have hsame : DirEntry.line { e with cv := 0, spm := 0 } i = e.line i := rfl
    rw [hsame]
    cases hl : e.line i with
    | S => exact absurd hl hline
    | O => simpa only [hl] using hi
    | I => rfl
    | L => rfl
  next => exact Sheds.refl e

theorem line_clearLine_other (e : DirEntry) {i j : Nat} (h : j ≠ i) (x : LineState) : (e.clearLine i x).line j = e.line j := by
  have hset : (e.clearLine i x).lines = ((e.unpointAll i).setLine i x).lines := rfl
  rw [DirEntry.line, hset, DirEntry.setLine]
  split
  · have hne : (e.lines.set i x ‹_›)[j]? = e.lines[j]? := by rw [Vector.getElem?_set_ne _ (Ne.symm h)]
    simp [DirEntry.unpointAll, DirEntry.line, List.getD_eq_getElem?_getD, hne]
  · rfl

/-- A line that leaves the entry takes its holders with it. -/
theorem Sheds.clearLine (e : DirEntry) {i : Nat} (hi : i < 4) : Sheds e (e.clearLine i .I) := by
  have hset : (e.unpointAll i).setLine i .I = { e.unpointAll i with lines := (e.unpointAll i).lines.set i .I hi } := dif_pos hi
  have hfields : (e.clearLine i .I).coarse = e.coarse ∧ (e.clearLine i .I).ptrs = (e.unpointAll i).ptrs ∧ (e.clearLine i .I).cv = e.cv
      ∧ (e.clearLine i .I).spm = e.spm ∧ (e.clearLine i .I).tb = e.tb ∧ (e.clearLine i .I).tid = e.tid
      ∧ (e.ownv = false → (e.clearLine i .I).ownv = false) := by
    unfold DirEntry.clearLine
    rw [hset]
    exact ⟨rfl, rfl, rfl, rfl, rfl, rfl, fun ho => by simp [DirEntry.unpointAll, ho]⟩
  obtain ⟨hcoarse, hptrs, hcv, hspm, htb, htid, hown⟩ := hfields
  refine ⟨fun j hj => ?_, .inr ⟨htb, htid⟩⟩
  unfold DirEntry.holders at hj ⊢
  rw [hcoarse]
  cases hc : e.coarse
  · rw [hc] at hj
    simp only [Bool.false_eq_true, if_false, List.map_eq_nil_iff, List.filter_eq_nil_iff] at hj ⊢
    rw [hptrs]
    intro p hp
    obtain ⟨q, hq, rfl⟩ := List.mem_map.1 (List.mem_filter.1 hp).1
    simp [hj q hq]
  · rw [hc] at hj
    simp only [if_true] at hj ⊢
    by_cases hji : j = i
    · rw [hji, line_clearLine e hi]
    · rw [line_clearLine_other e hji]
      cases hl : e.line j <;> rw [hl] at hj <;> dsimp only at hj ⊢
      case O =>
        have ho : e.ownv = false := by
          by_contra hne
          simp [hne] at hj
        rw [hown ho]
        rfl
      case S =>
        have hcovers : (e.clearLine i .I).covers = e.covers := by
          funext a
          rw [DirEntry.covers, DirEntry.covers, hcv, hspm]
        rw [hcovers]
        exact hj

/-! ### Steps that keep lines free -/

/-- The lists of requests, the horizons, the tiles and the time: what a write at once leaves of the homes. -/
def State.lanes (s : State) : SMap (List Request) × List (Nat × Request) × SMap Nat × SMap Nat × SMap TileRec × Nat :=
  (s.homes.reqs, s.homes.ingress, s.homes.horizons, s.homes.floors, s.homes.tiles, s.time)

/-- A step after which every line that could be written at once still can. -/
structure Clears (s t : State) : Prop where
  lanes : t.lanes = s.lanes
  dir : ∀ region, Sheds (s.dirAt region) (t.dirAt region)

theorem Clears.refl (s : State) : Clears s s := ⟨rfl, fun _ => Sheds.refl _⟩
theorem Clears.trans {s t u : State} (h : Clears s t) (h' : Clears t u) : Clears s u := ⟨h'.lanes.trans h.lanes, fun r => (h.dir r).trans (h'.dir r)⟩

theorem clears_of_dir {s t : State} (hl : t.lanes = s.lanes) (hd : t.homes.dir = s.homes.dir) : Clears s t :=
  ⟨hl, fun r => by rw [State.dirAt, State.dirAt, hd]; exact Sheds.refl _⟩

theorem lanes_of_books {s t : State} (h : t.books = s.books) (ht : t.time = s.time) : t.lanes = s.lanes := by
  rw [State.lanes, State.lanes, reqs_of_books h, ingress_of_books h, horizons_of_books h, floors_of_books h, tiles_of_books h, ht]

theorem Clears.homeQuiet {s t : State} (h : Clears s t) {line : Nat} (hd : isDevice (128 * line) = true) (hq : s.homeQuiet line true = true) :
    t.homeQuiet line true = true := by
  obtain ⟨hlanes, hdir⟩ := h
  simp only [State.lanes, Prod.mk.injEq] at hlanes
  obtain ⟨hreqs, hingress, hhorizons, hfloors, htiles, htime⟩ := hlanes
  obtain ⟨hholders, hbound⟩ := hdir (regionOf line)
  unfold State.homeQuiet at hq ⊢
  simp only [hd, if_true, Bool.and_eq_true, List.isEmpty_iff, Option.isNone_iff_eq_none, decide_eq_true_eq] at hq ⊢
  obtain ⟨⟨hbusy, htile⟩, hhold, hhor⟩ := hq
  refine ⟨⟨?_, ?_⟩, hholders _ hhold, ?_⟩
  · rw [State.lineBusy, State.anyReq, State.reqsAt, hreqs, hingress]
    exact hbusy
  · unfold State.tileOf at htile ⊢
    dsimp only at htile ⊢
    rcases hbound with htb | ⟨htb, htid⟩
    · rw [htb]
      simp
    · rw [htb, htid, htiles]
      exact htile
  · rw [State.horizonOf, hhorizons, hfloors, htime]
    exact hhor

theorem State.dirAt_setDir (s : State) (region : Nat) (e : DirEntry) (k : Nat) :
    (k = region ∧ ((s.setDir region e).dirAt k = e ∨ (s.setDir region e).dirAt k = DirEntry.reset)) ∨ (s.setDir region e).dirAt k = s.dirAt k := by
  unfold State.setDir
  split
  · exact .inr rfl
  · by_cases hk : k = region
    · refine .inl ⟨hk, ?_⟩
      subst hk
      rw [State.dirAt, State.setHomes_homes, SMap.get_eq_find]
      dsimp only
      split
      · rw [SMap.find_erase_same]
        exact .inr rfl
      · rw [SMap.find_put_same]
        exact .inl rfl
    · refine .inr ?_
      rw [State.dirAt, State.setHomes_homes, SMap.get_eq_find, State.dirAt, SMap.get_eq_find]
      dsimp only
      split
      · rw [SMap.find_erase_other _ hk]
      · rw [SMap.find_put_other _ _ hk]

theorem clears_updLine (s : State) (line : Nat) {f : DirEntry → Nat → DirEntry} (hf : ∀ e i, i < 4 → Sheds e (f e i)) : Clears s (s.updLine line f) := by
  refine ⟨lanes_of_books (State.updLine_books ..) (time_of_beyond (State.updLine_beyond true ..)), fun k => ?_⟩
  rcases s.dirAt_setDir (regionOf line) (f (s.dirAt (regionOf line)) (line % 4)) k with ⟨rfl, h | h⟩ | h
  all_goals
    rw [State.updLine, h]
  · exact hf _ _ (Nat.mod_lt _ (by norm_num))
  · exact Sheds.reset _
  · exact Sheds.refl _

theorem clears_trace (s : State) (line agent event ans : Nat) : Clears s (s.trace line agent event ans) :=
  clears_of_dir (lanes_of_books (State.trace_books ..) (time_of_beyond (State.trace_beyond true ..))) (State.trace_dir ..)

theorem clears_fillLlc (s : State) (core tenant key line : Nat) (modified : Bool) : Clears s (s.fillLlc core tenant key line modified) :=
  clears_of_dir (lanes_of_books (State.fillLlc_books ..) (time_of_beyond (State.fillLlc_beyond true ..))) (State.fillLlc_dir ..)

theorem clears_takeLine (s : State) {line : Nat} (hd : isDevice (128 * line) = true) : Clears s (s.takeLine line) := by
  have hdrop : Clears s (s.dropAllCopies line) := clears_of_dir rfl rfl
  unfold State.takeLine
  rw [if_pos hd]
  dsimp only
  split
  · exact hdrop
  · exact hdrop.trans (clears_updLine _ _ fun e i hi => (Sheds.clearLine e hi).trans (Sheds.sweep _))

end Sys2Proof.Machine
end

section
/-! Writes at once to an area of free lines, and the save area of a quad (R313, R314). -/
namespace Sys2Proof.Machine

/-! ### Single writes -/

theorem State.count1_homes (s : State) (pa : Nat) : (s.count1 pa).homes = s.homes ∧ (s.count1 pa).mem = s.mem ∧ (s.count1 pa).time = s.time := by
  have hset (y : Sys) : (s.setSys y).homes = s.homes ∧ (s.setSys y).mem = s.mem ∧ (s.setSys y).time = s.time := ⟨rfl, rfl, rfl⟩
  unfold State.count1 State.countN
  split
  · exact ⟨rfl, rfl, rfl⟩
  · exact hset _

theorem State.logEvent_homes (s : State) (pa struct kind agent tenant : Nat) : (s.logEvent pa struct kind agent tenant).homes = s.homes
    ∧ (s.logEvent pa struct kind agent tenant).mem = s.mem ∧ (s.logEvent pa struct kind agent tenant).time = s.time := by
  have hset (y : Sys) : (s.setSys y).homes = s.homes ∧ (s.setSys y).mem = s.mem ∧ (s.setSys y).time = s.time := ⟨rfl, rfl, rfl⟩
  simp only [State.logEvent]
  split
  · exact State.count1_homes ..
  · exact hset _

/-- A store within one line of device memory: entries and lists stand, no line is newly lost, and every byte of another line stands. -/
structure LineStep (s t : State) (line : Nat) : Prop where
  clears : Clears s t
  mem : ∀ x, x / 128 ≠ line → t.mem.read x = s.mem.read x
  lost : ∀ x ∈ t.homes.lost, x ∈ s.homes.lost

theorem LineStep.refl (s : State) (line : Nat) : LineStep s s line := ⟨Clears.refl s, fun _ _ => rfl, fun _ h => h⟩
theorem LineStep.trans {s t u : State} {line : Nat} (h : LineStep s t line) (h' : LineStep t u line) : LineStep s u line :=
  ⟨h.clears.trans h'.clears, fun x hx => (h'.mem x hx).trans (h.mem x hx), fun x hx => h.lost x (h'.lost x hx)⟩

theorem lineStep_of_clears {s t : State} (h : Clears s t) (hm : t.mem = s.mem) (hl : t.homes.lost = s.homes.lost) (line : Nat) : LineStep s t line :=
  ⟨h, fun x _ => by rw [hm], fun x hx => hl ▸ hx⟩

theorem lineStep_of_homes {s t : State} (h : t.homes = s.homes) (hm : t.mem = s.mem) (ht : t.time = s.time) (line : Nat) : LineStep s t line :=
  lineStep_of_clears (clears_of_dir (by rw [State.lanes, State.lanes, h, ht]) (by rw [h])) hm (by rw [h]) line

theorem Memory.read_foldl_write_outside (m : Memory) {base n x : Nat} (f : Nat → Byte) (hx : x < base ∨ base + n ≤ x) :
    ((List.range n).foldl (fun m i => m.write (base + i) (f i)) m).read x = m.read x := by
  induction n with
  | zero => rfl
  | succ n ih =>
    rw [List.range_succ, List.foldl_append, List.foldl_cons, List.foldl_nil, Memory.read_write_other _ _ (by omega)]
    exact ih (by omega)

theorem lineStep_setMem {s t : State} {line : Nat} (h : LineStep s t line) {m : Memory} (hm : ∀ x, x / 128 ≠ line → m.read x = t.mem.read x) :
    LineStep s { t with mem := m } line :=
  ⟨h.clears.trans (clears_of_dir rfl rfl), fun x hx => (hm x hx).trans (h.mem x hx), h.lost⟩

theorem lineStep_rekeyLine (s : State) (line : Nat) (key : Nat × Nat) (whole : Bool) : LineStep s (s.rekeyLine line key whole) line := by
  have hout (f : Nat → Byte) (x : Nat) (hx : x / 128 ≠ line) :
      ((List.range 128).foldl (fun m i => m.write (128 * line + i) (f i)) s.mem).read x = s.mem.read x :=
    Memory.read_foldl_write_outside _ _ (by omega)
  unfold State.rekeyLine
  dsimp only
  split
  · exact LineStep.refl ..
  · refine ⟨clears_of_dir rfl rfl, fun x hx => ?_, fun _ h => h⟩
    dsimp only
    split
    · rfl
    · exact hout _ x hx

theorem lineStep_storePa (s : State) (tenant key : Nat) {pa n : Nat} (v : Nat) (whole : Bool) (hd : isDevice pa = true) (hn : pa % 128 + n ≤ 128) :
    LineStep s (s.storePa tenant key pa n v whole).1 (pa / 128) := by
  have hscratch : isScratch pa = false := by
    have : window pa < 6 := of_decide_eq_true hd
    rw [isScratch]
    simp only [beq_eq_false_iff_ne]
    omega
  have counted (x : Nat) : LineStep s (s.count1 x) (pa / 128) :=
    lineStep_of_homes (State.count1_homes ..).1 (State.count1_homes ..).2.1 (State.count1_homes ..).2.2 _
  unfold State.storePa
  extract_lets u homes freed zeroed found keyed
  have hu : u = s := if_neg (by simp [hscratch])
  clear_value u
  subst u
  have hfreed : LineStep s freed (pa / 128) := ⟨clears_of_dir rfl rfl, fun _ _ => rfl, fun x hx => (List.mem_filter.1 hx).1⟩
  have hzeroed : LineStep s zeroed (pa / 128) :=
    lineStep_setMem hfreed fun x hx => Memory.read_writeLe_outside _ _ _ _ _ (by omega)
  clear_value zeroed
  have hfound : LineStep s found (pa / 128) := by
    simp only [found]
    split
    · exact hzeroed.trans (lineStep_of_homes (State.logEvent_homes ..).1 (State.logEvent_homes ..).2.1 (State.logEvent_homes ..).2.2 _)
    · exact LineStep.refl ..
  have hkeyed : LineStep s keyed (pa / 128) := by
    have hk : keyed = _ := if_pos hd
    rw [hk]
    exact hfound.trans (lineStep_rekeyLine ..)
  clear_value keyed
  (repeat' split)
  · exact counted _
  · exact counted _
  · exact counted _
  · exact hkeyed
  · exact lineStep_setMem hkeyed fun x hx => Memory.read_writeLe_outside _ _ _ _ _ (by omega)

theorem lineStep_updLine (s : State) (line k : Nat) {f : DirEntry → Nat → DirEntry} (hf : ∀ e i, i < 4 → Sheds e (f e i)) :
    LineStep s (s.updLine line f) k :=
  lineStep_of_clears (clears_updLine s line hf) (mem_of_beyond (State.updLine_beyond true ..)) (lost_of_books (State.updLine_books ..)) k

theorem lineStep_homeStore (s : State) {w : HomeStore} (hd : isDevice w.pa = true) (hn : w.pa % 128 + w.bytes ≤ 128) :
    LineStep s (s.homeStore w) (lineOf w.pa) := by
  have hline : isDevice (128 * lineOf w.pa) = true := by
    have hw : window (128 * lineOf w.pa) = window w.pa := by
      unfold Machine.window lineOf
      omega
    rw [isDevice, hw]
    exact hd
  have htake : LineStep s (s.takeLine (lineOf w.pa)) (lineOf w.pa) := by
    refine lineStep_of_clears (clears_takeLine s hline) (mem_of_beyond (State.takeLine_beyond true ..)) ?_ _
    unfold State.takeLine
    rw [if_pos hline]
    dsimp only
    split
    · rfl
    · exact lost_of_books (State.updLine_books ..)
  have hfill (u : State) (x : Bool) : LineStep u (u.fillLlc 784 w.tenant w.key (lineOf w.pa) x) (lineOf w.pa) :=
    lineStep_of_clears (clears_fillLlc ..) (mem_of_beyond (State.fillLlc_beyond true ..)) (lost_of_books (State.fillLlc_books ..)) _
  have hstore (u : State) : LineStep u (u.storeAt w.tenant w.key w.pa w.bytes w.val w.whole).1 (lineOf w.pa) := by
    simp only [State.storeAt]
    split
    · exact (lineStep_storePa u w.tenant w.key w.val w.whole hd hn).trans (lineStep_updLine _ _ _ fun e i hi => Sheds.clearLine e hi)
    · exact lineStep_storePa u w.tenant w.key w.val w.whole hd hn
  unfold State.homeStore
  simp only [hd, Bool.true_or, if_true]
  split
  · exact htake.trans (hfill ..)
  · exact htake.trans ((hstore _).trans (hfill ..))

theorem lineStep_homeWriteLine {s : State} {w : HomeStore} (hd : isDevice w.pa = true) (hn : w.pa % 128 + w.bytes ≤ 128)
    (hq : s.homeQuiet (lineOf w.pa) true = true) : LineStep s (s.homeWriteLine w) (lineOf w.pa) := by
  have htrace (u : State) (event : Nat) : LineStep u (u.trace (lineOf w.pa) (homeAgent (lineOf w.pa)) event 0) (lineOf w.pa) :=
    lineStep_of_clears (clears_trace ..) (mem_of_beyond (State.trace_beyond true ..)) (lost_of_books (State.trace_books ..)) _
  unfold State.homeWriteLine
  dsimp only
  rw [if_pos hq]
  exact (htrace _ 2).trans ((htrace _ 9).trans (lineStep_homeStore _ hd hn))

/-! ### An area of free lines -/

/-- Lines of device memory that can all be written at once. -/
def FreeLines (s : State) (lo hi : Nat) : Prop := ∀ l, lo ≤ l → l < hi → isDevice (128 * l) = true ∧ s.homeQuiet l true = true

/-- Writes to an area: its lines stay free, the bytes elsewhere stand, no line is newly lost, and beyond the homes and memory nothing changes. -/
structure AreaStep (lo hi : Nat) (s t : State) : Prop where
  clears : Clears s t
  mem : ∀ x, x / 128 < lo ∨ hi ≤ x / 128 → t.mem.read x = s.mem.read x
  lost : ∀ x ∈ t.homes.lost, x ∈ s.homes.lost
  besides : t.besides = s.besides
  inv : Inv s → Inv t

namespace AreaStep
variable {lo hi : Nat} {s t u : State}

theorem refl (s : State) : AreaStep lo hi s s := ⟨Clears.refl s, fun _ _ => rfl, fun _ h => h, rfl, id⟩

theorem trans (h : AreaStep lo hi s t) (h' : AreaStep lo hi t u) : AreaStep lo hi s u :=
  ⟨h.clears.trans h'.clears, fun x hx => (h'.mem x hx).trans (h.mem x hx), fun x hx => h.lost x (h'.lost x hx), h'.besides.trans h.besides,
    fun hi => h'.inv (h.inv hi)⟩

theorem free (h : AreaStep lo hi s t) (hf : FreeLines s lo hi) : FreeLines t lo hi := fun l hl hh =>
  ⟨(hf l hl hh).1, h.clears.homeQuiet (hf l hl hh).1 (hf l hl hh).2⟩

/-- A pass of writes to an area. -/
theorem foldl {α : Type} {f : State → α → State} {l : List α} (hf : FreeLines s lo hi)
    (hstep : ∀ u, ∀ x ∈ l, AreaStep lo hi s u → FreeLines u lo hi → AreaStep lo hi u (f u x)) : AreaStep lo hi s (l.foldl f s) := by
  have key : ∀ (k : List α), (∀ x ∈ k, x ∈ l) → ∀ u, AreaStep lo hi s u → AreaStep lo hi s (k.foldl f u) := by
    intro k
    induction k with
    | nil => exact fun _ u hu => hu
    | cons x k ih =>
      exact fun hk u hu => ih (fun y hy => hk y (List.mem_cons_of_mem x hy)) _ (hu.trans (hstep u x (hk x List.mem_cons_self) hu (hu.free hf)))
  exact key l (fun _ h => h) s (refl s)

end AreaStep

theorem areaStep_of_line {lo hi line : Nat} {s t : State} (h : LineStep s t line) (hl : lo ≤ line ∧ line < hi) (hb : t.besides = s.besides)
    (hi' : Inv s → Inv t) : AreaStep lo hi s t :=
  ⟨h.clears, fun x hx => h.mem x (by omega), h.lost, hb, hi'⟩

theorem areaStep_homeWrite {lo hi : Nat} {s : State} (hf : FreeLines s lo hi) (tenant key : Nat) {pa n : Nat} (v : Nat) (whole : Bool)
    (hlo : 128 * lo ≤ pa) (hhi : pa + n ≤ 128 * hi) (hn : 0 < n) : AreaStep lo hi s (s.homeWrite tenant key pa n v whole) := by
  refine AreaStep.foldl hf fun u l hl _ hu => ?_
  have hline : pa / 128 ≤ l ∧ l ≤ (pa + n - 1) / 128 := by
    obtain ⟨i, hi, rfl⟩ := List.mem_map.1 hl
    have := List.mem_range.1 hi
    unfold lineOf at *
    omega
  have hfirst : max pa (128 * l) / 128 = l ∧ max pa (128 * l) % 128 + (min (pa + n) (128 * l + 128) - max pa (128 * l)) ≤ 128 := by omega
  have hin : lo ≤ l ∧ l < hi := by omega
  obtain ⟨hdev, hquiet⟩ := hu l hin.1 hin.2
  have hd : isDevice (max pa (128 * l)) = true := by
    have hw : window (max pa (128 * l)) = window (128 * l) := by
      unfold Machine.window
      omega
    rw [isDevice, hw]
    exact hdev
  have hlineOf : lineOf (max pa (128 * l)) = l := hfirst.1
  have hstep (w : HomeStore) (hw : w.pa = max pa (128 * l)) (hb : w.bytes = min (pa + n) (128 * l + 128) - max pa (128 * l)) :
      AreaStep lo hi u (u.homeWriteLine w) := by
    have hwl : lineOf w.pa = l := by rw [hw, hlineOf]
    have hstore := lineStep_homeWriteLine (s := u) (w := w) (hw ▸ hd) (by rw [hw, hb]; exact hfirst.2) (hwl.symm ▸ hquiet)
    rw [hwl] at hstore
    exact areaStep_of_line hstore hin (State.homeWriteLine_besides ..) fun h => State.homeWriteLine_inv h _
  exact hstep _ rfl rfl

theorem areaStep_lintelPut {lo hi : Nat} {s : State} (hf : FreeLines s lo hi) (tenant : Nat) {pa n : Nat} (v : Nat)
    (hlo : 128 * lo ≤ pa) (hhi : pa + n ≤ 128 * hi) (hn : 0 < n) : AreaStep lo hi s (s.lintelPut tenant pa n v) := by
  unfold State.lintelPut
  split
  · exact AreaStep.refl s
  · exact areaStep_homeWrite hf _ _ _ _ hlo hhi hn

theorem areaStep_lintelLines {lo hi : Nat} {s : State} (hf : FreeLines s lo hi) (tenant : Nat) {pa k : Nat} (v : Nat)
    (hlo : 128 * lo ≤ pa) (hhi : pa + 128 * k ≤ 128 * hi) : AreaStep lo hi s (s.lintelLines tenant pa k v) := by
  induction k generalizing s pa v with
  | zero => exact AreaStep.refl s
  | succ k ih =>
    have hput := areaStep_lintelPut hf tenant (n := 128) v hlo (by omega) (by norm_num)
    exact hput.trans (ih (hput.free hf) _ (by omega) (by omega))

end Sys2Proof.Machine
end

section
/-! Blocks of whole lines written by Lintel, and the scratchpad in the save area of a quad (R313, R314). -/
namespace Sys2Proof.Machine

/-! ### Bytes of a block -/

theorem SMap.get_of_mem {α : Type} (d : α) {m : SMap α} (hs : (m.map Prod.fst).Pairwise (· < ·)) {k : Nat} {v : α} (h : (k, v) ∈ m) :
    SMap.get d m k = v := by
  induction m with
  | nil => cases h
  | cons e m ih =>
    obtain ⟨hfirst, hrest⟩ := List.pairwise_cons.1 hs
    rcases List.mem_cons.1 h with rfl | h
    · exact if_pos rfl
    · exact (if_neg (hfirst k (List.mem_map_of_mem h)).ne).trans (ih hrest h)

theorem SMap.get_unlisted {α : Type} (d : α) {m : SMap α} {k : Nat} (h : ∀ e ∈ m, e.1 ≠ k) : SMap.get d m k = d := by
  rw [SMap.get_eq_find, SMap.find_eq_none h]
  rfl

theorem Memory.read_filter_key (m : Memory) (p : Nat → Bool) {x : Nat} (h : p x = true) : Memory.read (m.filter fun c => p c.1) x = m.read x := by
  rw [Memory.read, Memory.read, SMap.get_eq_find, SMap.get_eq_find, SMap.find_filter_key p, if_pos h]

theorem Memory.read_replace_outside (m : Memory) {a n x : Nat} (l : List (Nat × Byte)) (hx : x < a ∨ a + n ≤ x) :
    (m.replace a n l).read x = m.read x := by
  have hkeep : (!(decide (a ≤ x) && decide (x < a + n))) = true := by
    simp only [Bool.not_eq_true', Bool.and_eq_false_imp, decide_eq_true_eq, decide_eq_false_iff_not]
    omega
  have key (k : Memory) (hk : k.read x = m.read x) :
      (l.foldl (fun m e => if e.1 < n then Memory.write m (a + e.1) e.2 else m) k).read x = m.read x := by
    induction l generalizing k with
    | nil => exact hk
    | cons e l ih =>
      refine ih _ ?_
      dsimp only
      split
      · rw [Memory.read_write_other _ _ (by omega), hk]
      · exact hk
  exact key _ (Memory.read_filter_key m (fun k => !(decide (a ≤ k) && decide (k < a + n))) hkeep)

/-- A byte of a block is the listed one, or zero. -/
theorem Memory.read_replace_inside (m : Memory) {a n i : Nat} (hi : i < n) {l : List (Nat × Byte)} {v : Byte}
    (hv : ∀ e ∈ l, e.1 = i → e.2 = v) (h : (∃ e ∈ l, e.1 = i) ∨ v = 0) : (m.replace a n l).read (a + i) = v := by
  have key (k : Memory) (hk : (∃ e ∈ l, e.1 = i) ∨ k.read (a + i) = v) :
      (l.foldl (fun m e => if e.1 < n then Memory.write m (a + e.1) e.2 else m) k).read (a + i) = v := by
    clear h
    induction l generalizing k with
    | nil => simpa using hk
    | cons e l ih =>
      refine ih (fun x hx => hv x (List.mem_cons_of_mem _ hx)) _ ?_
      dsimp only
      by_cases he : e.1 = i
      · rw [if_pos (he ▸ hi), he, Memory.read_write_same]
        exact .inr (hv e List.mem_cons_self he)
      · rcases hk with ⟨x, hx, hxi⟩ | hk
        · exact .inl ⟨x, (List.mem_cons.1 hx).resolve_left fun hxe => he (hxe ▸ hxi), hxi⟩
        · right
          split
          · rw [Memory.read_write_other _ _ (by omega), hk]
          · exact hk
  refine key _ (h.imp_right fun h => ?_)
  rw [h]
  exact Memory.read_replace_nil m hi

/-! ### Blocks -/

theorem State.busyLines_of_free {s : State} {lo hi : Nat} (hf : FreeLines s lo hi) : s.busyLines lo hi = [] := by
  unfold State.busyLines
  extract_lets floored known
  have hnone : (known.filter fun x => decide (lo ≤ x) && decide (x < hi) && !s.homeQuiet x true) = [] := by
    refine List.filter_eq_nil_iff.2 fun x _ => ?_
    simp only [Bool.and_eq_true, decide_eq_true_eq, Bool.not_eq_true', not_and, Bool.not_eq_false, and_imp]
    exact fun hl hh => (hf x hl hh).2
  rw [hnone]
  rfl

/-- A block whose home die is there and whose key is filled. -/
def State.takesBlock (s : State) (tenant pa n : Nat) : Bool :=
  s.lintelReaches pa n && !s.homeLost pa && !(isDevice pa && s.keyCleared (s.keyOfTenant tenant))

/-- The listed bytes of a block. -/
def blockPart (pa n : Nat) (l : List (Nat × Byte)) : List (Nat × Byte) :=
  l.filter fun e => decide (pa / 128 ≤ (pa + e.1) / 128) && decide ((pa + e.1) / 128 < (pa + n) / 128)

/-- A step that leaves a memory, after which free lines are free still and no line is newly lost. -/
structure BlockStep (s : State) (m : Memory) (t : State) : Prop where
  clears : Clears s t
  lost : ∀ x ∈ t.homes.lost, x ∈ s.homes.lost
  mem : t.mem = m

theorem blockStep_of_homes {s t u : State} (h : BlockStep s s.mem t) (hh : u.homes = t.homes) (hm : u.mem = t.mem) (ht : u.time = t.time) :
    BlockStep s s.mem u :=
  ⟨h.clears.trans (clears_of_dir (by rw [State.lanes, State.lanes, hh, ht]) (by rw [hh])), fun x hx => h.lost x (hh ▸ hx), hm.trans h.mem⟩

theorem blockStep_count1 (s : State) (pa : Nat) : BlockStep s s.mem (s.count1 pa) :=
  blockStep_of_homes ⟨Clears.refl s, fun _ h => h, rfl⟩ (State.count1_homes ..).1 (State.count1_homes ..).2.1 (State.count1_homes ..).2.2

/-- A block of free lines: it is written at once, if at all. -/
theorem State.lintelBlock_free {s : State} {tenant pa n : Nat} (hf : FreeLines s (pa / 128) ((pa + n) / 128)) (l : List (Nat × Byte)) :
    BlockStep s (if s.takesBlock tenant pa n then s.mem.replace pa n (blockPart pa n l) else s.mem) (s.lintelBlock tenant pa n l) := by
  unfold State.lintelBlock State.takesBlock
  extract_lets lo hi key later now gone homes cleared free logged relisted keyed kept mem written
  have hlater : later = [] := State.busyLines_of_free hf
  by_cases hr : s.lintelReaches pa n = true
  swap
  · simp only [hr, Bool.not_false, if_true, Bool.false_and, Bool.false_eq_true, if_false]
    exact ⟨Clears.refl s, fun _ h => h, rfl⟩
  by_cases hl : s.homeLost pa = true
  · simp only [hr, hl, Bool.not_true, Bool.false_eq_true, if_false, if_true, Bool.and_false, Bool.false_and]
    exact blockStep_count1 ..
  by_cases hk : (isDevice pa && s.keyCleared key) = true
  · simp only [hr, hl, show (isDevice pa && s.keyCleared (s.keyOfTenant tenant)) = true from hk, hk, Bool.not_true, Bool.false_eq_true, if_false,
      if_true, Bool.and_false]
    exact blockStep_count1 ..
  have htakes : (s.lintelReaches pa n && !s.homeLost pa && !(isDevice pa && s.keyCleared (s.keyOfTenant tenant))) = true := by
    simp only [hr, hl, show ¬(isDevice pa && s.keyCleared (s.keyOfTenant tenant)) = true from hk, Bool.not_false, Bool.and_true]
  rw [if_pos htakes, if_neg (by simp [hr]), if_neg hl, if_neg hk]
  have hcleared : BlockStep s s.mem cleared := ⟨clears_of_dir rfl rfl, fun x hx => (List.mem_filter.1 hx).1, rfl⟩
  have hlogged : BlockStep s s.mem logged := by
    refine foldl_holds (P := BlockStep s s.mem) (fun u x hu => ?_) _ hcleared
    refine blockStep_of_homes (t := free u x) ?_ (State.logEvent_homes ..).1 (State.logEvent_homes ..).2.1 (State.logEvent_homes ..).2.2
    simp only [free]
    split
    · exact ⟨hu.clears.trans (clears_updLine _ _ fun e i hi => Sheds.clearLine e hi),
        fun y hy => hu.lost y (lost_of_books (State.updLine_books ..) ▸ hy), (mem_of_beyond (State.updLine_beyond true ..)).trans hu.mem⟩
    · exact hu
  have hkeyed : BlockStep s s.mem keyed := by
    simp only [keyed]
    split
    · exact ⟨hlogged.clears.trans (clears_of_dir rfl rfl), hlogged.lost, hlogged.mem⟩
    · exact hlogged
  have hkept : kept = [] := by
    simp only [kept, hlater]
    simp
  have hpart : (l.filter fun e => now ((pa + e.1) / 128)) = blockPart pa n l := by
    simp only [now, hlater, List.contains_nil, Bool.not_false, Bool.and_true]
    rfl
  have hmem : written.mem = s.mem.replace pa n (blockPart pa n l) := by
    have hw : written.mem = kept.foldl (fun m c => m.write c.1 c.2) mem := rfl
    rw [hw, hkept, List.foldl_nil, ← hpart, ← hkeyed.mem]
  rw [hlater, List.foldl_nil]
  exact ⟨hkeyed.clears.trans (clears_of_dir rfl rfl), hkeyed.lost, hmem⟩

theorem areaStep_lintelBlock {lo hi : Nat} {s : State} (hf : FreeLines s lo hi) (tenant : Nat) {pa n : Nat} (l : List (Nat × Byte))
    (hlo : 128 * lo ≤ pa) (hhi : pa + n ≤ 128 * hi) : AreaStep lo hi s (s.lintelBlock tenant pa n l) := by
  have hin : FreeLines s (pa / 128) ((pa + n) / 128) := fun x hx hy => hf x (by omega) (by omega)
  obtain ⟨hclears, hlost, hmem⟩ := State.lintelBlock_free (tenant := tenant) hin l
  refine ⟨hclears, fun x hx => ?_, hlost, State.lintelBlock_besides .., fun h => State.lintelBlock_inv h ..⟩
  rw [hmem]
  split
  · exact Memory.read_replace_outside _ _ (by omega)
  · rfl

/-! ### The scratchpad of a saved quad -/

/-- The bytes of a scratchpad that a save writes: those of the pieces that are not lost. -/
def State.padBytes (s : State) (a : Nat) : List (Nat × Byte) :=
  (slice s.mem (spAddr a 0 + 0) (2 ^ 22)).filter fun e => !s.homes.lost.contains ((spAddr a 0 + 0 + e.1) / 128)

theorem slice_value {s : State} (hs : Inv s) {k n : Nat} {e : Nat × Byte} (he : e ∈ slice s.mem k n) : e.2 = s.mem.read (k + e.1) := by
  obtain ⟨c, hc, rfl⟩ := List.mem_map.1 he
  obtain ⟨hcm, hrange⟩ := List.mem_filter.1 hc
  simp only [Bool.and_eq_true, decide_eq_true_eq] at hrange
  rw [show k + (c.1 - k) = c.1 by omega]
  exact (SMap.get_of_mem _ ((SMap.wf_iff ..).1 hs).1 hcm).symm

theorem slice_lists {m : Memory} {k n i : Nat} (hi : i < n) : (∃ e ∈ slice m k n, e.1 = i) ∨ m.read (k + i) = 0 := by
  by_cases h : ∃ c ∈ m, c.1 = k + i
  · obtain ⟨c, hc, hci⟩ := h
    exact .inl ⟨(c.1 - k, c.2), List.mem_map.2 ⟨c, List.mem_filter.2 ⟨hc, by simp [hci, hi]⟩, rfl⟩, by simp [hci]⟩
  · exact .inr (SMap.get_unlisted _ fun c hc hci => h ⟨c, hc, hci⟩)

/-- A byte of a piece that is not lost stands in the block that a save writes. -/
theorem read_lintelBlock_padBytes {s : State} (hs : Inv s) {tenant pa a i : Nat} (hf : FreeLines s (pa / 128) ((pa + 2 ^ 22) / 128))
    (ht : s.takesBlock tenant pa (2 ^ 22) = true) (hpa : pa % 128 = 0) (hi : i < 2 ^ 22) (hw : spAddr a i / 128 ∉ s.homes.lost) :
    (s.lintelBlock tenant pa (2 ^ 22) (s.padBytes a)).mem.read (pa + i) = s.mem.read (spAddr a i) := by
  have haddr (j : Nat) : spAddr a 0 + 0 + j = spAddr a j := by rw [Nat.add_zero, spAddr_add, Nat.zero_add]
  rw [(State.lintelBlock_free hf _).mem, if_pos ht]
  refine Memory.read_replace_inside _ hi (fun e he hei => ?_) ?_
  · rw [slice_value hs (List.mem_filter.1 (List.mem_filter.1 he).1).1, haddr, hei]
  · rw [← haddr i]
    refine (slice_lists hi).imp_left fun ⟨e, he, hei⟩ => ⟨e, List.mem_filter.2 ⟨List.mem_filter.2 ⟨he, ?_⟩, ?_⟩, hei⟩
    · rw [hei, haddr]
      simpa using hw
    · simp only [Bool.and_eq_true, decide_eq_true_eq, hei]
      omega

/-! ### The area of a quad -/

theorem quadArea_of_besides {s t : State} (h : t.besides = s.besides) (n a : Nat) : t.quadArea n a = s.quadArea n a := by
  rw [State.quadArea, State.quadArea, State.saveBase, State.saveBase, coursing_of_besides h]

theorem keyOfTenant_of_besides {s t : State} (h : t.besides = s.besides) (n : Nat) : t.keyOfTenant n = s.keyOfTenant n := by
  rw [State.keyOfTenant, State.keyOfTenant, State.keyIndex, State.keyIndex, keystone_of_besides h]

theorem homeState_of_besides {s t : State} (h : t.besides = s.besides) (k : Nat) : t.homeState k = s.homeState k := by
  rw [State.homeState, State.homeState, hdie_of_besides h]

theorem State.decodes_device {s : State} {pa : Nat} (hd : isDevice pa = true) (hoff : pa % 2 ^ 48 < 2 ^ 37) (hh : s.homeState (window pa) ≠ .held) :
    s.decodes pa = true := by
  have hw : window pa < 6 := of_decide_eq_true hd
  unfold State.decodes
  dsimp only
  split
  case h_7 => simpa [hw, hh] using hoff
  all_goals omega

/-- What a save area in device memory gives: its home die is there and the key of its tenant is filled. -/
structure AreaOpen (s : State) (n lo hi : Nat) : Prop where
  free : FreeLines s lo hi
  inside : 128 * lo % 2 ^ 48 + 128 * (hi - lo) ≤ 2 ^ 37
  lost : s.homeState (window (128 * lo)) ≠ .lost
  held : s.homeState (window (128 * lo)) ≠ .held
  filled : s.keyCleared (s.keyOfTenant n) = false

theorem AreaOpen.takesBlock {s : State} {n lo hi : Nat} (h : AreaOpen s n lo hi) {pa k : Nat} (hlo : 128 * lo ≤ pa) (hhi : pa + k ≤ 128 * hi) (hk : 0 < k) :
    s.takesBlock n pa k = true := by
  have hwin (x : Nat) (hx : 128 * lo ≤ x ∧ x < 128 * hi) : window x = window (128 * lo) ∧ x % 2 ^ 48 < 2 ^ 37 := by
    have := h.inside
    unfold Machine.window
    omega
  have hdev (x : Nat) (hx : 128 * lo ≤ x ∧ x < 128 * hi) : isDevice x = true := by
    rw [isDevice, (hwin x hx).1]
    exact (h.free lo le_rfl (by omega)).1
  have hdecodes (x : Nat) (hx : 128 * lo ≤ x ∧ x < 128 * hi) : s.decodes x = true :=
    State.decodes_device (hdev x hx) (hwin x hx).2 (by rw [(hwin x hx).1]; exact h.held)
  have hlt : window pa < 6 := of_decide_eq_true (hdev pa (by omega))
  have hcontrol : isControl pa = false := by
    simp only [isControl, Bool.or_eq_false_iff, beq_eq_false_iff_ne]
    omega
  have hlost : s.homeLost pa = false := by
    rw [State.homeLost, (hwin pa (by omega)).1]
    simp [h.lost]
  rw [State.takesBlock, State.lintelReaches, hdecodes pa (by omega), hdecodes (pa + k - 1) (by omega), hcontrol, hlost, h.filled]
  simp

theorem AreaOpen.step {s t : State} {n lo hi : Nat} (h : AreaOpen s n lo hi) (ht : AreaStep lo hi s t) : AreaOpen t n lo hi where
  free := ht.free h.free
  inside := h.inside
  lost := by rw [homeState_of_besides ht.besides]; exact h.lost
  held := by rw [homeState_of_besides ht.besides]; exact h.held
  filled := by
    rw [keyOfTenant_of_besides ht.besides, State.keyCleared, keystone_of_besides ht.besides]
    exact h.filled

section
variable {s : State} {lo hi : Nat} (hf : FreeLines s lo hi) (n a : Nat) (hlo : 128 * lo ≤ s.quadArea n a)
  (hhi : s.quadArea n a + 0x500000 ≤ 128 * hi)
include hf hlo hhi

theorem areaStep_putInbox {l : List InboxEntry} (hl : l.length ≤ 512) : AreaStep lo hi s (s.putInbox n a l) := by
  unfold State.putInbox
  have hcount := areaStep_lintelPut hf n (pa := s.quadArea n a + 0x18) (n := 8) l.length (by omega) (by omega) (by norm_num)
  refine hcount.trans (AreaStep.foldl (hcount.free hf) fun u i hi' _ hu => ?_)
  have hi512 : i < 512 := (List.mem_range.1 hi').trans_le hl
  split
  next e _ =>
    have hword := areaStep_lintelPut hu n (pa := s.quadArea n a + 0x8000 + 8 * i) (n := 8) e.word (by omega) (by omega) (by norm_num)
    exact hword.trans (areaStep_lintelLines (hword.free hu) n e.bytes (by omega) (by omega))
  next => exact AreaStep.refl u

theorem areaStep_putCmds {k : Nat} (hk : k ≤ 64) : AreaStep lo hi s (s.putCmds n a k) := by
  refine AreaStep.foldl hf fun u i hi' hstep hu => ?_
  have hi128 : i < 128 := (List.mem_range.1 hi').trans_le (by omega)
  have harea : u.quadArea n a = s.quadArea n a := quadArea_of_besides hstep.besides n a
  exact areaStep_lintelLines hu n _ (by omega) (by omega)

end

theorem foldl_of_nil {α : Type} {f : State → α → State} {l : List α} (h : l = []) {s : State} : l.foldl f s = s := by
  rw [h, List.foldl_nil]

theorem foldl_liveRanges_of_nil {f : State → Nat × Nat → State} {m : SMap PhintSlot} (h : m = []) {s : State} :
    (liveRanges m).foldl f s = f s (0, 2 ^ 22) := by
  rw [h, liveRanges, if_pos List.isEmpty_nil, List.foldl_cons, List.foldl_nil]

/-- A byte of the scratchpad of a saved quad stands in its tenant's save area. -/
theorem State.saveQuad_read {s : State} {n a lo hi i : Nat} (ho : AreaOpen s n lo hi) (hs : Inv s) (hhint : (s.quadAt a).phint = [])
    (hcmds : (s.quadAt a).cmds.length ≤ 64) (hinbox : (s.quadAt a).inbox.length ≤ 512) (hlo : 128 * lo ≤ s.quadArea n a)
    (hhi : s.quadArea n a + 0x500000 ≤ 128 * hi) (halign : s.quadArea n a % 128 = 0)
    (hpad : 128 * hi ≤ spAddr a 0) (hin : i < 2 ^ 22) (hw : spAddr a i / 128 ∉ s.homes.lost) :
    (s.saveQuad n a).mem.read (s.quadArea n a + 0x90000 + i) = s.mem.read (spAddr a i) := by
  unfold State.saveQuad
  extract_lets base q sp bars flags s1 s2 s3 s4 lost s5 s6 accs s7 cells s8 s9 v
  have hbase : base = s.quadArea n a := rfl
  have h1 : AreaStep lo hi s s1 := areaStep_lintelPut ho.free n _ (by omega) (by omega) (by norm_num)
  have h2 : AreaStep lo hi s s2 := by
    have harea := quadArea_of_besides h1.besides n a
    exact h1.trans (areaStep_putInbox (h1.free ho.free) n a (by omega) (by omega) hinbox)
  have h3 : AreaStep lo hi s s3 := h2.trans (areaStep_lintelPut (h2.free ho.free) n _ (by omega) (by omega) (by norm_num))
  have h4 : AreaStep lo hi s s4 := by
    have hs4 : s4 = s3 := foldl_of_nil hhint
    rw [hs4]
    exact h3
  have h5 : AreaStep lo hi s s5 := h4.trans (areaStep_lintelLines (h4.free ho.free) n _ (by omega) (by omega))
  have h6 : AreaStep lo hi s s6 := by
    have harea := quadArea_of_besides h5.besides n a
    exact h5.trans (areaStep_putCmds (h5.free ho.free) n a (by omega) (by omega) hcmds)
  have h7 : AreaStep lo hi s s7 := h6.trans (areaStep_lintelBlock (h6.free ho.free) n _ (by omega) (by omega))
  have h8 : AreaStep lo hi s s8 := h7.trans (areaStep_lintelBlock (h7.free ho.free) n _ (by omega) (by omega))
  have h9 : s9 = s8.lintelBlock n (base + 0x90000 + 0) (2 ^ 22) (s8.padBytes a) :=
    foldl_liveRanges_of_nil hhint
  have hmem (x : State) (c : Coursing) : (x.setCoursing c).mem = x.mem := rfl
  have hpadAddr : spAddr a i = spAddr a 0 + i := by rw [spAddr_add, Nat.zero_add]
  clear_value s8
  rw [hmem, h9, ← hbase, Nat.add_zero, read_lintelBlock_padBytes (h8.inv hs) (fun l hl hh => h8.free ho.free l (by omega) (by omega))
    ((ho.step h8).takesBlock (by omega) (by omega) (by norm_num)) (by omega) hin fun h => hw (h8.lost _ h)]
  exact h8.mem _ (.inr (by omega))

end Sys2Proof.Machine
end

section
/-! A quad is restored at its next course (R81, R318). -/
namespace Sys2Proof.Machine

/-! ### Parked messages and staged ranges -/

@[simp] theorem State.countLost_besides (s : State) (tenant : Nat) (f : TileFlags) : (s.countLost tenant f).besides = s.besides := by
  simp only [State.countLost]
  split <;> simp

@[simp] theorem State.applyParked_besides (s : State) (tenant a : Nat) (e : InboxEntry) : (s.applyParked tenant a e).besides = s.besides := by
  have hstore (u : State) (block : Nat) (g whole : Bool) (f : State → Nat × Byte → Nat) :
      (if g then (u.storePa tenant 0 (spAddr a block) 1 0 false).1
      else e.data.foldl (fun s x => (s.storePa tenant 0 (spAddr a x.1) 1 (f s x) false).1)
        (if whole then (u.storePa tenant 0 (spAddr a block) 128 0 true).1 else u)).besides = u.besides := by
    split
    · simp
    · rw [State.besides_foldl fun _ _ => State.storePa_besides ..]
      simp
  unfold State.applyParked
  dsimp only
  rw [State.bbLand_besides]
  exact hstore ..

theorem State.stage_besides {s u : State} {a : Nat} {c : Cmd} {fuel k : Nat} (h : s.stage a c fuel k = .ok u) : u.besides = s.besides := by
  induction fuel generalizing s k with
  | zero =>
    cases h
    rfl
  | succ fuel ih =>
    unfold State.stage at h
    split at h
    · cases h
      rfl
    · dsimp only at h
      split at h
      · cases h
      · cases h
      · rw [ih h, State.storePa_besides]
        (repeat' split) <;> simp

@[simp] theorem State.restage_besides (s : State) (tenant a : Nat) (m : SMap PhintSlot) : (s.restage tenant a m).besides = s.besides := by
  refine State.besides_foldl (fun u e => ?_) _ _
  dsimp only
  split
  next v hv => exact State.stage_besides hv
  next => rw [State.count1_besides, State.lintelRecord_besides, State.setMem_besides]

/-! ### The quad -/

theorem State.setQuad_phint_besides (s : State) (a : Nat) (p : SMap PhintSlot) : (s.setQuad a { s.quadAt a with phint := p }).besides = s.besides := by
  refine besides_of_parts rfl (funext fun b => ?_)
  rw [State.units, State.quadAt_setQuad]
  split
  next e =>
    subst e
    rfl
  next => rfl

theorem State.restoreQuad_unsaved {s : State} {n a : Nat} (h : s.savedQuad n a = none) :
    s.restoreQuad n a = s.setQuad a { s.quadAt a with phase := .running } := by
  rw [State.restoreQuad, h]

theorem State.withArrays_strands (s : State) (acc : SMap (BitVec 32)) (sett : SMap SettCell) (bars : SMap Barrier) :
    State.strands { s with acc := acc, sett := sett, barriers := bars } = s.strands := rfl

/-- What a restore with a save gives: the quad runs, its commands go on before those it has, and Lintel's record of it is dropped. -/
structure QuadRestored (s t : State) (n a : Nat) (v : SavedQuad) : Prop where
  strands : t.strands = s.strands
  phase : (t.quadAt a).phase = .running
  cmds : (t.quadAt a).cmds = v.cmds.map (fun c => { c with held := false }) ++ (s.quadAt a).cmds
  dropped : t.savedQuad n a = none

theorem State.restoreQuad_saved {s : State} {n a : Nat} {v : SavedQuad} (hv : s.savedQuad n a = some v) (hl : s.homeLost (s.quadArea n a) = false) :
    QuadRestored s (s.restoreQuad n a) n a v := by
  unfold State.restoreQuad
  split
  next h => cases h.symm.trans hv
  next v' h =>
  cases h.symm.trans hv
  extract_lets base gone v1 s0 sp s1 map lost homes s2 s3 q3 s4 s5 words acc sett bars h q s6 s7 s8 c
  have hgone : ¬gone = true := by simp [gone, base, hl]
  have hv1 : v1 = v := if_neg hgone
  have hs0 : s0 = s := if_neg hgone
  have h1 : s1.besides = s0.besides := State.besides_foldl (fun _ _ => State.setMem_besides ..) _ _
  have h3 : s3.besides = s0.besides := (State.restage_besides ..).trans ((State.setHomes_besides ..).trans h1)
  clear_value s0 s3
  have h4 : s4.besides = s3.besides := State.setQuad_phint_besides ..
  have h5 : s5.besides = s4.besides := State.besides_foldl (fun _ _ => State.applyParked_besides ..) _ _
  have hsame : s5.besides = s.besides := h5.trans (h4.trans (h3.trans (congrArg State.besides hs0)))
  clear_value s5
  have h8 : s8.besides = s7.besides := by
    refine State.besides_foldl (fun u x => ?_) _ _
    rw [State.leaveLost_besides]
    split
    · rfl
    · exact State.bbLandOf_besides ..
  clear_value acc sett bars h
  have hs6 : s6.strands = s5.strands := State.withArrays_strands ..
  have hs7 : s7.strands = s5.strands := (State.setQuad_strands ..).trans hs6
  have hq7 : (s7.quadAt a).phase = .running ∧ (s7.quadAt a).cmds = v1.cmds.map (fun c => { c with held := false }) ++ (s5.quadAt a).cmds := by
    rw [show s7.quadAt a = _ from (State.quadAt_setQuad ..).trans (if_pos rfl)]
    exact ⟨rfl, rfl⟩
  clear_value s7 s8
  have hquad (u : State) (k : Coursing) : (u.setCoursing k).quadAt a = u.quadAt a := rfl
  refine ⟨?_, ?_, ?_, ?_⟩
  · rw [State.setCoursing_strands, strands_of_besides h8, hs7, strands_of_besides hsame]
  · rw [hquad, phase_of_besides h8, hq7.1]
  · rw [hquad, ← hv1, ← cmds_of_besides hsame a, cmds_of_besides h8, hq7.2]
  · rw [State.savedQuad, State.setCoursing_coursing, SMap.find_erase_same]

theorem exec_lintelRestore_quad {s : State} {a n : Nat} (ha : (s.quadAt a).asleep = false) (hi : s.power.idle = false) (hh : s.quadHolder a = some n)
    (hp : (s.quadAt a).phase = .awaiting) (hr : s.areaReady (s.quadArea n a) 0x500000 = true)
    (hq : ∀ v, s.savedQuad n a = some v → ∀ l ∈ s.stagedLines n a v.phint, s.homeQuiet l false = true) :
    exec (.lintelRestore true a) s = .next (s.restoreQuad n a) := by
  have hstaged : ((s.stagedLines n a (((s.savedQuad n a).map (·.phint)).getD [])).filter fun l => !s.homeQuiet l false) = [] := by
    refine List.filter_eq_nil_iff.2 fun l hl => ?_
    cases hv : s.savedQuad n a with
    | none =>
      rw [hv] at hl
      cases hl
    | some v =>
      rw [hv] at hl
      simp [hq v hv l hl]
  have hexec : exec (.lintelRestore true a) s = execLintelRestore true a s := rfl
  rw [hexec, execLintelRestore]
  simp only [if_true, ha, hi, Bool.or_self, Bool.false_eq_true, if_false, hh, hstaged]
  simp [hp, hr]

/-- A restore of a quad that waits for it. -/
theorem lintelRestore_quad {s : State} {a n : Nat} (ha : (s.quadAt a).asleep = false) (hi : s.power.idle = false) (hh : s.quadHolder a = some n)
    (hp : (s.quadAt a).phase = .awaiting) (hr : s.areaReady (s.quadArea n a) 0x500000 = true)
    (hq : ∀ v, s.savedQuad n a = some v → ∀ l ∈ s.stagedLines n a v.phint, s.homeQuiet l false = true) (hl : s.homeLost (s.quadArea n a) = false) :
    ∃ t : State, exec (.lintelRestore true a) s = .next t ∧ (t.quadAt a).phase = .running ∧ t.strands = s.strands
      ∧ (s.savedQuad n a = none → t.mem = s.mem ∧ t.acc = s.acc)
      ∧ ∀ v, s.savedQuad n a = some v → t.savedQuad n a = none ∧ ∀ x ∈ v.cmds, { x with held := false } ∈ (t.quadAt a).cmds := by
  have hexec := exec_lintelRestore_quad ha hi hh hp hr hq
  refine ⟨s.restoreQuad n a, hexec, ?_⟩
  cases hv : s.savedQuad n a with
  | none =>
    rw [State.restoreQuad_unsaved hv, State.quadAt_setQuad, if_pos rfl]
    exact ⟨rfl, rfl, fun _ => ⟨rfl, rfl⟩, nofun⟩
  | some v =>
    obtain ⟨hstrands, hphase, hcmds, hdropped⟩ := State.restoreQuad_saved hv hl
    refine ⟨hphase, hstrands, nofun, fun w hw => ⟨hdropped, fun x hx => ?_⟩⟩
    cases hw
    rw [hcmds]
    exact List.mem_append_left _ (List.mem_map.2 ⟨x, hx, rfl⟩)

end Sys2Proof.Machine
end

section
/-! A core is restored at its next course: a strand record gives the strand back, or fails its check (R83, R316, R318). -/
namespace Sys2Proof.Machine

/-! ### Reads of a save area -/

/-- A state with other cores, saved cores and barriers. -/
def State.placed (s : State) (cs : SMap CoreState) (k : SMap SavedCore) (b : SMap Barrier) : State :=
  { s with cores := cs, coursing := { s.coursing with savedCores := k }, barriers := b }

section
variable (s : State) (cs : SMap CoreState) (k : SMap SavedCore) (b : SMap Barrier)

theorem State.readByte_placed (pa key : Nat) : (s.placed cs k b).readByte pa key = s.readByte pa key := rfl

theorem State.readPa_placed (pa key n : Nat) : (s.placed cs k b).readPa pa key n = s.readPa pa key n := by
  induction n generalizing pa with
  | zero => rfl
  | succ n ih => rw [State.readPa, State.readPa, State.readByte_placed, ih]

theorem State.lintelReaches_placed (pa n : Nat) : (s.placed cs k b).lintelReaches pa n = s.lintelReaches pa n := rfl
theorem State.keyOfTenant_placed (n : Nat) : (s.placed cs k b).keyOfTenant n = s.keyOfTenant n := rfl
theorem State.coreArea_placed (n c : Nat) : (s.placed cs k b).coreArea n c = s.coreArea n c := rfl

theorem State.lintelGet_placed (tenant pa n : Nat) : (s.placed cs k b).lintelGet tenant pa n = s.lintelGet tenant pa n := by
  rw [State.lintelGet, State.lintelGet, State.lintelReaches_placed, State.readPa_placed, State.keyOfTenant_placed]

end

/-! ### The core -/

theorem State.restoreCore_unsaved {s : State} {n c : Nat} (h : s.savedCore n c = none) :
    s.restoreCore n c = s.setCore c { s.coreAt c with phase := .running } := by
  rw [State.restoreCore, h]

/-- The state without its cores, its saved cores and its barriers. -/
def State.unplaced (s : State) : State := s.placed [] [] []

theorem State.setCore_unplaced (s : State) (c : Nat) (v : CoreState) : (s.setCore c v).unplaced = s.unplaced := rfl
theorem State.setSavedCores_unplaced (s : State) (k : SMap SavedCore) :
    (s.setCoursing { s.coursing with savedCores := k }).unplaced = s.unplaced := rfl
theorem State.setBarriers_unplaced (s : State) (b : SMap Barrier) : State.unplaced { s with barriers := b } = s.unplaced := rfl
theorem State.setBarriers_coursing (s : State) (b : SMap Barrier) : State.coursing { s with barriers := b } = s.coursing := rfl

theorem State.setBarriers_cores (s : State) (b : SMap Barrier) : State.cores { s with barriers := b } = s.cores := rfl

theorem placed_of_unplaced {s t : State} (h : t.unplaced = s.unplaced) : t = s.placed t.cores t.coursing.savedCores t.barriers := by
  have hself : t = t.unplaced.placed t.cores t.coursing.savedCores t.barriers := rfl
  have hother (cs : SMap CoreState) (k : SMap SavedCore) (b : SMap Barrier) : s.unplaced.placed cs k b = s.placed cs k b := rfl
  rw [← hother, ← h]
  exact hself

theorem foldl_of_single {α : Type} {f : State → α → State} {l : List α} {x : α} (h : l = [x]) {s : State} : l.foldl f s = f s x := by
  rw [h, List.foldl_cons, List.foldl_nil]

/-- The saved case of a choice: taken as a lemma, so that the kernel need not evaluate the branch. -/
theorem match_savedCore_some {β : Type} {f : β} {g : SavedCore → β} : ∀ {o : Option SavedCore} {v : SavedCore}, o = some v →
    (match o with | none => f | some v => g v) = g v := by
  rintro _ _ rfl
  rfl

theorem State.dropPackets_nil (s : State) (n c : Nat) : s.dropPackets n c [] = s := rfl

/-- A core with one saved strand and no packet: the core runs, Lintel's record of it is dropped, the strand's record is looked at, and a wait on
memory reads again. -/
theorem State.restoreCore_single {s : State} {n c slot : Nat} {v : SavedCore} {w : SavedStrand} (hv : s.savedCore n c = some v)
    (hs : v.strands = [(slot, w)]) (hp : v.packets = []) : ∃ cs b,
      s.restoreCore n c = ((s.placed cs (s.coursing.savedCores.erase (768 * n + c)) b).restoreStrand n c slot w).waitRead slot
      ∧ (SMap.get CoreState.reset cs c).phase = .running := by
  obtain ⟨r, hr⟩ : ∃ r, r = s.restoreCore n c := ⟨_, rfl⟩
  rw [← hr]
  unfold State.restoreCore at hr
  replace hr := hr.trans (match_savedCore_some hv)
  extract_lets +onlyGivenNames c0 gone s0 v1 s1 at hr
  have hs0 : s0 = s := by simp only [s0, hp, State.dropPackets_nil, ite_self]
  have hp1 : v1.packets = [] := by
    simp only [v1]
    split
    exacts [rfl, hp]
  have hs1 : v1.strands = [(slot, w)] := by
    simp only [v1]
    split
    exacts [hs, hs]
  have hplace : s1.placePackets c (v1.strands.map Prod.fst) (s.recordedL n c v1) v1.packets = .ok (s1, []) := by rw [hp1, State.placePackets]
  have hunplaced : s1.unplaced = s.unplaced := (State.setCore_unplaced ..).trans (congrArg _ hs0)
  have hcoursing : s1.coursing = s.coursing := (State.setCore_coursing ..).trans (congrArg _ hs0)
  have hrun : (s1.coreAt c).phase = .running := by rw [show s1.coreAt c = _ from (State.coreAt_setCore ..).trans (if_pos rfl)]
  clear_value s0 v1 s1
  split at hr
  next hx => cases hplace.symm.trans hx
  next u left hx =>
  obtain ⟨rfl, -⟩ := Prod.mk.inj (Except.ok.inj (hplace.symm.trans hx))
  extract_lets +onlyGivenNames again c2 s2 k2 s3 bars s4 s5 at hr
  have hplaced : s4.unplaced = s.unplaced :=
    (State.setBarriers_unplaced ..).trans ((State.setSavedCores_unplaced ..).trans ((State.setCore_unplaced ..).trans hunplaced))
  have hsaved : s4.coursing.savedCores = s.coursing.savedCores.erase (768 * n + c) := by
    rw [show s4.coursing = s3.coursing from State.setBarriers_coursing .., show s3.coursing = _ from State.setCoursing_coursing ..,
      show s2.coursing = s1.coursing from State.setCore_coursing .., hcoursing]
  have hcores : s4.cores = s2.cores := State.setBarriers_cores ..
  have hphase : (s2.coreAt c).phase = .running := by rw [show s2.coreAt c = _ from (State.coreAt_setCore ..).trans (if_pos rfl), hrun]
  have hstrand : s5 = s4.restoreStrand n c slot w := foldl_of_single hs1
  have hwait : v1.strands.foldl (fun s e => s.waitRead e.1) s5 = s5.waitRead slot := foldl_of_single hs1
  rw [hwait, hstrand] at hr
  clear_value s2 s3 bars s4
  have heq := placed_of_unplaced hplaced
  rw [hsaved] at heq
  refine ⟨s4.cores, s4.barriers, by rw [hr, ← heq], ?_⟩
  rw [hcores]
  exact hphase

/-! ### The strand -/

/-- The record of a saved strand in its core's area, and its check (R318). -/
def State.strandRecord (s : State) (n c slot : Nat) : Nat := s.lintelGet n (s.coreArea n c + (0x1000 + slot % 16 * 4096)) 4096

structure RecordGood (r : Nat) : Prop where
  valid : fieldN r 0 1 = 1
  vectors : fieldN r 9 6 + vregCount (fieldN r 15 2) ≤ 64
  locals : fieldN r 17 6 + fieldN r 23 7 ≤ 64
  some_local : 1 ≤ fieldN r 23 7
  pc : recW r 8 < 2 ^ 52
  even : recW r 8 % 2 = 0
  head : recW r 8 % 64 ≠ 0

theorem State.lidOfComp_own {s : State} {n lid comp : Nat} (h : s.compOf lid = comp) : s.lidOfComp n lid comp = lid := if_pos h

/-- A state with other local store and vector registers. -/
def State.furnished (s : State) (lm : SMap Byte) (pool : SMap VReg) : State := { s with localMem := lm, pool := pool }

theorem State.setV_furnished (s : State) (lm : SMap Byte) (pool : SMap VReg) (slot : Nat) (st : Strand) (i : Nat) (x : VReg) :
    ∃ p, (s.furnished lm pool).setV slot st i x = s.furnished lm p := ⟨_, rfl⟩

/-- The strand from its record, with the frames that its local store holds. -/
def SavedStrand.strandWith (w : SavedStrand) (r time : Nat) (bonded : Bool) (frames : List Frame) : Strand := { w.strand r time bonded with ls := frames }

/-- A record that passes its check gives the strand back; one that does not ends the strand. -/
theorem State.restoreStrand_cases {s : State} {n c slot : Nat} {w : SavedStrand} (hcomp : s.compOf w.lid = recW (s.strandRecord n c slot) 0xE0)
    (hV : s.usedV c = []) (hL : s.usedL c = []) (hnone : s.strandAt slot = none) :
    (RecordGood (s.strandRecord n c slot) ∧ ∃ bonded frames lm pool,
      s.restoreStrand n c slot w = (s.furnished lm pool).setStrand slot (w.strandWith (s.strandRecord n c slot) s.time bonded frames))
    ∨ (¬RecordGood (s.strandRecord n c slot) ∧ ∃ off ord, s.restoreStrand n c slot w = s.failRecord n c off w.lid ord) := by
  obtain ⟨t, ht⟩ : ∃ t, t = s.restoreStrand n c slot w := ⟨_, rfl⟩
  rw [← ht]
  unfold State.restoreStrand at ht
  extract_lets +onlyGivenNames base off r v1 bonded st free ok bytes window frame st1 lm s1 s2 at ht
  have hr : s.strandRecord n c slot = r := rfl
  rw [hr] at hcomp ⊢
  have hv1 : v1 = w := by
    simp only [v1]
    rw [State.lidOfComp_own hcomp]
  have hst : st = w.strand r s.time bonded := congrArg (fun x : SavedStrand => x.strand r s.time bonded) hv1
  have hgood : ok = true ↔ RecordGood r := by
    have hbase : st.vbase = fieldN r 9 6 ∧ st.vcount = vregCount (fieldN r 15 2) ∧ st.lsbase = fieldN r 17 6 ∧ st.lslen = fieldN r 23 7 := by
      rw [hst]
      exact ⟨rfl, rfl, rfl, rfl⟩
    obtain ⟨hvb, hvc, hlb, hll⟩ := hbase
    simp only [ok, free, hV, hL, hnone, hvb, hvc, hlb, hll, List.all_nil, Option.isNone_none, Bool.and_true, Bool.and_eq_true, beq_iff_eq, bne_iff_ne,
      decide_eq_true_eq]
    exact ⟨fun ⟨⟨⟨⟨⟨⟨h1, h2⟩, h3⟩, h4⟩, h5⟩, h6⟩, h7⟩ => ⟨h1, h2, h3, h4, h5, h6, h7⟩,
      fun ⟨h1, h2, h3, h4, h5, h6, h7⟩ => ⟨⟨⟨⟨⟨⟨h1, h2⟩, h3⟩, h4⟩, h5⟩, h6⟩, h7⟩⟩
  have hlid : v1.lid = w.lid := congrArg SavedStrand.lid hv1
  have hpool : ∃ pool, s2 = s.furnished lm pool := by
    refine foldl_holds (P := fun u => ∃ pool, u = s.furnished lm pool) (fun u i hu => ?_) _ ⟨s.pool, rfl⟩
    obtain ⟨pool, rfl⟩ := hu
    split
    · exact ⟨pool, rfl⟩
    · exact State.setV_furnished ..
  have hst1 : st1 = w.strandWith r s.time bonded st1.ls := by
    have h : st1 = { st with ls := st1.ls } := rfl
    rw [h, hst]
    rfl
  clear_value ok st s2 st1
  by_cases hg : RecordGood r
  · refine .inl ⟨hg, bonded, st1.ls, lm, ?_⟩
    obtain ⟨pool, hpool⟩ := hpool
    exact ⟨pool, by rw [ht, if_neg (by simp [hgood.2 hg]), hpool, ← hst1]⟩
  · refine .inr ⟨hg, off, s.ordinalOf st, ?_⟩
    rw [ht, if_pos (by simpa using mt hgood.1 hg), hlid]

/-! ### The fields of a record -/

theorem recW_lt (r off : Nat) : recW r off < 2 ^ 64 := Nat.mod_lt _ (by norm_num)

theorem recW_toNat (r off : Nat) : (BitVec.ofNat 64 (fieldN r (8 * off) 64)).toNat = recW r off := by
  rw [BitVec.toNat_ofNat]
  exact Nat.mod_eq_of_lt (recW_lt r off)

theorem State.strandRecord_eq (s : State) (n c slot : Nat) :
    s.strandRecord n c slot = s.lintelGet n (s.saveBase n + 0x3C000000 + c * 0x60000 + 0x1000 + slot % 16 * 4096) 4096 := by
  rw [State.strandRecord, State.coreArea, coreAreaOff]
  congr 1
  omega

theorem State.strandRecord_placed (s : State) (cs : SMap CoreState) (k : SMap SavedCore) (b : SMap Barrier) (n c slot : Nat) :
    (s.placed cs k b).strandRecord n c slot = s.strandRecord n c slot := by
  rw [State.strandRecord, State.strandRecord, State.lintelGet_placed, State.coreArea_placed]

theorem recordGood_iff (r : Nat) : RecordGood r ↔ (fieldN r 0 1 = 1 ∧ fieldN r 9 6 + vregCount (fieldN r 15 2) ≤ 64 ∧ fieldN r 17 6 + fieldN r 23 7 ≤ 64
    ∧ 1 ≤ fieldN r 23 7 ∧ (BitVec.ofNat 64 (fieldN r (8 * 8) 64)).toNat < 2 ^ 52 ∧ (BitVec.ofNat 64 (fieldN r (8 * 8) 64)).toNat % 2 = 0
    ∧ (BitVec.ofNat 64 (fieldN r (8 * 8) 64)).toNat % 64 ≠ 0) := by
  rw [recW_toNat]
  exact ⟨fun ⟨h1, h2, h3, h4, h5, h6, h7⟩ => ⟨h1, h2, h3, h4, h5, h6, h7⟩, fun ⟨h1, h2, h3, h4, h5, h6, h7⟩ => ⟨h1, h2, h3, h4, h5, h6, h7⟩⟩

theorem get_ofFn {α : Type} {n : Nat} (f : Fin n → α) (i : Fin n) : (Vector.ofFn f).get i = f i := Vector.getElem_ofFn i.isLt

section
variable (w : SavedStrand) (r time : Nat) (bonded : Bool) (frames : List Frame)

theorem SavedStrand.strandWith_pc : (w.strandWith r time bonded frames).pc = (BitVec.ofNat 64 (fieldN r (8 * 8) 64)).setWidth 52 :=
  (BitVec.setWidth_ofNat_of_le (by norm_num) _).symm

theorem SavedStrand.strandWith_cause : (w.strandWith r time bonded frames).cause = BitVec.ofNat 64 (fieldN r (8 * 0x58) 64) &&& 0xFFF := by
  have hmask (x : Nat) : BitVec.ofNat 64 (x % 2 ^ 12) = BitVec.ofNat 64 x &&& 0xFFF := by
    apply BitVec.eq_of_toNat_eq
    have hlow : (0xFFF : Nat) = 2 ^ 12 - 1 := by norm_num
    rw [BitVec.toNat_and, BitVec.toNat_ofNat, BitVec.toNat_ofNat, show (0xFFF : BitVec 64).toNat = 0xFFF from rfl, hlow, Nat.and_two_pow_sub_one_eq_mod]
    omega
  exact hmask _

theorem SavedStrand.strandWith_getG (h : fieldN r 30 1 = 0) {g : BitVec 4} (hg : g ≠ 0) :
    (w.strandWith r time bonded frames).getG g = BitVec.ofNat 64 (fieldN r (8 * (0x100 + 8 * g.toNat)) 64) := by
  have hne : g.toNat ≠ 0 := fun h => hg (BitVec.eq_of_toNat_eq h)
  have hfield : (w.strandWith r time bonded frames).g = Vector.ofFn fun i : Fin 16 =>
      if i.val != 0 && true then BitVec.ofNat 64 (recW r (0x100 + 8 * i.val)) else 0 := by
    unfold SavedStrand.strandWith SavedStrand.strand
    simp only [h, Nat.zero_ne_one, if_false]
  rw [Strand.getG, if_neg hg, hfield, get_ofFn, if_pos (by simpa using hne)]
  rfl

theorem SavedStrand.strandWith_getM {m : BitVec 3} (hm : m ≠ 0) :
    (w.strandWith r time bonded frames).getM m = BitVec.ofNat 1024 (fieldN r (8 * (0x240 + 128 * m.toNat)) 1024) := by
  exact (if_neg hm).trans (get_ofFn ..)

end

/-! ### A record that fails its check -/

theorem State.launchOf_updLaunch {s : State} {lid : Nat} {l : Launch} (f : Launch → Launch) (hf : ∀ x, (f x).lid = x.lid) (h : s.launchOf lid = some l) :
    (s.updLaunch lid f).launchOf lid = some (f l) := by
  have hl : l.lid = lid := by simpa using List.find?_some h
  have hkey : ((fun x : Launch => x.lid == lid) ∘ fun x : Launch => if x.lid == lid then f x else x) = fun x => x.lid == lid := by
    funext x
    dsimp only [Function.comp]
    split
    · rw [hf]
    · rfl
  have hmap : (s.updLaunch lid f).launchOf lid = ((s.hub.launches.find? fun x => x.lid == lid).map fun x => if x.lid == lid then f x else x) := by
    rw [← hkey]
    exact List.find?_map ..
  rw [hmap, show s.hub.launches.find? (fun x => x.lid == lid) = some l from h, Option.map_some, if_pos (by simp [hl])]

theorem State.failRecord_besides (s : State) (n c off lid ord : Nat) : (s.failRecord n c off lid ord).besides =
    (s.updLaunch lid fun l => { l with xcode := l.xcode ||| 0x80, ended := l.ended.put (c / 192) s.time }).besides := by
  rw [State.failRecord, State.count1_besides, State.lintelRecord_besides]

theorem State.failRecord_strandAt (s : State) (n c off lid ord slot : Nat) : (s.failRecord n c off lid ord).strandAt slot = s.strandAt slot := by
  rw [State.strandAt, strands_of_besides (State.failRecord_besides ..)]
  rfl

theorem State.failRecord_launchOf {s : State} {lid : Nat} {l : Launch} (n c off ord : Nat) (h : s.launchOf lid = some l) :
    ∃ m, (s.failRecord n c off lid ord).launchOf lid = some m ∧ m.xcode = l.xcode ||| 0x80 := by
  refine ⟨{ l with xcode := l.xcode ||| 0x80, ended := l.ended.put (c / 192) s.time }, ?_, rfl⟩
  rw [State.launchOf, launches_of_besides (State.failRecord_besides ..)]
  exact State.launchOf_updLaunch (fun l => { l with xcode := l.xcode ||| 0x80, ended := l.ended.put (c / 192) s.time }) (fun _ => rfl) h

theorem State.waitRead_unlisted {s : State} {slot : Nat} (h : s.strandAt slot = none) : s.waitRead slot = s := by
  rw [State.waitRead, h]

end Sys2Proof.Machine
end

section
/-! Saves and restores, settled. -/
namespace Sys2Proof.Machine

/-! ### A save on time -/

/-- A save area in device memory lies below the scratchpads. -/
theorem area_below_pads {b : Nat} (hb : b / 2 ^ 48 < 6) : 128 * (b / 128 + 0xA00000) ≤ 8 * 2 ^ 48 := by
  have hlt : b < 6 * 2 ^ 48 := (Nat.div_lt_iff_lt_mul (by norm_num)).1 hb
  have hle : 128 * (b / 128) ≤ b := Nat.mul_div_le ..
  linarith

/-- A quad saved on time: with its area open, each byte of its scratchpad that is not lost stands there. -/
theorem quadSave_scratchpad {s : State} {a n : Nat} (hs : Inv s) (ha : a < 192) (hhint : (s.quadAt a).phint = [])
    (hcmds : (s.quadAt a).cmds.length ≤ 64) (hinbox : (s.quadAt a).inbox.length ≤ 512) (hpage : s.saveBase n % 4096 = 0)
    (hend : s.saveBase n % 2 ^ 48 + 0x50000000 ≤ 2 ^ 37) (hd : isDevice (s.saveBase n) = true) (hlost : s.homeState (s.saveBase n / 2 ^ 48) ≠ .lost)
    (hheld : s.homeState (s.saveBase n / 2 ^ 48) ≠ .held)
    (hquiet : ∀ l, s.saveBase n / 128 ≤ l → l < s.saveBase n / 128 + 0xA00000 → s.homeQuiet l true = true)
    (hkey : s.keyCleared (s.keyOfTenant n) = false) {i : Nat} (hi : i < 2 ^ 22) (hw : spAddr a i / 128 ∉ s.homes.lost) :
    (s.saveQuad n a).mem.read (s.saveBase n + a * 0x500000 + 0x90000 + i) = s.mem.read (spAddr a i) := by
  have hbase : 128 * (s.saveBase n / 128) = s.saveBase n := by omega
  have hdev : window (s.saveBase n) < 6 := of_decide_eq_true hd
  have hopen : AreaOpen s n (s.saveBase n / 128) (s.saveBase n / 128 + 0xA00000) :=
    { free := fun l hl hh => by
        have hwin : window (128 * l) = window (s.saveBase n) := by
          unfold Machine.window
          omega
        exact ⟨by rw [isDevice, hwin]; exact hd, hquiet l hl hh⟩
      inside := by omega
      lost := by rw [hbase]; exact hlost
      held := by rw [hbase]; exact hheld
      filled := hkey }
  have harea : s.quadArea n a = s.saveBase n + a * 0x500000 := rfl
  have hwithin (b x : Nat) (hb : b % 4096 = 0) (hx : x = b + a * 0x500000) :
      128 * (b / 128) ≤ x ∧ x + 0x500000 ≤ 128 * (b / 128 + 0xA00000) ∧ x % 128 = 0 := by omega
  obtain ⟨hlo, hhi, halign⟩ := hwithin _ _ hpage harea
  rw [← harea]
  exact State.saveQuad_read hopen hs hhint hcmds hinbox hlo hhi halign ((area_below_pads hdev).trans (Nat.le_add_right_of_le (Nat.le_add_right ..))) hi hw

/-! ### A core that waits for its restore -/

section
variable {s : State} {c n : Nat} (ha : (s.quadAt (agentOf c)).asleep = false) (hi : s.power.idle = false) (hh : s.holder c = some n)
  (hp : (s.coreAt c).phase = .awaiting)
include ha hi hh

/-- A core is restored after its quad. -/
theorem exec_lintelRestore_waits (hq : (s.quadAt (agentOf c)).phase ≠ .running) : exec (.lintelRestore false c) s = .next s := by
  have hexec : exec (.lintelRestore false c) s = execLintelRestore false c s := rfl
  rw [hexec, execLintelRestore]
  simp only [Bool.false_eq_true, if_false, ha, hi, Bool.or_self, hh]
  rw [if_pos (by simp [hq])]

include hp

theorem exec_lintelRestore_core (hq : (s.quadAt (agentOf c)).phase = .running) (hr : s.areaReady (s.coreArea n c) 0x60000 = true) :
    exec (.lintelRestore false c) s = .next (s.restoreCore n c) := by
  have hexec : exec (.lintelRestore false c) s = execLintelRestore false c s := rfl
  rw [hexec, execLintelRestore]
  simp only [Bool.false_eq_true, if_false, ha, hi, Bool.or_self, hh]
  rw [if_neg (by simp [hp, hq]), if_neg (by simp [hr])]

theorem lintelRestore_core_unsaved (hq : (s.quadAt (agentOf c)).phase = .running) (hr : s.areaReady (s.coreArea n c) 0x60000 = true)
    (hv : s.savedCore n c = none) :
    ∃ t : State, exec (.lintelRestore false c) s = .next t ∧ (t.coreAt c).phase = .running ∧ t.strands = s.strands ∧ t.mem = s.mem := by
  refine ⟨_, exec_lintelRestore_core ha hi hh hp hq hr, ?_⟩
  rw [State.restoreCore_unsaved hv, State.coreAt_setCore, if_pos rfl]
  exact ⟨rfl, rfl, rfl⟩

/-- A core with one saved strand: a record that passes its check gives the strand back, and one that does not ends it with 0x80. -/
theorem lintelRestore_core_strand (hq : (s.quadAt (agentOf c)).phase = .running) (hr : s.areaReady (s.coreArea n c) 0x60000 = true)
    {v : SavedCore} {slot : Nat} {w : SavedStrand} (hv : s.savedCore n c = some v) (hs : v.strands = [(slot, w)]) (hpk : v.packets = [])
    (hV : s.usedV c = []) (hL : s.usedL c = []) (hnone : s.strandAt slot = none) (hcomp : s.compOf w.lid = recW (s.strandRecord n c slot) 0xE0) :
    (RecordGood (s.strandRecord n c slot) ∧ ∃ (t : State) (bonded : Bool) (frames : List Frame),
      exec (.lintelRestore false c) s = .next (t.waitRead slot) ∧ (t.coreAt c).phase = .running ∧ t.savedCore n c = none ∧ t.mem = s.mem
      ∧ t.strandAt slot = some (w.strandWith (s.strandRecord n c slot) s.time bonded frames))
    ∨ (¬RecordGood (s.strandRecord n c slot) ∧ ∃ t : State, exec (.lintelRestore false c) s = .next t ∧ t.strandAt slot = none
      ∧ ∀ l, s.launchOf w.lid = some l → ∃ m, t.launchOf w.lid = some m ∧ m.xcode = l.xcode ||| 0x80) := by
  obtain ⟨cs, b, hrestore, hrun⟩ := State.restoreCore_single hv hs hpk
  have hexec := (exec_lintelRestore_core ha hi hh hp hq hr).trans (congrArg _ hrestore)
  have hrecord := s.strandRecord_placed cs (s.coursing.savedCores.erase (768 * n + c)) b n c slot
  have hcases := State.restoreStrand_cases (s := s.placed cs (s.coursing.savedCores.erase (768 * n + c)) b) (n := n) (c := c) (slot := slot) (w := w)
    (by rw [hrecord]; exact hcomp) hV hL hnone
  rw [hrecord] at hcases
  refine hcases.imp (fun ⟨hg, bonded, frames, lm, pool, ht⟩ => ⟨hg, ?_⟩) fun ⟨hg, off, ord, ht⟩ => ⟨hg, ?_⟩
  · rw [ht] at hexec
    exact ⟨_, bonded, frames, hexec, hrun, SMap.find_erase_same .., rfl, SMap.find_put_same ..⟩
  · have hgone := (State.failRecord_strandAt (s.placed cs (s.coursing.savedCores.erase (768 * n + c)) b) n c off w.lid ord slot).trans hnone
    rw [ht, State.waitRead_unlisted hgone] at hexec
    exact ⟨_, hexec, hgone, fun l hl => State.failRecord_launchOf n c off ord hl⟩

end

end Sys2Proof.Machine

namespace Sys2Proof
open Machine

/-- Settles O45: saves and late saves by the cases of `finishQuad` and `finishCore`, the scratchpad in the save area by following the writes to an area
of free lines, and restores by what each leaves of the state. -/
theorem savesAndRestores : Obligations.SavesAndRestores := by
  unfold Obligations.SavesAndRestores
  refine ⟨fun s a n hp => ⟨fun hs => ?_, fun hs hh hl => ?_, fun hs hh => saveLateComplete_quad hp hs hh⟩,
    fun s c n hp hs hh => saveLateComplete_core hp hs hh, fun s a n ha hi hh hp hr hq hl => lintelRestore_quad ha hi hh hp hr hq hl,
    fun s c n ha hi hh hp => ⟨fun hq => exec_lintelRestore_waits ha hi hh hq, fun hq hr => ⟨fun hv => lintelRestore_core_unsaved ha hi hh hp hq hr hv,
      fun v slot w hv hs hpk _ hV hL hnone => ?_⟩⟩⟩
  · rw [exec_quadSave, State.finishQuad_unsettled hs]
  · obtain ⟨t, v, hexec, hstand, hphase, hsaved, hcmds, hinbox, hphint, hmem⟩ := quadSave_saves hp hs hh hl
    refine ⟨t, v, hexec, hstand, hphase, hsaved, hcmds, hinbox, hphint, fun hinv ha hhint h64 h512 hpage hend hd hlost hheld hquiet hkey i hi hw => ?_⟩
    rw [hmem]
    exact quadSave_scratchpad hinv ha hhint h64 h512 hpage hend hd hlost hheld hquiet hkey hi hw
  · rw [← State.strandRecord_eq]
    intro r w64 hcomp good
    have hgood : RecordGood r ↔ good := recordGood_iff r
    rcases lintelRestore_core_strand ha hi hh hp hq hr hv hs hpk hV hL hnone (hcomp.trans (recW_toNat ..)) with
      ⟨hg, t, bonded, frames, hexec, hrun, hdropped, hmem, hstrand⟩ | ⟨hg, hfail⟩
    · refine ⟨fun _ => ⟨t, _, hexec, hrun, hdropped, hstrand, rfl, SavedStrand.strandWith_pc .., rfl, rfl, rfl, rfl, SavedStrand.strandWith_cause .., rfl,
        rfl, rfl, fun h g hne => SavedStrand.strandWith_getG _ _ _ _ _ h hne, fun m hne => SavedStrand.strandWith_getM _ _ _ _ _ hne, hmem⟩,
        fun hbad => absurd (hgood.1 hg) hbad⟩
    · exact ⟨fun hok => absurd (hgood.2 hok) hg, fun _ => hfail⟩

end Sys2Proof
end
